-- ==== Sys2Proof/Word.lean ====
section
/-! DEFINITION. The word types of the module: a byte, a 32-bit register word, and the time word of R5. -/

namespace Sys2Proof

/-- One byte of host memory, of a frame or of a record. -/
abbrev Byte := BitVec 8

/-- A 32-bit BAR0 register (R38). -/
abbrev Word := BitVec 32

/-- A 64-bit word of a descriptor or of a structure (R49, R58). -/
abbrev DWord := BitVec 64

/-- Module time of R5: 40 bits of seconds and 16 bits of fraction, as one number of 1/65,536 s units. -/
abbrev DT := Nat

/-- Units of one second (R5). -/
def unitsPerSec : Nat := 65536

end Sys2Proof
end

