-- ==== Sys2Proof/Syntax.lean ====
section
/-! DEFINITION. The commands of the module: one constructor per row of the opcode table, with the operands its rule
names, and the operand types (log entry 1). -/

namespace Sys2Proof

/-- What the host did to its own memory before it rang a tail doorbell: bytes written at addresses, and the address
ranges [a, b) whose accesses fail from then on (R42, R533; log entry 4). -/
structure HostUpdate where
  writes : List (Nat × List Byte) := []
  faulty : List (Nat × Nat) := []
  deriving DecidableEq, Repr

/-- A ring of host memory (R41). -/
inductive RingSel where
  | sq (n : Fin 16)
  | cq (n : Fin 16)
  | eq (n : Fin 4)
  deriving DecidableEq, Repr

/-- A host write to MSI-X state: the enable and function mask of configuration space, or a dword of the table (R529). -/
inductive MsixWrite where
  | control (enable functionMask : Bool)
  | table (off : Nat) (v : Word)
  deriving DecidableEq, Repr

/-- A Rill queue: an internal one or a host port (R77). -/
inductive RillSel where
  | queue (n : Fin 64)
  | port (n : Fin 8)
  deriving DecidableEq, Repr

/-- What reaches a Rill queue in the same cycle as a write (R78). -/
inductive RillWith where
  | alone | read | flush
  deriving DecidableEq, Repr

/-- A host access to BAR0 or BAR2: offset, and whether it carries all its byte enables. `second` makes it an aligned 64-bit access
and holds the data of the upper dword of a write (R38). -/
structure HostAccess where
  bar2 : Bool
  off : Nat
  whole : Bool
  second : Option Word := none
  deriving DecidableEq, Repr

/-- A configuration request: the dword's offset, and the data of a write (R36). -/
structure CfgReq where
  off : Nat
  data : Option Word := none
  deriving DecidableEq, Repr

/-- An edge on PPS_IN: by how many ns it comes after the nearest DT second boundary, negative before it, and its direction (R92,
R113). -/
structure PpsEdge where
  ns : Int
  rising : Bool
  deriving DecidableEq, Repr

/-- The blocks that have a LOCK bit (R525). -/
inductive LockSel where
  | hif | rad | mac | str | cas | wei | bas | cis | upd | ftn | oxe | key | par | fed | bst | pwr | pin
  deriving DecidableEq, Repr

/-- The leap flags of a PTP source: the day it announces and whether it inserts (leap61) or deletes (leap59) (R93). -/
structure LeapNotice where
  insert : Bool
  day : Nat
  deriving DecidableEq, Repr

/-- A PTP Sync as it is measured (R90): its domain, the log2 of its interval in s, the source's TAI time from 2000-01-01T00:00:00 on
less DT in ns, and currentUtcOffset in s. -/
structure SyncMsg where
  domain : Nat
  logInterval : Int
  taiNs : Int
  utcOffset : Int
  deriving DecidableEq, Repr

/-- The rate-1/2 FEC codes of SUN-FSK (R119). -/
inductive FecCode | nrnsc | rsc
  deriving DecidableEq, Repr

/-- How a frame is coded (R119). -/
structure Fec where
  code : FecCode
  interleaved : Bool
  deriving DecidableEq, Repr

/-- A frame that Tamin schedules (R115, R119, R128): channel (2p for a MODE 2 pair), MODE, requested power in 0.25 dBm, FEC, a
4-octet FCS, whitening, and the PSDU without its FCS. -/
structure AirFrame where
  ch : Fin 80
  mode : Fin 3
  power : Int
  fec : Option Fec
  whiten : Bool
  fcs4 : Bool
  bytes : List Byte
  deriving DecidableEq, Repr

/-- A preamble at the antennas (R121): channel, MODE, octets received, dB above the noise floor, the antennas on which it is
above the threshold and which is stronger, and the RSSI coded as in R127. -/
structure Signal where
  ch : Fin 80
  mode : Fin 3
  octets : Nat
  overDb : Nat
  antA : Bool
  antB : Bool
  bStronger : Bool
  rssi : Fin 256
  deriving DecidableEq, Repr

/-- The end of a received frame (R119, R125, R126): MODE, PHR mode-switch bit, FEC, a 4-octet FCS, whether the FCS passes, the
RSSI coded as in R127, the age of the SFD end in 2.5 µs units, and the PSDU. -/
structure FrameEnd where
  mode : Fin 3
  modeSwitch : Bool
  fec : Option Fec
  fcs4 : Bool
  fcsOk : Bool
  rssi : Fin 256
  sfdAgo : Nat
  psdu : List Byte
  deriving DecidableEq, Repr

/-- What a filter chain finds at a sample (R262): a steady input with `ones` of `bits` set, or the code that another input gives. -/
inductive FilterIn where
  | steady (ones bits : Nat)
  | code (x : Int)
  deriving DecidableEq, Repr

/-- What the chain of a channel finds in the bits at the rising edges of its clock, and in those at the falling edges (R260). -/
structure ChanIn where
  rising : FilterIn
  falling : FilterIn
  deriving DecidableEq, Repr

/-- Inputs at a fast sample instant: AIN0-7 in V (binary32), pin voltages of the sinks in mV where one was sampled since the
last instant, and FTN_VSENSE in 10 mV (R235, R341). -/
structure FastIn where
  conv : List Word
  pins : List (Fin 16 × Nat)
  vout : Nat
  deriving DecidableEq, Repr


/-- A level on a digital input, and the µs for which it has held (R510). -/
structure DinLevel where
  high : Bool
  held : Nat
  deriving DecidableEq, Repr

/-- A tamper input that has been low for 4 periods of the AO clock, or is high again (R522, R523). -/
structure TampIn where
  n : Fin 2
  low : Bool := true
  deriving DecidableEq, Repr

/-- What raises a power-fail warning, PFW_N or VIN, and VIN in mV at that time (R488). -/
structure PfWarn where
  pin : Bool
  vin : Nat
  deriving DecidableEq, Repr

/-- How a DALI request completes (R391). -/
inductive DaliResult where
  | answered (b : Byte)
  | quiet
  | bad
  deriving DecidableEq, Repr

/-- A record in FRAM or NAND whose CRC fails (R274, R302, R394, R414, R418): a slot of Basin, of Ox or of Coop, or a copy of the key store,
the newer or the older, or a stored record of Cistern's ring by its SEQ. -/
inductive BadCrc where
  | basin (newer : Bool)
  | retained (newer : Bool)
  | coop (newer : Bool)
  | store (newer : Bool)
  | record (ring : Fin 2) (seq : Nat)
  deriving DecidableEq, Repr

/-- What a start-up finds (R475, R497, R504): STRAP3-0, the PUF cells (cell i is bit i), the self-test targets that fail with the
deviation of an analogue one in 0.01 %, VIN and VBAK in mV, the lid temperature in 0.01 °C, the levels of TAMP1-0, and what fails its
CRC. -/
structure Boot where
  straps : BitVec 4
  cells : Nat
  failed : List (Nat × Int)
  vin : Nat
  vbak : Nat
  lid : Int
  tamp : BitVec 2 := 3
  badCrc : List BadCrc := []
  deriving DecidableEq, Repr


/-- What a read of a DRAM tile finds (R466, R469): it is in the tile cache already, good, good at the re-read, failed twice, or its
sidecar word has a single-bit or an uncorrectable error. -/
inductive TileRead where
  | cached
  | good
  | retried
  | failed
  | sidecarBit
  | sidecarBad
  deriving DecidableEq, Repr

/-- A double-bit error in SRAM (R470): in a clean tile-cache line, in a block by its opcode group, or in resident firmware. -/
inductive SramFault where
  | cacheLine
  | block (g : Fin 17)
  | firmware
  deriving DecidableEq, Repr

/-- A HELLO as it reaches a port: the frame's source MAC address, and the message (R451). -/
structure HelloFrame where
  mac : BitVec 48
  bytes : List Byte
  deriving DecidableEq, Repr

/-- What has a second generation in NAND (R471). -/
inductive NandTwin where
  | fold | config | image
  deriving DecidableEq, Repr

/-- What a NAND read finds (R471): the bits corrected in its worst 512 bytes, or an uncorrectable page, which has a second
generation or belongs to a command of an SQ. -/
inductive NandRead where
  | corrected (bits : Fin 9)
  | other (what : NandTwin)
  | lost (sq : Fin 16)
  deriving DecidableEq, Repr

/-- One measurement of an analogue target (R474): its deviation in 0.01 %, and for a radio loopback that level and bits are right. -/
structure RefTry where
  dev : Int
  ok : Bool
  deriving DecidableEq, Repr

/-- A run of a test (R473, R474): a lane's MISR, that of the rerun, the MISR expected and the slices run; or the measurements. -/
inductive TestRun where
  | lane (first second want : Fin 4294967296) (slices : Nat)
  | ref (first second : RefTry)
  deriving DecidableEq, Repr
/-- The commands, one per row of spec/opcode_table.json. -/
inductive Instr where
  /-- R14. -/
  | registerWrite (a : HostAccess) (v : Word)
  /-- R18. -/
  | readClear (a : HostAccess)
  /-- R15. -/
  | lockSet (w : LockSel)
  /-- R31. -/
  | glbFenceRead
  /-- R36. -/
  | configRequest (q : CfgReq)
  /-- R529. -/
  | msixConfigWrite (w : MsixWrite)
  /-- R73. -/
  | perstAssert (low : Nat)
  /-- R73. -/
  | hotReset
  /-- R73. -/
  | flr
  /-- R40. -/
  | linkDown
  /-- R40. -/
  | d3hotEntry
  /-- R534. -/
  | d3hotExit
  /-- R40. -/
  | aerFatal
  /-- R40. -/
  | aerCorrectable
  /-- R69. -/
  | recoveryHalted
  /-- R74. -/
  | hifEnableWrite (b : Bool)
  /-- R71. -/
  | resume
  /-- R41. -/
  | ringEnable (r : RingSel) (v : Word)
  /-- R42. -/
  | sqTailDoorbell (n : Fin 16) (v : Word) (u : HostUpdate)
  /-- R530. -/
  | cqHeadDoorbell (n : Fin 16) (v : Word)
  /-- R530. -/
  | eqHeadDoorbell (n : Fin 4) (v : Word)
  /-- R62. -/
  | descriptorFetch
  /-- R44. -/
  | completionWrite (n : Fin 16)
  /-- R45. -/
  | eventRecordWrite (n : Fin 4)
  /-- R46. -/
  | coalesceTimeout (r : RingSel)
  /-- R77. -/
  | rillQueueWrite (q : RillSel) (w : BitVec 64) (how : RillWith)
  /-- R79. -/
  | hostPortDataRead (n : Fin 8)
  /-- R78. -/
  | hostPortFlush (n : Fin 8)
  /-- R81. -/
  | nop (sq : Fin 16)
  /-- R84. -/
  | identify (sq : Fin 16)
  /-- R83. -/
  | eventRoute (sq : Fin 16)
  /-- R67. -/
  | intentForget (sq : Fin 16)
  /-- R85. -/
  | statsRead (sq : Fin 16)
  /-- R81. -/
  | moduleReset (sq : Fin 16) (b : Boot)
  /-- R111. -/
  | timeSet (sq : Fin 16)
  /-- R111. -/
  | timeAdjust (sq : Fin 16)
  /-- R111. -/
  | leapSchedule (sq : Fin 16)
  /-- R105. -/
  | localRuleSet (sq : Fin 16)
  /-- R90. -/
  | timSrcWrite (v : Word)
  /-- R96. -/
  | timSecLoRead
  /-- R100. -/
  | timCalDateRead
  /-- R101. -/
  | calendarStageWrite (time : Bool) (v : Word)
  /-- R97. -/
  | timCommitSet
  /-- R97. -/
  | timCommitCalendar
  /-- R97. -/
  | timCommitDiscard
  /-- R99. -/
  | stepBoundary
  /-- R91. -/
  | ptpSync (port : Fin 4) (m : SyncMsg) (leap : Option LeapNotice)
  /-- R92. -/
  | ppsInEdge (e : PpsEdge)
  /-- R89. -/
  | ptpSourceLost
  /-- R89. -/
  | ppsWindowClose
  /-- R88. -/
  | holdoverExpiry
  /-- R93. -/
  | leapSlewStart
  /-- R93. -/
  | leap
  /-- R92. -/
  | ppsOutPulse
  /-- R108. -/
  | alarmArm (n : Fin 8)
  /-- R106. -/
  | alarm (n : Fin 8)
  /-- R109. -/
  | wakeEnable (n : Fin 4)
  /-- R109. -/
  | wake (n : Fin 4)
  /-- R136. -/
  | radioProfileLoad (sq : Fin 16)
  /-- R132. -/
  | profileSelect (sq : Fin 16)
  /-- R138. -/
  | txTest (sq : Fin 16)
  /-- R139. -/
  | txTestDone (n : Fin 2)
  /-- R138. -/
  | rxSurvey (sq : Fin 16)
  /-- R139. -/
  | surveyDone (v : List (BitVec 16))
  /-- R121. -/
  | detection (d : Signal)
  /-- R123. -/
  | demodAssign
  /-- R124. -/
  | detectionDrop
  /-- R125. -/
  | noSfd (c : Fin 80)
  /-- R125. -/
  | demodRelease (c : Fin 80) (e : FrameEnd)
  /-- R129. -/
  | rf24FrameRx (e : FrameEnd)
  /-- R128. -/
  | txStart (n : Fin 2) (r : AirFrame)
  /-- R130. -/
  | txEnd (n : Fin 2)
  /-- R133. -/
  | dutyBucketClose
  /-- R149. -/
  | joinReq
  /-- R155. -/
  | dataUp
  /-- R175. -/
  | relayUp
  /-- R144. -/
  | resp
  /-- R142. -/
  | t1Poll
  /-- R145. -/
  | dedicatedDownlink
  /-- R150. -/
  | joinAccept
  /-- R150. -/
  | joinFailed
  /-- R159. -/
  | endpointLost
  /-- R178. -/
  | rooster
  /-- R177. -/
  | ackAgg
  /-- R148. -/
  | map
  /-- R148. -/
  | mapActive
  /-- R148. -/
  | mapOldWindowEnd
  /-- R154. -/
  | foldCheckpoint
  /-- R181. -/
  | foldAdmit (sq : Fin 16)
  /-- R181. -/
  | foldRemove (sq : Fin 16)
  /-- R181. -/
  | foldRead (sq : Fin 16)
  /-- R181. -/
  | foldFind (sq : Fin 16)
  /-- R182. -/
  | connSet (sq : Fin 16)
  /-- R148. -/
  | mapSet (sq : Fin 16)
  /-- R182. -/
  | dlSend (sq : Fin 16)
  /-- R173. -/
  | rekey (sq : Fin 16)
  /-- R181. -/
  | bcastRekey (sq : Fin 16)
  /-- R24. -/
  | tickBoundary
  /-- R192. -/
  | levelVector
  /-- R196. -/
  | stepFired
  /-- R197. -/
  | ambientStepFire
  /-- R201. -/
  | commit_
  /-- R202. -/
  | commitDue
  /-- R203. -/
  | commitDone
  /-- R203. -/
  | commitEntryFree
  /-- R190. -/
  | memberSet (sq : Fin 16)
  /-- R189. -/
  | groupCfg (sq : Fin 16)
  /-- R194. -/
  | scheduleProfileLoad (sq : Fin 16)
  /-- R195. -/
  | exceptionSet (sq : Fin 16)
  /-- R199. -/
  | sceneStore (sq : Fin 16)
  /-- R199. -/
  | sceneRecall (sq : Fin 16)
  /-- R199. -/
  | sceneRelease (sq : Fin 16)
  /-- R206. -/
  | commitLevel (sq : Fin 16)
  /-- R206. -/
  | commitCancel (sq : Fin 16)
  /-- R206. -/
  | commitRead (sq : Fin 16)
  /-- R206. -/
  | composeRead (sq : Fin 16)
  /-- R198. -/
  | solarRead (sq : Fin 16)
  /-- R231. -/
  | casVertexLoad (sq : Fin 16)
  /-- R231. -/
  | casEdgeLoad (sq : Fin 16)
  /-- R231. -/
  | casStageSync (sq : Fin 16)
  /-- R223. -/
  | casGraphActivate (sq : Fin 16)
  /-- R231. -/
  | casBorderSet (sq : Fin 16)
  /-- R231. -/
  | casInject (sq : Fin 16)
  /-- R231. -/
  | casDemandRead (sq : Fin 16)
  /-- R231. -/
  | casGraphRead (sq : Fin 16)
  /-- R231. -/
  | casClear (sq : Fin 16)
  /-- R227. -/
  | borderDemand (p : Fin 4) (l : List Byte)
  /-- R238. -/
  | slowSample (conv : List Word) (late : List (Fin 4096))
  /-- R238. -/
  | fastSample (x : FastIn) (late : List (Fin 16))
  /-- R251. -/
  | weiLoopLoad (sq : Fin 16)
  /-- R240. -/
  | weiLoopEnable (sq : Fin 16)
  /-- R249. -/
  | weiCoefSet (sq : Fin 16)
  /-- R247. -/
  | weiGroupSet (sq : Fin 16)
  /-- R252. -/
  | weiInject (sq : Fin 16)
  /-- R253. -/
  | weiInjectStop (sq : Fin 16)
  /-- R254. -/
  | weiCaptureSet (sq : Fin 16)
  /-- R256. -/
  | weiCaptureRead (sq : Fin 16)
  /-- R256. -/
  | weiLoopRead (sq : Fin 16)
  /-- R254. -/
  | weiCaptureStop (sq : Fin 16)
  /-- R272. -/
  | basinSample (chans : List ChanIn)
  /-- R270. -/
  | cycleEnd
  /-- R268. -/
  | windowEnd
  /-- R265. -/
  | tempUpdate (conv : List Word)
  /-- R274. -/
  | basinCommit
  /-- R261. -/
  | channelStuck (n : Fin 42)
  /-- R261. -/
  | channelRecover (n : Fin 42)
  /-- R277. -/
  | intervalEnd
  /-- R278. -/
  | intervalLenWrite (v : Word)
  /-- R281. -/
  | reconciliationStart
  /-- R284. -/
  | reconDone
  /-- R264. -/
  | basTempTableLoad (sq : Fin 16)
  /-- R285. -/
  | basValuesRead (sq : Fin 16)
  /-- R285. -/
  | basEnergyRead (sq : Fin 16)
  /-- R285. -/
  | basLanternSet (sq : Fin 16)
  /-- R285. -/
  | basAllocRead (sq : Fin 16)
  /-- R285. -/
  | basReconRead (sq : Fin 16)
  /-- R297. -/
  | powerLossHoldEnd
  /-- R296. -/
  | foldGraceEnd (f : Fin 6)
  /-- R298. -/
  | storm
  /-- R300. -/
  | liveArchive
  /-- R301. -/
  | auditFramWrite
  /-- R301. -/
  | auditArchive
  /-- R305. -/
  | cisLiveFseqRead
  /-- R305. -/
  | cisAudOseqRead
  /-- R307. -/
  | cisWinRead (sq : Fin 16)
  /-- R311. -/
  | cisRead (sq : Fin 16)
  /-- R308. -/
  | cisSnapPin (sq : Fin 16)
  /-- R308. -/
  | cisSnapRead (sq : Fin 16)
  /-- R311. -/
  | cisSnapRelease (sq : Fin 16)
  /-- R310. -/
  | cisClearChallenge (sq : Fin 16)
  /-- R310. -/
  | cisSecClear (sq : Fin 16)
  /-- R317. -/
  | updOpen (sq : Fin 16)
  /-- R318. -/
  | updPiece (sq : Fin 16) (ok : Bool)
  /-- R320. -/
  | updVerify (sq : Fin 16)
  /-- R316. -/
  | imageVerified
  /-- R321. -/
  | updActivate (sq : Fin 16)
  /-- R321. -/
  | updCancel (sq : Fin 16)
  /-- R323. -/
  | updConfirm (sq : Fin 16)
  /-- R335. -/
  | updErase (sq : Fin 16)
  /-- R322. -/
  | activationDue (b : Boot)
  /-- R323. -/
  | imageConfirmed
  /-- R324. -/
  | healthWindowExpiry (b : Boot)
  /-- R326. -/
  | updEpOffer (sq : Fin 16)
  /-- R332. -/
  | updEpActivate (sq : Fin 16)
  /-- R335. -/
  | updEpStop (sq : Fin 16)
  /-- R335. -/
  | updEpStatus (sq : Fin 16)
  /-- R331. -/
  | roundStart
  /-- R328. -/
  | imageBlock
  /-- R333. -/
  | epActivationDone
  /-- R344. -/
  | superframe (pins : List (Fin 16 × Nat))
  /-- R342. -/
  | boostPeriod (vsense : Nat) (csCut vmaxCut : Option (BitVec 16))
  /-- R345. -/
  | openString (n : Fin 16)
  /-- R346. -/
  | ledShort (n : Fin 16)
  /-- R347. -/
  | overtemp (g : Fin 4) (t : Int)
  /-- R348. -/
  | pinTest (low : Bool)
  /-- R352. -/
  | fixtureTempUpdate
  /-- R361. -/
  | status (p : Fin 2) (frame : Option (List Byte))
  /-- R364. -/
  | ftnFixtureLoad (sq : Fin 16)
  /-- R352. -/
  | ftnFixtureSet (sq : Fin 16)
  /-- R339. -/
  | ftnChanSet (sq : Fin 16)
  /-- R364. -/
  | ftnColorSet (sq : Fin 16)
  /-- R353. -/
  | ftnJetLoad (sq : Fin 16)
  /-- R356. -/
  | ftnJetStart (sq : Fin 16)
  /-- R356. -/
  | ftnJetStop (sq : Fin 16)
  /-- R364. -/
  | ftnJetEvent (sq : Fin 16)
  /-- R349. -/
  | ftnFaultClear (sq : Fin 16)
  /-- R367. -/
  | oxCycle (conv : List Word) (inUs outUs : Fin 31)
  /-- R392. -/
  | wdogOverrun (conv : List Word) (inUs : Fin 31)
  /-- R388. -/
  | answer (p : Fin 2) (b : List Byte)
  /-- R388. -/
  | rioTimeout (p : Fin 2)
  /-- R391. -/
  | daliReceive (p : Fin 2) (r : DaliResult)
  /-- R510. -/
  | dinLevelAccept (n : Fin 24) (x : DinLevel)
  /-- R402. -/
  | oxLoad (sq : Fin 16)
  /-- R385. -/
  | oxValidate (sq : Fin 16)
  /-- R397. -/
  | oxSwitch (sq : Fin 16)
  /-- R393. -/
  | oxStart (sq : Fin 16)
  /-- R393. -/
  | oxStop (sq : Fin 16)
  /-- R396. -/
  | oxForceSet (sq : Fin 16)
  /-- R402. -/
  | oxForceClear (sq : Fin 16)
  /-- R402. -/
  | oxRead (sq : Fin 16)
  /-- R402. -/
  | oxWrite (sq : Fin 16)
  /-- R416. -/
  | keyUpdate (sq : Fin 16) (burnOk : Bool)
  /-- R427. -/
  | keyInfo (sq : Fin 16)
  /-- R427. -/
  | keyCipher (sq : Fin 16)
  /-- R427. -/
  | keyMac (sq : Fin 16)
  /-- R427. -/
  | keySign (sq : Fin 16)
  /-- R427. -/
  | keyVerify (sq : Fin 16)
  /-- R427. -/
  | keyDerive (sq : Fin 16)
  /-- R410. -/
  | keyRandom (sq : Fin 16)
  /-- R427. -/
  | keyIdentity (sq : Fin 16)
  /-- R427. -/
  | keyTkExport (sq : Fin 16)
  /-- R421. -/
  | keyScrap (sq : Fin 16) (burnOk : Bool)
  /-- R427. -/
  | otpRead (sq : Fin 16)
  /-- R424. -/
  | pufClear
  /-- R435. -/
  | leaseSend
  /-- R435. -/
  | lease (l : List Byte)
  /-- R436. -/
  | actInEdge
  /-- R434. -/
  | actInSilent
  /-- R436. -/
  | actOwnLapse
  /-- R437. -/
  | heartbeatMissing
  /-- R439. -/
  | startWait
  /-- R440. -/
  | fenced
  /-- R449. -/
  | partnerLostReset (b : Boot)
  /-- R442. -/
  | foldStream (l : List Byte)
  /-- R401. -/
  | oxStream (l : List Byte)
  /-- R276. -/
  | basStream (l : List Byte)
  /-- R255. -/
  | weiSlowStream (l : List Byte)
  /-- R255. -/
  | weiFastStream (l : List Byte)
  /-- R304. -/
  | cisStream (l : List Byte)
  /-- R204. -/
  | commitStream (l : List Byte)
  /-- R444. -/
  | cfgStream (l : List Byte)
  /-- R443. -/
  | syncReq (l : List Byte)
  /-- R444. -/
  | cfgAck (l : List Byte)
  /-- R454. -/
  | spanCopy (l : List Byte) (ok : Bool)
  /-- R444. -/
  | cfgAckTimeout
  /-- R443. -/
  | syncGapTimeout
  /-- R443. -/
  | bulkCopyDone
  /-- R441. -/
  | parSwitch (sq : Fin 16)
  /-- R463. -/
  | parResync (sq : Fin 16)
  /-- R455. -/
  | helloSend
  /-- R457. -/
  | hello (p : Fin 4) (l : HelloFrame)
  /-- R453. -/
  | spanForward (p : Fin 4) (l : List Byte)
  /-- R458. -/
  | handover (p : Fin 4) (l : List Byte)
  /-- R459. -/
  | handoverAck (p : Fin 4) (l : List Byte)
  /-- R459. -/
  | handoverTimeout
  /-- R459. -/
  | handoverSupervisionEnd
  /-- R456. -/
  | piecePart (p : Fin 4) (l : List Byte) (ok : Bool)
  /-- R463. -/
  | piecePartSend
  /-- R456. -/
  | activate (p : Fin 4) (l : List Byte)
  /-- R456. -/
  | feederStateMsg (p : Fin 4) (l : List Byte)
  /-- R456. -/
  | feederStateSend
  /-- R456. -/
  | feederStateStale
  /-- R456. -/
  | value (p : Fin 4) (l : List Byte)
  /-- R463. -/
  | valuePublish
  /-- R463. -/
  | fedRouteSet (sq : Fin 16)
  /-- R463. -/
  | fedPeerSet (sq : Fin 16)
  /-- R463. -/
  | fedValuePub (sq : Fin 16)
  /-- R463. -/
  | fedFeederMap (sq : Fin 16)
  /-- R458. -/
  | fedHandover (sq : Fin 16)
  /-- R463. -/
  | fedPieceSend (sq : Fin 16)
  /-- R463. -/
  | fedActSend (sq : Fin 16)
  /-- R466. -/
  | tileFill (t : Nat) (r : TileRead) (need : Option (Fin 16)) (b : Boot)
  /-- R469. -/
  | patrolRead (r : TileRead) (b : Boot)
  /-- R470. -/
  | sramScrub (ce : Nat) (ue : List SramFault) (b : Boot)
  /-- R471. -/
  | nandRefresh (r : NandRead)
  /-- R473. -/
  | laneTest (t : Nat) (r : TestRun)
  /-- R474. -/
  | refCheck (t : Nat) (r : TestRun)
  /-- R478. -/
  | bstRun (sq : Fin 16)
  /-- R476. -/
  | bstRecover (sq : Fin 16)
  /-- R478. -/
  | bstTileRead (sq : Fin 16)
  /-- R477. -/
  | testNAssert
  /-- R489. -/
  | powerFailWarning (w : PfWarn)
  /-- R492. -/
  | brownOut
  /-- R492. -/
  | vinDip (b : Boot)
  /-- R497. -/
  | vinGood (b : Boot)
  /-- R496. -/
  | rstN (b : Boot)
  /-- R496. -/
  | watchdog (b : Boot)
  /-- R495. -/
  | clockFault
  /-- R495. -/
  | clockRecover (b : Boot)
  /-- R487. -/
  | vbakLow (mv : Nat)
  /-- R508. -/
  | thermal (t : Int)
  /-- R522. -/
  | tamper (x : TampIn)
  /-- R485. -/
  | pwrModeSet (sq : Fin 16)
  /-- R484. -/
  | pwrDomainSet (sq : Fin 16)
  /-- R35. -/
  | linkUp (width gen : Nat)
  /-- R171. -/
  | bcastKeyActive
  /-- R261. -/
  | channelDisabledWhileStuck (n : Fin 42)
  /-- R438. -/
  | leaseExpiry
  /-- R437. -/
  | takeoverGuardEnd
  /-- R436. -/
  | actInLapse
  /-- R434. -/
  | holdOutEnd
  /-- R432. -/
  | mirLink (up : Bool)
  /-- R501. -/
  | vbakGood (mv : Nat)
  /-- R501. -/
  | thermalClear (t : Int)
  /-- R484. -/
  | domainStateReached
  /-- R480. -/
  | bstResult (r : TestRun)
  deriving DecidableEq, Repr

end Sys2Proof
end

