-- ==== Sys2Proof/Machine/SMap.lean ====
section
/-! DEFINITION. Sparse tables: a list of (key, value) pairs with rising keys that lists no default value.
Host memory, the register bank and every numbered table of the module are held in this one form. -/

namespace Sys2Proof

/-- A sparse table. A key that is not listed holds the table's default value. -/
abbrev SMap (α : Type) := List (Nat × α)

/-- The value at a key, `d` being the value of an unlisted key. -/
def SMap.get {α : Type} : SMap α → Nat → α → α
  | [], _, d => d
  | (k', v) :: r, k, d => if k' = k then v else SMap.get r k d

/-- The table without a key. -/
def SMap.del {α : Type} : SMap α → Nat → SMap α
  | [], _ => []
  | (k', v) :: r, k => if k' = k then SMap.del r k else (k', v) :: SMap.del r k

/-- Put a pair before the first greater key. -/
def SMap.ins {α : Type} : SMap α → Nat → α → SMap α
  | [], k, v => [(k, v)]
  | (k', v') :: r, k, v =>
    if k < k' then (k, v) :: (k', v') :: r else (k', v') :: SMap.ins r k v

/-- Write a value; writing the default `d` leaves the key unlisted. -/
def SMap.set {α : Type} [DecidableEq α] (m : SMap α) (k : Nat) (v d : α) : SMap α :=
  if v = d then m.del k else (m.del k).ins k v

/-- Change one entry by a function. -/
def SMap.upd {α : Type} [DecidableEq α] (m : SMap α) (k : Nat) (d : α) (f : α → α) : SMap α :=
  m.set k (f (m.get k d)) d

/-- All keys are greater than `k` and rise, and no entry is the default of its key. -/
def SMap.wfFrom {α : Type} [DecidableEq α] (d : Nat → α) : Option Nat → SMap α → Bool
  | _, [] => true
  | lo, (k, v) :: r =>
    (match lo with
     | none => true
     | some l => decide (l < k)) && decide (v ≠ d k) && SMap.wfFrom d (some k) r

/-- The canonical form: keys strictly rise and no entry equals what an unlisted key reads as. -/
def SMap.wf {α : Type} [DecidableEq α] (d : Nat → α) (m : SMap α) : Bool := SMap.wfFrom d none m

/-- The keys that are listed, in rising order. -/
def SMap.keys {α : Type} (m : SMap α) : List Nat := m.map Prod.fst

/-- A value kept in two sequenced slots (R32), each a sequence number and a value. -/
structure TwoSlots (α : Type) where
  a : Nat × α
  b : Nat × α
  deriving DecidableEq, Repr

/-- The value of the newer slot. -/
def TwoSlots.get {α : Type} (t : TwoSlots α) : α := if t.b.1 ≤ t.a.1 then t.a.2 else t.b.2

/-- Both slots hold the value of the older one, the newer being lost. -/
def TwoSlots.back {α : Type} (t : TwoSlots α) : TwoSlots α := if t.b.1 ≤ t.a.1 then { t with a := t.b } else { t with b := t.a }

/-- Write the slot of the lower sequence number. -/
def TwoSlots.put {α : Type} (t : TwoSlots α) (v : α) : TwoSlots α :=
  if t.b.1 ≤ t.a.1 then { t with b := (t.a.1 + 1, v) } else { t with a := (t.b.1 + 1, v) }

end Sys2Proof
end

