-- ==== Sys2Proof/Machine/StHost.lean ====
section
/-! DEFINITION. The state of the host link: rings, intent windows, recovery, MSI-X, the PCIe link and Rill (chapter 02). -/

namespace Sys2Proof.Machine

/-- A final status with its DETAIL and RESULT (R54). -/
structure Answer where
  status : Nat
  detail : Nat := 0
  result : Nat := 0
  deriving DecidableEq, Repr

/-- A command: a descriptor that was fetched and has no final status yet (R62). -/
structure Cmd where
  /-- order of fetch over all SQs -/
  seq : Nat
  sq : Nat
  /-- the 64 bytes of R49 -/
  bytes : List Byte
  /-- recovery epoch at the fetch (R53) -/
  epoch : Nat
  started : Bool := false
  /-- OPCODE and outcome of an earlier command of the SQ with the same INTENT that entered no window (R66) -/
  dup : Option (Nat × Answer) := none
  deriving DecidableEq, Repr

/-- The SQ and TAG an outcome event names, and the command it waits for (R59, R64). -/
structure CmdRef where
  seq : Nat
  sq : Nat
  tag : Nat
  deriving DecidableEq, Repr

/-- A completion entry that is not yet in host memory (R44, R53, R69). -/
structure Held where
  cmd : CmdRef
  epoch : Nat
  ans : Answer
  deriving DecidableEq, Repr

/-- An event record that waits in an EQ's pending store (R45, R58). -/
structure EvRec where
  code : Nat
  epoch : Nat
  sq : Nat
  tag : Nat
  status : Nat
  dt : Nat
  payload : List Byte
  /-- the commands whose completion entries go first (R64) -/
  after : List Nat
  deriving DecidableEq, Repr

/-- One entry of an intent window (R65). -/
structure Intent where
  id : Nat
  opcode : Nat
  ans : Answer
  deriving DecidableEq, Repr

/-- The state of a submission queue that no register shows. -/
structure SqSt where
  /-- accepted tail (R42) -/
  tail : Nat := 0
  fetched : List Cmd := []
  /-- newest first, at most 4,096 (R65) -/
  window : List Intent := []
  /-- enabled again since recovery began (R71) -/
  reEnabled : Bool := false
  /-- STATS_READ counters (R85) -/
  completed : Nat := 0
  aborted : Nat := 0
  deriving DecidableEq, Repr

/-- The coalescing state of a CQ or EQ (R46): entries since the last message, time of the first of them. -/
structure CoalSt where
  count : Nat := 0
  since : Nat := 0
  deriving DecidableEq, Repr

/-- The state of a completion queue that no register shows. -/
structure CqSt where
  head : Nat := 0
  held : List Held := []
  coal : CoalSt := {}
  deriving DecidableEq, Repr

/-- The state of an event queue that no register shows. -/
structure EqSt where
  head : Nat := 0
  pend : List EvRec := []
  /-- OVERFLOWED is due in the next record (R45) -/
  overflow : Bool := false
  /-- records discarded (R85) -/
  discarded : Nat := 0
  coal : CoalSt := {}
  deriving DecidableEq, Repr

/-- The MSI-X capability and table (R529). -/
structure MsixSt where
  enable : Bool := false
  fmask : Bool := false
  /-- vectors whose Mask bit is 0 -/
  unmasked : SMap Bool := []
  addr : SMap Nat := []
  data : SMap Nat := []
  pend : SMap Bool := []
  deriving DecidableEq, Repr

/-- The AER registers: uncorrectable and correctable status, uncorrectable severity with the reset value of the PCI Express Base
Specification, and the header of the first uncorrectable error (R35, R40). -/
structure AerSt where
  unc : Nat := 0
  cor : Nat := 0
  sev : Nat := 0x00462030
  hdr : BitVec 128 := 0
  deriving DecidableEq, Repr

/-- The PCIe function as the host configures it and the link as the module sees it (R35-R37, R40, R534). -/
structure LinkSt where
  perst : Bool := false
  /-- elapsed time of the last PERST_N release (R36) -/
  perstRelease : Nat := 0
  d3hot : Bool := false
  /-- the Command register -/
  command : Nat := 0
  /-- base addresses in BAR0/1 and BAR2/3 (R37) -/
  bar0 : Nat := 0
  bar2 : Nat := 0
  /-- Device Control: relaxed ordering, payload and read request sizes (R35, R39; log entry 125) -/
  devCtl : Nat := 0x2810
  aer : AerSt := {}
  deriving DecidableEq, Repr

/-- The attributes of a memory request (R39). -/
structure TlpAttr where
  relaxed : Bool := false
  noSnoop : Bool := false
  deriving DecidableEq, Repr

/-- A Rill queue: pointers of k + 1 bits, the entries by slot, and lostmark (R76, R77). LOST is a register. -/
structure RillSt where
  wr : Nat := 0
  rd : Nat := 0
  entries : SMap Nat := []
  lostmark : Bool := false
  deriving DecidableEq, Repr

/-- Routing of an opcode group's events (R81, R83). -/
structure Route where
  eq : Nat := 0
  enable : Bool := true
  deriving DecidableEq, Repr

/-- Everything of chapter 02 that no register holds. -/
structure HostSt where
  sqs : SMap SqSt := []
  cqs : SMap CqSt := []
  eqs : SMap EqSt := []
  /-- number of the next fetched command -/
  nextSeq : Nat := 0
  /-- weighted round robin: SQ served now and descriptors it gave this round (R62) -/
  rrSq : Nat := 0
  rrUsed : Nat := 0
  /-- completions kept by recovery (R69) -/
  kept : List Held := []
  /-- commands aborted in this recovery (R60) -/
  rcvAborted : Nat := 0
  recoveries : Nat := 0
  ringFaults : Nat := 0
  intentMatches : Nat := 0
  routes : SMap Route := []
  msix : MsixSt := {}
  link : LinkSt := {}
  rill : SMap RillSt := []
  ports : SMap RillSt := []
  /-- host memory (R41, R50): an unlisted byte is 0 (log entry 3) -/
  mem : SMap Byte := []
  /-- ranges [a, b) of host memory whose accesses fail (log entry 4) -/
  bad : List (Nat × Nat) := []
  /-- data of the host's last register, BAR2 or configuration read (the model's own) -/
  readData : Nat := 0
  /-- attributes of the module's last memory write or descriptor read (R39) -/
  attr : TlpAttr := {}
  /-- a MODULE_RESET whose completion entry is not yet written (R81) -/
  resetFor : Option Nat := none
  /-- whether the last configuration request was answered Retry (R36) -/
  retried : Bool := false
  deriving DecidableEq, Repr

end Sys2Proof.Machine
end

