-- ==== Sys2Proof/Machine/StBasin.lean ====
section
/-! DEFINITION. The state of Basin: channels, windows, accumulators, intervals and reconciliation (chapter 09). Physical values
are binary64 bit patterns. -/

namespace Sys2Proof.Machine

/-- A point of a temperature table (R264): 0.01 °C, ppm and µrad. -/
structure TempPoint where
  t : Int
  gain : Int
  phase : Int
  deriving DecidableEq, Repr

/-- A channel: table, corrections in use, delay in use, values of its latest samples (newest first), and the DT second after the
last one with an over-range record. -/
structure BasChan where
  table : List TempPoint := [⟨0, 0, 0⟩]
  gppm : Int := 0
  phase : Int := 0
  delay : Nat := 0
  raw : List Nat := []
  ovrSec : Nat := 0
  deriving DecidableEq, Repr

/-- One sample of a feeder: voltage, delayed voltage (R268) and current of each phase, and the neutral current. -/
structure BasSample where
  v : List Nat
  v90 : List Nat
  i : List Nat
  n : Nat
  deriving DecidableEq, Repr

/-- The quantities of a phase (R268). -/
structure PhaseVals where
  vrms : Nat := 0
  irms : Nat := 0
  p : Nat := 0
  q : Nat := 0
  s : Nat := 0
  pf : Nat := 0
  thdV : Nat := 0
  thdI : Nat := 0
  deriving DecidableEq, Repr

/-- The quantities of a feeder at its last window end. -/
structure FeederVals where
  ph : SMap PhaseVals := []
  freq : Nat := 0
  inRms : Nat := 0
  ires : Nat := 0
  pSum : Nat := 0
  qSum : Nat := 0
  sec : Nat := 0
  deriving DecidableEq, Repr

/-- An open interval (R277): START, nominal minutes, accumulators at START, whole seconds metered, flags, and the sums of
LEVEL_CMD by EPH (R281). -/
structure OpenInterval where
  start : Nat
  minutes : Nat
  base : List Nat
  secs : Nat := 0
  gap : Bool := false
  step : Bool := false
  dead : Bool := false
  chf : Bool := false
  cal : Bool := false
  levels : SMap Nat := []
  deriving DecidableEq, Repr

/-- A feeder. -/
structure Feeder where
  /-- the 18 accumulators, 6 × phase + quantity, in units of 2^-32 µWh or µvarh (R272) -/
  acc : List Nat := List.replicate 18 0
  /-- latest samples, newest first -/
  hist : List BasSample := []
  /-- f_used of the last window, 0 before the first (R267) -/
  fUsed : Nat := 0
  /-- windows of 1,600 samples are in use -/
  fixed : Bool := false
  /-- samples in the present window and since the last zero crossing -/
  wN : Nat := 0
  cycN : Nat := 0
  /-- fraction of a sample by which the window's first crossing came after the sample before it, if the window has one -/
  frac : Option Nat := none
  /-- the phase whose crossing began the present cycle (R267) -/
  crossPh : Option Nat := none
  /-- cycles since that crossing, and where the last crossing lay -/
  cycles : Nat := 0
  lastN : Nat := 0
  lastFrac : Nat := 0
  /-- frequency of the latest NCYC cycles that ended in a window of 1,600 samples -/
  nfreq : Option Nat := none
  vals : Option FeederVals := none
  rcOver : Nat := 0
  rcUnder : Nat := 0
  interval : Option OpenInterval := none
  /-- the feeder has been metered since the present DT second began -/
  whole : Bool := false
  deriving DecidableEq, Repr

/-- A window that has ended and awaits its computation: feeder, frequency if FREQ_VALID, and samples, oldest first. -/
structure WinDue where
  feeder : Nat
  freq : Option Nat
  samples : List BasSample
  deriving DecidableEq, Repr

/-- The content of one FRAM slot (R274). -/
structure BasSlot where
  seq : Nat
  dt : Nat := 0
  ok : Bool := true
  feeders : List (List Nat × Option OpenInterval) := List.replicate 6 (List.replicate 18 0, none)
  deriving DecidableEq, Repr

/-- A lantern's entry of the Basin table (R278). -/
structure BasLantern where
  rated : Nat := 0
  cal : Nat := 32768
  weight : Nat := 1
  deriving DecidableEq, Repr

/-- A closed interval that awaits reconciliation (R281), with the elapsed time of its end. -/
structure ReconWait where
  feeder : Nat
  start : Nat
  endSec : Nat
  minutes : Nat
  secs : Nat
  step : Bool
  m : Nat
  levels : SMap Nat
  at' : Nat
  deriving DecidableEq, Repr

/-- A reconciliation: payload of R284, allocation vector, flags, lanterns, estimated bases and START. -/
structure Recon where
  feeder : Nat
  payload : List Byte
  vec : List (List Byte)
  flags : Nat
  estimated : Nat
  start : Nat
  deriving DecidableEq, Repr

/-- Everything of chapter 09 that no register holds. -/
structure BasinSt where
  chans : SMap BasChan := []
  feeders : SMap Feeder := []
  cycDue : List (Nat × Nat) := []
  winDue : List WinDue := []
  slots : List BasSlot := [{ seq := 1 }, { seq := 2 }]
  lanterns : SMap BasLantern := []
  /-- the last 8 interval ends in DT seconds [31:0], and each lantern's energy at them (R280) -/
  ends : List Nat := []
  energy : SMap (List (Nat × Nat)) := []
  /-- lanterns that have given a report -/
  reported : SMap Bool := []
  waits : List ReconWait := []
  running : List Recon := []
  /-- reconciled intervals of each feeder, newest first, at most 8 (R283) -/
  done : SMap (List Recon) := []
  /-- index of the last sample taken, plus 1; DT seconds plus 1 of the last temperature, commit and roll-over -/
  sampleIdx : Nat := 0
  tempSec : Nat := 0
  commitSec : Nat := 0
  rollSec : Nat := 0
  /-- index of the last interval end, plus 1 -/
  endIdx : Nat := 0
  deriving DecidableEq, Repr

end Sys2Proof.Machine
end

