-- ==== Sys2Proof/Machine/StCascade.lean ====
section
/-! DEFINITION. The state of Cascade: the graph, held items, vertex states and borders (chapter 07). -/

namespace Sys2Proof.Machine

/-- The loaded part of a vertex record (R210). -/
structure Vtx where
  decay : Nat := 0
  first : Nat := 0
  nedge : Nat := 0
  link : Nat := 0
  en : Bool := false
  border : Bool := false
  deriving DecidableEq, Repr

/-- A copy of the graph: vertex records and edge records, each edge one 64-bit word (R211). -/
structure Graph where
  vtx : SMap Vtx := []
  edges : SMap Nat := []
  deriving DecidableEq, Repr

/-- An item of a wavefront (R215). -/
structure Item where
  vertex : Nat
  demand : Nat
  eta : Nat
  t0 : Nat
  classes : Nat
  fire : Nat
  seq : Nat
  deriving DecidableEq, Repr

/-- A presence event in the intake queue (R212, R214): `e` is the tick index of its event time. -/
structure PresEvent where
  vertex : Nat
  classes : Nat
  strength : Nat
  e : Nat
  deriving DecidableEq, Repr

/-- A border link (R231). -/
structure BorderLink where
  en : Bool := false
  isIn : Bool := false
  loc : Nat := 0
  remMod : Nat := 0
  remVertex : Nat := 0
  deriving DecidableEq, Repr

/-- A border item that waits for the next tick, with the SENT of its message (R227). -/
structure BorderItem where
  vertex : Nat
  classes : Nat
  demand : Nat
  eta : Nat
  t0 : Nat
  sent : Nat
  deriving DecidableEq, Repr

/-- Everything of chapter 07 that no register holds. -/
structure CasSt where
  active : Graph := {}
  staging : Graph := {}
  demand : SMap Nat := []
  last : SMap Nat := []
  /-- OUT of the last completed tick (R215) -/
  out : SMap Nat := []
  items : List Item := []
  seq : Nat := 0
  intake : List PresEvent := []
  borders : SMap BorderLink := []
  borderIn : List BorderItem := []
  /-- fetch numbers of CAS_GRAPH_ACTIVATE and of CAS_CLEAR commands that wait for the tick boundary -/
  activate : Option Nat := none
  /-- the activation has taken place, and its completion waits for CFG_ACK (R224, R444) -/
  taken : Bool := false
  clears : List Nat := []
  /-- CAS_CTRL.EN fell since the last tick (R221) -/
  fell : Bool := false
  /-- the instant of the last tick, as elapsed time and DT -/
  tickAt : Option (Nat × Nat) := none
  /-- ticks span a DT second (QUIET), as latched at the last DT second boundary (R33) -/
  quiet : Bool := false
  /-- the DT second of the counts of items lost, highest demand lost, and items carried (R232) -/
  second : Nat := 0
  lost : Nat := 0
  lostHigh : Nat := 0
  carried : Nat := 0
  /-- lanes of R217 that do not work (R219) -/
  deadLanes : List Nat := []
  deriving DecidableEq, Repr

end Sys2Proof.Machine
end

