-- ==== Sys2Proof/Machine/StFountain.lean ====
section
/-! DEFINITION. The state of Fountain: duty codes, sinks, fixtures, jets and the feature bus (chapter 12). -/

namespace Sys2Proof.Machine

/-- A channel of a fixture (R350). An output channel is numbered 0–65,535 external, 65,536 + k sink k. -/
structure FixChan where
  out : Nat
  x : Nat
  y : Nat
  flux : Nat
  kf : Int
  kx : Int
  ky : Int
  deriving DecidableEq, Repr

/-- A fixture: its record, its last target, and its last solver output. -/
structure Fixture where
  tsrc : Nat
  tindex : Nat
  tRef : Int
  tFixed : Int
  fluxFs : Nat
  chans : List FixChan
  target : Option (Nat × Nat × Nat) := none
  codes : List Nat := []
  deriving DecidableEq, Repr

/-- A step of a jet program (R353). -/
structure JStep where
  op : Nat
  curve : Nat
  color : Nat
  level : Nat
  selFirst : Nat
  selCount : Nat
  arg : Nat
  deriving DecidableEq, Repr

/-- A jet program. -/
structure JetProg where
  tkind : Nat
  first : Nat
  count : Nat
  auto : Bool
  steps : List JStep
  deriving DecidableEq, Repr

/-- A jet: program, STATE (0 stopped, 1 waiting, 2 running), START_DT, and the running state of R354. -/
structure Jet where
  prog : Option JetProg := none
  state : Nat := 0
  startDt : Nat := 0
  pc : Nat := 0
  entered : Bool := false
  t0 : Nat := 0
  /-- R0 and V by position, C by position plus 1 (an unlisted position holds 0xFF) -/
  r0 : SMap Nat := []
  v : SMap Nat := []
  c : SMap Nat := []
  /-- W in ms of DT -/
  w : Nat := 0
  cnt : SMap Nat := []
  flags : Nat := 0
  deriving DecidableEq, Repr

/-- The addressed side of a feature bus port: the next driver of the two round-robin orders, the driver whose STATUS is awaited,
misses by driver, and drivers with a latched fault. -/
structure FlbSt where
  rrWrite : Nat := 0
  rrStatus : Nat := 0
  asked : Option Nat := none
  misses : SMap Nat := []
  faults : SMap Bool := []
  deriving DecidableEq, Repr

/-- Everything of chapter 12 that no register holds. -/
structure FtnSt where
  /-- register-source codes by output channel (R339) -/
  reg : SMap Nat := []
  /-- code, I_SET and PHASE of sink channels in force since the last superframe boundary (R344) -/
  latched : SMap (Nat × Nat × Nat) := []
  fixtures : SMap (Option Fixture) := []
  colors : SMap (Nat × Nat) := []
  jets : SMap Jet := []
  /-- V[0] of running GROUP jets, by group, as of the last DT second boundary, plus 1 (R355) -/
  groupLevel : SMap Nat := []
  /-- superframe count t, and the index of the last boundary plus 1 -/
  count : Nat := 0
  boundary : Nat := 0
  /-- codes last sent to the drivers of addressed ports -/
  sentCodes : SMap Nat := []
  flb : SMap FlbSt := []
  /-- FTN_VSENSE in 10 mV -/
  vout : Nat := 0
  /-- latest headroom sample of each sink in mV -/
  headroom : SMap Nat := []
  /-- outputs resume at a superframe boundary after they are enabled (R362) -/
  outputsOn : Bool := false
  /-- pin test: elapsed time of the present round's start plus 1, and the next pair -/
  pinAt : Nat := 0
  pinNext : Nat := 15
  tempSec : Nat := 0
  deriving DecidableEq, Repr

end Sys2Proof.Machine
end

