-- ==== Sys2Proof/Machine/StOx.lean ====
section
/-! DEFINITION. The state of Ox, the cabinet scan engine (chapter 13). -/

namespace Sys2Proof.Machine

/-- A program bank: its bytes, and its status (0 EMPTY, 1 LOADED, 2 VALID) (R386). -/
structure OxBank where
  bytes : List Byte := []
  status : Nat := 0
  deriving DecidableEq, Repr

/-- A force entry (R396). -/
structure Force where
  symbol : Nat
  word : Nat
  mask : Nat
  value : Nat
  deriving DecidableEq, Repr

/-- A RIO table entry as it runs: consecutive bad exchanges, RIO_OK, lost, and the input words of the latest good answer (R390). -/
structure RioEnt where
  bad : Nat := 0
  ok : Bool := false
  lost : Bool := false
  words : List Nat := []
  deriving DecidableEq, Repr

/-- A RIO port: the entry whose ANSWER is awaited, a bad frame came instead, and entries still to be exchanged in this pass. -/
structure RioPort where
  asked : Option Nat := none
  spoilt : Bool := false
  left : List Nat := []
  deriving DecidableEq, Repr

/-- A DALI port: SEQ of the last request, the request being sent, and the receive word (R391). -/
structure DaliPort where
  seq : Nat := 0
  busy : Option Nat := none
  rx : Nat := 0
  deriving DecidableEq, Repr

/-- A slot of retained data in FRAM (R394). -/
structure RetSlot where
  seq : Nat
  prog : Nat := 0
  ok : Bool := true
  words : List Nat := []
  deriving DecidableEq, Repr

/-- Everything of chapter 13 that no register holds. -/
structure OxSt where
  banks : SMap OxBank := []
  /-- there is an active bank -/
  hasProg : Bool := false
  /-- the variable space as instructions see it, and the words committed at the last OUTPUT (R371, R377) -/
  mem : SMap Nat := []
  com : SMap Nat := []
  /-- the OX_READ snapshot -/
  snap : SMap Nat := []
  /-- the words as retained data takes them: restored, or of the last completed OUTPUT, laid out for the active program (R394) -/
  kept : Option (SMap Nat) := none
  acc : Nat := 0
  rlo : Bool := false
  aux : Bool := false
  x : Nat := 0
  /-- elapsed time at which MS counts from -/
  msBase : Nat := 0
  /-- elapsed time of the last INPUT plus 1, and the length of that cycle in µs -/
  inputAt : Nat := 0
  cycleUs : Nat := 0
  firstCycle : Bool := true
  switched : Bool := false
  /-- the next cycle resumes running timers (R395) -/
  resume : Bool := false
  /-- an OX_STOP that waits for the OUTPUT, and the OX_SWITCH that waits -/
  stops : List Nat := []
  switch : Option Nat := none
  /-- the switch cycle has not ended -/
  switchCycle : Bool := false
  writes : List (Nat × List Nat) := []
  forces : List (Option Force) := []
  rio : SMap RioEnt := []
  ports : SMap RioPort := []
  dali : SMap DaliPort := []
  /-- SCENE_REQ.SEQ of the last OUTPUT, and the SCENE_ACK of the last request resolved (R375) -/
  sceneSeq : Nat := 0
  sceneAck : Nat := 0
  slots : List RetSlot := [{ seq := 1 }, { seq := 2 }]
  retAt : Nat := 0
  /-- the words that the partner holds, and the force table has changed since it was sent (R401) -/
  mirrored : SMap Nat := []
  mirForces : Bool := false
  /-- engine state mirrored from the partner -/
  mirState : Nat := 0
  deriving DecidableEq, Repr

end Sys2Proof.Machine
end

