-- ==== Sys2Proof/Machine/StTamin.lean ====
section
/-! DEFINITION. The state of Tamin, the link layer, and of the Fold (chapter 05). -/

namespace Sys2Proof.Machine

/-- A Fold entry (R152). The default is the content of a FREE entry (R153). -/
structure FoldEntry where
  eui : Nat := 0
  state : Nat := 0
  type : Nat := 0
  gen : Nat := 0
  feeder : Nat := 7
  mapStale : Bool := false
  rekeyPend : Bool := false
  relays : Nat := 0
  hostAdmit : Bool := false
  parent : Nat := 0x3FFFF
  sca : Nat := 0
  caps : Nat := 0
  pre : Nat := 0
  keyEpoch : Nat := 0
  access : Nat := 0
  interval : Nat := 0
  superv : Nat := 0
  lastSp : Nat := 0
  lastEvt : Nat := 0
  mapIdx : Nat := 0
  mode : Nat := 0
  listen : Nat := 0
  rssi : Nat := 0
  ofs : Int := 0
  drift : Int := 0
  repeats : Nat := 0
  ulFcnt : Nat := 0
  dlFcnt : Nat := 0
  ulHash : Nat := 0
  lastRx : Nat := 0
  groupPtr : Nat := 0xFFFFFFFF
  levelCmd : Nat := 0
  levelRpt : Nat := 0
  powerRpt : Nat := 0
  energyRpt : Nat := 0
  energySec : Nat := 0
  faultBits : Nat := 0
  faultCode : Nat := 0
  /-- the 16 bytes of the OTA summary, little-endian -/
  ota : Nat := 0
  ulCount : Nat := 0
  ackPend : Nat := 0
  cntGuard : Bool := false
  homeModule : Nat := 0
  deriving DecidableEq, Repr

/-- What a queued downlink element is for. -/
inductive DlKind where
  /-- a LEVEL, GROUP_SET, BCAST_KEY or other element without an outcome of its own -/
  | plain
  /-- an APP element of DL_SEND -/
  | app (ref : CmdRef)
  /-- the CONN_UPDATE of the entry's pending change -/
  | conn
  | rekey
  /-- the GROUP_SET of a MEMBER_SET (R206) -/
  | member (ref : Option CmdRef)
  /-- a COMMIT element of a commit -/
  | commit (id : Nat)
  deriving DecidableEq, Repr

/-- A downlink element that waits for an endpoint (R165). -/
structure DlItem where
  type : Nat
  val : List Byte
  kind : DlKind
  attempts : Nat := 0
  deriving DecidableEq, Repr

/-- A change of connection parameters under way (R165, R182): MASK, the values, and once sent AT_EVT and its slot period. -/
structure ConnPend where
  ref : Option CmdRef
  mask : Nat
  feeder : Nat
  superv : Nat
  interval : Nat
  mapIdx : Nat
  listen : Nat
  at' : Option (Nat × Nat) := none
  /-- how often its CONN_UPDATE was sent -/
  tries : Nat := 0
  deriving DecidableEq, Repr

/-- A join in progress (R150): event of the JOIN_ACCEPT, what it carries, and the state before. -/
structure JoinPlan where
  sp : Nat
  ch : Nat
  mode : Nat
  jn : Nat
  anchor : Nat
  former : Nat
  sent : Bool := false
  deriving DecidableEq, Repr

/-- What Tamin keeps of an endpoint beside its entry. -/
structure EpSt where
  /-- REJOIN and CSKIP flags pending for the endpoint (R158) -/
  rejoin : Bool := false
  cskip : Bool := false
  /-- FCNT to acknowledge and correction to send in the next STATUS element (R158) -/
  ack : Option Nat := none
  tcorr : Option Int := none
  /-- a TCORR was sent since the last uplink (R157) -/
  tcorrSent : Bool := false
  /-- slot period of the last accepted direct uplink or JOIN_REQ, modulo 2^32 (R157) -/
  upSp : Option Nat := none
  dlq : List DlItem := []
  conn : Option ConnPend := none
  /-- the REKEY command that waits for the new key (R173) -/
  rekeyRef : Option CmdRef := none
  /-- last slot period in which the module used a listening event or poll -/
  listenSp : Nat := 0
  /-- its ENDPOINT_LOST was counted in a fold (R296) -/
  foldedLost : Bool := false
  /-- module that the entry is being handed to, after its HANDOVER_ACK, and since when (R459) -/
  handTo : Option Nat := none
  handAt : Nat := 0
  deriving DecidableEq, Repr

/-- A RESP that is due (R158): where, when in 2.5 µs units of DT, what it acknowledges and the correction it carries. -/
structure RespPend where
  eph : Nat
  ch : Nat
  at' : Nat
  evf : Nat
  ack : Bool
  fcnt : Nat
  tcorr : Option Int
  deriving DecidableEq, Repr

/-- A dedicated downlink event that is planned (R145). -/
structure DlPlan where
  eph : Nat
  sp : Nat
  ch : Nat
  mode : Nat
  deriving DecidableEq, Repr

/-- A window that Rooster announces (R166): first slot period, channel, MODE, KIND, COUNT and ID; `tag` is the COMMIT_ID or
campaign it serves. -/
structure Win where
  tag : Nat := 0
  sp : Nat
  ch : Nat
  mode : Nat
  kind : Nat
  count : Nat
  id : Nat
  deriving DecidableEq, Repr

/-- A MAP_SET that waits for its ACT_DT (R148). -/
structure MapPend where
  index : Nat
  map : Nat
  actDt : Nat
  ref : Option CmdRef
  sent : Nat := 0
  deriving DecidableEq, Repr

/-- An uplink whose MIC has been verified (R155): what acceptance needs of it, with the path it took (R175). -/
structure UpFrame where
  eph : Nat
  ftype : Nat
  gen : Nat
  ackreq : Bool
  evf : Nat
  fcnt : Nat
  /-- it came under the new key of a rekey (R173) -/
  newKey : Bool
  payload : List Byte
  ch : Nat
  mode : Nat
  rssi : Nat
  /-- SFD end in 2.5 µs units of DT -/
  t25 : Nat
  parent : Nat := 0x3FFFF
  relays : Nat := 0
  deriving DecidableEq, Repr

/-- A superseded map (R148): the slot period of the ACT_DT from which it is, and the elapsed time then. -/
structure OldMap where
  map : Nat
  until' : Nat
  from' : Nat
  deriving DecidableEq, Repr

/-- A broadcast rekey in progress (R171). -/
structure BcastPend where
  epoch : Nat
  actDt : Nat
  ref : Option CmdRef
  deriving DecidableEq, Repr

/-- What a Fold journal record says (R154): an entry after a change, or a counter of kind 1 to 3. -/
inductive JrnRec where
  | entry (eph : Nat) (e : FoldEntry)
  | counter (kind eph v : Nat)
  deriving DecidableEq, Repr

/-- A link key in the cache of the security engine (R170). -/
structure CachedKey where
  eui : Nat
  epoch : Nat
  key : List Byte
  deriving DecidableEq, Repr

/-- Everything of chapter 05 that no register holds. -/
structure TaminSt where
  /-- the Fold by EPH; an entry that is not listed is FREE -/
  fold : SMap FoldEntry := []
  ep : SMap EpSt := []
  /-- channel maps as 80-bit numbers; a map that was never set is 0 (R148) -/
  maps : SMap Nat := []
  /-- superseded maps by INDEX, newest first (R148) -/
  oldMaps : SMap (List OldMap) := []
  mapPend : List MapPend := []
  joins : SMap (Option JoinPlan) := []
  resps : List RespPend := []
  plans : List DlPlan := []
  /-- entries whose acknowledgement is to be aggregated, oldest first (R177) -/
  acks : List Nat := []
  wins : List Win := []
  bcast : Option BcastPend := none
  /-- the link keys cached, most recently used first (R170) -/
  kcache : List CachedKey := []
  /-- the Fold and broadcast counter in the NAND checkpoint, and the records of the FRAM journal since (R154) -/
  ckpt : SMap FoldEntry := []
  ckptBcnt : Nat := 0
  /-- the generation before it (R32, R471) -/
  ckptOld : SMap FoldEntry × Nat := ([], 0)
  journal : List (List Byte) := []
  ckptAt : Nat := 0
  /-- APP elements written to host port n since its ENABLE was set (R184) -/
  portSeq : SMap Nat := []
  /-- DT seconds of the last beacon and of the last supervision check -/
  beaconSec : Option Nat := none
  supSec : Nat := 0
  /-- latest AMBIENT of a sensor, with its elapsed time (R163, R242) -/
  ambient : SMap (Option (Nat × Nat)) := []
  deriving DecidableEq, Repr

end Sys2Proof.Machine
end

