-- ==== Sys2Proof/Machine/StPair.lean ====
section
/-! DEFINITION. The state of the redundant pair and of Span (chapter 15). -/

namespace Sys2Proof.Machine

/-- What the last LEASE of the partner said (R446). -/
structure Lease where
  epoch : Nat
  unit : Nat
  role : Nat
  release : Bool
  synced : Bool
  deriving DecidableEq, Repr

/-- A configuration command whose completion waits for CFG_ACK: the SEQ of its CFG message, and since when (R444). -/
structure CfgWait where
  mirSeq : Nat
  seq : Nat
  ans : Answer
  since : Nat
  deriving DecidableEq, Repr

/-- A verified uplink that a STANDBY module keeps, the KEY_EPOCH under which it verified, and the elapsed time at which it came
(R445). -/
structure HeardFrame where
  frame : UpFrame
  epoch : Nat
  at' : Nat
  deriving DecidableEq, Repr

/-- Everything of the pair that no register holds. -/
structure PairSt where
  /-- last SEQ sent of each mirror MSG, and last SEQ held of each received (R446) -/
  mirSeq : SMap Nat := []
  rxSeq : SMap Nat := []
  /-- streams whose bulk copy is awaited (R443) -/
  bulk : SMap Bool := []
  /-- SEQ announced by a LEASE and not held, per stream, with the elapsed time of that LEASE plus 1 (R443) -/
  announced : SMap (Nat × Nat) := []
  /-- PAR_RESYNC commands that wait for their outcome -/
  resync : List CmdRef := []
  lease : Option Lease := none
  /-- elapsed time of the last LEASE, and of the last one that granted a lease (R435) -/
  leaseRx : Option Nat := none
  leaseGrant : Option Nat := none
  /-- the lease lapsed while ACT_IN stayed asserted has been recorded (R438) -/
  mirDownSaid : Bool := false
  highEpoch : Nat := 0
  /-- elapsed time of the last edges of ACT_IN and of ACT_OUT, and the level of ACT_OUT (R436) -/
  actInAt : Option Nat := none
  actOutAt : Option Nat := none
  actOut : Bool := false
  /-- since when ACT_IN has been asserted, while ACTIVE (R440) -/
  actInSince : Option Nat := none
  /-- elapsed time of the last LEASE sent -/
  leaseTx : Option Nat := none
  /-- a RELEASE has come from the partner (R441) -/
  released : Bool := false
  /-- an edge of ACT_IN, and a LEASE, have come since HOLD_OUT rose (R434) -/
  edgeBack : Bool := false
  leaseBack : Bool := false
  /-- the last SEQ of each stream that the partner's LEASE announced (R443) -/
  told : SMap Nat := []
  /-- what messages of the streams whose bulk copy is awaited have brought, as stream and key (R440, R443; log entry 161) -/
  fresh : List (Nat × Nat) := []
  /-- registers of SEG_EUI in which the partner differs, with its values (R450; log entry 105) -/
  segDiff : List (Nat × Word) := []
  /-- the partner's module ID is another one (R450) -/
  mismatch : Bool := false
  /-- since when the gated pads have been driven as ACTIVE (R434) -/
  driveAt : Option Nat := none
  startAt : Option Nat := none
  /-- since when an unsynced STANDBY meets the other conditions of R437 (R449) -/
  overdue : Option Nat := none
  heard : List HeardFrame := []
  cfgWait : List CfgWait := []
  /-- elapsed time until which MIR link turns pairing on, 0 with a checkpoint (R432) -/
  wireUntil : Nat := 0
  deriving DecidableEq, Repr

/-- A published value (R463). -/
structure ValuePub where
  index : Nat
  dst : Nat
  word : Nat
  deriving DecidableEq, Repr

/-- A next hop that a route can name (R463): port, MAC and IPv6 address. -/
structure Peer where
  port : Nat
  mac : List Byte
  ip : List Byte
  deriving DecidableEq, Repr

/-- A handover that awaits its acknowledgement (R459). -/
structure Handing where
  eph : Nat
  dst : Nat
  since : Nat
  ref : Option CmdRef
  deriving DecidableEq, Repr

/-- A part of an image piece (R456). -/
structure Part where
  slot : Nat
  part : Nat
  image : Nat
  piece : Nat
  crc : Nat
  since : Nat
  data : List Byte
  deriving DecidableEq, Repr

/-- Pieces being sent to another module (R463). -/
structure PieceJob where
  slot : Nat
  bcast : Bool
  dst : Nat
  next : Nat
  left : Nat
  sent : Nat
  ref : Option CmdRef
  deriving DecidableEq, Repr

/-- Everything of Span that no register holds. -/
structure FedSt where
  /-- route entries: primary and alternate bytes (R463) -/
  routes : SMap (Nat × Nat) := []
  peers : SMap (Option Peer) := []
  pubs : SMap (Option ValuePub) := []
  /-- Span values with the elapsed time of their arrival (R456) -/
  values : SMap (Option (Nat × Nat)) := []
  /-- the remote module and feeder of a local feeder (R456) -/
  feederMap : SMap (Option (Nat × Nat)) := []
  /-- FEEDER_STATE of a remote module: dead feeders, open contactors, and when it arrived -/
  remote : SMap (Option (Nat × Nat × Nat)) := []
  /-- SEQ of the last message originated (R452) -/
  seq : Nat := 0
  /-- per SRC the highest SEQ plus 1, and the window of the 64 below it (R453) -/
  dup : SMap (Nat × Nat) := []
  /-- per port the elapsed time of the last HELLO plus 1, of the last Span frame plus 1, and the neighbour's MAC address -/
  hello : SMap Nat := []
  rxAt : SMap Nat := []
  neighMac : SMap (List Byte) := []
  handing : List Handing := []
  parts : List Part := []
  jobs : List PieceJob := []
  /-- the DT second in which pieces were last sent, and how many -/
  jobSec : Nat × Nat := (0, 0)
  /-- a HELLO from another module with this module's ID, and when (R457) -/
  dupId : Option Nat := none
  /-- FEEDER_STATE last sent, and when -/
  feederSaid : Option (Nat × Nat × Nat) := none
  helloAt : Option Nat := none
  pubSec : Nat := 0
  deriving DecidableEq, Repr

end Sys2Proof.Machine
end

