-- ==== Sys2Proof/Machine/StRadio.lean ====
section
/-! DEFINITION. The state of the radio front ends and the demodulator pool (chapter 04). -/

namespace Sys2Proof.Machine

/-- A sub-band of a regional profile (R132, R136): edges in kHz, PWR_MAX in 0.25 dBm, DUTY in 1/100,000. -/
structure SubBand where
  lo : Nat
  hi : Nat
  pwr : Int
  duty : Nat
  dwellMs : Nat := 0
  dwellWin : Nat := 0
  rxOnly : Bool := false
  deriving DecidableEq, Repr

/-- A regional profile. -/
structure Profile where
  minHop : Nat := 0
  subs : List SubBand := []
  deriving DecidableEq, Repr

/-- A detection that waits for a demodulator (R123): `ant` 0 A only, 1 B only, 2 both; RSSI coded as in R127. -/
structure Det where
  ch : Nat
  ant : Nat
  rssi : Nat
  at' : Nat
  inGrid : Bool
  deriving DecidableEq, Repr

/-- A demodulator at work: its channel, antennas, the time of its detection, and its lane (log entry 137). -/
structure Demod where
  ch : Nat
  ant : Nat
  at' : Nat
  lane : Nat := 0
  deriving DecidableEq, Repr

/-- A frame delivered to Tamin (R126): the bytes before its FCS, and the SFD end in 2.5 µs units of DT. -/
structure RxFrame where
  bytes : List Byte
  ch : Nat
  mode : Nat
  ant : Nat
  fec : Option Fec
  rssi : Nat
  t25 : Nat
  deriving DecidableEq, Repr

/-- A transmit chain: the frame in progress, the test that runs on it, and the time until which Tamin holds the chain. -/
structure ChainSt where
  busy : Bool := false
  start : Nat := 0
  airtime : Nat := 0
  ch : Nat := 0
  wide : Bool := false
  test : Option CmdRef := none
  holdUntil : Nat := 0
  deriving DecidableEq, Repr

/-- Airtime of a sub-band in µs: the open bucket, and the closed ones, newest first (R133). -/
structure DutySt where
  cur : Nat := 0
  closed : List Nat := []
  deriving DecidableEq, Repr

/-- Airtime of a channel in a dwell bucket (R134): start and length of the bucket in 1/20 units of elapsed time, and µs. -/
structure DwellBucket where
  start : Nat
  len : Nat
  us : Nat
  deriving DecidableEq, Repr

/-- A receive survey in progress (R138). -/
structure Survey where
  ref : CmdRef
  addr : Nat
  len : Nat
  start : Nat
  ms : Nat
  deriving DecidableEq, Repr

/-- Everything of chapter 04 that no register holds. -/
structure RadSt where
  waiting : List Det := []
  demods : List Demod := []
  /-- chains 0 A and 1 B -/
  chains : SMap ChainSt := []
  /-- delivered frames that Tamin has not checked yet, oldest first -/
  rxq : List RxFrame := []
  custom : Profile := {}
  /-- PROFILE_LOAD has completed since the last MOD reset (R138) -/
  customLoaded : Bool := false
  duty : SMap DutySt := []
  bucketStart : Nat := 0
  /-- the FRAM copy of the closed buckets, and the DT at which the last of them ended (R133) -/
  fram : TwoSlots (SMap DutySt × Nat) := { a := (0, [], 0), b := (0, [], 0) }
  /-- a run of refusals goes on on sub-band n (R133) -/
  refusing : SMap Bool := []
  /-- dwell buckets by channel (R134) -/
  dwell : SMap (List DwellBucket) := []
  /-- elapsed time of the last MOD reset (R134) -/
  resetAt : Nat := 0
  survey : Option Survey := none
  /-- profile stored in the configuration checkpoint, 3 none (R132) -/
  ckProfile : Nat := 3
  /-- most demodulators at once and their busy time in the present DT second (RAD_OCC) -/
  occPeak : Nat := 0
  occBusy : Nat := 0
  occSec : Nat := 0
  deriving DecidableEq, Repr

end Sys2Proof.Machine
end

