-- ==== Sys2Proof/Machine/StStreet.lean ====
section
/-! DEFINITION. The state of street control: memberships, groups, schedules, scenes, queued levels and commits (chapter 06). -/

namespace Sys2Proof.Machine

/-- A membership record (R188). -/
structure Member where
  zone : Nat := 0
  zoneEn : Bool := false
  floor : Nat := 0
  statFloor : Nat := 0
  /-- GROUP and POSITION of each group listed; the first is the delivery group -/
  groups : List (Nat × Nat) := []
  /-- marked for delivery (R190) -/
  marked : Bool := false
  deriving DecidableEq, Repr

/-- The settings of a group (R189). -/
structure Group where
  profile : Nat := 0xFFFF
  hyst : Nat := 1024
  period : Nat := 0
  phase : Nat := 0
  channel : Nat := 0
  deriving DecidableEq, Repr

/-- A step of a schedule profile (R194). -/
structure SStep where
  kind : Nat
  event : Nat
  commit : Bool
  days : Nat
  time : Int
  cap : Nat
  floor : Nat
  fade : Nat
  thr : Nat
  rise : Bool
  group : Nat
  deriving DecidableEq, Repr

/-- A schedule profile. -/
structure Sched where
  ambEph : Nat := 0
  ambHold : Nat := 0
  steps : List SStep := []
  deriving DecidableEq, Repr

/-- A date exception (R195). -/
structure ExcDate where
  year : Nat
  month : Nat
  day : Nat
  cls : Nat
  deriving DecidableEq, Repr

/-- An entry of a scene (R199). -/
structure SceneEnt where
  group : Nat
  level : Nat
  fade : Nat
  fixed : Bool
  deriving DecidableEq, Repr

/-- A scene entry in force for a group: its scene, LEVEL and FIXED. -/
structure InForce where
  scene : Nat
  level : Nat
  fixed : Bool
  deriving DecidableEq, Repr

/-- A level that is queued for a lantern (R191): FORCED, and when the lantern was first queued. -/
structure QLevel where
  level : Nat
  forced : Bool
  since : Nat
  deriving DecidableEq, Repr

/-- The inputs of a lantern latched at the last tick, and its level (R186, R206). -/
structure CompIn where
  cFeeder : Nat := 0
  cSched : Nat := 0
  z : Nat := 0
  d : Nat := 0
  f : Nat := 0
  stat : Nat := 0
  l : Nat := 0
  deriving DecidableEq, Repr

/-- A commit entry (R203, R206). STATE: 0 pending, 1 due, 2 cancelled. -/
structure CommitEnt where
  id : Nat
  kind : Nat
  state : Nat := 0
  group : Nat
  all : Bool
  policy : Nat
  body : List Byte
  actDt : Nat
  /-- DT of its acceptance, from which its windows are planned (R201) -/
  accDt : Nat := 0
  addressed : Nat
  late : Nat := 0
  ignored : Nat := 0
  refused : Nat := 0
  missed : Nat := 0
  sent : Nat := 0
  ref : Option CmdRef := none
  done : Bool := false
  deriving DecidableEq, Repr

/-- Everything of chapter 06 that no register holds. -/
structure StreetSt where
  members : SMap (Option Member) := []
  groups : SMap Group := []
  profiles : SMap (Option Sched) := []
  exceptions : SMap (Option ExcDate) := []
  scenes : SMap (List SceneEnt) := []
  /-- the step in force of each profile, with its trigger DT (R196) -/
  force : SMap (Option (Nat × Nat)) := []
  /-- DT up to which triggers, and ambient fallbacks, have been judged -/
  stepSeen : Nat := 0
  ambSeen : Nat := 0
  /-- ambient step 16 × profile + step: since when its threshold holds, and the local day after the one on which it fired -/
  ambSince : SMap (Option Nat) := []
  ambFired : SMap Int := []
  /-- commits issued for steps: profile, step and trigger DT -/
  planned : List (Nat × Nat × Nat) := []
  sceneForce : SMap (Option InForce) := []
  /-- scenes that await activation, with ACT_DT or 0 for the next tick -/
  scenePend : List (Nat × Nat) := []
  queue : SMap (Option QLevel) := []
  repair : SMap Bool := []
  floorOver : SMap Bool := []
  comp : SMap CompIn := []
  /-- lanterns whose next report judges a LEVEL commit: its COMMIT_ID and the DT from which a report counts (R201) -/
  judging : SMap (Option (Nat × Nat)) := []
  commits : List CommitEnt := []
  /-- records of campaign commits whose entries are free again (R334) -/
  freed : List CommitEnt := []
  /-- the last COMMIT_ID issued, in FRAM (R32, R203) -/
  lastId : TwoSlots Nat := { a := (0, 0), b := (0, 0) }
  /-- the highest COMMIT_ID mirrored since this module was last active (R204) -/
  mirroredId : Option Nat := none
  /-- slot period of the last use of a channel by a window -/
  chanUse : SMap Nat := []
  /-- slot period of the last LEVEL_VECTOR of a group, and chains used by level vectors in a slot period -/
  lvSlot : SMap Nat := []
  lvCount : Nat × Nat := (0, 0)
  /-- local day after the last one whose solar events were looked up (R196) -/
  day : Int := 0
  deriving DecidableEq, Repr

end Sys2Proof.Machine
end

