-- ==== Sys2Proof/Machine/StWeir.lean ====
section
/-! DEFINITION. The state of Weir: loops, groups, injection and capture (chapter 08). Values are binary32 bit patterns. -/

namespace Sys2Proof.Machine

/-- Coefficients of a section: b0, b1, b2, a1, a2 (R251). -/
structure Coef where
  b0 : Nat
  b1 : Nat
  b2 : Nat
  a1 : Nat
  a2 : Nat
  deriving DecidableEq, Repr

/-- A loaded loop descriptor (R251). -/
structure LoopDesc where
  nsec : Nat
  sign : Bool
  track : Bool
  regionEvt : Bool
  rate : Nat
  dest : Nat
  destIndex : Nat
  pv : Nat
  sp : Nat
  sv : Nat
  spConst : Nat
  outMin : Nat
  outMax : Nat
  slew : Nat
  hys : Nat
  bounds : List Nat
  /-- coefficient sets, region after region -/
  coefs : List (List Coef)
  deriving DecidableEq, Repr

/-- States of a section: S1, S2, XP, YP (R238). -/
structure SecSt where
  s1 : Nat := 0
  s2 : Nat := 0
  xp : Nat := 0
  yp : Nat := 0
  deriving DecidableEq, Repr

/-- A loop. -/
structure Loop where
  desc : Option LoopDesc := none
  /-- configured EN and MODE (R255) -/
  cfgEn : Bool := false
  cfgMan : Bool := false
  en : Bool := false
  manual : Bool := false
  man : Nat := 0
  manNext : Option Nat := none
  secs : List SecSt := []
  y : Nat := 0
  reg : Nat := 0
  held : Bool := false
  heldCause : Nat := 0
  fault : Bool := false
  clamped : Bool := false
  loser : Bool := false
  samples : Nat := 0
  /-- latest SP, PV, e, e after injection, u, injection value and SV -/
  sp : Nat := 0
  pv : Nat := 0
  e : Nat := 0
  ex : Nat := 0
  u : Nat := 0
  inj : Nat := 0
  sv : Nat := 0
  /-- coefficient sets that wait for the next sample: region and set (R249) -/
  coefNext : List (Nat × List Coef) := []
  /-- INIT, until the next sample sets the loop up with it (R240) -/
  init : Option Nat := none
  /-- index of the last sample instant passed (R235) -/
  seen : Nat := 0
  deriving DecidableEq, Repr

/-- A competition group: members, MARGIN and the previous winner (R247). -/
structure CompGroup where
  members : List Nat := []
  margin : Nat := 0
  winner : Option Nat := none
  deriving DecidableEq, Repr

/-- The injection (R252, R253). -/
structure Inject where
  loop : Nat
  kind : Nat
  point : Nat
  hold : Bool
  capture : Bool
  n : Nat
  a : Nat
  duration : Nat
  chip : Nat
  f0 : Nat
  f1 : Nat
  /-- components: H, AMP, PHASE -/
  comps : List (Nat × Nat × Nat)
  k : Nat := 0
  /-- PRBS register, s[1] being bit 0 -/
  shift : Nat
  changes : Nat := 0
  ref : Option CmdRef
  deriving DecidableEq, Repr

/-- A capture channel: entry, trigger, samples since the trigger, and its stored samples (R254). -/
structure CapChan where
  loop : Nat := 0
  signal : Nat := 0
  trig : Nat := 0xFF
  decim : Nat := 1
  running : Bool := false
  seen : Nat := 0
  /-- bytes of the stored samples, oldest first -/
  data : List Byte := []
  deriving DecidableEq, Repr

/-- Everything of chapter 08 that no register holds. -/
structure WeirSt where
  loops : SMap Loop := []
  groups : SMap CompGroup := []
  /-- group changes that wait for the members' next sample -/
  groupNext : SMap (Option CompGroup) := []
  inject : Option Inject := none
  caps : SMap CapChan := []
  capRef : Option CmdRef := none
  /-- elapsed time at which FAST_EN went to 1 (R235) -/
  fastStart : Nat := 0
  /-- values written to mapped variables of Ox since its last INPUT -/
  oxw : SMap (Option Nat) := []
  deriving DecidableEq, Repr

end Sys2Proof.Machine
end

