-- ==== Sys2Proof/Machine/StCfg.lean ====
section
/-! DEFINITION. What the configuration checkpoint holds beside the registers (R32, R442; log entry 100). -/

namespace Sys2Proof.Machine

/-- What the checkpoint holds of a loop: its descriptor, EN and MODE (R255). -/
structure LoopCfg where
  desc : Option LoopDesc
  en : Bool
  man : Bool
  deriving DecidableEq, Repr

/-- The tables of the configuration checkpoint. -/
structure CfgTables where
  /-- chapters 04 and 05: the custom profile, the profile selected, channel maps -/
  custom : Profile := {}
  profile : Nat := 3
  maps : SMap Nat := []
  /-- chapters 06 and 07: street control, the active graph and its GEN, border links -/
  members : SMap (Option Member) := []
  groups : SMap Group := []
  scheds : SMap (Option Sched) := []
  exceptions : SMap (Option ExcDate) := []
  scenes : SMap (List SceneEnt) := []
  graph : Graph := {}
  gen : Nat := 0
  borders : SMap BorderLink := []
  /-- chapters 08 and 09: loops, competition groups, temperature tables, lanterns -/
  loops : SMap LoopCfg := []
  compGroups : SMap CompGroup := []
  temps : SMap (List TempPoint) := []
  lanterns : SMap BasLantern := []
  /-- chapters 12 and 13: fixtures, colours, jet programs, program banks and the active one -/
  fixtures : SMap (Option Fixture) := []
  colors : SMap (Nat × Nat) := []
  jets : SMap (Option JetProg) := []
  banks : SMap OxBank := []
  hasProg : Bool := false
  bank : Nat := 0
  /-- chapters 15 and 17: Span's tables, the module mode -/
  routes : SMap (Nat × Nat) := []
  peers : SMap (Option Peer) := []
  pubs : SMap (Option ValuePub) := []
  feederMap : SMap (Option (Nat × Nat)) := []
  mode : Nat := 0
  deriving DecidableEq, Repr, Inhabited

/-- A generation of the configuration checkpoint: its tables and its registers (R32). -/
structure CfgGen where
  tables : CfgTables := {}
  regs : SMap Word := []
  deriving DecidableEq, Repr

end Sys2Proof.Machine
end

