-- ==== Sys2Proof/Machine/Codec.lean ====
section
/-! DEFINITION. A reading of the configuration checkpoint's tables as bytes. R446 leaves the layout open: `Config.cfgPack` stands
between these bytes and those of the checkpoint (log entry 100). Every code carries the proof that it reads back what it writes. -/

namespace Sys2Proof.Machine

/-- A way to write values as bytes that tells where each one ends. -/
structure Code (α : Type) where
  enc : α → List Byte
  dec : List Byte → Option (α × List Byte)
  ok : ∀ a r, dec (enc a ++ r) = some (a, r)

namespace Code

variable {α β : Type}

/-- A number, 7 bits to a byte, the lowest first. The fuel is at least the number. -/
def putNat : Nat → Nat → List Byte
  | 0, n => [BitVec.ofNat 8 (n % 128)]
  | k + 1, n => if n < 128 then [BitVec.ofNat 8 n] else BitVec.ofNat 8 (128 + n % 128) :: putNat k (n / 128)

def takeNat : List Byte → Option (Nat × List Byte)
  | [] => none
  | b :: r => if b.toNat < 128 then some (b.toNat, r) else (takeNat r).map fun x => (b.toNat - 128 + 128 * x.1, x.2)

theorem takeNat_putNat (k : Nat) : ∀ n, n ≤ k → ∀ r, takeNat (putNat k n ++ r) = some (n, r) := by
  induction k with
  | zero => intro n h r; obtain rfl : n = 0 := by omega
            simp [putNat, takeNat]
  | succ k ih =>
    intro n h r
    by_cases c : n < 128
    · have e : n % 2 ^ 8 = n := Nat.mod_eq_of_lt (by omega)
      simp only [putNat, c, if_true, List.cons_append, List.nil_append, takeNat, BitVec.toNat_ofNat, e]
    · have e : (128 + n % 128) % 2 ^ 8 = 128 + n % 128 := Nat.mod_eq_of_lt (by omega)
      have d : ¬ 128 + n % 128 < 128 := by omega
      simp only [putNat, c, if_false, List.cons_append, takeNat, BitVec.toNat_ofNat, e, d, ih (n / 128) (by omega) r, Option.map_some,
        Nat.add_sub_cancel_left, Nat.mod_add_div]

/-- A number. -/
def nat : Code Nat where
  enc n := putNat n n
  dec := takeNat
  ok n r := takeNat_putNat n n (Nat.le_refl n) r

/-- A pair. -/
def prod (c : Code α) (d : Code β) : Code (α × β) where
  enc x := c.enc x.1 ++ d.enc x.2
  dec l := (c.dec l).bind fun x => (d.dec x.2).map fun y => ((x.1, y.1), y.2)
  ok x r := by simp [List.append_assoc, c.ok, d.ok]

/-- Values that stand for others. -/
def by' (c : Code β) (f : α → β) (g : β → α) (h : ∀ a, g (f a) = a) : Code α where
  enc a := c.enc (f a)
  dec l := (c.dec l).map fun x => (g x.1, x.2)
  ok a r := by simp [c.ok, h]

/-- `n` values, one after the other. -/
def takeList (c : Code α) : Nat → List Byte → Option (List α × List Byte)
  | 0, l => some ([], l)
  | n + 1, l => (c.dec l).bind fun x => (takeList c n x.2).map fun y => (x.1 :: y.1, y.2)

theorem takeList_flatMap (c : Code α) (l : List α) (r : List Byte) : takeList c l.length (l.flatMap c.enc ++ r) = some (l, r) := by
  induction l with
  | nil => rfl
  | cons a l ih => simp [takeList, List.append_assoc, c.ok, ih]

/-- A list: its length, then its values. -/
def list (c : Code α) : Code (List α) where
  enc l := nat.enc l.length ++ l.flatMap c.enc
  dec l := (nat.dec l).bind fun x => takeList c x.1 x.2
  ok l r := by simp [List.append_assoc, nat.ok, takeList_flatMap]

def bool : Code Bool := nat.by' (fun b => if b then 1 else 0) (fun n => decide (n = 1)) (by decide)
def byte : Code Byte := nat.by' BitVec.toNat (BitVec.ofNat 8) (by intro b; simp)
def int : Code Int :=
  (bool.prod nat).by' (fun i => (decide (i < 0), i.natAbs)) (fun x => if x.1 then -(x.2 : Int) else x.2) (by
    intro i
    by_cases h : i < 0
    · simp only [h, decide_true, if_true]; omega
    · simp only [h, decide_false, Bool.false_eq_true, if_false]; omega)
def opt (c : Code α) : Code (Option α) :=
  c.list.by' Option.toList List.head? (by intro o; cases o <;> rfl)
def smap (c : Code α) : Code (SMap α) := (nat.prod c).list

end Code

open Code

/-! ### The records of the tables -/

def SubBand.code : Code SubBand :=
  (nat.prod (nat.prod (int.prod (nat.prod (nat.prod (nat.prod bool)))))).by'
    (fun x => (x.lo, x.hi, x.pwr, x.duty, x.dwellMs, x.dwellWin, x.rxOnly)) (fun (a, b, c, d, e, f, g) => ⟨a, b, c, d, e, f, g⟩) fun _ => rfl

def Profile.code : Code Profile := (nat.prod SubBand.code.list).by' (fun x => (x.minHop, x.subs)) (fun (a, b) => ⟨a, b⟩) fun _ => rfl

def Member.code : Code Member :=
  (nat.prod (bool.prod (nat.prod (nat.prod ((nat.prod nat).list.prod bool))))).by'
    (fun x => (x.zone, x.zoneEn, x.floor, x.statFloor, x.groups, x.marked)) (fun (a, b, c, d, e, f) => ⟨a, b, c, d, e, f⟩) fun _ => rfl

def Group.code : Code Group :=
  (nat.prod (nat.prod (nat.prod (nat.prod nat)))).by'
    (fun x => (x.profile, x.hyst, x.period, x.phase, x.channel)) (fun (a, b, c, d, e) => ⟨a, b, c, d, e⟩) fun _ => rfl

def SStep.code : Code SStep :=
  (nat.prod (nat.prod (bool.prod (nat.prod (int.prod (nat.prod (nat.prod (nat.prod (nat.prod (bool.prod nat)))))))))).by'
    (fun x => (x.kind, x.event, x.commit, x.days, x.time, x.cap, x.floor, x.fade, x.thr, x.rise, x.group))
    (fun (a, b, c, d, e, f, g, h, i, j, k) => ⟨a, b, c, d, e, f, g, h, i, j, k⟩) fun _ => rfl

def Sched.code : Code Sched :=
  (nat.prod (nat.prod SStep.code.list)).by' (fun x => (x.ambEph, x.ambHold, x.steps)) (fun (a, b, c) => ⟨a, b, c⟩) fun _ => rfl

def ExcDate.code : Code ExcDate :=
  (nat.prod (nat.prod (nat.prod nat))).by' (fun x => (x.year, x.month, x.day, x.cls)) (fun (a, b, c, d) => ⟨a, b, c, d⟩) fun _ => rfl

def SceneEnt.code : Code SceneEnt :=
  (nat.prod (nat.prod (nat.prod bool))).by' (fun x => (x.group, x.level, x.fade, x.fixed)) (fun (a, b, c, d) => ⟨a, b, c, d⟩) fun _ => rfl

def Vtx.code : Code Vtx :=
  (nat.prod (nat.prod (nat.prod (nat.prod (bool.prod bool))))).by'
    (fun x => (x.decay, x.first, x.nedge, x.link, x.en, x.border)) (fun (a, b, c, d, e, f) => ⟨a, b, c, d, e, f⟩) fun _ => rfl

def Graph.code : Code Graph := (Vtx.code.smap.prod nat.smap).by' (fun x => (x.vtx, x.edges)) (fun (a, b) => ⟨a, b⟩) fun _ => rfl

def BorderLink.code : Code BorderLink :=
  (bool.prod (bool.prod (nat.prod (nat.prod nat)))).by'
    (fun x => (x.en, x.isIn, x.loc, x.remMod, x.remVertex)) (fun (a, b, c, d, e) => ⟨a, b, c, d, e⟩) fun _ => rfl

def Coef.code : Code Coef :=
  (nat.prod (nat.prod (nat.prod (nat.prod nat)))).by'
    (fun x => (x.b0, x.b1, x.b2, x.a1, x.a2)) (fun (a, b, c, d, e) => ⟨a, b, c, d, e⟩) fun _ => rfl

def LoopDesc.code : Code LoopDesc :=
  ((nat.prod (bool.prod (bool.prod (bool.prod (nat.prod (nat.prod (nat.prod nat))))))).prod
    ((nat.prod (nat.prod (nat.prod (nat.prod nat)))).prod (nat.prod (nat.prod (nat.list.prod Coef.code.list.list))))).by'
    (fun x => ((x.nsec, x.sign, x.track, x.regionEvt, x.rate, x.dest, x.destIndex, x.pv),
      (x.sp, x.sv, x.spConst, x.outMin, x.outMax), x.slew, x.hys, x.bounds, x.coefs))
    (fun ((a, b, c, d, e, f, g, h), (i, j, k, l, m), n, o, p, q) => ⟨a, b, c, d, e, f, g, h, i, j, k, l, m, n, o, p, q⟩) fun _ => rfl

def LoopCfg.code : Code LoopCfg :=
  (LoopDesc.code.opt.prod (bool.prod bool)).by' (fun x => (x.desc, x.en, x.man)) (fun (a, b, c) => ⟨a, b, c⟩) fun _ => rfl

def CompGroup.code : Code CompGroup :=
  (nat.list.prod (nat.prod nat.opt)).by' (fun x => (x.members, x.margin, x.winner)) (fun (a, b, c) => ⟨a, b, c⟩) fun _ => rfl

def TempPoint.code : Code TempPoint :=
  (int.prod (int.prod int)).by' (fun x => (x.t, x.gain, x.phase)) (fun (a, b, c) => ⟨a, b, c⟩) fun _ => rfl

def BasLantern.code : Code BasLantern :=
  (nat.prod (nat.prod nat)).by' (fun x => (x.rated, x.cal, x.weight)) (fun (a, b, c) => ⟨a, b, c⟩) fun _ => rfl

def FixChan.code : Code FixChan :=
  (nat.prod (nat.prod (nat.prod (nat.prod (int.prod (int.prod int)))))).by'
    (fun x => (x.out, x.x, x.y, x.flux, x.kf, x.kx, x.ky)) (fun (a, b, c, d, e, f, g) => ⟨a, b, c, d, e, f, g⟩) fun _ => rfl

def Fixture.code : Code Fixture :=
  (nat.prod (nat.prod (int.prod (int.prod (nat.prod (FixChan.code.list.prod ((nat.prod (nat.prod nat)).opt.prod nat.list))))))).by'
    (fun x => (x.tsrc, x.tindex, x.tRef, x.tFixed, x.fluxFs, x.chans, x.target, x.codes))
    (fun (a, b, c, d, e, f, g, h) => ⟨a, b, c, d, e, f, g, h⟩) fun _ => rfl

def JStep.code : Code JStep :=
  (nat.prod (nat.prod (nat.prod (nat.prod (nat.prod (nat.prod nat)))))).by'
    (fun x => (x.op, x.curve, x.color, x.level, x.selFirst, x.selCount, x.arg)) (fun (a, b, c, d, e, f, g) => ⟨a, b, c, d, e, f, g⟩) fun _ => rfl

def JetProg.code : Code JetProg :=
  (nat.prod (nat.prod (nat.prod (bool.prod JStep.code.list)))).by'
    (fun x => (x.tkind, x.first, x.count, x.auto, x.steps)) (fun (a, b, c, d, e) => ⟨a, b, c, d, e⟩) fun _ => rfl

def OxBank.code : Code OxBank := (byte.list.prod nat).by' (fun x => (x.bytes, x.status)) (fun (a, b) => ⟨a, b⟩) fun _ => rfl

def Peer.code : Code Peer :=
  (nat.prod (byte.list.prod byte.list)).by' (fun x => (x.port, x.mac, x.ip)) (fun (a, b, c) => ⟨a, b, c⟩) fun _ => rfl

def ValuePub.code : Code ValuePub :=
  (nat.prod (nat.prod nat)).by' (fun x => (x.index, x.dst, x.word)) (fun (a, b, c) => ⟨a, b, c⟩) fun _ => rfl

/-- The tables. -/
def CfgTables.code : Code CfgTables :=
  ((Profile.code.prod (nat.prod nat.smap)).prod
    ((Member.code.opt.smap.prod (Group.code.smap.prod (Sched.code.opt.smap.prod (ExcDate.code.opt.smap.prod
      (SceneEnt.code.list.smap.prod (Graph.code.prod (nat.prod BorderLink.code.smap))))))).prod
    ((LoopCfg.code.smap.prod (CompGroup.code.smap.prod (TempPoint.code.list.smap.prod BasLantern.code.smap))).prod
    ((Fixture.code.opt.smap.prod ((nat.prod nat).smap.prod (JetProg.code.opt.smap.prod (OxBank.code.smap.prod (bool.prod nat))))).prod
    ((nat.prod nat).smap.prod (Peer.code.opt.smap.prod (ValuePub.code.opt.smap.prod ((nat.prod nat).opt.smap.prod nat)))))))).by'
    (fun x => ((x.custom, x.profile, x.maps), (x.members, x.groups, x.scheds, x.exceptions, x.scenes, x.graph, x.gen, x.borders),
      (x.loops, x.compGroups, x.temps, x.lanterns), (x.fixtures, x.colors, x.jets, x.banks, x.hasProg, x.bank),
      x.routes, x.peers, x.pubs, x.feederMap, x.mode))
    (fun ((a, b, c), (d, e, f, g, h, i, j, k), (l, m, n, o), (p, q, r, s, t, u), v, w, x, y, z) =>
      ⟨a, b, c, d, e, f, g, h, i, j, k, l, m, n, o, p, q, r, s, t, u, v, w, x, y, z⟩) fun _ => rfl

end Sys2Proof.Machine
end

