-- ==== Sys2Proof/Config.lean ====
section
/-! DEFINITION. What one part fixes and what the spec leaves open. An opaque constant here has no body: nothing can be
proved of its value, so a claim that holds for it holds for every value. -/

namespace Sys2Proof

/-- The band letter of the ordering code (R1). -/
inductive Band where
  | e | a | x
  deriving DecidableEq, Repr, Inhabited

/-- The band letter of this part. -/
opaque Config.band : Band

/-- GLB_ID.BAND: 1 = E, 2 = A, 3 = X (R86). -/
def Config.bandCode : Nat :=
  match Config.band with
  | .e => 1
  | .a => 2
  | .x => 3

/-- The reset value of RAD_WIN.CH0_KHZ: 863,100 for E and X, 907,100 for A (R140). -/
def Config.ch0Reset : Nat :=
  match Config.band with
  | .a => 907100
  | _ => 863100

/-- The variant's frequency range in kHz (R114). -/
def Config.range : Nat × Nat :=
  match Config.band with
  | .e => (863000, 876000)
  | .a => (902000, 928000)
  | .x => (862000, 928000)

/-- The power, in 0.25 dBm, that Tamin requests for a frame type: from −10 dBm to +27 dBm, and otherwise open (R115). -/
opaque Config.txRequest : Nat → Int
def Config.txPower (ftype : Nat) : Int := max (-40) (min 108 (Config.txRequest ftype))

/-- Whether Tamin whitens a frame type (R119). -/
opaque Config.txWhiten : Nat → Bool

/-- A fresh free value: an undefined or unstated value takes the next one (log entry 7). -/
opaque Config.free : Nat → Nat

/-- DEPTH_LOG2 of an internal Rill queue, fixed in revision B0 and not given (R76). -/
opaque Config.rillDepth : Nat → Nat

/-- POLICY of an internal Rill queue, fixed in revision B0 and not given (R77). -/
opaque Config.rillPolicy : Nat → Bool

/-- Whether an integer result that the spec gives without a rounding rule is rounded up: dividend, divisor. -/
opaque Config.roundUp : Int → Nat → Bool

/-- The payload of a NaN that an operation gives, by precision; IEEE 754 leaves it to the implementation. -/
opaque Config.nanPayload : Nat → Nat

/-- How far a CHIRP or MULTISINE value lies from the exact one, within the bound of R252: loop, sample. -/
opaque Config.toneError : Nat → Nat → Int

/-- How far the fractional-delay interpolator of R263, whose coefficients the spec does not give, lies from the cubic through four
samples, within the limits of R269: 1/64 samples, and the samples from the whole-sample delay on, newest first (binary64). -/
opaque Config.interpError : Nat → List Nat → Int

/-- How far a zero crossing of R267, whose interpolation the spec does not give, lies from that of the straight line between the two
samples, within the limit of R269. -/
opaque Config.crossingError : Nat → Nat → Int

/-- The Weir value of Vrms or Irms with phase 3 (R242), which the spec does not state: quantity and the three phase values. -/
opaque Config.threePhase : Nat → Nat → Nat → Nat → Nat

/-- The OTP of this part as it was delivered: its identity record, authority hashes and PUF helper data are the part's own
(R406, R425). -/
opaque Config.otp : Nat → Byte

/-- UID, EUI-64 and serial number of this part (R406, R425). -/
def Config.uid : List Byte := (List.range 16).map Config.otp
def Config.moduleEui : Nat := ((List.range 8).map fun i => (Config.otp (16 + i)).toNat * 256 ^ i).sum
def Config.serial : List Byte := (List.range 16).map fun i => Config.otp (24 + i)

/-- The BCH(511, 268) decoder of R407: a word of 511 bits to its message of 268 bits and the errors corrected; the
spec gives neither the generator polynomial nor the bit order. -/
opaque Config.bchDecode : Nat → Option (Nat × Nat)

/-- What Tamin's derivations use while Coop refuses the fleet master key (R412); the spec states no key there. -/
opaque Config.refusedKey : List Byte

/-- Boot ROM version of this part (R84). -/
opaque Config.bootRom : Nat

/-- The manifest of the module image that this part was delivered with, the public key delivered with it, and whether another key
verifies that image (R315, R325; log entry 95). -/
opaque Config.deliveredManifest : List Byte
opaque Config.deliveredKey : List Byte

/-- The KEK of the key store as this part was delivered, and the SALT of its FRAM life-cycle record (log entry 99). -/
opaque Config.deliveredKek : List Byte
opaque Config.deliveredSalt : List Byte

opaque Config.otherKeyVerifies : List Byte → Bool
def Config.deliveredVerifies (key : List Byte) : Bool := key == Config.deliveredKey || Config.otherKeyVerifies key

/-- The bytes of a FRAM slot of Basin, which R274 does not lay out, from the numbers it holds; and back (R446). -/
opaque Config.basSlotBytes : List Nat → List Byte
opaque Config.basSlotNums : List Byte → List Nat

/-- The layout of the tables in the configuration checkpoint, which R446 leaves open: from the bytes of a plain code to those of the
checkpoint, and back (log entry 100). -/
opaque Config.cfgPack : List Byte → List Byte
opaque Config.cfgUnpack : List Byte → List Byte

/-- The numbers of the two items of the checkpoint, registers and tables, which R446 leaves open. -/
opaque Config.cfgItem : Nat → Nat
def Config.regItem : Nat := Config.cfgItem 0 % 65536
def Config.tableItem : Nat := (Config.regItem + 1 + Config.cfgItem 1 % 65535) % 65536

/-- Where a register lies in its item, and the register that lies at an OFFSET: an order that R446 leaves open, as far as it tells
registers apart. -/
opaque Config.regOrder : Nat → Nat
opaque Config.regBack : Nat → Nat
def Config.regPlace (off : Nat) : Nat :=
  let k := Config.regOrder off
  if k < 2 ^ 31 ∧ Config.regBack k = off then k else 2 ^ 31 + off
def Config.regAt (k : Nat) : Nat := if k < 2 ^ 31 then Config.regBack k else k - 2 ^ 31

/-- What a tile of DRAM holds (R32): R466 places the Fold at tile 0 and the spec places no other region. A vertex, or a byte offset
in ring 0, is the first of the tile. -/
inductive TileRegion where
  | vertices (first : Nat)
  | edges
  | liveRing (ofs : Nat)
  | image
  | working
  | firmware
  deriving DecidableEq, Repr, Inhabited

/-- The region of a tile that holds no Fold entries. -/
opaque Config.tileRegion : Nat → TileRegion

/-- A configuration-space dword whose content R35 leaves to the PCI Express Base Specification. -/
opaque Config.cfgSpace : Nat → Nat

/-- Offset of a capability in configuration space: 0 power management, 1 PCI Express, 2 MSI-X, 3 AER. -/
opaque Config.capBase : Nat → Nat

end Sys2Proof
end

