-- ==== Sys2Proof/Machine/Bytes.lean ====
section
/-! DEFINITION. Byte order and fields: little-endian for host memory and frames, big-endian for Span (R3, R4). -/

namespace Sys2Proof

/-- The number a little-endian byte string spells (R3). -/
def leNat : List Byte → Nat
  | [] => 0
  | b :: r => b.toNat + 256 * leNat r

/-- The number a big-endian byte string spells (R3). -/
def beNat (l : List Byte) : Nat := l.foldl (fun a b => 256 * a + b.toNat) 0

/-- A number as `n` little-endian bytes, the excess bits dropped. -/
def leBytes : Nat → Nat → List Byte
  | 0, _ => []
  | n + 1, v => BitVec.ofNat 8 v :: leBytes n (v / 256)

/-- A number as `n` big-endian bytes. -/
def beBytes (n v : Nat) : List Byte := (leBytes n v).reverse

/-- `n` bytes from offset `o`; bytes past the end read 0. -/
def sliceB (l : List Byte) (o n : Nat) : List Byte :=
  let t := (l.drop o).take n
  t ++ List.replicate (n - t.length) 0

/-- The little-endian number of `n` bytes at offset `o`. -/
def fieldLE (l : List Byte) (o n : Nat) : Nat := leNat ((l.drop o).take n)

/-- The big-endian number of `n` bytes at offset `o`. -/
def fieldBE (l : List Byte) (o n : Nat) : Nat := beNat (sliceB l o n)

/-- Bits [hi:lo] of a number (R4). -/
def bits (v hi lo : Nat) : Nat := (v / 2 ^ lo) % 2 ^ (hi + 1 - lo)

/-- Bit `i` of a number. -/
def bit (v i : Nat) : Bool := v / 2 ^ i % 2 = 1

/-- A Bool as a bit. -/
def b2n (b : Bool) : Nat := if b then 1 else 0

/-- Bits [hi:lo] of `v` replaced by `x`. -/
def putBits (v hi lo x : Nat) : Nat :=
  v % 2 ^ lo + (x % 2 ^ (hi + 1 - lo)) * 2 ^ lo + v / 2 ^ (hi + 1) * 2 ^ (hi + 1)

/-- Two's complement value of the low `w` bits. -/
def toSigned (w v : Nat) : Int :=
  let x := v % 2 ^ w
  if 2 ^ w ≤ 2 * x then (x : Int) - (2 ^ w : Nat) else x

/-- The low `w` bits of an integer in two's complement. -/
def ofSigned (w : Nat) (v : Int) : Nat := (v % (2 ^ w : Nat)).toNat

/-- The given bytes, padded with zeros to length `n` and cut there. -/
def padTo (n : Nat) (l : List Byte) : List Byte := (l ++ List.replicate (n - l.length) 0).take n

/-- A zeroed page of `n` bytes with parts written at offsets. -/
def page (n : Nat) (parts : List (Nat × List Byte)) : List Byte :=
  parts.foldl (fun p q => (p.take q.1 ++ q.2 ++ p.drop (q.1 + q.2.length)).take n) (List.replicate n 0)

/-- First index below `n` at which `p` holds. -/
def firstIdx (n : Nat) (p : Nat → Bool) : Option Nat := (List.range n).find? p

/-- All bytes from `o` for `n` are zero; the offset of the first that is not. -/
def firstNonZero (l : List Byte) (o n : Nat) : Option Nat :=
  (List.range n).findSome? fun i => if (l.getD (o + i) 0) ≠ 0 then some (o + i) else none

/-- Counters saturate at 32 bits. -/
def satInc (w n k : Nat) : Nat := min (n + k) (2 ^ w - 1)

/-- The signed quotient rounded toward minus infinity. -/
def floorDiv (a b : Int) : Int := a.fdiv b

end Sys2Proof

/-- Insert in an ordered list before the first element that it may precede. -/
def List.insertBy {α : Type} (le : α → α → Bool) (a : α) : List α → List α
  | [] => [a]
  | b :: l => if le a b then a :: b :: l else b :: List.insertBy le a l

/-- A list put in order; elements that are equal in the order keep theirs. -/
def List.sortBy {α : Type} (l : List α) (le : α → α → Bool) : List α := l.foldr (List.insertBy le) []
end

