-- ==== Sys2Proof/Machine/RegMap.lean ====
section
/-! DEFINITION. The BAR0 registers of R524 and R528: one card per register name with its domain, its reset source,
and its fields with access code and reset value (R14, R20), and one name per field. -/

namespace Sys2Proof

/-- The access codes of R14. -/
inductive Acc where
  | rw | ro | wo | w1c | w1s | rc | rwl
  deriving DecidableEq, Repr

/-- The reset sources of R20; `fixed` for GLB_ID, whose values never change. -/
inductive RstSrc where
  | por | cold | mod | dom | perst | fixed
  deriving DecidableEq, Repr

/-- The power domains that hold registers (R482, R524). -/
inductive RegDom where
  | fab | host | net | flk | rfa | rfb | rf24 | cw | met | iox | sec
  deriving DecidableEq, Repr

/-- A field of a card: name, high and low bit, access, and reset value by register index. -/
structure CField where
  name : String
  hi : Nat
  lo : Nat
  acc : Acc
  rst : Nat → Nat

/-- A register card: base offset, stride and count of an indexed register, domain, reset source, AO backing, fields. -/
structure Card where
  name : String
  base : Nat
  stride : Nat
  count : Nat
  dom : RegDom
  src : RstSrc
  ao : Bool
  fields : List CField

/-- A field of the register at an offset. -/
structure RF where
  off : Nat
  hi : Nat
  lo : Nat
  deriving DecidableEq, Repr

/-- The cards of the GLB registers. -/
def cardsGLB : List Card := [
  ⟨"GLB_ID", 0x0, 4, 1, .fab, .fixed, false, [⟨"PART", 31, 16, .ro, fun _ => 0x2640⟩, ⟨"REV_MAJ", 15, 12, .ro, fun _ => 0xb⟩, ⟨"REV_MIN", 11, 8, .ro, fun _ => 0x0⟩, ⟨"BAND", 7, 4, .ro, fun _ => Config.bandCode⟩, ⟨"TEMP", 3, 0, .ro, fun _ => 1⟩]⟩,
  ⟨"GLB_FENCE", 0x4, 4, 1, .fab, .mod, false, [⟨"DROPPED", 7, 0, .rc, fun _ => 0⟩]⟩,
  ⟨"GLB_ERR", 0x8, 4, 1, .fab, .mod, false, [⟨"HP_LOST", 6, 6, .w1c, fun _ => 0⟩, ⟨"EQ_LOST", 5, 5, .w1c, fun _ => 0⟩, ⟨"AER_FATAL", 4, 4, .w1c, fun _ => 0⟩, ⟨"LINK_DOWN", 3, 3, .w1c, fun _ => 0⟩, ⟨"RING_FAULT", 2, 2, .w1c, fun _ => 0⟩, ⟨"BAD_ACCESS", 1, 1, .w1c, fun _ => 0⟩, ⟨"PD_ACCESS", 0, 0, .w1c, fun _ => 0⟩]⟩,
  ⟨"GLB_ERR_ADDR", 0xc, 4, 1, .fab, .mod, false, [⟨"BAR", 31, 31, .ro, fun _ => 0⟩, ⟨"WRITE", 30, 30, .ro, fun _ => 0⟩, ⟨"OFFSET", 16, 0, .ro, fun _ => 0⟩]⟩,
  ⟨"GLB_IRQ", 0x10, 4, 1, .fab, .mod, false, [⟨"VEC", 20, 16, .rw, fun _ => 31⟩, ⟨"EN", 6, 0, .rw, fun _ => 0⟩]⟩]

/-- The cards of the HIF registers. -/
def cardsHIF : List Card := [
  ⟨"HIF_CTRL", 0x1000, 4, 1, .host, .perst, false, [⟨"ENABLE", 0, 0, .rw, fun _ => 0⟩]⟩,
  ⟨"HIF_STAT", 0x1004, 4, 1, .host, .mod, false, [⟨"EPOCH", 31, 24, .ro, fun _ => 0⟩, ⟨"STATE", 19, 18, .ro, fun _ => 0⟩, ⟨"READY", 17, 17, .ro, fun _ => 0⟩, ⟨"LINK_UP", 16, 16, .ro, fun _ => 0⟩, ⟨"WIDTH", 7, 4, .ro, fun _ => 0⟩, ⟨"GEN", 3, 0, .ro, fun _ => 0⟩]⟩,
  ⟨"HIF_RCV_CTRL", 0x1008, 4, 1, .host, .mod, false, [⟨"RESUME", 0, 0, .w1s, fun _ => 0⟩]⟩,
  ⟨"HIF_RCV_CAUSE", 0x100c, 4, 1, .host, .mod, false, [⟨"FAULT_RING", 25, 24, .ro, fun _ => 0⟩, ⟨"FAULT_SQ", 23, 20, .ro, fun _ => 0⟩, ⟨"FAULT_KIND", 19, 16, .ro, fun _ => 0⟩, ⟨"D3HOT", 4, 4, .ro, fun _ => 0⟩, ⟨"RESET", 3, 3, .ro, fun _ => 0⟩, ⟨"RING_FAULT", 2, 2, .ro, fun _ => 0⟩, ⟨"AER_FATAL", 1, 1, .ro, fun _ => 0⟩, ⟨"LINK_DOWN", 0, 0, .ro, fun _ => 0⟩]⟩,
  ⟨"HIF_LOCK", 0x1010, 4, 1, .host, .mod, false, [⟨"LOCK", 0, 0, .w1s, fun _ => 0⟩]⟩,
  ⟨"HIF_SQ_BASE_LO", 0x1100, 32, 16, .host, .perst, false, [⟨"ADDR", 31, 12, .rw, fun _ => 0⟩]⟩,
  ⟨"HIF_SQ_BASE_HI", 0x1104, 32, 16, .host, .perst, false, [⟨"ADDR", 31, 0, .rw, fun _ => 0⟩]⟩,
  ⟨"HIF_SQ_CFG", 0x1108, 32, 16, .host, .perst, false, [⟨"ENABLE", 31, 31, .rw, fun _ => 0⟩, ⟨"IDLE", 30, 30, .ro, fun _ => 1⟩, ⟨"CFG_ERR", 29, 29, .ro, fun _ => 0⟩, ⟨"WEIGHT", 21, 20, .rw, fun _ => 0⟩, ⟨"CQ", 19, 16, .rw, fun n => n⟩, ⟨"NEQ", 9, 8, .rw, fun _ => 0⟩, ⟨"SIZE_LOG2", 4, 0, .rw, fun _ => 0⟩]⟩,
  ⟨"HIF_SQ_PERM", 0x110c, 32, 16, .host, .mod, false, [⟨"GROUPS", 16, 1, .rwl, fun _ => 0xffff⟩]⟩,
  ⟨"HIF_SQ_HEAD", 0x1110, 32, 16, .host, .mod, false, [⟨"INFLIGHT", 22, 16, .ro, fun _ => 0⟩, ⟨"HEAD", 15, 0, .ro, fun _ => 0⟩]⟩,
  ⟨"HIF_CQ_BASE_LO", 0x1300, 32, 16, .host, .perst, false, [⟨"ADDR", 31, 12, .rw, fun _ => 0⟩]⟩,
  ⟨"HIF_CQ_BASE_HI", 0x1304, 32, 16, .host, .perst, false, [⟨"ADDR", 31, 0, .rw, fun _ => 0⟩]⟩,
  ⟨"HIF_CQ_CFG", 0x1308, 32, 16, .host, .perst, false, [⟨"ENABLE", 31, 31, .rw, fun _ => 0⟩, ⟨"CFG_ERR", 29, 29, .ro, fun _ => 0⟩, ⟨"VEC", 28, 24, .rw, fun n => n⟩, ⟨"COAL_CNT", 23, 16, .rw, fun _ => 0⟩, ⟨"COAL_TIME", 15, 8, .rw, fun _ => 0⟩, ⟨"SIZE_LOG2", 4, 0, .rw, fun _ => 0⟩]⟩,
  ⟨"HIF_CQ_WR", 0x130c, 32, 16, .host, .perst, false, [⟨"PHASE", 16, 16, .ro, fun _ => 1⟩, ⟨"INDEX", 15, 0, .ro, fun _ => 0⟩]⟩,
  ⟨"HIF_EQ_BASE_LO", 0x1500, 32, 4, .host, .perst, false, [⟨"ADDR", 31, 12, .rw, fun _ => 0⟩]⟩,
  ⟨"HIF_EQ_BASE_HI", 0x1504, 32, 4, .host, .perst, false, [⟨"ADDR", 31, 0, .rw, fun _ => 0⟩]⟩,
  ⟨"HIF_EQ_CFG", 0x1508, 32, 4, .host, .perst, false, [⟨"ENABLE", 31, 31, .rw, fun _ => 0⟩, ⟨"CFG_ERR", 29, 29, .ro, fun _ => 0⟩, ⟨"VEC", 28, 24, .rw, fun n => 16 + n⟩, ⟨"COAL_CNT", 23, 16, .rw, fun _ => 0⟩, ⟨"COAL_TIME", 15, 8, .rw, fun _ => 0⟩, ⟨"SIZE_LOG2", 4, 0, .rw, fun _ => 0⟩]⟩,
  ⟨"HIF_EQ_WR", 0x150c, 32, 4, .host, .perst, false, [⟨"PHASE", 16, 16, .ro, fun _ => 1⟩, ⟨"INDEX", 15, 0, .ro, fun _ => 0⟩]⟩,
  ⟨"HIF_EQ_LOST", 0x1510, 32, 4, .host, .mod, false, [⟨"COUNT", 31, 0, .rc, fun _ => 0⟩]⟩]

/-- The cards of the RIL registers. -/
def cardsRIL : List Card := [
  ⟨"RIL_Q_STAT", 0x2000, 4, 64, .fab, .mod, false, [⟨"DEPTH_LOG2", 31, 28, .ro, fun _ => 0⟩, ⟨"POLICY", 27, 27, .ro, fun _ => 0⟩, ⟨"FILL", 16, 0, .ro, fun _ => 0⟩]⟩,
  ⟨"RIL_Q_LOST", 0x2100, 4, 64, .fab, .mod, false, [⟨"COUNT", 31, 0, .rc, fun _ => 0⟩]⟩,
  ⟨"RIL_HP_CFG", 0x2200, 32, 8, .fab, .mod, false, [⟨"ENABLE", 31, 31, .rw, fun _ => 0⟩, ⟨"VEC", 28, 24, .rw, fun n => 24 + n⟩, ⟨"DEPTH_LOG2", 19, 16, .rw, fun _ => 8⟩, ⟨"SRC", 15, 0, .rw, fun _ => 0⟩]⟩,
  ⟨"RIL_HP_CTRL", 0x2204, 32, 8, .fab, .mod, false, [⟨"FLUSH", 0, 0, .w1s, fun _ => 0⟩]⟩,
  ⟨"RIL_HP_STAT", 0x2208, 32, 8, .fab, .mod, false, [⟨"UNDERRUN", 31, 31, .w1c, fun _ => 0⟩, ⟨"FILL", 12, 0, .ro, fun _ => 0⟩]⟩,
  ⟨"RIL_HP_LOST", 0x220c, 32, 8, .fab, .mod, false, [⟨"COUNT", 31, 0, .rc, fun _ => 0⟩]⟩,
  ⟨"RIL_HP_DATA_LO", 0x2210, 32, 8, .fab, .mod, false, [⟨"PAYLOAD", 31, 0, .rc, fun _ => 0⟩]⟩,
  ⟨"RIL_HP_DATA_HI", 0x2214, 32, 8, .fab, .mod, false, [⟨"VALID", 31, 31, .ro, fun _ => 0⟩, ⟨"LOSTMARK", 30, 30, .ro, fun _ => 0⟩, ⟨"PAYLOAD", 23, 0, .ro, fun _ => 0⟩]⟩]

/-- The cards of the TIM registers. -/
def cardsTIM : List Card := [
  ⟨"TIM_CTRL", 0x3000, 4, 1, .net, .mod, false, [⟨"PPS_OUT_EN", 31, 31, .rw, fun _ => 0⟩, ⟨"PPS_IN_EDGE", 30, 30, .rw, fun _ => 0⟩, ⟨"PPS_WIDTH", 29, 20, .rw, fun _ => 100⟩, ⟨"PTP_PORT", 5, 4, .rw, fun _ => 0⟩, ⟨"SRC", 2, 0, .rw, fun _ => 0⟩]⟩,
  ⟨"TIM_STAT", 0x3004, 4, 1, .net, .cold, false, [⟨"QUAL", 30, 28, .ro, fun _ => 0⟩, ⟨"HOLD_AGE", 19, 0, .ro, fun _ => 0⟩]⟩,
  ⟨"TIM_ERR", 0x3008, 4, 1, .net, .mod, false, [⟨"SRC_LOST", 7, 7, .w1c, fun _ => 0⟩, ⟨"LEAP_CONFLICT", 6, 6, .w1c, fun _ => 0⟩, ⟨"ALM_PAST", 5, 5, .w1c, fun _ => 0⟩, ⟨"ALM_BUSY", 4, 4, .w1c, fun _ => 0⟩, ⟨"BAD_RULE", 3, 3, .w1c, fun _ => 0⟩, ⟨"CAL_RANGE", 2, 2, .w1c, fun _ => 0⟩, ⟨"SET_DENIED", 1, 1, .w1c, fun _ => 0⟩, ⟨"SET_BUSY", 0, 0, .w1c, fun _ => 0⟩]⟩,
  ⟨"TIM_SEC_LO", 0x3010, 4, 1, .net, .cold, false, [⟨"SEC", 31, 0, .ro, fun _ => 0⟩]⟩,
  ⟨"TIM_SEC_HI", 0x3014, 4, 1, .net, .cold, false, [⟨"SEC", 7, 0, .ro, fun _ => 0⟩]⟩,
  ⟨"TIM_FRAC", 0x3018, 4, 1, .net, .cold, false, [⟨"FRAC", 15, 0, .ro, fun _ => 0⟩]⟩,
  ⟨"TIM_SET_LO", 0x3020, 4, 1, .net, .mod, false, [⟨"SEC", 31, 0, .rw, fun _ => 0⟩]⟩,
  ⟨"TIM_SET_HI", 0x3024, 4, 1, .net, .mod, false, [⟨"FRAC", 31, 16, .rw, fun _ => 0⟩, ⟨"SEC", 7, 0, .rw, fun _ => 0⟩]⟩,
  ⟨"TIM_CAL_DATE", 0x3028, 4, 1, .net, .cold, false, [⟨"STAGED", 31, 31, .ro, fun _ => 0⟩, ⟨"WEEKDAY", 30, 28, .ro, fun _ => 0⟩, ⟨"YEAR", 27, 16, .rw, fun _ => 0⟩, ⟨"MONTH", 11, 8, .rw, fun _ => 0⟩, ⟨"DAY", 4, 0, .rw, fun _ => 0⟩]⟩,
  ⟨"TIM_CAL_TIME", 0x302c, 4, 1, .net, .cold, false, [⟨"HOUR", 20, 16, .rw, fun _ => 0⟩, ⟨"MIN", 13, 8, .rw, fun _ => 0⟩, ⟨"SEC", 5, 0, .rw, fun _ => 0⟩]⟩,
  ⟨"TIM_LOC_DATE", 0x3030, 4, 1, .net, .cold, false, [⟨"WEEKDAY", 30, 28, .ro, fun _ => 6⟩, ⟨"YEAR", 27, 16, .ro, fun _ => 2000⟩, ⟨"MONTH", 11, 8, .ro, fun _ => 1⟩, ⟨"DAY", 4, 0, .ro, fun _ => 1⟩]⟩,
  ⟨"TIM_LOC_TIME", 0x3034, 4, 1, .net, .cold, false, [⟨"DST", 31, 31, .ro, fun _ => 0⟩, ⟨"HOUR", 20, 16, .ro, fun _ => 0⟩, ⟨"MIN", 13, 8, .ro, fun _ => 0⟩, ⟨"SEC", 5, 0, .ro, fun _ => 0⟩]⟩,
  ⟨"TIM_COMMIT", 0x3038, 4, 1, .net, .mod, false, [⟨"PENDING", 31, 31, .ro, fun _ => 0⟩, ⟨"MODE", 2, 0, .wo, fun _ => 0⟩]⟩,
  ⟨"TIM_UTC_OFS", 0x3040, 4, 1, .net, .por, true, [⟨"DST_SHIFT", 23, 16, .rw, fun _ => 0⟩, ⟨"OFS_MIN", 15, 0, .rw, fun _ => 0⟩]⟩,
  ⟨"TIM_DST_START", 0x3044, 4, 1, .net, .por, true, [⟨"EN", 31, 31, .rw, fun _ => 0⟩, ⟨"HOUR", 20, 16, .rw, fun _ => 0⟩, ⟨"WEEKDAY", 10, 8, .rw, fun _ => 0⟩, ⟨"WEEK", 6, 4, .rw, fun _ => 1⟩, ⟨"MONTH", 3, 0, .rw, fun _ => 1⟩]⟩,
  ⟨"TIM_DST_END", 0x3048, 4, 1, .net, .por, true, [⟨"EN", 31, 31, .rw, fun _ => 0⟩, ⟨"HOUR", 20, 16, .rw, fun _ => 0⟩, ⟨"WEEKDAY", 10, 8, .rw, fun _ => 0⟩, ⟨"WEEK", 6, 4, .rw, fun _ => 1⟩, ⟨"MONTH", 3, 0, .rw, fun _ => 1⟩]⟩,
  ⟨"TIM_LEAP", 0x304c, 4, 1, .net, .por, true, [⟨"INSERT", 31, 31, .rw, fun _ => 0⟩, ⟨"DELETE", 30, 30, .rw, fun _ => 0⟩, ⟨"ACTIVE", 29, 29, .ro, fun _ => 0⟩, ⟨"DAY", 16, 0, .rw, fun _ => 0⟩]⟩,
  ⟨"TIM_SERVO", 0x3050, 4, 1, .net, .mod, false, [⟨"STEP_THR", 15, 0, .rw, fun _ => 6554⟩]⟩,
  ⟨"TIM_ALM_LO", 0x3100, 16, 8, .net, .mod, false, [⟨"SEC", 31, 0, .rw, fun _ => 0⟩]⟩,
  ⟨"TIM_ALM_HI", 0x3104, 16, 8, .net, .mod, false, [⟨"FRAC", 31, 16, .rw, fun _ => 0⟩, ⟨"SEC", 7, 0, .rw, fun _ => 0⟩]⟩,
  ⟨"TIM_ALM_CTRL", 0x3108, 16, 8, .net, .mod, false, [⟨"PAST", 3, 3, .ro, fun _ => 0⟩, ⟨"STEPPED", 2, 2, .ro, fun _ => 0⟩, ⟨"FIRED", 1, 1, .w1c, fun _ => 0⟩, ⟨"ARMED", 0, 0, .rw, fun _ => 0⟩]⟩,
  ⟨"TIM_WAKE_PERIOD", 0x3200, 8, 4, .net, .mod, false, [⟨"PERIOD", 27, 0, .rw, fun _ => 1024⟩]⟩,
  ⟨"TIM_WAKE_CTRL", 0x3204, 8, 4, .net, .mod, false, [⟨"EN", 31, 31, .rw, fun _ => 0⟩, ⟨"COUNT", 15, 0, .ro, fun _ => 0⟩]⟩]

/-- The cards of the RAD registers. -/
def cardsRAD : List Card := [
  ⟨"RAD_CTRL", 0x4000, 4, 1, .flk, .mod, false, [⟨"LOCK", 31, 31, .w1s, fun _ => 0⟩, ⟨"KEEP_RX", 8, 8, .rw, fun _ => 0⟩, ⟨"DIV", 7, 6, .rw, fun _ => 0⟩, ⟨"QUIET", 5, 5, .ro, fun _ => 0⟩, ⟨"RF24_EN", 4, 4, .rw, fun _ => 0⟩, ⟨"TXB_EN", 3, 3, .rw, fun _ => 0⟩, ⟨"TXA_EN", 2, 2, .rw, fun _ => 0⟩, ⟨"RX_EN", 0, 0, .rw, fun _ => 0⟩]⟩,
  ⟨"RAD_STAT", 0x4004, 4, 1, .flk, .mod, false, [⟨"PROFILE", 31, 30, .ro, fun _ => 3⟩, ⟨"CUSTOM_VALID", 29, 29, .ro, fun _ => 0⟩, ⟨"BUSY", 22, 16, .ro, fun _ => 0⟩, ⟨"DEMODS", 14, 8, .ro, fun _ => 64⟩, ⟨"TXB_ON", 4, 4, .ro, fun _ => 0⟩, ⟨"TXA_ON", 3, 3, .ro, fun _ => 0⟩, ⟨"SPARES", 2, 0, .ro, fun _ => 4⟩]⟩,
  ⟨"RAD_WIN", 0x4008, 4, 1, .flk, .mod, false, [⟨"CH0_KHZ", 19, 0, .rwl, fun _ => Config.ch0Reset⟩]⟩,
  ⟨"RAD_RXMASK", 0x4010, 4, 3, .flk, .mod, false, [⟨"MASK", 31, 0, .rw, fun n => if n = 2 then 0xFFFF else 0xFFFFFFFF⟩]⟩,
  ⟨"RAD_QMASK", 0x4020, 4, 3, .flk, .mod, false, [⟨"MASK", 31, 0, .rw, fun n => if n = 2 then 0x5555 else 0x55555555⟩]⟩,
  ⟨"RAD_TXMASK", 0x4030, 4, 3, .flk, .mod, false, [⟨"MASK", 31, 0, .rw, fun n => if n = 2 then 0xFFFF else 0xFFFFFFFF⟩]⟩,
  ⟨"RAD_PAIR", 0x4040, 4, 2, .flk, .mod, false, [⟨"PAIR", 31, 0, .rw, fun _ => 0⟩]⟩,
  ⟨"RAD_PRIO", 0x4050, 4, 5, .flk, .mod, false, [⟨"PRIO", 31, 0, .rw, fun _ => 0x55555555⟩]⟩,
  ⟨"RAD_DET", 0x4064, 4, 1, .flk, .mod, false, [⟨"TX_PRE", 20, 16, .rw, fun _ => 8⟩, ⟨"MIN_PRE", 11, 8, .rw, fun _ => 3⟩, ⟨"THR", 3, 0, .rw, fun _ => 9⟩]⟩,
  ⟨"RAD_TXA_PWR", 0x4070, 4, 1, .rfa, .mod, false, [⟨"MAX", 7, 0, .rwl, fun _ => 108⟩]⟩,
  ⟨"RAD_TXB_PWR", 0x4074, 4, 1, .rfb, .mod, false, [⟨"MAX", 7, 0, .rwl, fun _ => 108⟩]⟩,
  ⟨"RAD_RF24", 0x4078, 4, 1, .rf24, .mod, false, [⟨"CHANNEL", 12, 8, .ro, fun _ => 15⟩, ⟨"PWR_MAX", 7, 0, .rwl, fun _ => 20⟩]⟩,
  ⟨"RAD_ERR", 0x4080, 4, 1, .flk, .mod, false, [⟨"NO_PROFILE", 7, 7, .w1c, fun _ => 0⟩, ⟨"TX_OVERLAP", 6, 6, .w1c, fun _ => 0⟩, ⟨"HOP_SHORT", 5, 5, .w1c, fun _ => 0⟩, ⟨"DWELL", 4, 4, .w1c, fun _ => 0⟩, ⟨"DUTY", 3, 3, .w1c, fun _ => 0⟩, ⟨"OVERLOAD", 2, 2, .w1c, fun _ => 0⟩, ⟨"CFG_RANGE", 1, 1, .w1c, fun _ => 0⟩, ⟨"CFG_BUSY", 0, 0, .w1c, fun _ => 0⟩]⟩,
  ⟨"RAD_IRQ", 0x4084, 4, 1, .flk, .mod, false, [⟨"VEC", 20, 16, .rw, fun _ => 31⟩, ⟨"EN", 7, 0, .rw, fun _ => 0⟩]⟩,
  ⟨"RAD_OCC", 0x4088, 4, 1, .flk, .mod, false, [⟨"PEAK", 22, 16, .ro, fun _ => 0⟩, ⟨"AVG", 9, 0, .ro, fun _ => 0⟩]⟩,
  ⟨"RAD_CNT", 0x4100, 4, 8, .flk, .mod, false, [⟨"COUNT", 31, 0, .rc, fun _ => 0⟩]⟩,
  ⟨"RAD_SUB", 0x4200, 4, 16, .flk, .mod, false, [⟨"AT_LIMIT", 31, 31, .ro, fun _ => 0⟩, ⟨"USED", 21, 0, .ro, fun _ => 0⟩]⟩]

/-- The cards of the MAC registers. -/
def cardsMAC : List Card := [
  ⟨"MAC_CTRL", 0x6000, 4, 1, .fab, .mod, false, [⟨"LOCK", 31, 31, .w1s, fun _ => 0⟩, ⟨"JOIN_ANY", 5, 5, .rw, fun _ => 0⟩, ⟨"JOIN_EN", 4, 4, .rw, fun _ => 0⟩, ⟨"ROOSTER_EN", 3, 3, .rw, fun _ => 0⟩, ⟨"T3_EN", 2, 2, .rw, fun _ => 0⟩, ⟨"T2_EN", 1, 1, .rw, fun _ => 0⟩, ⟨"T1_EN", 0, 0, .rw, fun _ => 0⟩]⟩,
  ⟨"MAC_STAT", 0x6004, 4, 1, .fab, .mod, false, [⟨"ENTRIES", 18, 0, .ro, fun _ => 0⟩]⟩,
  ⟨"MAC_SEG_EUI_LO", 0x6008, 4, 1, .fab, .mod, false, [⟨"EUI", 31, 0, .rwl, fun _ => 0⟩]⟩,
  ⟨"MAC_SEG_EUI_HI", 0x600c, 4, 1, .fab, .mod, false, [⟨"EUI", 31, 0, .rwl, fun _ => 0⟩]⟩,
  ⟨"MAC_KEY_CFG", 0x6010, 4, 1, .fab, .mod, false, [⟨"BK_EPOCH", 31, 16, .ro, fun _ => 0⟩, ⟨"MASTER_SLOT", 5, 0, .rwl, fun _ => 0⟩]⟩,
  ⟨"MAC_BCNT", 0x6014, 4, 1, .fab, .mod, false, [⟨"COUNT", 31, 0, .ro, fun _ => 0⟩]⟩,
  ⟨"MAC_GRID", 0x6018, 4, 1, .fab, .mod, false, [⟨"MAP_VER", 31, 16, .ro, fun _ => 0⟩, ⟨"GRID_EPOCH", 15, 0, .ro, fun _ => 0⟩]⟩,
  ⟨"MAC_TIMING", 0x601c, 4, 1, .fab, .mod, false, [⟨"ACK_MAX", 31, 24, .rw, fun _ => 20⟩, ⟨"JOIN_DELAY", 23, 16, .rw, fun _ => 2⟩, ⟨"TCORR_THR", 7, 0, .rw, fun _ => 80⟩]⟩,
  ⟨"MAC_ROOSTER_CH", 0x6020, 4, 2, .fab, .mod, false, [⟨"CH", 31, 0, .rw, fun n => 0x1B1A1918 + 0x04040404 * n⟩]⟩,
  ⟨"MAC_T1", 0x6028, 4, 1, .fab, .mod, false, [⟨"CHANNEL", 4, 0, .rw, fun _ => 15⟩]⟩,
  ⟨"MAC_CKPT", 0x602c, 4, 1, .fab, .mod, false, [⟨"BUSY", 31, 31, .ro, fun _ => 0⟩, ⟨"PERIOD", 15, 0, .rw, fun _ => 1800⟩]⟩,
  ⟨"MAC_ERR", 0x6030, 4, 1, .fab, .mod, false, [⟨"KEY_EXHAUSTED", 4, 4, .w1c, fun _ => 0⟩, ⟨"BCAST_REKEY", 3, 3, .w1c, fun _ => 0⟩, ⟨"FOLD_FULL", 2, 2, .w1c, fun _ => 0⟩, ⟨"JOIN_DENIED", 1, 1, .w1c, fun _ => 0⟩, ⟨"CFG", 0, 0, .w1c, fun _ => 0⟩]⟩,
  ⟨"MAC_IRQ", 0x6034, 4, 1, .fab, .mod, false, [⟨"VEC", 20, 16, .rw, fun _ => 31⟩, ⟨"EN", 4, 0, .rw, fun _ => 0⟩]⟩,
  ⟨"MAC_CNT", 0x6100, 4, 16, .fab, .mod, false, [⟨"COUNT", 31, 0, .rc, fun _ => 0⟩]⟩]

/-- The cards of the STR registers. -/
def cardsSTR : List Card := [
  ⟨"STR_CTRL", 0x7000, 4, 1, .fab, .mod, false, [⟨"LOCK", 31, 31, .w1s, fun _ => 0⟩, ⟨"COMPOSE_EN", 0, 0, .rw, fun _ => 0⟩]⟩,
  ⟨"STR_STAT", 0x7004, 4, 1, .fab, .mod, false, [⟨"COMMITS", 30, 20, .ro, fun _ => 0⟩, ⟨"QUEUED", 18, 0, .ro, fun _ => 0⟩]⟩,
  ⟨"STR_POS_LAT", 0x7008, 4, 1, .fab, .mod, false, [⟨"DEG", 31, 0, .rwl, fun _ => 0⟩]⟩,
  ⟨"STR_POS_LON", 0x700c, 4, 1, .fab, .mod, false, [⟨"DEG", 31, 0, .rwl, fun _ => 0⟩]⟩,
  ⟨"STR_COMMIT", 0x7010, 4, 1, .fab, .mod, false, [⟨"LATE_WIN", 31, 24, .rw, fun _ => 60⟩, ⟨"REPEATS", 23, 20, .rw, fun _ => 3⟩, ⟨"LEAD", 15, 0, .rw, fun _ => 30⟩]⟩,
  ⟨"STR_PLAN", 0x7014, 4, 1, .fab, .mod, false, [⟨"LV_CHAINS", 1, 0, .rw, fun _ => 2⟩]⟩,
  ⟨"STR_DAY", 0x7018, 4, 1, .fab, .mod, false, [⟨"EXCEPTION", 8, 8, .ro, fun _ => 0⟩, ⟨"CLASS", 2, 0, .ro, fun _ => 0⟩]⟩,
  ⟨"STR_ERR", 0x7020, 4, 1, .fab, .mod, false, [⟨"MISSED", 4, 4, .w1c, fun _ => 0⟩, ⟨"AMB_FALLBACK", 3, 3, .w1c, fun _ => 0⟩, ⟨"POLAR", 2, 2, .w1c, fun _ => 0⟩, ⟨"FLOOR_OVER", 1, 1, .w1c, fun _ => 0⟩, ⟨"CFG", 0, 0, .w1c, fun _ => 0⟩]⟩,
  ⟨"STR_IRQ", 0x7024, 4, 1, .fab, .mod, false, [⟨"VEC", 20, 16, .rw, fun _ => 31⟩, ⟨"EN", 4, 0, .rw, fun _ => 0⟩]⟩,
  ⟨"STR_CNT", 0x7100, 4, 8, .fab, .mod, false, [⟨"COUNT", 31, 0, .rc, fun _ => 0⟩]⟩]

/-- The cards of the CAS registers. -/
def cardsCAS : List Card := [
  ⟨"CAS_CTRL", 0x8000, 4, 1, .cw, .mod, false, [⟨"LOCK", 31, 31, .w1s, fun _ => 0⟩, ⟨"BORDER_EN", 2, 2, .rw, fun _ => 0⟩, ⟨"EN", 0, 0, .rw, fun _ => 0⟩]⟩,
  ⟨"CAS_STAT", 0x8004, 4, 1, .cw, .mod, false, [⟨"GEN", 31, 16, .ro, fun _ => 0⟩, ⟨"ACT_PEND", 15, 15, .ro, fun _ => 0⟩, ⟨"LANES", 11, 8, .ro, fun _ => 8⟩, ⟨"SPARE", 0, 0, .ro, fun _ => 1⟩]⟩,
  ⟨"CAS_CFG", 0x8008, 4, 1, .cw, .mod, false, [⟨"MIN_DEMAND", 31, 16, .rwl, fun _ => 512⟩, ⟨"REACH", 11, 0, .rwl, fun _ => 120⟩]⟩,
  ⟨"CAS_CLASS", 0x8010, 4, 3, .cw, .mod, false, [⟨"GAIN", 24, 16, .rwl, fun _ => 256⟩, ⟨"HORIZON", 11, 0, .rwl, fun _ => 160⟩]⟩,
  ⟨"CAS_PEND", 0x8020, 4, 1, .cw, .mod, false, [⟨"ITEMS", 16, 0, .ro, fun _ => 0⟩]⟩,
  ⟨"CAS_PEAK", 0x8024, 4, 1, .cw, .mod, false, [⟨"PEAK", 16, 0, .rc, fun _ => 0⟩]⟩,
  ⟨"CAS_GRAPH_ERR", 0x8028, 4, 1, .cw, .mod, false, [⟨"REASON", 31, 28, .ro, fun _ => 0⟩, ⟨"KIND", 27, 26, .ro, fun _ => 0⟩, ⟨"INDEX", 19, 0, .ro, fun _ => 0⟩]⟩,
  ⟨"CAS_ERR", 0x8030, 4, 1, .cw, .mod, false, [⟨"LANE_SHORT", 7, 7, .w1c, fun _ => 0⟩, ⟨"BORDER_REJECT", 6, 6, .w1c, fun _ => 0⟩, ⟨"BORDER_LATE", 5, 5, .w1c, fun _ => 0⟩, ⟨"OVERRUN", 4, 4, .w1c, fun _ => 0⟩, ⟨"ITEMS_LOST", 3, 3, .w1c, fun _ => 0⟩, ⟨"INTAKE_LOST", 2, 2, .w1c, fun _ => 0⟩, ⟨"BAD_EVENT", 1, 1, .w1c, fun _ => 0⟩, ⟨"CFG", 0, 0, .w1c, fun _ => 0⟩]⟩,
  ⟨"CAS_IRQ", 0x8034, 4, 1, .cw, .mod, false, [⟨"VEC", 20, 16, .rw, fun _ => 31⟩, ⟨"EN", 7, 0, .rw, fun _ => 0⟩]⟩,
  ⟨"CAS_CNT", 0x8100, 4, 11, .cw, .mod, false, [⟨"COUNT", 31, 0, .rc, fun _ => 0⟩]⟩]

/-- The cards of the WEI registers. -/
def cardsWEI : List Card := [
  ⟨"WEI_CTRL", 0x9000, 4, 1, .cw, .mod, false, [⟨"LOCK", 31, 31, .w1s, fun _ => 0⟩, ⟨"FAST_EN", 1, 1, .rw, fun _ => 0⟩, ⟨"SLOW_EN", 0, 0, .rw, fun _ => 0⟩]⟩,
  ⟨"WEI_STAT", 0x9004, 4, 1, .cw, .mod, false, [⟨"CAP_STATE", 31, 30, .ro, fun _ => 0⟩, ⟨"INJ", 29, 29, .ro, fun _ => 0⟩, ⟨"INJ_LOOP", 28, 16, .ro, fun _ => 0⟩, ⟨"LANES", 11, 8, .ro, fun _ => 8⟩, ⟨"SPARE", 0, 0, .ro, fun _ => 1⟩]⟩,
  ⟨"WEI_CFG", 0x9008, 4, 1, .cw, .mod, false, [⟨"AMB_STALE", 31, 16, .rwl, fun _ => 300⟩, ⟨"SPAN_STALE", 7, 0, .rwl, fun _ => 10⟩]⟩,
  ⟨"WEI_COUNT", 0x900c, 4, 1, .cw, .mod, false, [⟨"FAST", 20, 16, .ro, fun _ => 0⟩, ⟨"SLOW", 12, 0, .ro, fun _ => 0⟩]⟩,
  ⟨"WEI_CAP_WRITTEN", 0x9010, 4, 1, .cw, .mod, false, [⟨"SAMPLES", 16, 0, .ro, fun _ => 0⟩]⟩,
  ⟨"WEI_ERR", 0x9020, 4, 1, .cw, .mod, false, [⟨"HELD", 4, 4, .w1c, fun _ => 0⟩, ⟨"LANE_SHORT", 3, 3, .w1c, fun _ => 0⟩, ⟨"OVERRUN", 2, 2, .w1c, fun _ => 0⟩, ⟨"NONFINITE", 1, 1, .w1c, fun _ => 0⟩, ⟨"CFG", 0, 0, .w1c, fun _ => 0⟩]⟩,
  ⟨"WEI_IRQ", 0x9024, 4, 1, .cw, .mod, false, [⟨"VEC", 20, 16, .rw, fun _ => 31⟩, ⟨"EN", 4, 0, .rw, fun _ => 0⟩]⟩,
  ⟨"WEI_FAST_OUT", 0x9100, 4, 16, .cw, .mod, false, [⟨"Y", 31, 0, .ro, fun _ => 0⟩]⟩,
  ⟨"WEI_CNT", 0x9200, 4, 7, .cw, .mod, false, [⟨"COUNT", 31, 0, .rc, fun _ => 0⟩]⟩]

/-- The cards of the BAS registers. -/
def cardsBAS0 : List Card := [
  ⟨"BAS_CTRL", 0xa000, 4, 1, .met, .mod, false, [⟨"LOCK", 31, 31, .w1s, fun _ => 0⟩, ⟨"F_NOM", 1, 1, .rwl, fun _ => 0⟩, ⟨"EN", 0, 0, .rw, fun _ => 0⟩]⟩,
  ⟨"BAS_STAT", 0xa004, 4, 1, .met, .mod, false, [⟨"RECON_BUSY", 4, 4, .ro, fun _ => 0⟩, ⟨"RESTORE", 1, 0, .ro, fun _ => 3⟩]⟩,
  ⟨"BAS_CLK", 0xa008, 4, 1, .met, .mod, false, [⟨"EN", 3, 0, .rwl, fun _ => 0⟩]⟩,
  ⟨"BAS_INTERVAL", 0xa00c, 4, 1, .met, .mod, false, [⟨"RECON_DELAY", 31, 20, .rw, fun _ => 360⟩, ⟨"MAX_GAP", 19, 8, .rw, fun _ => 900⟩, ⟨"LEN", 1, 0, .rwl, fun _ => 2⟩]⟩,
  ⟨"BAS_TEMP_CFG", 0xa010, 4, 1, .met, .mod, false, [⟨"SRC", 31, 30, .rwl, fun _ => 0⟩, ⟨"INDEX", 29, 24, .rwl, fun _ => 0⟩, ⟨"T_FIXED", 15, 0, .rwl, fun _ => 2500⟩]⟩,
  ⟨"BAS_TEMP_SCALE", 0xa014, 4, 1, .met, .mod, false, [⟨"VALUE", 31, 0, .rwl, fun _ => 0⟩]⟩,
  ⟨"BAS_TEMP_OFS", 0xa018, 4, 1, .met, .mod, false, [⟨"VALUE", 31, 0, .rwl, fun _ => 0⟩]⟩,
  ⟨"BAS_TEMP_NOW", 0xa01c, 4, 1, .met, .mod, false, [⟨"FALLBACK", 16, 16, .ro, fun _ => 0⟩, ⟨"T", 15, 0, .ro, fun _ => 0⟩]⟩,
  ⟨"BAS_ERR", 0xa020, 4, 1, .met, .mod, false, [⟨"FREQ_INVALID", 9, 9, .w1c, fun _ => 0⟩, ⟨"ACC_LOST", 8, 8, .w1c, fun _ => 0⟩, ⟨"ACC_FALLBACK", 7, 7, .w1c, fun _ => 0⟩, ⟨"FEEDER_DEAD", 6, 6, .w1c, fun _ => 0⟩, ⟨"RC_ALARM", 5, 5, .w1c, fun _ => 0⟩, ⟨"TEMP_SRC", 4, 4, .w1c, fun _ => 0⟩, ⟨"DELAY_CLAMP", 3, 3, .w1c, fun _ => 0⟩, ⟨"CH_OVR", 2, 2, .w1c, fun _ => 0⟩, ⟨"CH_FAULT", 1, 1, .w1c, fun _ => 0⟩, ⟨"CFG", 0, 0, .w1c, fun _ => 0⟩]⟩,
  ⟨"BAS_IRQ", 0xa024, 4, 1, .met, .mod, false, [⟨"VEC", 20, 16, .rw, fun _ => 31⟩, ⟨"EN", 9, 0, .rw, fun _ => 0⟩]⟩,
  ⟨"BAS_CH_CFG", 0xa100, 8, 42, .met, .mod, false, [⟨"EN", 31, 31, .rwl, fun _ => 0⟩, ⟨"EDGE", 30, 30, .rwl, fun _ => 0⟩, ⟨"CLK_SEL", 29, 28, .rwl, fun n => n / 7 % 4⟩, ⟨"FAULT", 27, 27, .ro, fun _ => 0⟩, ⟨"OVR", 26, 26, .w1c, fun _ => 0⟩, ⟨"DELAY", 9, 0, .rwl, fun _ => 0⟩]⟩,
  ⟨"BAS_CH_SCALE", 0xa104, 8, 42, .met, .mod, false, [⟨"SCALE", 31, 0, .rwl, fun _ => 0⟩]⟩,
  ⟨"BAS_FDR_CFG", 0xa300, 32, 6, .met, .mod, false, [⟨"EN", 31, 31, .rwl, fun _ => 0⟩, ⟨"PHASES", 30, 28, .rwl, fun _ => 7⟩, ⟨"NCYC", 27, 24, .rwl, fun _ => 10⟩, ⟨"RC_CYCLES", 23, 16, .rw, fun _ => 2⟩, ⟨"DEAD_V", 15, 0, .rw, fun _ => 400⟩]⟩,
  ⟨"BAS_FDR_RC", 0xa304, 32, 6, .met, .mod, false, [⟨"RC_THR", 15, 0, .rw, fun _ => 300⟩]⟩,
  ⟨"BAS_FDR_OTHER", 0xa308, 32, 6, .met, .mod, false, [⟨"OTHER_MW", 31, 0, .rw, fun _ => 0⟩]⟩,
  ⟨"BAS_FDR_STAT", 0xa310, 32, 6, .met, .mod, false, [⟨"DEAD", 31, 31, .ro, fun _ => 0⟩, ⟨"RC_ALARM", 30, 30, .ro, fun _ => 0⟩, ⟨"RC_SEEN", 29, 29, .w1c, fun _ => 0⟩, ⟨"FREQ_VALID", 28, 28, .ro, fun _ => 0⟩, ⟨"FREQ", 19, 0, .ro, fun _ => 0⟩]⟩,
  ⟨"BAS_E", 0xa400, 4, 6, .met, .mod, false, [⟨"WH", 31, 0, .ro, fun _ => 0⟩]⟩,
  ⟨"BAS_E", 0xa420, 4, 6, .met, .mod, false, [⟨"WH", 31, 0, .ro, fun _ => 0⟩]⟩,
  ⟨"BAS_E", 0xa440, 4, 6, .met, .mod, false, [⟨"WH", 31, 0, .ro, fun _ => 0⟩]⟩,
  ⟨"BAS_E", 0xa460, 4, 6, .met, .mod, false, [⟨"WH", 31, 0, .ro, fun _ => 0⟩]⟩,
  ⟨"BAS_E", 0xa480, 4, 6, .met, .mod, false, [⟨"WH", 31, 0, .ro, fun _ => 0⟩]⟩,
  ⟨"BAS_E", 0xa4a0, 4, 6, .met, .mod, false, [⟨"WH", 31, 0, .ro, fun _ => 0⟩]⟩,
  ⟨"BAS_E", 0xa4c0, 4, 6, .met, .mod, false, [⟨"WH", 31, 0, .ro, fun _ => 0⟩]⟩,
  ⟨"BAS_E", 0xa4e0, 4, 6, .met, .mod, false, [⟨"WH", 31, 0, .ro, fun _ => 0⟩]⟩]

/-- The cards of the BAS registers. -/
def cardsBAS1 : List Card := [
  ⟨"BAS_E", 0xa500, 4, 6, .met, .mod, false, [⟨"WH", 31, 0, .ro, fun _ => 0⟩]⟩,
  ⟨"BAS_E", 0xa520, 4, 6, .met, .mod, false, [⟨"WH", 31, 0, .ro, fun _ => 0⟩]⟩,
  ⟨"BAS_E", 0xa540, 4, 6, .met, .mod, false, [⟨"WH", 31, 0, .ro, fun _ => 0⟩]⟩,
  ⟨"BAS_E", 0xa560, 4, 6, .met, .mod, false, [⟨"WH", 31, 0, .ro, fun _ => 0⟩]⟩,
  ⟨"BAS_E", 0xa580, 4, 6, .met, .mod, false, [⟨"WH", 31, 0, .ro, fun _ => 0⟩]⟩,
  ⟨"BAS_E", 0xa5a0, 4, 6, .met, .mod, false, [⟨"WH", 31, 0, .ro, fun _ => 0⟩]⟩,
  ⟨"BAS_E", 0xa5c0, 4, 6, .met, .mod, false, [⟨"WH", 31, 0, .ro, fun _ => 0⟩]⟩,
  ⟨"BAS_E", 0xa5e0, 4, 6, .met, .mod, false, [⟨"WH", 31, 0, .ro, fun _ => 0⟩]⟩,
  ⟨"BAS_E", 0xa600, 4, 6, .met, .mod, false, [⟨"WH", 31, 0, .ro, fun _ => 0⟩]⟩,
  ⟨"BAS_E", 0xa620, 4, 6, .met, .mod, false, [⟨"WH", 31, 0, .ro, fun _ => 0⟩]⟩,
  ⟨"BAS_E", 0xa640, 4, 6, .met, .mod, false, [⟨"WH", 31, 0, .ro, fun _ => 0⟩]⟩,
  ⟨"BAS_E", 0xa660, 4, 6, .met, .mod, false, [⟨"WH", 31, 0, .ro, fun _ => 0⟩]⟩,
  ⟨"BAS_E", 0xa680, 4, 6, .met, .mod, false, [⟨"WH", 31, 0, .ro, fun _ => 0⟩]⟩,
  ⟨"BAS_E", 0xa6a0, 4, 6, .met, .mod, false, [⟨"WH", 31, 0, .ro, fun _ => 0⟩]⟩,
  ⟨"BAS_E", 0xa6c0, 4, 6, .met, .mod, false, [⟨"WH", 31, 0, .ro, fun _ => 0⟩]⟩,
  ⟨"BAS_E", 0xa6e0, 4, 6, .met, .mod, false, [⟨"WH", 31, 0, .ro, fun _ => 0⟩]⟩,
  ⟨"BAS_CNT", 0xa800, 4, 8, .met, .mod, false, [⟨"COUNT", 31, 0, .rc, fun _ => 0⟩]⟩]

/-- The cards of the CIS registers. -/
def cardsCIS : List Card := [
  ⟨"CIS_CTRL", 0xb000, 4, 1, .fab, .mod, false, [⟨"LOCK", 31, 31, .w1s, fun _ => 0⟩, ⟨"CLEAR_SLOT", 13, 8, .rwl, fun _ => 0⟩, ⟨"FAULT_EVT", 0, 0, .rw, fun _ => 1⟩]⟩,
  ⟨"CIS_EPOCH", 0xb004, 4, 1, .fab, .mod, false, [⟨"EPOCH", 7, 0, .ro, fun _ => 0⟩]⟩,
  ⟨"CIS_DIAG_MASK", 0xb008, 4, 1, .fab, .mod, false, [⟨"GROUPS", 16, 0, .rw, fun _ => 0⟩]⟩,
  ⟨"CIS_STORM", 0xb00c, 4, 1, .fab, .mod, false, [⟨"BURST", 31, 16, .rwl, fun _ => 256⟩, ⟨"RATE", 15, 0, .rwl, fun _ => 64⟩]⟩,
  ⟨"CIS_FOLD", 0xb010, 4, 1, .fab, .mod, false, [⟨"GRACE", 31, 16, .rwl, fun _ => 120⟩, ⟨"HOLD", 3, 0, .rwl, fun _ => 2⟩]⟩,
  ⟨"CIS_ERR", 0xb020, 4, 1, .fab, .mod, false, [⟨"INTEGRITY", 6, 6, .w1c, fun _ => 0⟩, ⟨"AUDIT_WRAP", 5, 5, .w1c, fun _ => 0⟩, ⟨"SNAP_INVALID", 4, 4, .w1c, fun _ => 0⟩, ⟨"AUDIT_DROP", 3, 3, .w1c, fun _ => 0⟩, ⟨"ARCH_LOST", 2, 2, .w1c, fun _ => 0⟩, ⟨"STORM", 1, 1, .w1c, fun _ => 0⟩, ⟨"CFG", 0, 0, .w1c, fun _ => 0⟩]⟩,
  ⟨"CIS_IRQ", 0xb024, 4, 1, .fab, .mod, false, [⟨"VEC", 20, 16, .rw, fun _ => 31⟩, ⟨"EN", 6, 0, .rw, fun _ => 0⟩]⟩,
  ⟨"CIS_LIVE_FIRST", 0xb030, 4, 1, .fab, .mod, false, [⟨"OFS", 23, 0, .ro, fun _ => 0⟩]⟩,
  ⟨"CIS_LIVE_HEAD", 0xb034, 4, 1, .fab, .mod, false, [⟨"OFS", 23, 0, .ro, fun _ => 0⟩]⟩,
  ⟨"CIS_LIVE_FSEQ_LO", 0xb038, 4, 1, .fab, .mod, false, [⟨"SEQ", 31, 0, .ro, fun _ => 0⟩]⟩,
  ⟨"CIS_LIVE_NSEQ_LO", 0xb040, 4, 1, .fab, .mod, false, [⟨"SEQ", 31, 0, .ro, fun _ => 0⟩]⟩,
  ⟨"CIS_LIVE_FSEQ_HI", 0xb03c, 4, 1, .fab, .mod, false, [⟨"SEQ", 15, 0, .ro, fun _ => 0⟩]⟩,
  ⟨"CIS_LIVE_NSEQ_HI", 0xb044, 4, 1, .fab, .mod, false, [⟨"SEQ", 15, 0, .ro, fun _ => 0⟩]⟩,
  ⟨"CIS_CURSOR", 0xb048, 4, 1, .fab, .mod, false, [⟨"OFS", 23, 0, .rw, fun _ => 0⟩]⟩,
  ⟨"CIS_AUD_OSEQ_LO", 0xb050, 4, 1, .fab, .mod, false, [⟨"SEQ", 31, 0, .ro, fun _ => 0⟩]⟩,
  ⟨"CIS_AUD_OSEQ_HI", 0xb054, 4, 1, .fab, .mod, false, [⟨"SEQ", 15, 0, .ro, fun _ => 0⟩]⟩,
  ⟨"CIS_AUD_NSEQ_LO", 0xb058, 4, 1, .fab, .mod, false, [⟨"SEQ", 31, 0, .ro, fun _ => 0⟩]⟩,
  ⟨"CIS_AUD_NSEQ_HI", 0xb05c, 4, 1, .fab, .mod, false, [⟨"SEQ", 15, 0, .ro, fun _ => 0⟩]⟩,
  ⟨"CIS_SNAP", 0xb080, 4, 4, .fab, .mod, false, [⟨"PINNED", 31, 31, .ro, fun _ => 0⟩, ⟨"INVALID", 30, 30, .ro, fun _ => 0⟩, ⟨"CLASSES", 3, 2, .ro, fun _ => 0⟩]⟩,
  ⟨"CIS_WIN", 0xb400, 4, 128, .fab, .mod, false, [⟨"DATA", 31, 0, .ro, fun _ => 0⟩]⟩,
  ⟨"CIS_CNT", 0xb100, 4, 8, .fab, .mod, false, [⟨"COUNT", 31, 0, .rc, fun _ => 0⟩]⟩]

/-- The cards of the UPD registers. -/
def cardsUPD : List Card := [
  ⟨"UPD_CTRL", 0xc000, 4, 1, .fab, .mod, false, [⟨"LOCK", 31, 31, .w1s, fun _ => 0⟩, ⟨"HOST_CONFIRM", 1, 1, .rwl, fun _ => 0⟩, ⟨"SPAN_IN", 0, 0, .rw, fun _ => 0⟩]⟩,
  ⟨"UPD_STAT", 0xc004, 4, 1, .fab, .mod, false, [⟨"RUN_SLOT", 31, 31, .ro, fun _ => 0⟩, ⟨"TRIAL", 30, 30, .ro, fun _ => 0⟩, ⟨"RESCUE", 29, 29, .ro, fun _ => 0⟩, ⟨"VERIFYING", 28, 28, .ro, fun _ => 0⟩, ⟨"TRIAL_LEFT", 15, 0, .ro, fun _ => 0⟩]⟩,
  ⟨"UPD_CFG", 0xc008, 4, 1, .fab, .mod, false, [⟨"HEALTH_WIN", 31, 16, .rwl, fun _ => 900⟩, ⟨"EP_KEY_SLOT", 13, 8, .rwl, fun _ => 0⟩, ⟨"MOD_KEY_SLOT", 5, 0, .rwl, fun _ => 0⟩]⟩,
  ⟨"UPD_SVN", 0xc00c, 4, 1, .fab, .mod, false, [⟨"FLOOR", 31, 0, .ro, fun _ => 0⟩]⟩,
  ⟨"UPD_ACT_LO", 0xc010, 4, 1, .fab, .mod, false, [⟨"SEC", 31, 0, .ro, fun _ => 0⟩]⟩,
  ⟨"UPD_ACT_HI", 0xc014, 4, 1, .fab, .mod, false, [⟨"PENDING", 31, 31, .ro, fun _ => 0⟩, ⟨"SLOT", 16, 16, .ro, fun _ => 0⟩, ⟨"SEC", 7, 0, .ro, fun _ => 0⟩]⟩,
  ⟨"UPD_SLOT", 0xc020, 4, 18, .fab, .mod, false, [⟨"STATE", 31, 28, .ro, fun _ => 0⟩, ⟨"CSTATE", 27, 24, .ro, fun _ => 0⟩, ⟨"PIECES", 13, 0, .ro, fun _ => 0⟩]⟩,
  ⟨"UPD_ERR", 0xc080, 4, 1, .fab, .mod, false, [⟨"NAND", 5, 5, .w1c, fun _ => 0⟩, ⟨"RESCUE", 4, 4, .w1c, fun _ => 0⟩, ⟨"SPAN_REJECT", 3, 3, .w1c, fun _ => 0⟩, ⟨"FELLBACK", 2, 2, .w1c, fun _ => 0⟩, ⟨"VERIFY_FAIL", 1, 1, .w1c, fun _ => 0⟩, ⟨"CFG", 0, 0, .w1c, fun _ => 0⟩]⟩,
  ⟨"UPD_IRQ", 0xc084, 4, 1, .fab, .mod, false, [⟨"VEC", 20, 16, .rw, fun _ => 31⟩, ⟨"EN", 5, 0, .rw, fun _ => 0⟩]⟩,
  ⟨"UPD_CNT", 0xc100, 4, 8, .fab, .mod, false, [⟨"COUNT", 31, 0, .rc, fun _ => 0⟩]⟩]

/-- The cards of the FTN registers. -/
def cardsFTN : List Card := [
  ⟨"FTN_CTRL", 0xd000, 4, 1, .iox, .mod, false, [⟨"LOCK", 31, 31, .w1s, fun _ => 0⟩, ⟨"QUIET_OFF", 2, 2, .rw, fun _ => 0⟩, ⟨"BOOST_EN", 1, 1, .rw, fun _ => 0⟩, ⟨"EN", 0, 0, .rw, fun _ => 0⟩]⟩,
  ⟨"FTN_STAT", 0xd004, 4, 1, .iox, .mod, false, [⟨"JETS", 31, 16, .ro, fun _ => 0⟩, ⟨"ACTIVE", 15, 0, .ro, fun _ => 0⟩]⟩,
  ⟨"FTN_BOOST", 0xd008, 4, 1, .iox, .mod, false, [⟨"VMAX", 24, 16, .rwl, fun _ => 0⟩, ⟨"FSW", 9, 0, .rwl, fun _ => 500⟩]⟩,
  ⟨"FTN_BOOST_LIM", 0xd00c, 4, 1, .iox, .mod, false, [⟨"DMAX", 25, 16, .rwl, fun _ => 900⟩, ⟨"ILIM_MV", 7, 0, .rwl, fun _ => 100⟩]⟩,
  ⟨"FTN_BOOST_STAT", 0xd010, 4, 1, .iox, .mod, false, [⟨"OVP", 31, 31, .ro, fun _ => 0⟩, ⟨"ILIM", 30, 30, .ro, fun _ => 0⟩, ⟨"HEADROOM", 29, 16, .ro, fun _ => 0⟩, ⟨"VOUT", 12, 0, .ro, fun _ => 0⟩]⟩,
  ⟨"FTN_PINTEST", 0xd014, 4, 1, .iox, .mod, false, [⟨"SHORT_MV", 31, 16, .rw, fun _ => 2000⟩, ⟨"PERIOD", 15, 0, .rw, fun _ => 60⟩]⟩,
  ⟨"FTN_ERR", 0xd020, 4, 1, .iox, .mod, false, [⟨"BUS", 3, 3, .w1c, fun _ => 0⟩, ⟨"SINK", 2, 2, .w1c, fun _ => 0⟩, ⟨"GAMUT", 1, 1, .w1c, fun _ => 0⟩, ⟨"CFG", 0, 0, .w1c, fun _ => 0⟩]⟩,
  ⟨"FTN_IRQ", 0xd024, 4, 1, .iox, .mod, false, [⟨"VEC", 20, 16, .rw, fun _ => 31⟩, ⟨"EN", 3, 0, .rw, fun _ => 0⟩]⟩,
  ⟨"FTN_SINK_CFG", 0xd100, 16, 16, .iox, .mod, false, [⟨"EN", 31, 31, .rw, fun _ => 0⟩, ⟨"PHASE", 28, 16, .rw, fun _ => 0⟩, ⟨"I_SET", 9, 0, .rw, fun _ => 0⟩]⟩,
  ⟨"FTN_SINK_DUTY", 0xd104, 16, 16, .iox, .mod, false, [⟨"SRC", 31, 30, .ro, fun _ => 0⟩, ⟨"CODE", 15, 0, .rw, fun _ => 0⟩]⟩,
  ⟨"FTN_SINK_STAT", 0xd108, 16, 16, .iox, .mod, false, [⟨"OPEN", 31, 31, .ro, fun _ => 0⟩, ⟨"SHORT", 30, 30, .ro, fun _ => 0⟩, ⟨"OT", 29, 29, .ro, fun _ => 0⟩, ⟨"PIN", 28, 28, .ro, fun _ => 0⟩, ⟨"ACTIVE", 16, 16, .ro, fun _ => 0⟩, ⟨"HEADROOM", 15, 0, .ro, fun _ => 0⟩]⟩,
  ⟨"FTN_FLB_CFG", 0xd200, 16, 2, .iox, .mod, false, [⟨"EN", 31, 31, .rw, fun _ => 0⟩, ⟨"MODE", 30, 30, .rw, fun _ => 0⟩, ⟨"DRIVERS", 28, 16, .rw, fun _ => 0⟩, ⟨"BASE", 11, 0, .rw, fun _ => 0⟩]⟩,
  ⟨"FTN_JET_STAT", 0xd400, 4, 16, .iox, .mod, false, [⟨"STATE", 31, 30, .ro, fun _ => 0⟩, ⟨"FLAGS", 15, 8, .ro, fun _ => 0⟩, ⟨"PC", 7, 0, .ro, fun _ => 0⟩]⟩,
  ⟨"FTN_CNT", 0xd300, 4, 6, .iox, .mod, false, [⟨"COUNT", 31, 0, .rc, fun _ => 0⟩]⟩]

/-- The cards of the OX registers. -/
def cardsOX : List Card := [
  ⟨"OX_CTRL", 0xe000, 4, 1, .iox, .mod, false, [⟨"LOCK", 31, 31, .w1s, fun _ => 0⟩, ⟨"SIG_SLOT", 13, 8, .rwl, fun _ => 0⟩, ⟨"SIG_REQ", 1, 1, .rwl, fun _ => 0⟩, ⟨"AUTOSTART", 0, 0, .rw, fun _ => 0⟩]⟩,
  ⟨"OX_STAT", 0xe004, 4, 1, .iox, .mod, false, [⟨"RET_RESTORE", 25, 24, .ro, fun _ => 3⟩, ⟨"RIO1_SYNC", 21, 21, .ro, fun _ => 0⟩, ⟨"RIO0_SYNC", 20, 20, .ro, fun _ => 0⟩, ⟨"OVERRUNS", 17, 16, .ro, fun _ => 0⟩, ⟨"SWITCH_PEND", 12, 12, .ro, fun _ => 0⟩, ⟨"IDLE", 9, 8, .ro, fun _ => 0⟩, ⟨"BANK", 4, 4, .ro, fun _ => 0⟩, ⟨"STATE", 2, 0, .ro, fun _ => 0⟩]⟩,
  ⟨"OX_PROG", 0xe008, 4, 1, .iox, .mod, false, [⟨"PROG_ID", 31, 0, .ro, fun _ => 0⟩]⟩,
  ⟨"OX_CYCLE_LAST", 0xe00c, 4, 1, .iox, .mod, false, [⟨"US", 31, 0, .ro, fun _ => 0⟩]⟩,
  ⟨"OX_CYCLE_MAX", 0xe010, 4, 1, .iox, .mod, false, [⟨"US", 31, 0, .rc, fun _ => 0⟩]⟩,
  ⟨"OX_RIO_OK", 0xe014, 4, 2, .iox, .mod, false, [⟨"OK", 31, 0, .ro, fun _ => 0⟩]⟩,
  ⟨"OX_FORCES", 0xe01c, 4, 1, .iox, .mod, false, [⟨"COUNT", 6, 0, .ro, fun _ => 0⟩]⟩,
  ⟨"OX_ERR", 0xe020, 4, 1, .iox, .mod, false, [⟨"DALI", 9, 9, .w1c, fun _ => 0⟩, ⟨"MIRROR_LAG", 8, 8, .w1c, fun _ => 0⟩, ⟨"RET_LOST", 7, 7, .w1c, fun _ => 0⟩, ⟨"RET_FALLBACK", 6, 6, .w1c, fun _ => 0⟩, ⟨"RIO_LOST", 5, 5, .w1c, fun _ => 0⟩, ⟨"MAP_CONFLICT", 4, 4, .w1c, fun _ => 0⟩, ⟨"ARITH", 3, 3, .w1c, fun _ => 0⟩, ⟨"ADDR", 2, 2, .w1c, fun _ => 0⟩, ⟨"OVERRUN", 1, 1, .w1c, fun _ => 0⟩, ⟨"CFG", 0, 0, .w1c, fun _ => 0⟩]⟩,
  ⟨"OX_IRQ", 0xe024, 4, 1, .iox, .mod, false, [⟨"VEC", 20, 16, .rw, fun _ => 31⟩, ⟨"EN", 9, 0, .rw, fun _ => 0⟩]⟩,
  ⟨"OX_CNT", 0xe100, 4, 9, .iox, .mod, false, [⟨"COUNT", 31, 0, .rc, fun _ => 0⟩]⟩]

/-- The cards of the KEY registers. -/
def cardsKEY : List Card := [
  ⟨"KEY_CTRL", 0x10000, 4, 1, .sec, .mod, false, [⟨"LOCK", 31, 31, .w1s, fun _ => 0⟩, ⟨"PUF_CLEAR", 2, 2, .w1s, fun _ => 0⟩, ⟨"TK_EXPORT_DIS", 1, 1, .w1s, fun _ => 0⟩]⟩,
  ⟨"KEY_STAT", 0x10004, 4, 1, .sec, .mod, false, [⟨"LC", 31, 29, .ro, fun _ => 0⟩, ⟨"ROOT", 28, 27, .ro, fun _ => 0⟩, ⟨"PENDING", 26, 26, .ro, fun _ => 0⟩, ⟨"SCAN_OK", 25, 25, .ro, fun _ => 0⟩, ⟨"FLOOR_FULL", 24, 24, .ro, fun _ => 0⟩, ⟨"AUTH_GEN", 23, 22, .ro, fun _ => 0⟩, ⟨"PUF_MAX_ERR", 13, 8, .ro, fun _ => 0⟩, ⟨"SLOTS", 6, 0, .ro, fun _ => 0⟩]⟩,
  ⟨"KEY_COUNTER", 0x10008, 4, 1, .sec, .mod, false, [⟨"COUNT", 31, 0, .ro, fun _ => 0⟩]⟩,
  ⟨"KEY_FLOOR", 0x1000c, 4, 1, .sec, .mod, false, [⟨"BITS", 13, 0, .ro, fun _ => 0⟩]⟩,
  ⟨"KEY_SQ_WORLD", 0x10010, 4, 1, .sec, .mod, false, [⟨"SECURE", 15, 0, .rwl, fun _ => 0⟩]⟩,
  ⟨"KEY_ERR", 0x10020, 4, 1, .sec, .mod, false, [⟨"OTP_WRITE", 6, 6, .w1c, fun _ => 0⟩, ⟨"PUF_MARGIN", 5, 5, .w1c, fun _ => 0⟩, ⟨"STORE_FALLBACK", 4, 4, .w1c, fun _ => 0⟩, ⟨"CNT_FALLBACK", 3, 3, .w1c, fun _ => 0⟩, ⟨"UPDATE_FAIL", 2, 2, .w1c, fun _ => 0⟩, ⟨"USE_DENIED", 1, 1, .w1c, fun _ => 0⟩, ⟨"CFG", 0, 0, .w1c, fun _ => 0⟩]⟩,
  ⟨"KEY_IRQ", 0x10024, 4, 1, .sec, .mod, false, [⟨"VEC", 20, 16, .rw, fun _ => 31⟩, ⟨"EN", 6, 0, .rw, fun _ => 0⟩]⟩,
  ⟨"KEY_SLOT_ATTR", 0x10100, 4, 64, .sec, .mod, false, [⟨"ATTR", 31, 0, .ro, fun _ => 0⟩]⟩,
  ⟨"KEY_CNT", 0x10200, 4, 4, .sec, .mod, false, [⟨"COUNT", 31, 0, .rc, fun _ => 0⟩]⟩]

/-- The cards of the OTP registers. -/
def cardsOTP : List Card := [
  ⟨"OTP_STAT", 0x11000, 4, 1, .sec, .cold, false, [⟨"AUTH_REVOKED", 23, 20, .ro, fun _ => 0⟩, ⟨"AUTH_WRITTEN", 19, 16, .ro, fun _ => 0⟩, ⟨"CFG_WRITTEN", 7, 4, .ro, fun _ => 0⟩, ⟨"CFG_VALID", 3, 0, .ro, fun _ => 0⟩]⟩]

/-- The cards of the PAR registers. -/
def cardsPAR : List Card := [
  ⟨"PAR_CTRL", 0x12000, 4, 1, .net, .mod, false, [⟨"LOCK", 31, 31, .w1s, fun _ => 0⟩, ⟨"PAIR_EN", 0, 0, .rwl, fun _ => 0⟩]⟩,
  ⟨"PAR_STAT", 0x12004, 4, 1, .net, .mod, false, [⟨"ROLE", 31, 29, .ro, fun _ => 0⟩, ⟨"UNIT", 28, 28, .ro, fun _ => 0⟩, ⟨"SYNCED", 27, 27, .ro, fun _ => 0⟩, ⟨"PARTNER", 26, 26, .ro, fun _ => 0⟩, ⟨"ACT_IN", 25, 25, .ro, fun _ => 0⟩, ⟨"ACT_OWN", 24, 24, .ro, fun _ => 0⟩, ⟨"HOLD", 23, 23, .ro, fun _ => 0⟩, ⟨"MIR_UP", 22, 22, .ro, fun _ => 0⟩, ⟨"EPOCH", 15, 0, .ro, fun _ => 0⟩]⟩,
  ⟨"PAR_ERR", 0x12020, 4, 1, .net, .mod, false, [⟨"CFG_ACK", 7, 7, .w1c, fun _ => 0⟩, ⟨"DUAL_ACTIVE", 6, 6, .w1c, fun _ => 0⟩, ⟨"FENCED", 5, 5, .w1c, fun _ => 0⟩, ⟨"TAKEOVER", 4, 4, .w1c, fun _ => 0⟩, ⟨"PARTNER_LOST", 3, 3, .w1c, fun _ => 0⟩, ⟨"SYNC_LOST", 2, 2, .w1c, fun _ => 0⟩, ⟨"MIR_DOWN", 1, 1, .w1c, fun _ => 0⟩, ⟨"CFG", 0, 0, .w1c, fun _ => 0⟩]⟩,
  ⟨"PAR_IRQ", 0x12024, 4, 1, .net, .mod, false, [⟨"VEC", 20, 16, .rw, fun _ => 31⟩, ⟨"EN", 7, 0, .rw, fun _ => 0⟩]⟩,
  ⟨"PAR_CNT", 0x12100, 4, 5, .net, .mod, false, [⟨"COUNT", 31, 0, .rc, fun _ => 0⟩]⟩]

/-- The cards of the FED registers. -/
def cardsFED : List Card := [
  ⟨"FED_IRQ", 0x13024, 4, 1, .net, .mod, false, [⟨"VEC", 20, 16, .rw, fun _ => 31⟩, ⟨"EN", 7, 0, .rw, fun _ => 0⟩]⟩,
  ⟨"FED_CTRL", 0x13000, 4, 1, .net, .mod, false, [⟨"LOCK", 31, 31, .w1s, fun _ => 0⟩, ⟨"ALT_EN", 6, 6, .rw, fun _ => 0⟩, ⟨"ALT_PORT", 5, 4, .rw, fun _ => 0⟩, ⟨"ACT_EN", 2, 2, .rw, fun _ => 0⟩, ⟨"UDP_EN", 1, 1, .rw, fun _ => 0⟩, ⟨"EN", 0, 0, .rw, fun _ => 0⟩]⟩,
  ⟨"FED_ID", 0x13004, 4, 1, .net, .mod, false, [⟨"VALID", 31, 31, .rwl, fun _ => 0⟩, ⟨"ID", 11, 0, .rwl, fun _ => 0⟩]⟩,
  ⟨"FED_CFG", 0x13008, 4, 1, .net, .mod, false, [⟨"PTP_ROLE", 31, 24, .rw, fun _ => 0⟩, ⟨"TTL", 23, 16, .rw, fun _ => 64⟩, ⟨"ETYPE", 15, 0, .rwl, fun _ => 0x88b5⟩]⟩,
  ⟨"FED_UDP", 0x1300c, 4, 1, .net, .mod, false, [⟨"PIECE_RATE", 31, 24, .rw, fun _ => 16⟩, ⟨"PORT", 15, 0, .rwl, fun _ => 0⟩]⟩,
  ⟨"FED_PORT_STAT", 0x13010, 4, 4, .net, .mod, false, [⟨"LINK", 31, 31, .ro, fun _ => 0⟩, ⟨"NEIGH", 30, 30, .ro, fun _ => 0⟩, ⟨"NEIGH_ID", 11, 0, .ro, fun _ => 0⟩]⟩,
  ⟨"FED_ERR", 0x13020, 4, 1, .net, .mod, false, [⟨"FEEDER_STALE", 5, 5, .w1c, fun _ => 0⟩, ⟨"DUP_ID", 4, 4, .w1c, fun _ => 0⟩, ⟨"TTL", 3, 3, .w1c, fun _ => 0⟩, ⟨"NO_ROUTE", 2, 2, .w1c, fun _ => 0⟩, ⟨"BAD_MSG", 1, 1, .w1c, fun _ => 0⟩, ⟨"CFG", 0, 0, .w1c, fun _ => 0⟩]⟩,
  ⟨"FED_CNT", 0x13100, 4, 9, .net, .mod, false, [⟨"COUNT", 31, 0, .rc, fun _ => 0⟩]⟩]

/-- The cards of the BST registers. -/
def cardsBST : List Card := [
  ⟨"BST_CTRL", 0x14000, 4, 1, .fab, .mod, false, [⟨"LOCK", 31, 31, .w1s, fun _ => 0⟩, ⟨"PATROL", 1, 1, .rw, fun _ => 1⟩, ⟨"EN", 0, 0, .rw, fun _ => 1⟩]⟩,
  ⟨"BST_STAT", 0x14004, 4, 1, .fab, .mod, false, [⟨"START", 31, 30, .ro, fun _ => 0⟩, ⟨"BUSY", 29, 29, .ro, fun _ => 0⟩, ⟨"TARGET", 7, 0, .ro, fun _ => 0⟩]⟩,
  ⟨"BST_CFG", 0x14008, 4, 1, .fab, .mod, false, [⟨"PATROL_H", 31, 24, .rwl, fun _ => 24⟩, ⟨"LANE_PERIOD", 15, 0, .rwl, fun _ => 3600⟩]⟩,
  ⟨"BST_TILES", 0x1400c, 4, 1, .fab, .mod, false, [⟨"SPARES", 17, 0, .ro, fun _ => 0⟩]⟩,
  ⟨"BST_ERR", 0x14020, 4, 1, .fab, .mod, false, [⟨"REF", 4, 4, .w1c, fun _ => 0⟩, ⟨"SRAM_UE", 3, 3, .w1c, fun _ => 0⟩, ⟨"SPARE_EMPTY", 2, 2, .w1c, fun _ => 0⟩, ⟨"RETIRED", 1, 1, .w1c, fun _ => 0⟩, ⟨"CFG", 0, 0, .w1c, fun _ => 0⟩]⟩,
  ⟨"BST_IRQ", 0x14024, 4, 1, .fab, .mod, false, [⟨"VEC", 20, 16, .rw, fun _ => 31⟩, ⟨"EN", 4, 0, .rw, fun _ => 0⟩]⟩,
  ⟨"BST_CNT", 0x14100, 4, 8, .fab, .mod, false, [⟨"COUNT", 31, 0, .rc, fun _ => 0⟩]⟩]

/-- The cards of the PWR registers. -/
def cardsPWR : List Card := [
  ⟨"PWR_CTRL", 0x15000, 4, 1, .fab, .mod, false, [⟨"LOCK", 31, 31, .w1s, fun _ => 0⟩, ⟨"PFW_PIN_EN", 8, 8, .rwl, fun _ => 1⟩]⟩,
  ⟨"PWR_STAT", 0x15004, 4, 1, .fab, .mod, false, [⟨"PF", 31, 31, .ro, fun _ => 0⟩, ⟨"VIN_OK", 30, 30, .ro, fun _ => 1⟩, ⟨"VBAK_OK", 29, 29, .ro, fun _ => 0⟩, ⟨"MODE", 28, 28, .ro, fun _ => 0⟩, ⟨"STEP", 23, 20, .ro, fun _ => 0⟩]⟩,
  ⟨"PWR_DOMAIN", 0x15008, 4, 1, .fab, .mod, false, [⟨"STATE", 23, 0, .ro, fun _ => 0xaaaaaa⟩]⟩,
  ⟨"PWR_RST", 0x1500c, 4, 1, .fab, .por, true, [⟨"CAUSE", 3, 0, .ro, fun _ => 0⟩]⟩,
  ⟨"PWR_VOLT", 0x15010, 4, 1, .fab, .mod, false, [⟨"VIN", 31, 16, .ro, fun _ => 0⟩, ⟨"VBAK", 15, 0, .ro, fun _ => 0⟩]⟩,
  ⟨"PWR_TEMP", 0x15014, 4, 1, .fab, .mod, false, [⟨"LID", 15, 0, .ro, fun _ => 0⟩]⟩,
  ⟨"PWR_SSC", 0x15018, 4, 1, .fab, .mod, false, [⟨"DDR", 2, 2, .rwl, fun _ => 0⟩, ⟨"IOX", 1, 1, .rwl, fun _ => 1⟩, ⟨"CORE", 0, 0, .rwl, fun _ => 1⟩]⟩,
  ⟨"PWR_PF", 0x1501c, 4, 1, .fab, .cold, false, [⟨"DONE", 31, 31, .ro, fun _ => 0⟩, ⟨"COMMIT_US", 15, 0, .ro, fun _ => 0⟩]⟩,
  ⟨"PWR_ERR", 0x15020, 4, 1, .fab, .mod, false, [⟨"THERMAL", 3, 3, .w1c, fun _ => 0⟩, ⟨"VBAK_LOW", 2, 2, .w1c, fun _ => 0⟩, ⟨"PF", 1, 1, .w1c, fun _ => 0⟩, ⟨"CFG", 0, 0, .w1c, fun _ => 0⟩]⟩,
  ⟨"PWR_IRQ", 0x15024, 4, 1, .fab, .mod, false, [⟨"VEC", 20, 16, .rw, fun _ => 31⟩, ⟨"EN", 3, 0, .rw, fun _ => 0⟩]⟩,
  ⟨"PWR_CNT", 0x15100, 4, 4, .fab, .por, true, [⟨"COUNT", 31, 0, .rc, fun _ => 0⟩]⟩]

/-- The cards of the PIN registers. -/
def cardsPIN : List Card := [
  ⟨"PIN_CTRL", 0x16000, 4, 1, .iox, .mod, false, [⟨"LOCK", 31, 31, .w1s, fun _ => 0⟩]⟩,
  ⟨"PIN_STRAP", 0x16004, 4, 1, .iox, .mod, false, [⟨"STRAP", 3, 0, .ro, fun _ => 0⟩]⟩,
  ⟨"PIN_SLEW", 0x16008, 4, 1, .iox, .mod, false, [⟨"SET", 15, 0, .rwl, fun _ => 0⟩]⟩,
  ⟨"PIN_T1L", 0x1600c, 4, 1, .iox, .mod, false, [⟨"AMP", 1, 0, .rwl, fun _ => 0⟩]⟩,
  ⟨"PIN_DINFILT", 0x16010, 4, 6, .iox, .mod, false, [⟨"FILT", 31, 0, .rw, fun _ => 0xa0a0a0a⟩]⟩,
  ⟨"PIN_DIN", 0x16028, 4, 1, .iox, .mod, false, [⟨"LEVEL", 23, 0, .ro, fun _ => 0⟩]⟩,
  ⟨"PIN_TAMPER", 0x1602c, 4, 1, .iox, .por, true, [⟨"EN", 9, 8, .rw, fun _ => 0⟩, ⟨"LEVEL", 5, 4, .ro, fun _ => 0⟩, ⟨"LATCH", 1, 0, .w1c, fun _ => 0⟩]⟩]

/-- Every card of BAR0 (R528). -/
def cards : List Card :=
  cardsGLB ++ cardsHIF ++ cardsRIL ++ cardsTIM ++ cardsRAD ++ cardsMAC ++ cardsSTR ++ cardsCAS ++ cardsWEI ++ cardsBAS0 ++ cardsBAS1 ++ cardsCIS ++ cardsUPD ++ cardsFTN ++ cardsOX ++ cardsKEY ++ cardsOTP ++ cardsPAR ++ cardsFED ++ cardsBST ++ cardsPWR ++ cardsPIN

/-- The card and the index that an offset selects, if it names a register. -/
def Card.index (c : Card) (off : Nat) : Option Nat :=
  if c.base ≤ off ∧ (off - c.base) % c.stride = 0 ∧ (off - c.base) / c.stride < c.count
  then some ((off - c.base) / c.stride) else none

/-- The card of a BAR0 offset. -/
def cardAt (off : Nat) : Option (Card × Nat) :=
  cards.findSome? fun c => (c.index off).map fun n => (c, n)

/-- The reset word of a card's register. -/
def Card.resetWord (c : Card) (n : Nat) : Word :=
  BitVec.ofNat 32 (c.fields.foldl (fun v f => putBits v f.hi f.lo (f.rst n)) 0)

/-- The reset value of the register at an offset; 0 where there is none (R38). -/
def resetVal (off : Nat) : Word :=
  match cardAt off with
  | some (c, n) => c.resetWord n
  | none => 0

namespace Reg
def GLB_ID_PART : RF := ⟨0x0, 31, 16⟩
def GLB_ID_REV_MAJ : RF := ⟨0x0, 15, 12⟩
def GLB_ID_REV_MIN : RF := ⟨0x0, 11, 8⟩
def GLB_ID_BAND : RF := ⟨0x0, 7, 4⟩
def GLB_ID_TEMP : RF := ⟨0x0, 3, 0⟩
def GLB_FENCE_DROPPED : RF := ⟨0x4, 7, 0⟩
def GLB_ERR_HP_LOST : RF := ⟨0x8, 6, 6⟩
def GLB_ERR_EQ_LOST : RF := ⟨0x8, 5, 5⟩
def GLB_ERR_AER_FATAL : RF := ⟨0x8, 4, 4⟩
def GLB_ERR_LINK_DOWN : RF := ⟨0x8, 3, 3⟩
def GLB_ERR_RING_FAULT : RF := ⟨0x8, 2, 2⟩
def GLB_ERR_BAD_ACCESS : RF := ⟨0x8, 1, 1⟩
def GLB_ERR_PD_ACCESS : RF := ⟨0x8, 0, 0⟩
def GLB_ERR_ADDR_BAR : RF := ⟨0xc, 31, 31⟩
def GLB_ERR_ADDR_WRITE : RF := ⟨0xc, 30, 30⟩
def GLB_ERR_ADDR_OFFSET : RF := ⟨0xc, 16, 0⟩
def GLB_IRQ_VEC : RF := ⟨0x10, 20, 16⟩
def GLB_IRQ_EN : RF := ⟨0x10, 6, 0⟩
def HIF_CTRL_ENABLE : RF := ⟨0x1000, 0, 0⟩
def HIF_STAT_EPOCH : RF := ⟨0x1004, 31, 24⟩
def HIF_STAT_STATE : RF := ⟨0x1004, 19, 18⟩
def HIF_STAT_READY : RF := ⟨0x1004, 17, 17⟩
def HIF_STAT_LINK_UP : RF := ⟨0x1004, 16, 16⟩
def HIF_STAT_WIDTH : RF := ⟨0x1004, 7, 4⟩
def HIF_STAT_GEN : RF := ⟨0x1004, 3, 0⟩
def HIF_RCV_CTRL_RESUME : RF := ⟨0x1008, 0, 0⟩
def HIF_RCV_CAUSE_FAULT_RING : RF := ⟨0x100c, 25, 24⟩
def HIF_RCV_CAUSE_FAULT_SQ : RF := ⟨0x100c, 23, 20⟩
def HIF_RCV_CAUSE_FAULT_KIND : RF := ⟨0x100c, 19, 16⟩
def HIF_RCV_CAUSE_D3HOT : RF := ⟨0x100c, 4, 4⟩
def HIF_RCV_CAUSE_RESET : RF := ⟨0x100c, 3, 3⟩
def HIF_RCV_CAUSE_RING_FAULT : RF := ⟨0x100c, 2, 2⟩
def HIF_RCV_CAUSE_AER_FATAL : RF := ⟨0x100c, 1, 1⟩
def HIF_RCV_CAUSE_LINK_DOWN : RF := ⟨0x100c, 0, 0⟩
def HIF_LOCK_LOCK : RF := ⟨0x1010, 0, 0⟩
def HIF_SQ_BASE_LO_ADDR (n : Nat) : RF := ⟨0x1100 + 0x20 * n, 31, 12⟩
def HIF_SQ_BASE_HI_ADDR (n : Nat) : RF := ⟨0x1104 + 0x20 * n, 31, 0⟩
def HIF_SQ_CFG_ENABLE (n : Nat) : RF := ⟨0x1108 + 0x20 * n, 31, 31⟩
def HIF_SQ_CFG_IDLE (n : Nat) : RF := ⟨0x1108 + 0x20 * n, 30, 30⟩
def HIF_SQ_CFG_CFG_ERR (n : Nat) : RF := ⟨0x1108 + 0x20 * n, 29, 29⟩
def HIF_SQ_CFG_WEIGHT (n : Nat) : RF := ⟨0x1108 + 0x20 * n, 21, 20⟩
def HIF_SQ_CFG_CQ (n : Nat) : RF := ⟨0x1108 + 0x20 * n, 19, 16⟩
def HIF_SQ_CFG_NEQ (n : Nat) : RF := ⟨0x1108 + 0x20 * n, 9, 8⟩
def HIF_SQ_CFG_SIZE_LOG2 (n : Nat) : RF := ⟨0x1108 + 0x20 * n, 4, 0⟩
def HIF_SQ_PERM_GROUPS (n : Nat) : RF := ⟨0x110c + 0x20 * n, 16, 1⟩
def HIF_SQ_HEAD_INFLIGHT (n : Nat) : RF := ⟨0x1110 + 0x20 * n, 22, 16⟩
def HIF_SQ_HEAD_HEAD (n : Nat) : RF := ⟨0x1110 + 0x20 * n, 15, 0⟩
def HIF_CQ_BASE_LO_ADDR (n : Nat) : RF := ⟨0x1300 + 0x20 * n, 31, 12⟩
def HIF_CQ_BASE_HI_ADDR (n : Nat) : RF := ⟨0x1304 + 0x20 * n, 31, 0⟩
def HIF_CQ_CFG_ENABLE (n : Nat) : RF := ⟨0x1308 + 0x20 * n, 31, 31⟩
def HIF_CQ_CFG_CFG_ERR (n : Nat) : RF := ⟨0x1308 + 0x20 * n, 29, 29⟩
def HIF_CQ_CFG_VEC (n : Nat) : RF := ⟨0x1308 + 0x20 * n, 28, 24⟩
def HIF_CQ_CFG_COAL_CNT (n : Nat) : RF := ⟨0x1308 + 0x20 * n, 23, 16⟩
def HIF_CQ_CFG_COAL_TIME (n : Nat) : RF := ⟨0x1308 + 0x20 * n, 15, 8⟩
def HIF_CQ_CFG_SIZE_LOG2 (n : Nat) : RF := ⟨0x1308 + 0x20 * n, 4, 0⟩
def HIF_CQ_WR_PHASE (n : Nat) : RF := ⟨0x130c + 0x20 * n, 16, 16⟩
def HIF_CQ_WR_INDEX (n : Nat) : RF := ⟨0x130c + 0x20 * n, 15, 0⟩
def HIF_EQ_BASE_LO_ADDR (n : Nat) : RF := ⟨0x1500 + 0x20 * n, 31, 12⟩
def HIF_EQ_BASE_HI_ADDR (n : Nat) : RF := ⟨0x1504 + 0x20 * n, 31, 0⟩
def HIF_EQ_CFG_ENABLE (n : Nat) : RF := ⟨0x1508 + 0x20 * n, 31, 31⟩
def HIF_EQ_CFG_CFG_ERR (n : Nat) : RF := ⟨0x1508 + 0x20 * n, 29, 29⟩
def HIF_EQ_CFG_VEC (n : Nat) : RF := ⟨0x1508 + 0x20 * n, 28, 24⟩
def HIF_EQ_CFG_COAL_CNT (n : Nat) : RF := ⟨0x1508 + 0x20 * n, 23, 16⟩
def HIF_EQ_CFG_COAL_TIME (n : Nat) : RF := ⟨0x1508 + 0x20 * n, 15, 8⟩
def HIF_EQ_CFG_SIZE_LOG2 (n : Nat) : RF := ⟨0x1508 + 0x20 * n, 4, 0⟩
def HIF_EQ_WR_PHASE (n : Nat) : RF := ⟨0x150c + 0x20 * n, 16, 16⟩
def HIF_EQ_WR_INDEX (n : Nat) : RF := ⟨0x150c + 0x20 * n, 15, 0⟩
def HIF_EQ_LOST_COUNT (n : Nat) : RF := ⟨0x1510 + 0x20 * n, 31, 0⟩
def RIL_Q_STAT_DEPTH_LOG2 (n : Nat) : RF := ⟨0x2000 + 4 * n, 31, 28⟩
def RIL_Q_STAT_POLICY (n : Nat) : RF := ⟨0x2000 + 4 * n, 27, 27⟩
def RIL_Q_STAT_FILL (n : Nat) : RF := ⟨0x2000 + 4 * n, 16, 0⟩
def RIL_Q_LOST_COUNT (n : Nat) : RF := ⟨0x2100 + 4 * n, 31, 0⟩
def RIL_HP_CFG_ENABLE (n : Nat) : RF := ⟨0x2200 + 0x20 * n, 31, 31⟩
def RIL_HP_CFG_VEC (n : Nat) : RF := ⟨0x2200 + 0x20 * n, 28, 24⟩
def RIL_HP_CFG_DEPTH_LOG2 (n : Nat) : RF := ⟨0x2200 + 0x20 * n, 19, 16⟩
def RIL_HP_CFG_SRC (n : Nat) : RF := ⟨0x2200 + 0x20 * n, 15, 0⟩
def RIL_HP_CTRL_FLUSH (n : Nat) : RF := ⟨0x2204 + 0x20 * n, 0, 0⟩
def RIL_HP_STAT_UNDERRUN (n : Nat) : RF := ⟨0x2208 + 0x20 * n, 31, 31⟩
def RIL_HP_STAT_FILL (n : Nat) : RF := ⟨0x2208 + 0x20 * n, 12, 0⟩
def RIL_HP_LOST_COUNT (n : Nat) : RF := ⟨0x220c + 0x20 * n, 31, 0⟩
def RIL_HP_DATA_LO_PAYLOAD (n : Nat) : RF := ⟨0x2210 + 0x20 * n, 31, 0⟩
def RIL_HP_DATA_HI_VALID (n : Nat) : RF := ⟨0x2214 + 0x20 * n, 31, 31⟩
def RIL_HP_DATA_HI_LOSTMARK (n : Nat) : RF := ⟨0x2214 + 0x20 * n, 30, 30⟩
def RIL_HP_DATA_HI_PAYLOAD (n : Nat) : RF := ⟨0x2214 + 0x20 * n, 23, 0⟩
def TIM_CTRL_PPS_OUT_EN : RF := ⟨0x3000, 31, 31⟩
def TIM_CTRL_PPS_IN_EDGE : RF := ⟨0x3000, 30, 30⟩
def TIM_CTRL_PPS_WIDTH : RF := ⟨0x3000, 29, 20⟩
def TIM_CTRL_PTP_PORT : RF := ⟨0x3000, 5, 4⟩
def TIM_CTRL_SRC : RF := ⟨0x3000, 2, 0⟩
def TIM_STAT_QUAL : RF := ⟨0x3004, 30, 28⟩
def TIM_STAT_HOLD_AGE : RF := ⟨0x3004, 19, 0⟩
def TIM_ERR_SRC_LOST : RF := ⟨0x3008, 7, 7⟩
def TIM_ERR_LEAP_CONFLICT : RF := ⟨0x3008, 6, 6⟩
def TIM_ERR_ALM_PAST : RF := ⟨0x3008, 5, 5⟩
def TIM_ERR_ALM_BUSY : RF := ⟨0x3008, 4, 4⟩
def TIM_ERR_BAD_RULE : RF := ⟨0x3008, 3, 3⟩
def TIM_ERR_CAL_RANGE : RF := ⟨0x3008, 2, 2⟩
def TIM_ERR_SET_DENIED : RF := ⟨0x3008, 1, 1⟩
def TIM_ERR_SET_BUSY : RF := ⟨0x3008, 0, 0⟩
def TIM_SEC_LO_SEC : RF := ⟨0x3010, 31, 0⟩
def TIM_SEC_HI_SEC : RF := ⟨0x3014, 7, 0⟩
def TIM_FRAC_FRAC : RF := ⟨0x3018, 15, 0⟩
def TIM_SET_LO_SEC : RF := ⟨0x3020, 31, 0⟩
def TIM_SET_HI_FRAC : RF := ⟨0x3024, 31, 16⟩
def TIM_SET_HI_SEC : RF := ⟨0x3024, 7, 0⟩
def TIM_CAL_DATE_STAGED : RF := ⟨0x3028, 31, 31⟩
def TIM_CAL_DATE_WEEKDAY : RF := ⟨0x3028, 30, 28⟩
def TIM_CAL_DATE_YEAR : RF := ⟨0x3028, 27, 16⟩
def TIM_CAL_DATE_MONTH : RF := ⟨0x3028, 11, 8⟩
def TIM_CAL_DATE_DAY : RF := ⟨0x3028, 4, 0⟩
def TIM_CAL_TIME_HOUR : RF := ⟨0x302c, 20, 16⟩
def TIM_CAL_TIME_MIN : RF := ⟨0x302c, 13, 8⟩
def TIM_CAL_TIME_SEC : RF := ⟨0x302c, 5, 0⟩
def TIM_LOC_DATE_WEEKDAY : RF := ⟨0x3030, 30, 28⟩
def TIM_LOC_DATE_YEAR : RF := ⟨0x3030, 27, 16⟩
def TIM_LOC_DATE_MONTH : RF := ⟨0x3030, 11, 8⟩
def TIM_LOC_DATE_DAY : RF := ⟨0x3030, 4, 0⟩
def TIM_LOC_TIME_DST : RF := ⟨0x3034, 31, 31⟩
def TIM_LOC_TIME_HOUR : RF := ⟨0x3034, 20, 16⟩
def TIM_LOC_TIME_MIN : RF := ⟨0x3034, 13, 8⟩
def TIM_LOC_TIME_SEC : RF := ⟨0x3034, 5, 0⟩
def TIM_COMMIT_PENDING : RF := ⟨0x3038, 31, 31⟩
def TIM_COMMIT_MODE : RF := ⟨0x3038, 2, 0⟩
def TIM_UTC_OFS_DST_SHIFT : RF := ⟨0x3040, 23, 16⟩
def TIM_UTC_OFS_OFS_MIN : RF := ⟨0x3040, 15, 0⟩
def TIM_DST_START_EN : RF := ⟨0x3044, 31, 31⟩
def TIM_DST_START_HOUR : RF := ⟨0x3044, 20, 16⟩
def TIM_DST_START_WEEKDAY : RF := ⟨0x3044, 10, 8⟩
def TIM_DST_START_WEEK : RF := ⟨0x3044, 6, 4⟩
def TIM_DST_START_MONTH : RF := ⟨0x3044, 3, 0⟩
def TIM_DST_END_EN : RF := ⟨0x3048, 31, 31⟩
def TIM_DST_END_HOUR : RF := ⟨0x3048, 20, 16⟩
def TIM_DST_END_WEEKDAY : RF := ⟨0x3048, 10, 8⟩
def TIM_DST_END_WEEK : RF := ⟨0x3048, 6, 4⟩
def TIM_DST_END_MONTH : RF := ⟨0x3048, 3, 0⟩
def TIM_LEAP_INSERT : RF := ⟨0x304c, 31, 31⟩
def TIM_LEAP_DELETE : RF := ⟨0x304c, 30, 30⟩
def TIM_LEAP_ACTIVE : RF := ⟨0x304c, 29, 29⟩
def TIM_LEAP_DAY : RF := ⟨0x304c, 16, 0⟩
def TIM_SERVO_STEP_THR : RF := ⟨0x3050, 15, 0⟩
def TIM_ALM_LO_SEC (n : Nat) : RF := ⟨0x3100 + 0x10 * n, 31, 0⟩
def TIM_ALM_HI_FRAC (n : Nat) : RF := ⟨0x3104 + 0x10 * n, 31, 16⟩
def TIM_ALM_HI_SEC (n : Nat) : RF := ⟨0x3104 + 0x10 * n, 7, 0⟩
def TIM_ALM_CTRL_PAST (n : Nat) : RF := ⟨0x3108 + 0x10 * n, 3, 3⟩
def TIM_ALM_CTRL_STEPPED (n : Nat) : RF := ⟨0x3108 + 0x10 * n, 2, 2⟩
def TIM_ALM_CTRL_FIRED (n : Nat) : RF := ⟨0x3108 + 0x10 * n, 1, 1⟩
def TIM_ALM_CTRL_ARMED (n : Nat) : RF := ⟨0x3108 + 0x10 * n, 0, 0⟩
def TIM_WAKE_PERIOD_PERIOD (n : Nat) : RF := ⟨0x3200 + 8 * n, 27, 0⟩
def TIM_WAKE_CTRL_EN (n : Nat) : RF := ⟨0x3204 + 8 * n, 31, 31⟩
def TIM_WAKE_CTRL_COUNT (n : Nat) : RF := ⟨0x3204 + 8 * n, 15, 0⟩
def RAD_CTRL_LOCK : RF := ⟨0x4000, 31, 31⟩
def RAD_CTRL_KEEP_RX : RF := ⟨0x4000, 8, 8⟩
def RAD_CTRL_DIV : RF := ⟨0x4000, 7, 6⟩
def RAD_CTRL_QUIET : RF := ⟨0x4000, 5, 5⟩
def RAD_CTRL_RF24_EN : RF := ⟨0x4000, 4, 4⟩
def RAD_CTRL_TXB_EN : RF := ⟨0x4000, 3, 3⟩
def RAD_CTRL_TXA_EN : RF := ⟨0x4000, 2, 2⟩
def RAD_CTRL_RX_EN : RF := ⟨0x4000, 0, 0⟩
def RAD_STAT_PROFILE : RF := ⟨0x4004, 31, 30⟩
def RAD_STAT_CUSTOM_VALID : RF := ⟨0x4004, 29, 29⟩
def RAD_STAT_BUSY : RF := ⟨0x4004, 22, 16⟩
def RAD_STAT_DEMODS : RF := ⟨0x4004, 14, 8⟩
def RAD_STAT_TXB_ON : RF := ⟨0x4004, 4, 4⟩
def RAD_STAT_TXA_ON : RF := ⟨0x4004, 3, 3⟩
def RAD_STAT_SPARES : RF := ⟨0x4004, 2, 0⟩
def RAD_WIN_CH0_KHZ : RF := ⟨0x4008, 19, 0⟩
def RAD_RXMASK_MASK (n : Nat) : RF := ⟨0x4010 + 4 * n, 31, 0⟩
def RAD_QMASK_MASK (n : Nat) : RF := ⟨0x4020 + 4 * n, 31, 0⟩
def RAD_TXMASK_MASK (n : Nat) : RF := ⟨0x4030 + 4 * n, 31, 0⟩
def RAD_PAIR_PAIR (n : Nat) : RF := ⟨0x4040 + 4 * n, 31, 0⟩
def RAD_PRIO_PRIO (n : Nat) : RF := ⟨0x4050 + 4 * n, 31, 0⟩
def RAD_DET_TX_PRE : RF := ⟨0x4064, 20, 16⟩
def RAD_DET_MIN_PRE : RF := ⟨0x4064, 11, 8⟩
def RAD_DET_THR : RF := ⟨0x4064, 3, 0⟩
def RAD_TXA_PWR_MAX : RF := ⟨0x4070, 7, 0⟩
def RAD_TXB_PWR_MAX : RF := ⟨0x4074, 7, 0⟩
def RAD_RF24_CHANNEL : RF := ⟨0x4078, 12, 8⟩
def RAD_RF24_PWR_MAX : RF := ⟨0x4078, 7, 0⟩
def RAD_ERR_NO_PROFILE : RF := ⟨0x4080, 7, 7⟩
def RAD_ERR_TX_OVERLAP : RF := ⟨0x4080, 6, 6⟩
def RAD_ERR_HOP_SHORT : RF := ⟨0x4080, 5, 5⟩
def RAD_ERR_DWELL : RF := ⟨0x4080, 4, 4⟩
def RAD_ERR_DUTY : RF := ⟨0x4080, 3, 3⟩
def RAD_ERR_OVERLOAD : RF := ⟨0x4080, 2, 2⟩
def RAD_ERR_CFG_RANGE : RF := ⟨0x4080, 1, 1⟩
def RAD_ERR_CFG_BUSY : RF := ⟨0x4080, 0, 0⟩
def RAD_IRQ_VEC : RF := ⟨0x4084, 20, 16⟩
def RAD_IRQ_EN : RF := ⟨0x4084, 7, 0⟩
def RAD_OCC_PEAK : RF := ⟨0x4088, 22, 16⟩
def RAD_OCC_AVG : RF := ⟨0x4088, 9, 0⟩
def RAD_CNT_COUNT (n : Nat) : RF := ⟨0x4100 + 4 * n, 31, 0⟩
def RAD_SUB_AT_LIMIT (n : Nat) : RF := ⟨0x4200 + 4 * n, 31, 31⟩
def RAD_SUB_USED (n : Nat) : RF := ⟨0x4200 + 4 * n, 21, 0⟩
def MAC_CTRL_LOCK : RF := ⟨0x6000, 31, 31⟩
def MAC_CTRL_JOIN_ANY : RF := ⟨0x6000, 5, 5⟩
def MAC_CTRL_JOIN_EN : RF := ⟨0x6000, 4, 4⟩
def MAC_CTRL_ROOSTER_EN : RF := ⟨0x6000, 3, 3⟩
def MAC_CTRL_T3_EN : RF := ⟨0x6000, 2, 2⟩
def MAC_CTRL_T2_EN : RF := ⟨0x6000, 1, 1⟩
def MAC_CTRL_T1_EN : RF := ⟨0x6000, 0, 0⟩
def MAC_STAT_ENTRIES : RF := ⟨0x6004, 18, 0⟩
def MAC_SEG_EUI_LO_EUI : RF := ⟨0x6008, 31, 0⟩
def MAC_SEG_EUI_HI_EUI : RF := ⟨0x600c, 31, 0⟩
def MAC_KEY_CFG_BK_EPOCH : RF := ⟨0x6010, 31, 16⟩
def MAC_KEY_CFG_MASTER_SLOT : RF := ⟨0x6010, 5, 0⟩
def MAC_BCNT_COUNT : RF := ⟨0x6014, 31, 0⟩
def MAC_GRID_MAP_VER : RF := ⟨0x6018, 31, 16⟩
def MAC_GRID_GRID_EPOCH : RF := ⟨0x6018, 15, 0⟩
def MAC_TIMING_ACK_MAX : RF := ⟨0x601c, 31, 24⟩
def MAC_TIMING_JOIN_DELAY : RF := ⟨0x601c, 23, 16⟩
def MAC_TIMING_TCORR_THR : RF := ⟨0x601c, 7, 0⟩
def MAC_ROOSTER_CH_CH (n : Nat) : RF := ⟨0x6020 + 4 * n, 31, 0⟩
def MAC_T1_CHANNEL : RF := ⟨0x6028, 4, 0⟩
def MAC_CKPT_BUSY : RF := ⟨0x602c, 31, 31⟩
def MAC_CKPT_PERIOD : RF := ⟨0x602c, 15, 0⟩
def MAC_ERR_KEY_EXHAUSTED : RF := ⟨0x6030, 4, 4⟩
def MAC_ERR_BCAST_REKEY : RF := ⟨0x6030, 3, 3⟩
def MAC_ERR_FOLD_FULL : RF := ⟨0x6030, 2, 2⟩
def MAC_ERR_JOIN_DENIED : RF := ⟨0x6030, 1, 1⟩
def MAC_ERR_CFG : RF := ⟨0x6030, 0, 0⟩
def MAC_IRQ_VEC : RF := ⟨0x6034, 20, 16⟩
def MAC_IRQ_EN : RF := ⟨0x6034, 4, 0⟩
def MAC_CNT_COUNT (n : Nat) : RF := ⟨0x6100 + 4 * n, 31, 0⟩
def STR_CTRL_LOCK : RF := ⟨0x7000, 31, 31⟩
def STR_CTRL_COMPOSE_EN : RF := ⟨0x7000, 0, 0⟩
def STR_STAT_COMMITS : RF := ⟨0x7004, 30, 20⟩
def STR_STAT_QUEUED : RF := ⟨0x7004, 18, 0⟩
def STR_POS_LAT_DEG : RF := ⟨0x7008, 31, 0⟩
def STR_POS_LON_DEG : RF := ⟨0x700c, 31, 0⟩
def STR_COMMIT_LATE_WIN : RF := ⟨0x7010, 31, 24⟩
def STR_COMMIT_REPEATS : RF := ⟨0x7010, 23, 20⟩
def STR_COMMIT_LEAD : RF := ⟨0x7010, 15, 0⟩
def STR_PLAN_LV_CHAINS : RF := ⟨0x7014, 1, 0⟩
def STR_DAY_EXCEPTION : RF := ⟨0x7018, 8, 8⟩
def STR_DAY_CLASS : RF := ⟨0x7018, 2, 0⟩
def STR_ERR_MISSED : RF := ⟨0x7020, 4, 4⟩
def STR_ERR_AMB_FALLBACK : RF := ⟨0x7020, 3, 3⟩
def STR_ERR_POLAR : RF := ⟨0x7020, 2, 2⟩
def STR_ERR_FLOOR_OVER : RF := ⟨0x7020, 1, 1⟩
def STR_ERR_CFG : RF := ⟨0x7020, 0, 0⟩
def STR_IRQ_VEC : RF := ⟨0x7024, 20, 16⟩
def STR_IRQ_EN : RF := ⟨0x7024, 4, 0⟩
def STR_CNT_COUNT (n : Nat) : RF := ⟨0x7100 + 4 * n, 31, 0⟩
def CAS_CTRL_LOCK : RF := ⟨0x8000, 31, 31⟩
def CAS_CTRL_BORDER_EN : RF := ⟨0x8000, 2, 2⟩
def CAS_CTRL_EN : RF := ⟨0x8000, 0, 0⟩
def CAS_STAT_GEN : RF := ⟨0x8004, 31, 16⟩
def CAS_STAT_ACT_PEND : RF := ⟨0x8004, 15, 15⟩
def CAS_STAT_LANES : RF := ⟨0x8004, 11, 8⟩
def CAS_STAT_SPARE : RF := ⟨0x8004, 0, 0⟩
def CAS_CFG_MIN_DEMAND : RF := ⟨0x8008, 31, 16⟩
def CAS_CFG_REACH : RF := ⟨0x8008, 11, 0⟩
def CAS_CLASS_GAIN (n : Nat) : RF := ⟨0x8010 + 4 * n, 24, 16⟩
def CAS_CLASS_HORIZON (n : Nat) : RF := ⟨0x8010 + 4 * n, 11, 0⟩
def CAS_PEND_ITEMS : RF := ⟨0x8020, 16, 0⟩
def CAS_PEAK_PEAK : RF := ⟨0x8024, 16, 0⟩
def CAS_GRAPH_ERR_REASON : RF := ⟨0x8028, 31, 28⟩
def CAS_GRAPH_ERR_KIND : RF := ⟨0x8028, 27, 26⟩
def CAS_GRAPH_ERR_INDEX : RF := ⟨0x8028, 19, 0⟩
def CAS_ERR_LANE_SHORT : RF := ⟨0x8030, 7, 7⟩
def CAS_ERR_BORDER_REJECT : RF := ⟨0x8030, 6, 6⟩
def CAS_ERR_BORDER_LATE : RF := ⟨0x8030, 5, 5⟩
def CAS_ERR_OVERRUN : RF := ⟨0x8030, 4, 4⟩
def CAS_ERR_ITEMS_LOST : RF := ⟨0x8030, 3, 3⟩
def CAS_ERR_INTAKE_LOST : RF := ⟨0x8030, 2, 2⟩
def CAS_ERR_BAD_EVENT : RF := ⟨0x8030, 1, 1⟩
def CAS_ERR_CFG : RF := ⟨0x8030, 0, 0⟩
def CAS_IRQ_VEC : RF := ⟨0x8034, 20, 16⟩
def CAS_IRQ_EN : RF := ⟨0x8034, 7, 0⟩
def CAS_CNT_COUNT (n : Nat) : RF := ⟨0x8100 + 4 * n, 31, 0⟩
def WEI_CTRL_LOCK : RF := ⟨0x9000, 31, 31⟩
def WEI_CTRL_FAST_EN : RF := ⟨0x9000, 1, 1⟩
def WEI_CTRL_SLOW_EN : RF := ⟨0x9000, 0, 0⟩
def WEI_STAT_CAP_STATE : RF := ⟨0x9004, 31, 30⟩
def WEI_STAT_INJ : RF := ⟨0x9004, 29, 29⟩
def WEI_STAT_INJ_LOOP : RF := ⟨0x9004, 28, 16⟩
def WEI_STAT_LANES : RF := ⟨0x9004, 11, 8⟩
def WEI_STAT_SPARE : RF := ⟨0x9004, 0, 0⟩
def WEI_CFG_AMB_STALE : RF := ⟨0x9008, 31, 16⟩
def WEI_CFG_SPAN_STALE : RF := ⟨0x9008, 7, 0⟩
def WEI_COUNT_FAST : RF := ⟨0x900c, 20, 16⟩
def WEI_COUNT_SLOW : RF := ⟨0x900c, 12, 0⟩
def WEI_CAP_WRITTEN_SAMPLES : RF := ⟨0x9010, 16, 0⟩
def WEI_ERR_HELD : RF := ⟨0x9020, 4, 4⟩
def WEI_ERR_LANE_SHORT : RF := ⟨0x9020, 3, 3⟩
def WEI_ERR_OVERRUN : RF := ⟨0x9020, 2, 2⟩
def WEI_ERR_NONFINITE : RF := ⟨0x9020, 1, 1⟩
def WEI_ERR_CFG : RF := ⟨0x9020, 0, 0⟩
def WEI_IRQ_VEC : RF := ⟨0x9024, 20, 16⟩
def WEI_IRQ_EN : RF := ⟨0x9024, 4, 0⟩
def WEI_FAST_OUT_Y (n : Nat) : RF := ⟨0x9100 + 4 * n, 31, 0⟩
def WEI_CNT_COUNT (n : Nat) : RF := ⟨0x9200 + 4 * n, 31, 0⟩
def BAS_CTRL_LOCK : RF := ⟨0xa000, 31, 31⟩
def BAS_CTRL_F_NOM : RF := ⟨0xa000, 1, 1⟩
def BAS_CTRL_EN : RF := ⟨0xa000, 0, 0⟩
def BAS_STAT_RECON_BUSY : RF := ⟨0xa004, 4, 4⟩
def BAS_STAT_RESTORE : RF := ⟨0xa004, 1, 0⟩
def BAS_CLK_EN : RF := ⟨0xa008, 3, 0⟩
def BAS_INTERVAL_RECON_DELAY : RF := ⟨0xa00c, 31, 20⟩
def BAS_INTERVAL_MAX_GAP : RF := ⟨0xa00c, 19, 8⟩
def BAS_INTERVAL_LEN : RF := ⟨0xa00c, 1, 0⟩
def BAS_TEMP_CFG_SRC : RF := ⟨0xa010, 31, 30⟩
def BAS_TEMP_CFG_INDEX : RF := ⟨0xa010, 29, 24⟩
def BAS_TEMP_CFG_T_FIXED : RF := ⟨0xa010, 15, 0⟩
def BAS_TEMP_SCALE_VALUE : RF := ⟨0xa014, 31, 0⟩
def BAS_TEMP_OFS_VALUE : RF := ⟨0xa018, 31, 0⟩
def BAS_TEMP_NOW_FALLBACK : RF := ⟨0xa01c, 16, 16⟩
def BAS_TEMP_NOW_T : RF := ⟨0xa01c, 15, 0⟩
def BAS_ERR_FREQ_INVALID : RF := ⟨0xa020, 9, 9⟩
def BAS_ERR_ACC_LOST : RF := ⟨0xa020, 8, 8⟩
def BAS_ERR_ACC_FALLBACK : RF := ⟨0xa020, 7, 7⟩
def BAS_ERR_FEEDER_DEAD : RF := ⟨0xa020, 6, 6⟩
def BAS_ERR_RC_ALARM : RF := ⟨0xa020, 5, 5⟩
def BAS_ERR_TEMP_SRC : RF := ⟨0xa020, 4, 4⟩
def BAS_ERR_DELAY_CLAMP : RF := ⟨0xa020, 3, 3⟩
def BAS_ERR_CH_OVR : RF := ⟨0xa020, 2, 2⟩
def BAS_ERR_CH_FAULT : RF := ⟨0xa020, 1, 1⟩
def BAS_ERR_CFG : RF := ⟨0xa020, 0, 0⟩
def BAS_IRQ_VEC : RF := ⟨0xa024, 20, 16⟩
def BAS_IRQ_EN : RF := ⟨0xa024, 9, 0⟩
def BAS_CH_CFG_EN (n : Nat) : RF := ⟨0xa100 + 8 * n, 31, 31⟩
def BAS_CH_CFG_EDGE (n : Nat) : RF := ⟨0xa100 + 8 * n, 30, 30⟩
def BAS_CH_CFG_CLK_SEL (n : Nat) : RF := ⟨0xa100 + 8 * n, 29, 28⟩
def BAS_CH_CFG_FAULT (n : Nat) : RF := ⟨0xa100 + 8 * n, 27, 27⟩
def BAS_CH_CFG_OVR (n : Nat) : RF := ⟨0xa100 + 8 * n, 26, 26⟩
def BAS_CH_CFG_DELAY (n : Nat) : RF := ⟨0xa100 + 8 * n, 9, 0⟩
def BAS_CH_SCALE_SCALE (n : Nat) : RF := ⟨0xa104 + 8 * n, 31, 0⟩
def BAS_FDR_CFG_EN (n : Nat) : RF := ⟨0xa300 + 0x20 * n, 31, 31⟩
def BAS_FDR_CFG_PHASES (n : Nat) : RF := ⟨0xa300 + 0x20 * n, 30, 28⟩
def BAS_FDR_CFG_NCYC (n : Nat) : RF := ⟨0xa300 + 0x20 * n, 27, 24⟩
def BAS_FDR_CFG_RC_CYCLES (n : Nat) : RF := ⟨0xa300 + 0x20 * n, 23, 16⟩
def BAS_FDR_CFG_DEAD_V (n : Nat) : RF := ⟨0xa300 + 0x20 * n, 15, 0⟩
def BAS_FDR_RC_RC_THR (n : Nat) : RF := ⟨0xa304 + 0x20 * n, 15, 0⟩
def BAS_FDR_OTHER_OTHER_MW (n : Nat) : RF := ⟨0xa308 + 0x20 * n, 31, 0⟩
def BAS_FDR_STAT_DEAD (n : Nat) : RF := ⟨0xa310 + 0x20 * n, 31, 31⟩
def BAS_FDR_STAT_RC_ALARM (n : Nat) : RF := ⟨0xa310 + 0x20 * n, 30, 30⟩
def BAS_FDR_STAT_RC_SEEN (n : Nat) : RF := ⟨0xa310 + 0x20 * n, 29, 29⟩
def BAS_FDR_STAT_FREQ_VALID (n : Nat) : RF := ⟨0xa310 + 0x20 * n, 28, 28⟩
def BAS_FDR_STAT_FREQ (n : Nat) : RF := ⟨0xa310 + 0x20 * n, 19, 0⟩
def BAS_E_WH (f p q : Nat) : RF := ⟨0xa400 + 0x80 * f + 0x20 * p + 4 * q, 31, 0⟩
def BAS_CNT_COUNT (n : Nat) : RF := ⟨0xa800 + 4 * n, 31, 0⟩
def CIS_CTRL_LOCK : RF := ⟨0xb000, 31, 31⟩
def CIS_CTRL_CLEAR_SLOT : RF := ⟨0xb000, 13, 8⟩
def CIS_CTRL_FAULT_EVT : RF := ⟨0xb000, 0, 0⟩
def CIS_EPOCH_EPOCH : RF := ⟨0xb004, 7, 0⟩
def CIS_DIAG_MASK_GROUPS : RF := ⟨0xb008, 16, 0⟩
def CIS_STORM_BURST : RF := ⟨0xb00c, 31, 16⟩
def CIS_STORM_RATE : RF := ⟨0xb00c, 15, 0⟩
def CIS_FOLD_GRACE : RF := ⟨0xb010, 31, 16⟩
def CIS_FOLD_HOLD : RF := ⟨0xb010, 3, 0⟩
def CIS_ERR_INTEGRITY : RF := ⟨0xb020, 6, 6⟩
def CIS_ERR_AUDIT_WRAP : RF := ⟨0xb020, 5, 5⟩
def CIS_ERR_SNAP_INVALID : RF := ⟨0xb020, 4, 4⟩
def CIS_ERR_AUDIT_DROP : RF := ⟨0xb020, 3, 3⟩
def CIS_ERR_ARCH_LOST : RF := ⟨0xb020, 2, 2⟩
def CIS_ERR_STORM : RF := ⟨0xb020, 1, 1⟩
def CIS_ERR_CFG : RF := ⟨0xb020, 0, 0⟩
def CIS_IRQ_VEC : RF := ⟨0xb024, 20, 16⟩
def CIS_IRQ_EN : RF := ⟨0xb024, 6, 0⟩
def CIS_LIVE_FIRST_OFS : RF := ⟨0xb030, 23, 0⟩
def CIS_LIVE_HEAD_OFS : RF := ⟨0xb034, 23, 0⟩
def CIS_LIVE_FSEQ_LO_SEQ : RF := ⟨0xb038, 31, 0⟩
def CIS_LIVE_NSEQ_LO_SEQ : RF := ⟨0xb040, 31, 0⟩
def CIS_LIVE_FSEQ_HI_SEQ : RF := ⟨0xb03c, 15, 0⟩
def CIS_LIVE_NSEQ_HI_SEQ : RF := ⟨0xb044, 15, 0⟩
def CIS_CURSOR_OFS : RF := ⟨0xb048, 23, 0⟩
def CIS_AUD_OSEQ_LO_SEQ : RF := ⟨0xb050, 31, 0⟩
def CIS_AUD_OSEQ_HI_SEQ : RF := ⟨0xb054, 15, 0⟩
def CIS_AUD_NSEQ_LO_SEQ : RF := ⟨0xb058, 31, 0⟩
def CIS_AUD_NSEQ_HI_SEQ : RF := ⟨0xb05c, 15, 0⟩
def CIS_SNAP_PINNED (n : Nat) : RF := ⟨0xb080 + 4 * n, 31, 31⟩
def CIS_SNAP_INVALID (n : Nat) : RF := ⟨0xb080 + 4 * n, 30, 30⟩
def CIS_SNAP_CLASSES (n : Nat) : RF := ⟨0xb080 + 4 * n, 3, 2⟩
def CIS_WIN_DATA (n : Nat) : RF := ⟨0xb400 + 4 * n, 31, 0⟩
def CIS_CNT_COUNT (n : Nat) : RF := ⟨0xb100 + 4 * n, 31, 0⟩
def UPD_CTRL_LOCK : RF := ⟨0xc000, 31, 31⟩
def UPD_CTRL_HOST_CONFIRM : RF := ⟨0xc000, 1, 1⟩
def UPD_CTRL_SPAN_IN : RF := ⟨0xc000, 0, 0⟩
def UPD_STAT_RUN_SLOT : RF := ⟨0xc004, 31, 31⟩
def UPD_STAT_TRIAL : RF := ⟨0xc004, 30, 30⟩
def UPD_STAT_RESCUE : RF := ⟨0xc004, 29, 29⟩
def UPD_STAT_VERIFYING : RF := ⟨0xc004, 28, 28⟩
def UPD_STAT_TRIAL_LEFT : RF := ⟨0xc004, 15, 0⟩
def UPD_CFG_HEALTH_WIN : RF := ⟨0xc008, 31, 16⟩
def UPD_CFG_EP_KEY_SLOT : RF := ⟨0xc008, 13, 8⟩
def UPD_CFG_MOD_KEY_SLOT : RF := ⟨0xc008, 5, 0⟩
def UPD_SVN_FLOOR : RF := ⟨0xc00c, 31, 0⟩
def UPD_ACT_LO_SEC : RF := ⟨0xc010, 31, 0⟩
def UPD_ACT_HI_PENDING : RF := ⟨0xc014, 31, 31⟩
def UPD_ACT_HI_SLOT : RF := ⟨0xc014, 16, 16⟩
def UPD_ACT_HI_SEC : RF := ⟨0xc014, 7, 0⟩
def UPD_SLOT_STATE (n : Nat) : RF := ⟨0xc020 + 4 * n, 31, 28⟩
def UPD_SLOT_CSTATE (n : Nat) : RF := ⟨0xc020 + 4 * n, 27, 24⟩
def UPD_SLOT_PIECES (n : Nat) : RF := ⟨0xc020 + 4 * n, 13, 0⟩
def UPD_ERR_NAND : RF := ⟨0xc080, 5, 5⟩
def UPD_ERR_RESCUE : RF := ⟨0xc080, 4, 4⟩
def UPD_ERR_SPAN_REJECT : RF := ⟨0xc080, 3, 3⟩
def UPD_ERR_FELLBACK : RF := ⟨0xc080, 2, 2⟩
def UPD_ERR_VERIFY_FAIL : RF := ⟨0xc080, 1, 1⟩
def UPD_ERR_CFG : RF := ⟨0xc080, 0, 0⟩
def UPD_IRQ_VEC : RF := ⟨0xc084, 20, 16⟩
def UPD_IRQ_EN : RF := ⟨0xc084, 5, 0⟩
def UPD_CNT_COUNT (n : Nat) : RF := ⟨0xc100 + 4 * n, 31, 0⟩
def FTN_CTRL_LOCK : RF := ⟨0xd000, 31, 31⟩
def FTN_CTRL_QUIET_OFF : RF := ⟨0xd000, 2, 2⟩
def FTN_CTRL_BOOST_EN : RF := ⟨0xd000, 1, 1⟩
def FTN_CTRL_EN : RF := ⟨0xd000, 0, 0⟩
def FTN_STAT_JETS : RF := ⟨0xd004, 31, 16⟩
def FTN_STAT_ACTIVE : RF := ⟨0xd004, 15, 0⟩
def FTN_BOOST_VMAX : RF := ⟨0xd008, 24, 16⟩
def FTN_BOOST_FSW : RF := ⟨0xd008, 9, 0⟩
def FTN_BOOST_LIM_DMAX : RF := ⟨0xd00c, 25, 16⟩
def FTN_BOOST_LIM_ILIM_MV : RF := ⟨0xd00c, 7, 0⟩
def FTN_BOOST_STAT_OVP : RF := ⟨0xd010, 31, 31⟩
def FTN_BOOST_STAT_ILIM : RF := ⟨0xd010, 30, 30⟩
def FTN_BOOST_STAT_HEADROOM : RF := ⟨0xd010, 29, 16⟩
def FTN_BOOST_STAT_VOUT : RF := ⟨0xd010, 12, 0⟩
def FTN_PINTEST_SHORT_MV : RF := ⟨0xd014, 31, 16⟩
def FTN_PINTEST_PERIOD : RF := ⟨0xd014, 15, 0⟩
def FTN_ERR_BUS : RF := ⟨0xd020, 3, 3⟩
def FTN_ERR_SINK : RF := ⟨0xd020, 2, 2⟩
def FTN_ERR_GAMUT : RF := ⟨0xd020, 1, 1⟩
def FTN_ERR_CFG : RF := ⟨0xd020, 0, 0⟩
def FTN_IRQ_VEC : RF := ⟨0xd024, 20, 16⟩
def FTN_IRQ_EN : RF := ⟨0xd024, 3, 0⟩
def FTN_SINK_CFG_EN (n : Nat) : RF := ⟨0xd100 + 0x10 * n, 31, 31⟩
def FTN_SINK_CFG_PHASE (n : Nat) : RF := ⟨0xd100 + 0x10 * n, 28, 16⟩
def FTN_SINK_CFG_I_SET (n : Nat) : RF := ⟨0xd100 + 0x10 * n, 9, 0⟩
def FTN_SINK_DUTY_SRC (n : Nat) : RF := ⟨0xd104 + 0x10 * n, 31, 30⟩
def FTN_SINK_DUTY_CODE (n : Nat) : RF := ⟨0xd104 + 0x10 * n, 15, 0⟩
def FTN_SINK_STAT_OPEN (n : Nat) : RF := ⟨0xd108 + 0x10 * n, 31, 31⟩
def FTN_SINK_STAT_SHORT (n : Nat) : RF := ⟨0xd108 + 0x10 * n, 30, 30⟩
def FTN_SINK_STAT_OT (n : Nat) : RF := ⟨0xd108 + 0x10 * n, 29, 29⟩
def FTN_SINK_STAT_PIN (n : Nat) : RF := ⟨0xd108 + 0x10 * n, 28, 28⟩
def FTN_SINK_STAT_ACTIVE (n : Nat) : RF := ⟨0xd108 + 0x10 * n, 16, 16⟩
def FTN_SINK_STAT_HEADROOM (n : Nat) : RF := ⟨0xd108 + 0x10 * n, 15, 0⟩
def FTN_FLB_CFG_EN (n : Nat) : RF := ⟨0xd200 + 0x10 * n, 31, 31⟩
def FTN_FLB_CFG_MODE (n : Nat) : RF := ⟨0xd200 + 0x10 * n, 30, 30⟩
def FTN_FLB_CFG_DRIVERS (n : Nat) : RF := ⟨0xd200 + 0x10 * n, 28, 16⟩
def FTN_FLB_CFG_BASE (n : Nat) : RF := ⟨0xd200 + 0x10 * n, 11, 0⟩
def FTN_JET_STAT_STATE (n : Nat) : RF := ⟨0xd400 + 4 * n, 31, 30⟩
def FTN_JET_STAT_FLAGS (n : Nat) : RF := ⟨0xd400 + 4 * n, 15, 8⟩
def FTN_JET_STAT_PC (n : Nat) : RF := ⟨0xd400 + 4 * n, 7, 0⟩
def FTN_CNT_COUNT (n : Nat) : RF := ⟨0xd300 + 4 * n, 31, 0⟩
def OX_CTRL_LOCK : RF := ⟨0xe000, 31, 31⟩
def OX_CTRL_SIG_SLOT : RF := ⟨0xe000, 13, 8⟩
def OX_CTRL_SIG_REQ : RF := ⟨0xe000, 1, 1⟩
def OX_CTRL_AUTOSTART : RF := ⟨0xe000, 0, 0⟩
def OX_STAT_RET_RESTORE : RF := ⟨0xe004, 25, 24⟩
def OX_STAT_RIO1_SYNC : RF := ⟨0xe004, 21, 21⟩
def OX_STAT_RIO0_SYNC : RF := ⟨0xe004, 20, 20⟩
def OX_STAT_OVERRUNS : RF := ⟨0xe004, 17, 16⟩
def OX_STAT_SWITCH_PEND : RF := ⟨0xe004, 12, 12⟩
def OX_STAT_IDLE : RF := ⟨0xe004, 9, 8⟩
def OX_STAT_BANK : RF := ⟨0xe004, 4, 4⟩
def OX_STAT_STATE : RF := ⟨0xe004, 2, 0⟩
def OX_PROG_PROG_ID : RF := ⟨0xe008, 31, 0⟩
def OX_CYCLE_LAST_US : RF := ⟨0xe00c, 31, 0⟩
def OX_CYCLE_MAX_US : RF := ⟨0xe010, 31, 0⟩
def OX_RIO_OK_OK (n : Nat) : RF := ⟨0xe014 + 4 * n, 31, 0⟩
def OX_FORCES_COUNT : RF := ⟨0xe01c, 6, 0⟩
def OX_ERR_DALI : RF := ⟨0xe020, 9, 9⟩
def OX_ERR_MIRROR_LAG : RF := ⟨0xe020, 8, 8⟩
def OX_ERR_RET_LOST : RF := ⟨0xe020, 7, 7⟩
def OX_ERR_RET_FALLBACK : RF := ⟨0xe020, 6, 6⟩
def OX_ERR_RIO_LOST : RF := ⟨0xe020, 5, 5⟩
def OX_ERR_MAP_CONFLICT : RF := ⟨0xe020, 4, 4⟩
def OX_ERR_ARITH : RF := ⟨0xe020, 3, 3⟩
def OX_ERR_ADDR : RF := ⟨0xe020, 2, 2⟩
def OX_ERR_OVERRUN : RF := ⟨0xe020, 1, 1⟩
def OX_ERR_CFG : RF := ⟨0xe020, 0, 0⟩
def OX_IRQ_VEC : RF := ⟨0xe024, 20, 16⟩
def OX_IRQ_EN : RF := ⟨0xe024, 9, 0⟩
def OX_CNT_COUNT (n : Nat) : RF := ⟨0xe100 + 4 * n, 31, 0⟩
def KEY_CTRL_LOCK : RF := ⟨0x10000, 31, 31⟩
def KEY_CTRL_PUF_CLEAR : RF := ⟨0x10000, 2, 2⟩
def KEY_CTRL_TK_EXPORT_DIS : RF := ⟨0x10000, 1, 1⟩
def KEY_STAT_LC : RF := ⟨0x10004, 31, 29⟩
def KEY_STAT_ROOT : RF := ⟨0x10004, 28, 27⟩
def KEY_STAT_PENDING : RF := ⟨0x10004, 26, 26⟩
def KEY_STAT_SCAN_OK : RF := ⟨0x10004, 25, 25⟩
def KEY_STAT_FLOOR_FULL : RF := ⟨0x10004, 24, 24⟩
def KEY_STAT_AUTH_GEN : RF := ⟨0x10004, 23, 22⟩
def KEY_STAT_PUF_MAX_ERR : RF := ⟨0x10004, 13, 8⟩
def KEY_STAT_SLOTS : RF := ⟨0x10004, 6, 0⟩
def KEY_COUNTER_COUNT : RF := ⟨0x10008, 31, 0⟩
def KEY_FLOOR_BITS : RF := ⟨0x1000c, 13, 0⟩
def KEY_SQ_WORLD_SECURE : RF := ⟨0x10010, 15, 0⟩
def KEY_ERR_OTP_WRITE : RF := ⟨0x10020, 6, 6⟩
def KEY_ERR_PUF_MARGIN : RF := ⟨0x10020, 5, 5⟩
def KEY_ERR_STORE_FALLBACK : RF := ⟨0x10020, 4, 4⟩
def KEY_ERR_CNT_FALLBACK : RF := ⟨0x10020, 3, 3⟩
def KEY_ERR_UPDATE_FAIL : RF := ⟨0x10020, 2, 2⟩
def KEY_ERR_USE_DENIED : RF := ⟨0x10020, 1, 1⟩
def KEY_ERR_CFG : RF := ⟨0x10020, 0, 0⟩
def KEY_IRQ_VEC : RF := ⟨0x10024, 20, 16⟩
def KEY_IRQ_EN : RF := ⟨0x10024, 6, 0⟩
def KEY_SLOT_ATTR_ATTR (n : Nat) : RF := ⟨0x10100 + 4 * n, 31, 0⟩
def KEY_CNT_COUNT (n : Nat) : RF := ⟨0x10200 + 4 * n, 31, 0⟩
def OTP_STAT_AUTH_REVOKED : RF := ⟨0x11000, 23, 20⟩
def OTP_STAT_AUTH_WRITTEN : RF := ⟨0x11000, 19, 16⟩
def OTP_STAT_CFG_WRITTEN : RF := ⟨0x11000, 7, 4⟩
def OTP_STAT_CFG_VALID : RF := ⟨0x11000, 3, 0⟩
def PAR_CTRL_LOCK : RF := ⟨0x12000, 31, 31⟩
def PAR_CTRL_PAIR_EN : RF := ⟨0x12000, 0, 0⟩
def PAR_STAT_ROLE : RF := ⟨0x12004, 31, 29⟩
def PAR_STAT_UNIT : RF := ⟨0x12004, 28, 28⟩
def PAR_STAT_SYNCED : RF := ⟨0x12004, 27, 27⟩
def PAR_STAT_PARTNER : RF := ⟨0x12004, 26, 26⟩
def PAR_STAT_ACT_IN : RF := ⟨0x12004, 25, 25⟩
def PAR_STAT_ACT_OWN : RF := ⟨0x12004, 24, 24⟩
def PAR_STAT_HOLD : RF := ⟨0x12004, 23, 23⟩
def PAR_STAT_MIR_UP : RF := ⟨0x12004, 22, 22⟩
def PAR_STAT_EPOCH : RF := ⟨0x12004, 15, 0⟩
def PAR_ERR_CFG_ACK : RF := ⟨0x12020, 7, 7⟩
def PAR_ERR_DUAL_ACTIVE : RF := ⟨0x12020, 6, 6⟩
def PAR_ERR_FENCED : RF := ⟨0x12020, 5, 5⟩
def PAR_ERR_TAKEOVER : RF := ⟨0x12020, 4, 4⟩
def PAR_ERR_PARTNER_LOST : RF := ⟨0x12020, 3, 3⟩
def PAR_ERR_SYNC_LOST : RF := ⟨0x12020, 2, 2⟩
def PAR_ERR_MIR_DOWN : RF := ⟨0x12020, 1, 1⟩
def PAR_ERR_CFG : RF := ⟨0x12020, 0, 0⟩
def PAR_IRQ_VEC : RF := ⟨0x12024, 20, 16⟩
def PAR_IRQ_EN : RF := ⟨0x12024, 7, 0⟩
def FED_IRQ_VEC : RF := ⟨0x13024, 20, 16⟩
def FED_IRQ_EN : RF := ⟨0x13024, 7, 0⟩
def PAR_CNT_COUNT (n : Nat) : RF := ⟨0x12100 + 4 * n, 31, 0⟩
def FED_CTRL_LOCK : RF := ⟨0x13000, 31, 31⟩
def FED_CTRL_ALT_EN : RF := ⟨0x13000, 6, 6⟩
def FED_CTRL_ALT_PORT : RF := ⟨0x13000, 5, 4⟩
def FED_CTRL_ACT_EN : RF := ⟨0x13000, 2, 2⟩
def FED_CTRL_UDP_EN : RF := ⟨0x13000, 1, 1⟩
def FED_CTRL_EN : RF := ⟨0x13000, 0, 0⟩
def FED_ID_VALID : RF := ⟨0x13004, 31, 31⟩
def FED_ID_ID : RF := ⟨0x13004, 11, 0⟩
def FED_CFG_PTP_ROLE : RF := ⟨0x13008, 31, 24⟩
def FED_CFG_TTL : RF := ⟨0x13008, 23, 16⟩
def FED_CFG_ETYPE : RF := ⟨0x13008, 15, 0⟩
def FED_UDP_PIECE_RATE : RF := ⟨0x1300c, 31, 24⟩
def FED_UDP_PORT : RF := ⟨0x1300c, 15, 0⟩
def FED_PORT_STAT_LINK (n : Nat) : RF := ⟨0x13010 + 4 * n, 31, 31⟩
def FED_PORT_STAT_NEIGH (n : Nat) : RF := ⟨0x13010 + 4 * n, 30, 30⟩
def FED_PORT_STAT_NEIGH_ID (n : Nat) : RF := ⟨0x13010 + 4 * n, 11, 0⟩
def FED_ERR_FEEDER_STALE : RF := ⟨0x13020, 5, 5⟩
def FED_ERR_DUP_ID : RF := ⟨0x13020, 4, 4⟩
def FED_ERR_TTL : RF := ⟨0x13020, 3, 3⟩
def FED_ERR_NO_ROUTE : RF := ⟨0x13020, 2, 2⟩
def FED_ERR_BAD_MSG : RF := ⟨0x13020, 1, 1⟩
def FED_ERR_CFG : RF := ⟨0x13020, 0, 0⟩
def FED_CNT_COUNT (n : Nat) : RF := ⟨0x13100 + 4 * n, 31, 0⟩
def BST_CTRL_LOCK : RF := ⟨0x14000, 31, 31⟩
def BST_CTRL_PATROL : RF := ⟨0x14000, 1, 1⟩
def BST_CTRL_EN : RF := ⟨0x14000, 0, 0⟩
def BST_STAT_START : RF := ⟨0x14004, 31, 30⟩
def BST_STAT_BUSY : RF := ⟨0x14004, 29, 29⟩
def BST_STAT_TARGET : RF := ⟨0x14004, 7, 0⟩
def BST_CFG_PATROL_H : RF := ⟨0x14008, 31, 24⟩
def BST_CFG_LANE_PERIOD : RF := ⟨0x14008, 15, 0⟩
def BST_TILES_SPARES : RF := ⟨0x1400c, 17, 0⟩
def BST_ERR_REF : RF := ⟨0x14020, 4, 4⟩
def BST_ERR_SRAM_UE : RF := ⟨0x14020, 3, 3⟩
def BST_ERR_SPARE_EMPTY : RF := ⟨0x14020, 2, 2⟩
def BST_ERR_RETIRED : RF := ⟨0x14020, 1, 1⟩
def BST_ERR_CFG : RF := ⟨0x14020, 0, 0⟩
def BST_IRQ_VEC : RF := ⟨0x14024, 20, 16⟩
def BST_IRQ_EN : RF := ⟨0x14024, 4, 0⟩
def BST_CNT_COUNT (n : Nat) : RF := ⟨0x14100 + 4 * n, 31, 0⟩
def PWR_CTRL_LOCK : RF := ⟨0x15000, 31, 31⟩
def PWR_CTRL_PFW_PIN_EN : RF := ⟨0x15000, 8, 8⟩
def PWR_STAT_PF : RF := ⟨0x15004, 31, 31⟩
def PWR_STAT_VIN_OK : RF := ⟨0x15004, 30, 30⟩
def PWR_STAT_VBAK_OK : RF := ⟨0x15004, 29, 29⟩
def PWR_STAT_MODE : RF := ⟨0x15004, 28, 28⟩
def PWR_STAT_STEP : RF := ⟨0x15004, 23, 20⟩
def PWR_DOMAIN_STATE : RF := ⟨0x15008, 23, 0⟩
def PWR_RST_CAUSE : RF := ⟨0x1500c, 3, 0⟩
def PWR_VOLT_VIN : RF := ⟨0x15010, 31, 16⟩
def PWR_VOLT_VBAK : RF := ⟨0x15010, 15, 0⟩
def PWR_TEMP_LID : RF := ⟨0x15014, 15, 0⟩
def PWR_SSC_DDR : RF := ⟨0x15018, 2, 2⟩
def PWR_SSC_IOX : RF := ⟨0x15018, 1, 1⟩
def PWR_SSC_CORE : RF := ⟨0x15018, 0, 0⟩
def PWR_PF_DONE : RF := ⟨0x1501c, 31, 31⟩
def PWR_PF_COMMIT_US : RF := ⟨0x1501c, 15, 0⟩
def PWR_ERR_THERMAL : RF := ⟨0x15020, 3, 3⟩
def PWR_ERR_VBAK_LOW : RF := ⟨0x15020, 2, 2⟩
def PWR_ERR_PF : RF := ⟨0x15020, 1, 1⟩
def PWR_ERR_CFG : RF := ⟨0x15020, 0, 0⟩
def PWR_IRQ_VEC : RF := ⟨0x15024, 20, 16⟩
def PWR_IRQ_EN : RF := ⟨0x15024, 3, 0⟩
def PWR_CNT_COUNT (n : Nat) : RF := ⟨0x15100 + 4 * n, 31, 0⟩
def PIN_CTRL_LOCK : RF := ⟨0x16000, 31, 31⟩
def PIN_STRAP_STRAP : RF := ⟨0x16004, 3, 0⟩
def PIN_SLEW_SET : RF := ⟨0x16008, 15, 0⟩
def PIN_T1L_AMP : RF := ⟨0x1600c, 1, 0⟩
def PIN_DINFILT_FILT (n : Nat) : RF := ⟨0x16010 + 4 * n, 31, 0⟩
def PIN_DIN_LEVEL : RF := ⟨0x16028, 23, 0⟩
def PIN_TAMPER_EN : RF := ⟨0x1602c, 9, 8⟩
def PIN_TAMPER_LEVEL : RF := ⟨0x1602c, 5, 4⟩
def PIN_TAMPER_LATCH : RF := ⟨0x1602c, 1, 0⟩
end Reg

end Sys2Proof
end

