-- ==== Sys2Proof/Machine/StCistern.lean ====
section
/-! DEFINITION. The state of Cistern, the fault and event recorder (chapter 10). -/

namespace Sys2Proof.Machine

/-- A Cistern record before its bytes are laid out (R288). -/
structure CisRec where
  cls : Nat
  kind : Nat
  source : Nat
  seq : Nat
  /-- DT when the record was made -/
  dt : Nat
  payload : List Byte
  /-- MARK: 0xA5 valid, 0x5A cleared -/
  mark : Nat := 0xA5
  deriving DecidableEq, Repr

/-- A record in the live ring: its offset, when it was made, whether it is archived (R299, R300), and whether a tile of it was
zeroed, so that it fails R306 (R467). -/
structure LiveRec where
  body : CisRec
  ofs : Nat
  made : Nat
  archived : Bool := false
  torn : Bool := false
  deriving DecidableEq, Repr

/-- A snapshot's range (R308); PINNED, INVALID and CLASSES are in CIS_SNAPn. -/
structure Snap where
  first : Nat := 0
  last : Nat := 0
  deriving DecidableEq, Repr

/-- A storm bucket of one SOURCE (R298): its tokens, and the records suppressed since the last STORM record. -/
structure Bucket where
  tokens : Nat := 0
  /-- the DT second up to which its tokens have been gained -/
  sec : Nat := 0
  sup0 : Nat := 0
  sup1 : Nat := 0
  deriving DecidableEq, Repr

/-- A fold of one feeder (R296). -/
structure FoldCase where
  active : Bool := false
  /-- cause bits standing now: bit 0 Basin dead, bit 1 contactor open -/
  causes : Nat := 0
  /-- cause bits seen during the fold -/
  seen : Nat := 0
  count : Nat := 0
  lost : Nat := 0
  /-- elapsed time at which the condition began, and at which the last cause ended -/
  began : Nat := 0
  ended : Nat := 0
  deriving DecidableEq, Repr

/-- A POWER_LOSS report on hold (R297). -/
structure HeldLoss where
  eph : Nat
  feeder : Nat
  detail : Nat
  dt : Nat
  arrived : Nat
  deriving DecidableEq, Repr

/-- Everything of chapter 10 that no register holds. -/
structure CisSt where
  /-- the bytes of ring 0, 16 MiB (R299) -/
  ring0 : SMap Byte := []
  live : List LiveRec := []
  first : Nat := 0
  headOfs : Nat := 0
  fseq : Nat := 1
  nseq : Nat := 1
  /-- the NSEQ journalled in FRAM (R303) -/
  journal : TwoSlots Nat := { a := (0, 0), b := (0, 0) }
  /-- the first ring 0 SEQ after the last restart (R291) -/
  restartSeq : Nat := 1
  /-- stored records, by ring and SEQ, that fail their CRC (R302) -/
  bad : List (Nat × Nat) := []
  /-- the highest SEQ of each ring mirrored since this module was last active (R304) -/
  mirSeq : SMap (Option Nat) := []
  /-- a start-up has written its RESTART record before (R290, R303) -/
  started : Bool := false
  arch0 : List CisRec := []
  /-- ring 1 records waiting for FRAM, in FRAM alone, and in the archive; those of the archive whose FRAM space is not yet reused (R301) -/
  pend1 : List CisRec := []
  fram1 : List CisRec := []
  framOld : List CisRec := []
  arch1 : List CisRec := []
  nseq1 : Nat := 1
  /-- elapsed time of the last ring 1 archiving -/
  arch1At : Nat := 0
  snaps : SMap Snap := []
  /-- nonce of the standing challenge and when it was given (R310) -/
  nonce : Option (Nat × Nat) := none
  /-- the buckets of the sources that have taken tokens, and what every other source's bucket holds since a write of CIS_STORM, as
  tokens and DT second; `none` a full one (R298) -/
  buckets : SMap (Option Bucket) := []
  idle : Option (Nat × Nat) := none
  stormSec : Nat := 0
  folds : SMap FoldCase := []
  held : List HeldLoss := []
  deriving DecidableEq, Repr

end Sys2Proof.Machine
end

