-- ==== Sys2Proof/Machine/Crypto.lean ====
section
/-! DEFINITION. The cryptography that the spec names by standard: SHA-256 and SHA-384, HMAC (R169, R409), AES with CCM* (R168),
GCM, CMAC and RFC 3394 unwrap (R417, R427), ECDSA P-384 (R315, R416). The algorithms stand in those standards, not in the spec
(log entry 96). Tables are packed into one number, entry `i` at bit `i` times the entry's width. -/

namespace Sys2Proof.Machine

/-- Entry `i` of a packed table of `w`-bit entries. -/
def packed (t w i : Nat) : Nat := (t >>> (w * i)) % 2 ^ w

def toNats (l : List Byte) : List Nat := l.map BitVec.toNat
def toBytes (l : List Nat) : List Byte := l.map (BitVec.ofNat 8)

/-- Cut a list into pieces of `n`; `fuel` bounds their number. -/
def piecesOf {α : Type} (n : Nat) : Nat → List α → List (List α)
  | 0, _ => []
  | fuel + 1, l => if l.isEmpty then [] else l.take n :: piecesOf n fuel (l.drop n)

/-! ### SHA-2 (FIPS 180-4) -/

/-- What a SHA-2 function fixes: word width, rotations of the two large functions, rotations and shift of the two small ones,
round constants, first hash value. -/
structure Sha where
  w : Nat
  rounds : Nat
  big0 : Nat × Nat × Nat
  big1 : Nat × Nat × Nat
  small0 : Nat × Nat × Nat
  small1 : Nat × Nat × Nat
  k : Nat
  iv : List Nat

def sha256Table : Nat :=
  0x550C7DC3243185BE12835B01D807AA98AB1C5ED5923F82A459F111F13956C25BE9B5DBA5B5C0FBCF71374491428A2F98 +
  (0x76F988DA5CB0A9DC4A7484AA2DE92C6F240CA1CC0FC19DC6EFBE4786E49B69C1C19BF1749BDC06A780DEB1FE72BE5D74 <<< 384) +
  (0x53380D134D2C6DFC2E1B213827B70A851429296706CA6351D5A79147C6E00BF3BF597FC7B00327C8A831C66D983E5152 <<< 768) +
  (0x106AA070F40E3585D6990624D192E819C76C51A3C24B8B70A81A664BA2BFE8A192722C8581C2C92E766A0ABB650A7354 <<< 1152) +
  (0x8CC7020884C8781478A5636F748F82EE682E6FF35B9CCA4F4ED8AA4A391C0CB334B0BCB52748774C1E376C0819A4C116 <<< 1536) +
  (0xC67178F2BEF9A3F7A4506CEB90BEFFFA <<< 1920)

def sha512Table : Nat :=
  0x59F111F1B605D0193956C25BF348B538E9B5DBA58189DBBCB5C0FBCFEC4D3B2F7137449123EF65CD428A2F98D728AE22 +
  (0x550C7DC3D5FFB4E2243185BE4EE4B28C12835B0145706FBED807AA98A3030242AB1C5ED5DA6D8118923F82A4AF194F9B <<< 384) +
  (0xEFBE4786384F25E3E49B69C19EF14AD2C19BF174CF6926949BDC06A725C7123580DEB1FE3B1696B172BE5D74F27B896F <<< 768) +
  (0x76F988DA831153B55CB0A9DCBD41FBD44A7484AA6EA6E4832DE92C6F592B0275240CA1CC77AC9C650FC19DC68B8CD5B5 <<< 1152) +
  (0xD5A79147930AA725C6E00BF33DA88FC2BF597FC7BEEF0EE4B00327C898FB213FA831C66D2DB43210983E5152EE66DFAB <<< 1536) +
  (0x53380D139D95B3DF4D2C6DFC5AC42AED2E1B21385C26C92627B70A8546D22FFC142929670A0E6E7006CA6351E003826F <<< 1920) +
  (0xA81A664BBC423001A2BFE8A14CF1036492722C851482353B81C2C92E47EDAEE6766A0ABB3C77B2A8650A73548BAF63DE <<< 2304) +
  (0x106AA07032BBD1B8F40E35855771202AD69906245565A910D192E819D6EF5218C76C51A30654BE30C24B8B70D0F89791 <<< 2688) +
  (0x4ED8AA4AE3418ACB391C0CB3C5C95A6334B0BCB5E19B48A82748774CDF8EEB991E376C085141AB5319A4C116B8D2D0C8 <<< 3072) +
  (0x8CC702081A6439EC84C87814A1F0AB7278A5636F43172F60748F82EE5DEFB2FC682E6FF3D6B2B8A35B9CCA4F7763E373 <<< 3456) +
  (0xD186B8C721C0C207CA273ECEEA26619CC67178F2E372532BBEF9A3F7B2C67915A4506CEBDE82BDE990BEFFFA23631E28 <<< 3840) +
  (0x1B710B35131C471B113F9804BEF90DAE0A637DC5A2C898A606F067AA72176FBAF57D4F7FEE6ED178EADA7DD6CDE0EB1E <<< 4224) +
  (0x597F299CFC657E2A4CC5D4BECB3E42B6431D67C49C100D4C3C9EBE0A15C9BEBC32CAAB7B40C7249328DB77F523047D84 <<< 4608) +
  (0x6C44198C4A4758175FCB6FAB3AD6FAEC <<< 4992)

def Sha.v256 : Sha :=
  { w := 32, rounds := 64, big0 := (2, 13, 22), big1 := (6, 11, 25), small0 := (7, 18, 3), small1 := (17, 19, 10), k := sha256Table,
    iv := [0x6A09E667, 0xBB67AE85, 0x3C6EF372, 0xA54FF53A, 0x510E527F, 0x9B05688C, 0x1F83D9AB, 0x5BE0CD19] }

def Sha.v384 : Sha :=
  { w := 64, rounds := 80, big0 := (28, 34, 39), big1 := (14, 18, 41), small0 := (1, 8, 7), small1 := (19, 61, 6), k := sha512Table,
    iv := [0xCBBB9D5DC1059ED8, 0x629A292A367CD507, 0x9159015A3070DD17, 0x152FECD8F70E5939,
    0x67332667FFC00B31, 0x8EB44A8768581511, 0xDB0C2E0D64F98FA7, 0x47B5481DBEFA4FA4] }

def rotr (w n x : Nat) : Nat := ((x >>> n) ||| (x <<< (w - n))) % 2 ^ w
def Sha.large (h : Sha) (r : Nat × Nat × Nat) (x : Nat) : Nat := rotr h.w r.1 x ^^^ rotr h.w r.2.1 x ^^^ rotr h.w r.2.2 x
def Sha.small (h : Sha) (r : Nat × Nat × Nat) (x : Nat) : Nat := rotr h.w r.1 x ^^^ rotr h.w r.2.1 x ^^^ (x >>> r.2.2)

/-- One round on the working words a to h with the schedule's next sixteen words. -/
def Sha.round (h : Sha) (i : Nat) (v ws : List Nat) : List Nat :=
  let a := v.getD 0 0
  let b := v.getD 1 0
  let c := v.getD 2 0
  let e := v.getD 4 0
  let choose := (e &&& v.getD 5 0) ^^^ ((2 ^ h.w - 1 - e) &&& v.getD 6 0)
  let major := (a &&& b) ^^^ (a &&& c) ^^^ (b &&& c)
  let t := v.getD 7 0 + h.large h.big1 e + choose + packed h.k h.w i + ws.headD 0
  [(t + h.large h.big0 a + major) % 2 ^ h.w, a, b, c, (v.getD 3 0 + t) % 2 ^ h.w, e, v.getD 5 0, v.getD 6 0]

/-- The schedule moved on by a word. -/
def Sha.next (h : Sha) (ws : List Nat) : List Nat :=
  ws.tail ++ [(h.small h.small1 (ws.getD 14 0) + ws.getD 9 0 + h.small h.small0 (ws.getD 1 0) + ws.getD 0 0) % 2 ^ h.w]

/-- The hash value after one block of sixteen words. -/
def Sha.block (h : Sha) (v ws : List Nat) : List Nat :=
  let r := (List.range h.rounds).foldl (fun p i => (h.round i p.1 p.2, h.next p.2)) (v, ws)
  (v.zip r.1).map fun x => (x.1 + x.2) % 2 ^ h.w

/-- Sixteen big-endian words of a block. -/
def Sha.words (h : Sha) (b : List Byte) : List Nat := (List.range 16).map fun i => fieldBE b (h.w / 8 * i) (h.w / 8)

/-- The hash of a message, as its eight words. -/
def Sha.hash (h : Sha) (m : List Byte) : List Nat :=
  let size := 2 * h.w
  let zeros := (size - (m.length + 1 + h.w / 4) % size) % size
  let p := m ++ [0x80] ++ List.replicate zeros 0 ++ beBytes (h.w / 4) (8 * m.length)
  (piecesOf size p.length p).foldl (fun v b => h.block v (h.words b)) h.iv

@[irreducible] def sha256 (m : List Byte) : List Byte := (Sha.v256.hash m).flatMap (beBytes 4)
@[irreducible] def sha384 (m : List Byte) : List Byte := ((Sha.v384.hash m).take 6).flatMap (beBytes 8)

/-- HMAC-SHA-256 (FIPS 198-1): key, message. -/
def hmacSha256 (key m : List Byte) : List Byte :=
  let k := padTo 64 (if key.length ≤ 64 then key else sha256 key)
  sha256 (k.map (· ^^^ 0x5C) ++ sha256 (k.map (· ^^^ 0x36) ++ m))

/-! ### AES (FIPS 197) -/

def sboxTable : Nat :=
  0x1531D871F1E5A534CCF73F362693FDB7C072A49CAFA2D4ADF04759FA7DC982CA76ABD7FE2B670130C56F6BF27B777C63 +
  (0xCF584C4A39BECB6A5BB1FC20ED00D153842FE329B3D63B52A05A6E1B1A2C830975B227EBE28012079A059618C323C704 <<< 384) +
  (0x73195D643D7EA7C41744975FEC130CCDD2F3FF1021DAB6BCF5389D928F40A351A89F3C507F02F94585334D43FBAAEFD0 <<< 768) +
  (0x8AE7A65EAF4566CA94ED58D6D37C8E779E4959162ACD3C25C2406490A3A32E0DB0B5EDE14B8EE4688902A22DC4F8160 <<< 1152) +
  (0xDF2855CEE9871E9B948ED9691198F8E19E1DC186B95735610EF6034866B53E708A8BBD4B1F74DDE8C6B4A61C2E2578BA <<< 1536) +
  (0x16BB54B00F2D99416842E6BF0D89A18C <<< 1920)

def invSboxTable : Nat :=
  0x4EC3FA420B954CEE3D23C2A632947B54CBE9DEC444438E3487FF2F9B8239E37CFBD7F3819EA340BF38A53630D56A0952 +
  (0x849D8DA75746155EDAB9EDFD5048706C92B6655DCC5CA4D41698688664F6F87225D18B6D49A25B76B224D92866A12E08 <<< 384) +
  (0x73E6B4F0CECFF297EADC674F4111913A6B8A130103BDAFC1020F3FCA8F1E2CD00645B3B80558E4F70AD3BC8C00ABD890 <<< 768) +
  (0xF45ACD78FEC0DB9A2079D2C64B3E56FC1BBE18AA0E62B76F89C5291D711AF1476EDF751CE837F9E28535ADE72274AC96 <<< 1152) +
  (0x619953833CBBEBC8B0F52AAE4D3BE0A0EF9CC9939F7AE52D0D4AB519A97F51605FEC8027591012B131C7078833A8DD1F <<< 1536) +
  (0x7D0C2155631469E126D677BA7E042B17 <<< 1920)

/-- The product of a byte with x in the field of AES, and with a small constant. -/
def xtime (x : Nat) : Nat := if x < 128 then 2 * x else (2 * x) ^^^ 0x11B

def fieldMul (c x : Nat) : Nat :=
  let y := xtime x
  let z := xtime y
  let t := xtime z
  (if bit c 0 then x else 0) ^^^ (if bit c 1 then y else 0) ^^^ (if bit c 2 then z else 0) ^^^ (if bit c 3 then t else 0)

def xorNats (a b : List Nat) : List Nat := List.zipWith Nat.xor a b

/-- The key schedule: the words of four bytes, last first, extended to `n` words. -/
def keyWords (nk : Nat) : Nat → List (List Nat) → List (List Nat)
  | 0, l => l
  | n + 1, l =>
    let i := l.length
    let last := l.headD []
    let sub (w : List Nat) : List Nat := w.map (packed sboxTable 8)
    let rcon := (List.range (i / nk - 1)).foldl (fun r _ => xtime r) 1
    let t := if i % nk = 0 then xorNats (sub (last.tail ++ last.take 1)) [rcon, 0, 0, 0]
      else if 6 < nk ∧ i % nk = 4 then sub last else last
    keyWords nk n (xorNats (l.getD (nk - 1) []) t :: l)

/-- The round keys of a key of 16 or 32 bytes. -/
def roundKeys (key : List Byte) : List (List Nat) :=
  let nk := if key.length = 32 then 8 else 4
  let first := piecesOf 4 nk (toNats (padTo (4 * nk) key))
  piecesOf 16 (nk + 7) ((keyWords nk (4 * (nk + 7) - nk) first.reverse).reverse.flatMap id)

/-- A column mixed with the row of constants `m`. -/
def mixWith (m : List Nat) (b : List Nat) : List Nat :=
  (piecesOf 4 4 b).flatMap fun col => (List.range 4).map fun r =>
    (List.range 4).foldl (fun a j => a ^^^ fieldMul (m.getD ((j + 4 - r) % 4) 0) (col.getD j 0)) 0

def shiftRows (b : List Nat) : List Nat := (List.range 16).map fun i => b.getD ((5 * i) % 16) 0
def unshiftRows (b : List Nat) : List Nat := (List.range 16).map fun i => b.getD ((13 * i) % 16) 0

/-- One block enciphered under round keys. -/
def encWith : List (List Nat) → List Nat → List Nat
  | [], b => b
  | [k], b => xorNats (shiftRows (b.map (packed sboxTable 8))) k
  | k :: ks, b => encWith ks (xorNats (mixWith [2, 3, 1, 1] (shiftRows (b.map (packed sboxTable 8)))) k)

/-- One block deciphered under round keys, last first. -/
def decWith : List (List Nat) → List Nat → List Nat
  | [], b => b
  | [k], b => xorNats ((unshiftRows b).map (packed invSboxTable 8)) k
  | k :: ks, b => decWith ks (mixWith [14, 11, 13, 9] (xorNats ((unshiftRows b).map (packed invSboxTable 8)) k))

@[irreducible] def aesEnc (key b : List Byte) : List Byte :=
  match roundKeys key with
  | [] => b
  | k :: ks => toBytes (encWith ks (xorNats (toNats b) k))

@[irreducible] def aesDec (key b : List Byte) : List Byte :=
  match (roundKeys key).reverse with
  | [] => b
  | k :: ks => toBytes (decWith ks (xorNats (toNats b) k))

def xorBytes (a b : List Byte) : List Byte := List.zipWith BitVec.xor a b

/-- Data combined with the stream of the counter blocks that `ctr` gives from `first` on. -/
def ctrWith (key : List Byte) (ctr : Nat → List Byte) (first : Nat) (d : List Byte) : List Byte :=
  xorBytes d ((List.range ((d.length + 15) / 16)).flatMap fun i => aesEnc key (ctr (first + i)))

/-- A CBC-MAC over whole blocks, from a chaining value. -/
def cbcMac (key x : List Byte) (d : List Byte) : List Byte :=
  (piecesOf 16 d.length d).foldl (fun x b => aesEnc key (xorBytes x b)) x

/-- Zeros up to a multiple of 16 bytes. -/
def pad16 (d : List Byte) : List Byte := d ++ List.replicate ((16 - d.length % 16) % 16) 0

/-! ### CCM* with a 13-byte nonce and an 8-byte MIC (R168) -/

/-- The counter block `i`. -/
def ccmCtr (nonce : List Byte) (i : Nat) : List Byte := 1 :: nonce ++ beBytes 2 i

/-- The MIC over a-data and m-data. -/
def ccmMic (key nonce a m : List Byte) : List Byte :=
  let b0 := (if a.isEmpty then 0x19 else 0x59) :: nonce ++ beBytes 2 m.length
  let l := if a.isEmpty then [] else pad16 ((if a.length < 0xFF00 then beBytes 2 a.length else 0xFF :: 0xFE :: beBytes 4 a.length) ++ a)
  xorBytes ((cbcMac key (List.replicate 16 0) (b0 ++ l ++ pad16 m)).take 8) (aesEnc key (ccmCtr nonce 0))

/-- The encrypted m-data and the MIC. -/
def ccmSeal (key nonce a m : List Byte) : List Byte := ctrWith key (ccmCtr nonce) 1 m ++ ccmMic key nonce a m

/-- The m-data of encrypted data with its MIC; `none` when the MIC does not verify. -/
def ccmOpen (key nonce a c : List Byte) : Option (List Byte) :=
  let n := c.length - 8
  let m := ctrWith key (ccmCtr nonce) 1 (c.take n)
  if 8 ≤ c.length ∧ ccmMic key nonce a m = c.drop n then some m else none

/-! ### GCM (SP 800-38D) with a 12-byte IV and a 16-byte tag, CMAC (SP 800-38B) -/

/-- The product in the field of GCM; the most significant bit of a block is the coefficient of 1. -/
def ghashMul (x y : Nat) : Nat :=
  ((List.range 128).foldl (fun (p : Nat × Nat) i =>
    (if bit x (127 - i) then p.1 ^^^ p.2 else p.1, if bit p.2 0 then (p.2 / 2) ^^^ (0xE1 <<< 120) else p.2 / 2)) (0, y)).1

def gcmTag (key iv a c : List Byte) : List Byte :=
  let h := beNat (aesEnc key (List.replicate 16 0))
  let d := pad16 a ++ pad16 c ++ beBytes 8 (8 * a.length) ++ beBytes 8 (8 * c.length)
  let g := (piecesOf 16 d.length d).foldl (fun y b => ghashMul (y ^^^ beNat b) h) 0
  xorBytes (beBytes 16 g) (aesEnc key (iv ++ beBytes 4 1))

def gcmSeal (key iv a m : List Byte) : List Byte :=
  let c := ctrWith key (fun i => iv ++ beBytes 4 i) 2 m
  c ++ gcmTag key iv a c

def gcmOpen (key iv a d : List Byte) : Option (List Byte) :=
  let n := d.length - 16
  let c := d.take n
  if 16 ≤ d.length ∧ gcmTag key iv a c = d.drop n then some (ctrWith key (fun i => iv ++ beBytes 4 i) 2 c) else none

def aesCmac (key m : List Byte) : List Byte :=
  let dbl (x : Nat) : Nat := if bit x 127 then (2 * x) % 2 ^ 128 ^^^ 0x87 else 2 * x
  let k1 := dbl (beNat (aesEnc key (List.replicate 16 0)))
  let n := 16 * ((max m.length 1 - 1) / 16)
  let last := m.drop n
  let l := if last.length = 16 then xorBytes last (beBytes 16 k1) else xorBytes (pad16 (last ++ [0x80])) (beBytes 16 (dbl k1))
  cbcMac key (List.replicate 16 0) (m.take n ++ l)

/-! ### RFC 3394 key unwrap -/

/-- The unwrapped key; `none` when the integrity value is wrong. -/
def keyUnwrap (key w : List Byte) : Option (List Byte) :=
  let n := w.length / 8 - 1
  let r := (List.range (6 * n)).foldl (fun (p : List Byte × List (List Byte)) k =>
      let t := 6 * n - k
      let b := aesDec key (xorBytes p.1 (beBytes 8 t) ++ p.2.getLastD [])
      (b.take 8, b.drop 8 :: p.2.dropLast)) (w.take 8, piecesOf 8 n (w.drop 8))
  if w.length % 8 = 0 ∧ 16 ≤ w.length ∧ r.1 = List.replicate 8 0xA6 then some r.2.flatten else none

/-! ### ECDSA P-384 (FIPS 186) -/

def p384 : Nat := 2 ^ 384 - 2 ^ 128 - 2 ^ 96 + 2 ^ 32 - 1
def n384 : Nat := 0xFFFFFFFFFFFFFFFFFFFFFFFFFFFFFFFFFFFFFFFFFFFFFFFFC7634D81F4372DDF581A0DB248B0A77AECEC196ACCC52973

/-- A power modulo `m`, over the exponent's `bits` bits. -/
def powMod (m b e : Nat) : Nat → Nat
  | 0 => 1 % m
  | k + 1 => let r := powMod m b (e / 2) k
    let q := r * r % m
    if e % 2 = 1 then q * b % m else q

/-- The inverse modulo the primes of the curve. -/
def invMod (m x : Nat) : Nat := powMod m x (m - 2) 384

/-- A point in Jacobian coordinates; z = 0 is the point at infinity. -/
structure CurvePt where
  x : Nat
  y : Nat
  z : Nat

def CurvePt.base : CurvePt := { x := 0xAA87CA22BE8B05378EB1C71EF320AD746E1D3B628BA79B9859F741E082542A385502F25DBF55296C3A545E3872760AB7, y := 0x3617DE4A96262C6F5D9E98BF9292DC29F8F41DBD289A147CE9DA3113B5F0B8C00A60B1CE1D7E819D7A431D7C90EA0E5F, z := 1 }

/-- A difference modulo p. -/
def subP (a b : Nat) : Nat := (a + p384 - b % p384) % p384

def CurvePt.dbl (a : CurvePt) : CurvePt :=
  let zz := a.z * a.z % p384
  let m := 3 * subP a.x zz * (a.x + zz) % p384
  let yy := a.y * a.y % p384
  let s := 4 * a.x * yy % p384
  let x := subP (m * m) (2 * s)
  { x := x, y := subP (m * subP s x) (8 * yy * yy), z := 2 * a.y * a.z % p384 }

def CurvePt.add (a b : CurvePt) : CurvePt :=
  if a.z = 0 then b
  else if b.z = 0 then a
  else
    let za := a.z * a.z % p384
    let zb := b.z * b.z % p384
    let u := a.x * zb % p384
    let h := subP (b.x * za) u
    let s := a.y * zb * b.z % p384
    let r := subP (b.y * za * a.z) s
    if h = 0 then (if r = 0 then a.dbl else { x := 1, y := 1, z := 0 })
    else
      let hh := h * h % p384
      let v := u * hh % p384
      let x := subP (r * r) (h * hh + 2 * v)
      { x := x, y := subP (r * subP v x) (s * h * hh), z := a.z * b.z * h % p384 }

/-- A multiple of a point, over the factor's `bits` bits. -/
def CurvePt.mul (a : CurvePt) (k : Nat) : Nat → CurvePt
  | 0 => { x := 1, y := 1, z := 0 }
  | n + 1 => let q := (a.mul (k / 2) n).dbl
    if k % 2 = 1 then q.add a else q

/-- The affine x coordinate. -/
def CurvePt.affineX (a : CurvePt) : Nat := let i := invMod p384 a.z; a.x * (i * i % p384) % p384

/-- The point (x, y) lies on the curve, whose coefficient b the base point fixes. -/
def onCurve (x y : Nat) : Bool :=
  let rhs (x y : Nat) : Nat := subP (y * y + 3 * x) (x * x % p384 * x)
  decide (x < p384 ∧ y < p384 ∧ rhs x y = rhs CurvePt.base.x CurvePt.base.y)

/-- r and s of a 48-byte digest under a private key, with the per-signature secret drawn from `nonce`. -/
@[irreducible] def ecdsaSign (key digest : List Byte) (nonce : Nat) : List Byte :=
  let k := nonce % (n384 - 1) + 1
  let r := (CurvePt.base.mul k 384).affineX % n384
  beBytes 48 r ++ beBytes 48 (invMod n384 k * (beNat digest + r * beNat key) % n384)

/-- The verdict on r and s under a public key x, y. -/
@[irreducible] def ecdsaVerify (pub digest sig : List Byte) : Bool :=
  let x := beNat (pub.take 48)
  let y := beNat (pub.drop 48)
  let r := beNat (sig.take 48)
  let s := beNat (sig.drop 48)
  let w := invMod n384 s
  let q := (CurvePt.base.mul (beNat digest * w % n384) 384).add (CurvePt.mul { x := x, y := y, z := 1 } (r * w % n384) 384)
  onCurve x y && decide (0 < r ∧ r < n384 ∧ 0 < s ∧ s < n384 ∧ q.z ≠ 0 ∧ q.affineX % n384 = r)

end Sys2Proof.Machine
end

