-- ==== Sys2Proof/Machine/StKeys.lean ====
section
/-! DEFINITION. The state of Coop, the key store, and of the life cycle (chapter 14). -/

namespace Sys2Proof.Machine

/-- A Coop slot: its attribute word, 0 when it is empty, and its key in two shares, key xor m and m (R411, R414). -/
structure KeySlot where
  attr : Nat := 0
  share : List Byte := []
  mask : List Byte := []
  deriving DecidableEq, Repr

/-- The key of a slot. -/
def KeySlot.value (k : KeySlot) : List Byte := k.share.zipIdx.map fun x => x.1 ^^^ k.mask.getD x.2 0

/-- A copy of the key store in NAND (R414): its sequence number, and its slots sealed under the KEK of a SALT. -/
structure StoreCopy where
  seq : Nat
  sealed : List Byte := []
  ok : Bool := true
  deriving DecidableEq, Repr

/-- A FRAM Coop record (R414, R417): the counter, and sequence number and SHA-256 of the newest copy of the store. `ok`: its CRC-32C,
which is written last, is good. -/
structure CoopRec where
  seq : Nat
  counter : Nat := 0
  store : Nat := 0
  hash : List Byte := []
  ok : Bool := true
  deriving DecidableEq, Repr

/-- The FRAM life-cycle record (R409, R420): it mirrors the state and holds SALT. -/
structure LcRec where
  state : Nat
  salt : List Byte
  deriving DecidableEq, Repr

/-- The pending record of a transition (R422): the new state and SALT, and the OP and COUNTER of its cause. -/
structure LcPend where
  state : Nat
  salt : List Byte
  op : Nat
  counter : Nat
  deriving DecidableEq, Repr

/-- What is left to do of an accepted key update or a KEY_SCRAP (R417, R419, R422). -/
inductive KeyStage where
  /-- write or zeroise the slot and write the store; the two burns of AUTH_ROTATE; that of OTP_CONFIG -/
  | store | hash | revoke | config
  /-- the steps 1 to 5 of a transition -/
  | pend | burn | zeroise | lcRecord | lcEvent
  /-- the FRAM Coop record, and its CRC-32C; events, audit record and completion -/
  | record | crc | done
  deriving DecidableEq, Repr

/-- A key update or KEY_SCRAP (OP 6) that is being committed: its message, the key that it unwrapped, the life-cycle state before it, the
slots that it zeroised, and its command. -/
structure KeyJob where
  op : Nat
  target : Nat
  gen : Nat := 0
  counter : Nat := 0
  attr : Nat := 0
  body : List Byte := []
  old : Nat := 0
  gone : Nat := 0
  seq : Nat
  left : List KeyStage
  deriving DecidableEq, Repr

/-- The HMAC_DRBG (R410): Key, V, and the requests since it was last seeded. -/
structure Drbg where
  key : List Byte := []
  v : List Byte := []
  count : Nat := 0
  deriving DecidableEq, Repr

/-- The debug port (R420). -/
inductive DebugPort where
  | locked | opened
  deriving DecidableEq, Repr

/-- The slot that verifies the image that the part was delivered with (R411, R412; log entry 95): TYPE 4, verify, update engine, secure
world, states MANUFACTURE to SCRAP. -/
def deliveredSlot : KeySlot := { attr := 0x3E410810, share := Config.deliveredKey }

/-- A slot as the store lays it out: its attribute word, and its key padded to the longest (log entry 99). -/
def KeySlot.bytes (k : KeySlot) : List Byte := leBytes 4 k.attr ++ padTo 96 k.value

/-- The store of 64 slots, sealed under a KEK as copy `seq` (R414; log entry 99). -/
def sealStore (kek : List Byte) (seq : Nat) (slots : List KeySlot) : List Byte :=
  gcmSeal kek (leBytes 12 seq) [] (slots.flatMap KeySlot.bytes)

/-- The store as delivered. -/
def deliveredStore : List Byte := sealStore Config.deliveredKek 0 (deliveredSlot :: List.replicate 63 {})

/-- The position of the highest burned bit of a life-cycle field, plus 1, or 0 (R420). -/
def lcOf (b : Nat) : Nat := ((List.range 5).filter (bit b)).foldl (fun a i => max a (i + 1)) 0

/-- Everything of chapter 14 that no register holds. -/
structure KeySt where
  /-- the slots by position, and the position of each slot (R414) -/
  slots : SMap KeySlot := []
  places : List Nat := []
  /-- OTP bits burned since delivery (R425) -/
  burned : SMap Byte := []
  /-- the root secret, while it is held (R407) -/
  root : Option (List Byte) := none
  lcRec : LcRec := { state := lcOf (Config.otp 0x40).toNat, salt := Config.deliveredSalt }
  lcPend : Option LcPend := none
  copies : List StoreCopy := [{ seq := 0, sealed := deliveredStore }]
  recs : List CoopRec := [{ seq := 1, hash := sha256 deliveredStore }, { seq := 2, hash := sha256 deliveredStore }]
  job : Option KeyJob := none
  drbg : Drbg := {}
  debug : DebugPort := .locked
  deriving DecidableEq, Repr

end Sys2Proof.Machine
end

