-- ==== Sys2Proof/Machine/StPads.lean ====
section
/-! DEFINITION. The signal pads: their direction, power domain, and state in reset (R433, R503). Ground and unconnected pads carry
nothing. -/

namespace Sys2Proof.Machine

/-- A signal pad, or the pads of a bus: PWM0-2, MOD_CLK0-3, sinks and so on by number; DOUT0-15 as one word. -/
inductive Pad where
  | vin | vbak | vioOut
  | rfa | rfb | rf24
  | pcieTx (n : Nat) | pcieRx (n : Nat) | refclk | perstN
  /-- SPAN0, SPAN1 and MIR -/
  | serdesTx (n : Nat) | serdesRx (n : Nat)
  | t1l (n : Nat)
  | modDat (n : Nat) | modClk (n : Nat)
  | din (n : Nat) | dout | ain (n : Nat) | pwm (n : Nat)
  | rioTx (p : Nat) | rioDe (p : Nat) | rioRx (p : Nat)
  | daliTx (p : Nat) | daliRx (p : Nat)
  /-- FLBp_CLK or TX, FLBp_DAT or RX, FLBp_LAT or DE -/
  | flbClk (p : Nat) | flbDat (p : Nat) | flbLat (p : Nat)
  | sink (n : Nat) | ftnGate | ftnCs | ftnVsense
  | ppsIn | ppsOut | actOut | holdOut | actIn
  | rstN | testN | pfwN
  | strap (n : Nat)
  | dbgTck | dbgTms | dbgTdi | dbgTrstN | dbgTdo
  | tamp (n : Nat)
  deriving DecidableEq, Repr

/-- Direction of a pad; that of the data pads of a feature bus port follows its mode. -/
inductive PadDir where
  | powerIn | powerOut | rf | diffIn | diffOut | diffBidir | input | output | analogueIn | currentSink | perMode
  deriving DecidableEq, Repr

/-- What a pad shows in its reset state: high-impedance, with a weak pull or without; a low level; nothing on the line or antenna; a sink
that is off. -/
inductive Rest where
  | highZ | pullDown | pullUp | pullUp1M | low | idle | off
  deriving DecidableEq, Repr

def Pad.dir : Pad → PadDir
  | .vin | .vbak => .powerIn
  | .vioOut => .powerOut
  | .rfa | .rfb | .rf24 => .rf
  | .pcieTx _ | .serdesTx _ => .diffOut
  | .pcieRx _ | .serdesRx _ | .refclk => .diffIn
  | .t1l _ => .diffBidir
  | .ain _ | .ftnCs | .ftnVsense => .analogueIn
  | .sink _ => .currentSink
  | .flbClk _ | .flbDat _ | .flbLat _ => .perMode
  | .modClk _ | .dout | .pwm _ | .rioTx _ | .rioDe _ | .daliTx _ | .ftnGate | .ppsOut | .actOut | .holdOut | .dbgTdo => .output
  | .perstN | .modDat _ | .din _ | .rioRx _ | .daliRx _ | .ppsIn | .actIn | .rstN | .testN | .pfwN | .strap _ | .dbgTck | .dbgTms
  | .dbgTdi | .dbgTrstN | .tamp _ => .input

/-- The power domain of a pad, where it has one. -/
def Pad.dom : Pad → Option Nat
  | .vin | .vioOut => none
  | .vbak | .pfwN | .tamp _ => some 0
  | .rstN | .testN | .strap _ | .dbgTck | .dbgTms | .dbgTdi | .dbgTrstN | .dbgTdo => some 2
  | .serdesTx _ | .serdesRx _ | .t1l _ | .ppsIn | .ppsOut | .actOut | .holdOut | .actIn => some 3
  | .pcieTx _ | .pcieRx _ | .refclk | .perstN => some 4
  | .rfa => some 5
  | .rfb => some 6
  | .rf24 => some 7
  | .modDat _ | .modClk _ => some 10
  | .din _ | .dout | .ain _ | .pwm _ | .rioTx _ | .rioDe _ | .rioRx _ | .daliTx _ | .daliRx _ | .flbClk _ | .flbDat _ | .flbLat _
  | .sink _ | .ftnGate | .ftnCs | .ftnVsense => some 11

/-- The pads behind the hardware gate (R433). -/
def Pad.gated : Pad → Bool
  | .dout | .pwm _ | .rioTx _ | .rioDe _ | .daliTx _ | .flbClk _ | .flbDat _ | .flbLat _ | .sink _ | .ftnGate | .modClk _ => true
  | _ => false

/-- The state in reset. -/
def Pad.rest : Pad → Rest
  | .modDat _ | .modClk _ | .dout | .pwm _ | .rioTx _ | .rioDe _ | .daliTx _ | .daliRx _ | .flbClk _ | .flbDat _ | .flbLat _ | .ppsIn
  | .actIn | .strap _ => .pullDown
  | .perstN | .rioRx _ | .rstN | .testN | .pfwN | .dbgTck | .dbgTms | .dbgTdi | .dbgTrstN => .pullUp
  | .tamp _ => .pullUp1M
  | .ftnGate | .ppsOut | .actOut | .holdOut => .low
  | .rfa | .rfb | .rf24 | .pcieTx _ | .serdesTx _ | .t1l _ => .idle
  | .sink _ | .vioOut => .off
  | .vin | .vbak | .pcieRx _ | .refclk | .serdesRx _ | .din _ | .ain _ | .ftnCs | .ftnVsense | .dbgTdo => .highZ

/-- What a pad shows: the value that its block drives, or its reset state. -/
inductive PadLevel where
  | driven (v : Nat)
  | rest (r : Rest)
  deriving DecidableEq, Repr

/-- What an output pad shows in its reset state: a pad that is then low, or off, shows 0. -/
def Pad.atRest (p : Pad) : PadLevel :=
  match p.rest with
  | .low | .off => .driven 0
  | r => .rest r

end Sys2Proof.Machine
end

