-- ==== Sys2Proof/Machine/StOut.lean ====
section
/-! DEFINITION. What leaves the module. The log of outputs is the model's own record of the effects that the spec gives
commands on the air, on links and on pads (log entry 8). -/

namespace Sys2Proof.Machine

/-- The form of a frame on the air (R119): MODE, FEC, octets of FCS, whitening, octets of preamble; or the KIND of a test. -/
structure AirForm where
  mode : Nat
  fec : Option Fec := none
  fcs : Nat := 2
  whiten : Bool := false
  pre : Nat := 0
  test : Option Nat := none
  deriving DecidableEq, Repr

/-- One output of the module. -/
inductive Out where
  /-- an MSI-X message of a vector (R529) -/
  | msi (vec : Nat)
  /-- a frame on the air: chain (0 A, 1 B, 2 RF24), channel, form, power in 0.25 dBm (R115), PSDU without its FCS -/
  | air (chain ch : Nat) (form : AirForm) (pwr : Int) (psdu : List Byte)
  /-- a mirror message on MIR, header included (R446) -/
  | mir (bytes : List Byte)
  /-- an Ethernet frame with a Span message on a port: destination and source MAC address, EtherType, message (R451) -/
  | span (port : Nat) (dst src : List Byte) (etype : Nat) (bytes : List Byte)
  /-- a UDP/IPv6 datagram with a Span message on a port: the peer's MAC and IPv6 address, the UDP port, message (R451) -/
  | udp (port : Nat) (mac ip : List Byte) (udpPort : Nat) (bytes : List Byte)
  /-- an output pad took a level or value, or its reset state -/
  | pad (p : Pad) (v : PadLevel)
  /-- a remote I/O exchange, a DALI forward frame, a feature bus frame -/
  | rio (port : Nat) (bytes : List Byte)
  | dali (port : Nat) (bytes : List Byte)
  | flb (port : Nat) (bytes : List Byte)
  deriving DecidableEq, Repr

end Sys2Proof.Machine
end

