-- ==== Sys2Proof/Machine/StPins.lean ====
section
/-! DEFINITION. The state of the pads (chapter 18) that no register holds. -/

namespace Sys2Proof.Machine

/-- Values that blocks drive on output pads, what output pads show (an unlisted one its reset state), and the latest AIN conversions in
V (binary32). -/
structure PinSt where
  drive : List (Pad × Nat) := []
  shown : List (Pad × PadLevel) := []
  ain : List Word := []
  deriving DecidableEq, Repr

end Sys2Proof.Machine
end

