-- ==== Sys2Proof/Machine/StPwr.lean ====
section
/-! DEFINITION. The state of power, start-up and self-test (chapters 16 and 17) that no register holds. -/

namespace Sys2Proof.Machine

/-- What holds the module (R485, R492, R495): waiting for VIN after AO was lost, running, in HOLDOVER, held by the clock monitor,
or in scan mode (R477). -/
inductive PwrPhase where
  | por | on | holdover | clockHeld | scan
  deriving DecidableEq, Repr

/-- The power-fail record in FRAM (R490): DT of the warning, duration in µs, DONE. -/
structure PfRec where
  dt : Nat
  us : Nat
  done : Bool
  deriving DecidableEq, Repr

/-- A change of a domain that is on its way (R484): its command, the domain and the state. -/
structure DomChange where
  seq : Nat
  dom : Nat
  goal : Nat
  deriving DecidableEq, Repr

/-- Everything of chapter 17 that no register holds. -/
structure PwrSt where
  phase : PwrPhase := .por
  /-- the registers in the configuration checkpoint: an unlisted one holds its reset value (log entry 100) -/
  ckRegs : SMap Word := []
  /-- the tables of the checkpoint as the last change of them left it (R442) -/
  ckTold : CfgTables := {}
  /-- the bytes of the tables as mirror messages of the partner left them (R442) -/
  ckBytes : List Byte := []
  /-- there is a configuration checkpoint, and the module mode stored in it (R432, R485) -/
  ckHas : Bool := false
  ckMode : Nat := 0
  pfRec : Option PfRec := none
  /-- the power-fail history: records committed, newest first (R32) -/
  pfHist : List PfRec := []
  /-- the two NAND generations of the configuration checkpoint, and that the newer one cannot be read (R32, R471) -/
  ckNand : TwoSlots CfgGen := ⟨(0, {}), (0, {})⟩
  ckLost : Bool := false
  /-- elapsed time plus 1 of the warning since the last cold start -/
  pfAt : Nat := 0
  /-- the lid has been at or above 100 °C and not since below 95 °C (R501) -/
  hot : Bool := false
  /-- VBAK was below 2.0 V since VIN was lost: AO is lost (R492) -/
  aoLost : Bool := false
  changes : List DomChange := []
  /-- TAMPER records that wait for step 9, as the inputs latched; DT of the first latching (R522) -/
  tamperDue : List Nat := []
  tamperDt : Nat := 0
  deriving DecidableEq, Repr

/-- A test of a target that runs for a command (R478): R476's recovery, and the elapsed time of its start. -/
structure BstTest where
  target : Nat
  ref : CmdRef
  recover : Bool
  since : Nat
  deriving DecidableEq, Repr

/-- Everything of chapter 16 that no register holds. -/
structure BstSt where
  /-- retired tiles, oldest first: the retirement map in NAND (R467) -/
  tiles : List Nat := []
  /-- lanes that failed, by target code (R473) -/
  lanes : List Nat := []
  /-- the lane that Cascade's spare, and that Weir's spare, stands in for -/
  casSub : Option Nat := none
  weiSub : Option Nat := none
  tests : List BstTest := []
  /-- elapsed time plus 1 of the last in-service test of a target (R473) -/
  tested : SMap Nat := []
  /-- next tile of the patrol, and elapsed time plus 1 of the pass's start, and of the last scrub of SRAM (R469, R470) -/
  patrol : Nat := 0
  patrolAt : Nat := 0
  scrubAt : Nat := 0
  deriving DecidableEq, Repr

end Sys2Proof.Machine
end

