-- ==== Sys2Proof/Machine/StTime.lean ====
section
/-! DEFINITION. The state of the time block (chapter 03). -/

namespace Sys2Proof.Machine

/-- The six fields of a calendar value as written, not normalised (R101). -/
structure Cal where
  year : Nat
  month : Nat
  day : Nat
  hour : Nat
  min : Nat
  sec : Nat
  deriving DecidableEq, Repr

/-- A host step that waits for its boundary (R99): the command and the value or signed offset. -/
structure RingStep where
  cmdSeq : Nat
  adjust : Bool
  value : Int
  deriving DecidableEq, Repr

/-- A LOCAL_RULE_SET that waits for its boundary (R105): command and the three register words. -/
structure RulePend where
  cmdSeq : Nat
  ofs : Nat
  start : Nat
  stop : Nat
  deriving DecidableEq, Repr

/-- A periodic wake (R109): elapsed time of the last wake and the period that runs now. -/
structure WakeSt where
  last : Nat := 0
  period : Nat := 0
  deriving DecidableEq, Repr

/-- A leap second on a day: `insert` or delete (R93). -/
structure Leap where
  insert : Bool
  day : Nat
  deriving DecidableEq, Repr

/-- Everything of chapter 03 that no register holds. DT and elapsed time are in State. -/
structure TimeSt where
  /-- the staged calendar; STAGED is 1 while there is one (R101) -/
  staged : Option Cal := none
  /-- MODE of the register commit that awaits its boundary; 0 for none (R97) -/
  commitMode : Nat := 0
  ringSteps : List RingStep := []
  rules : List RulePend := []
  /-- elapsed time plus 1 of the last boundary that was handled (R99) -/
  boundary : Nat := 0
  /-- offset in ns that the servo will step by (R91) -/
  servoStep : Option Int := none
  /-- offset in ns that the servo is slewing out, and the rate remainder -/
  slewLeft : Int := 0
  slewAcc : Nat := 0
  /-- elapsed time of the last accepted Sync, and whether the PTP source counts as lost (R89) -/
  lastSync : Nat := 0
  ptpLost : Bool := true
  /-- the source on TIM_CTRL.PTP_PORT is lost, so that PTP is taken from ALT_PORT while ALT_EN is 1 (R462) -/
  onAlt : Bool := false
  /-- missing PPS edges in a row, and the second of the last window judged -/
  ppsMissing : Nat := 0
  ppsLastSec : Nat := 0
  ppsLost : Bool := true
  /-- measurements within 10 µs in a row (R88) -/
  lockRun : Nat := 0
  /-- elapsed time at which QUAL last left LOCKED (R89) -/
  leftLocked : Option Nat := none
  /-- leap second announced by the PTP source (R93, R94) -/
  ptpLeap : Option Leap := none
  /-- the slew in progress, its end S, and the rate remainder (R93) -/
  leap : Option Leap := none
  leapAcc : Nat := 0
  /-- DT up to which crossings of alarm n have been judged (R106) -/
  almSeen : SMap Nat := []
  wakes : SMap WakeSt := []
  /-- the PPS_OUT pad, when it rose, and the instant at which it rose last, as elapsed time and DT (R92) -/
  ppsOut : Bool := false
  ppsRise : Nat := 0
  ppsAt : Option (Nat × Nat) := none
  /-- the first DT unit that the last tick or step of DT brought; past DT when it brought none (R24) -/
  since : Nat := 1
  /-- AO bit: QUAL has left UNSET since POR (R88) -/
  rtcValid : Bool := false
  deriving DecidableEq, Repr

end Sys2Proof.Machine
end

