-- ==== Sys2Proof/Machine/StUpd.lean ====
section
/-! DEFINITION. The state of the update engine (chapter 11). -/

namespace Sys2Proof.Machine

/-- A slot (R314, R317): TOTAL, IMAGE_ID and the pieces held, in FRAM and NAND. `delivered` marks the module image that the part
was delivered with, whose content the spec does not give. -/
structure UpdSlot where
  state : Nat := 0
  total : Nat := 0
  image : Nat := 0
  pieces : SMap (List Byte) := []
  delivered : Bool := false
  deriving DecidableEq, Repr

/-- The manifest of the image in a module slot, and its VERSION (R315). -/
def UpdSlot.manifest (x : UpdSlot) : List Byte := if x.delivered then Config.deliveredManifest else (x.pieces.get 0 []).take 512
def UpdSlot.version (x : UpdSlot) : List Byte := sliceB x.manifest 12 4

/-- An image window (R328): first slot period, channel, the blocks it carries, the slot period after the last block sent, and the
chain that carries it, from its first block on. -/
structure ImgWin where
  sp : Nat
  ch : Nat
  blocks : List Nat
  next : Nat
  chain : Option Nat := none
  deriving DecidableEq, Repr

/-- The activation commit of a campaign (R332, R333): COMMIT_ID, the DT of the tally, and its command. -/
structure ActPlan where
  id : Nat
  tally : Nat
  ref : Option CmdRef
  deriving DecidableEq, Repr

/-- A campaign (R326, R331). STATE is CSTATE: 0 IDLE, 1 SENDING, 2 DONE, 3 ACTIVATING, 4 CLOSED. -/
structure Campaign where
  state : Nat := 0
  targets : List Nat := []
  group : Nat := 0
  all : Bool := false
  burst : Nat := 1
  gap : Nat := 1
  roundGap : Nat := 60
  maxRounds : Nat := 1
  sendFrom : Nat := 0
  sendTo : Nat := 0
  ref : Option CmdRef := none
  rounds : Nat := 0
  /-- DT second from which the next round may start -/
  nextRound : Nat := 0
  /-- blocks of the round that no window holds yet, and the DT second of their next window -/
  todo : List Nat := []
  nextWin : Nat := 0
  wins : List ImgWin := []
  /-- the first window of a later round, as the Rooster of the second before announces it: its DT second and channel -/
  ahead : Option (Nat × Nat) := none
  /-- targets with a summary for the image since the offer -/
  seen : SMap Bool := []
  act : Option ActPlan := none
  /-- targets that reported REFUSED or IGNORED for the activation -/
  notActed : List Nat := []
  deriving DecidableEq, Repr

/-- The boot record (R322, R324): trial slot, the slot before it, TRIES, HEALTH_WIN, and whether the trial has been booted. -/
structure BootRec where
  slot : Nat
  prev : Nat
  tries : Nat
  win : Nat
  booted : Bool
  deriving DecidableEq, Repr

/-- A scheduled activation (R321): slot, ACT_DT, whether it has fallen due, and the elapsed time at which fetching stopped for it
(R322). -/
structure ActSched where
  slot : Nat
  actDt : Nat
  due : Bool := false
  since : Option Nat := none
  deriving DecidableEq, Repr

/-- Everything of chapter 11 that no register holds. -/
structure UpdSt where
  /-- slots: 0 and 1 are module slots A and B, 2 + s is endpoint slot s; as delivered, A holds the image in service (log entry 95) -/
  slots : SMap UpdSlot := [(0, { state := 5, delivered := true })]
  camps : SMap Campaign := []
  /-- verifications in progress: slot, command, and the key as it was read at their start (R413) -/
  verifying : List (Nat × CmdRef × Option (List Byte)) := []
  act : Option ActSched := none
  boot : Option BootRec := none
  runSlot : Nat := 0
  floor : Nat := 0
  /-- elapsed time at which the reset before the trial ended, and the host has sent UPD_CONFIRM -/
  trialSince : Nat := 0
  hostConfirm : Bool := false
  rescue : Bool := false
  deriving DecidableEq, Repr

end Sys2Proof.Machine
end

