-- ==== Sys2Proof/Machine/State.lean ====
section
/-! DEFINITION. The state of the module: every register, memory, queue, counter, mode and pad of the spec, and the
queue of waiting commands. -/

namespace Sys2Proof.Machine

/-- Why the machine stops with a fault. -/
inductive Fault where
  /-- Raised by no command: every event of the spec has an effect on the state (log entry 12). Safe. -/
  | impossibleInput
  deriving DecidableEq, Repr

/-- Why a command has no meaning. -/
inductive Refusal where
  /-- Raised by exec's arm of a command that the model does not reach yet. Safe: the machine stops. -/
  | notModelled (mnemonic : String)
  deriving DecidableEq, Repr

/-- The machine. -/
structure State where
  /-- commands that wait, first in, first out -/
  pending : List Instr := []
  /-- the BAR0 registers: a register that is not listed holds its reset value (R14, R20, R528) -/
  regs : SMap Word := []
  /-- module time, in 1/65,536 s units modulo 2^56 (R5, R87) -/
  dt : Nat := 0
  /-- elapsed time in 1/65,536 s units, which no step or slew enters (R109) -/
  el : Nat := 0
  /-- number of the next free value (the model's own, log entry 7) -/
  freeN : Nat := 0
  /-- what left the module, oldest first (the model's own, log entry 8) -/
  sent : List Out := []
  host : HostSt := {}
  time : TimeSt := {}
  cis : CisSt := {}
  rad : RadSt := {}
  mac : TaminSt := {}
  street : StreetSt := {}
  cas : CasSt := {}
  bas : BasinSt := {}
  weir : WeirSt := {}
  ftn : FtnSt := {}
  ox : OxSt := {}
  pair : PairSt := {}
  fed : FedSt := {}
  key : KeySt := {}
  pin : PinSt := {}
  upd : UpdSt := {}
  pwr : PwrSt := {}
  bst : BstSt := {}
  deriving DecidableEq, Repr

/-- The machine right after a power-on reset: every register at its reset value, memories empty. -/
def State.reset : State := {}

end Sys2Proof.Machine
end

