-- ==== Sys2Proof/Machine/Flags.lean ====
section
/-! DEFINITION. Register fields, error flags with their interrupts, and occurrence counters (R14, R17, R529). -/

namespace Sys2Proof.Machine

/-- The word of the register at an offset, as stored. -/
def reg (s : State) (off : Nat) : Word := s.regs.get off (resetVal off)

/-- Store a register's word. -/
def setReg (s : State) (off : Nat) (v : Word) : State :=
  { s with regs := s.regs.set off v (resetVal off) }

/-- The value of a field (R4). -/
def fld (s : State) (f : RF) : Nat := bits (reg s f.off).toNat f.hi f.lo

/-- A one-bit field as a Bool. -/
def flag (s : State) (f : RF) : Bool := fld s f = 1

/-- A field as a signed number. -/
def sfld (s : State) (f : RF) : Int := toSigned (f.hi + 1 - f.lo) (fld s f)

/-- Store a field, leaving the register's other bits. -/
def setFld (s : State) (f : RF) (v : Nat) : State :=
  setReg s f.off (BitVec.ofNat 32 (putBits (reg s f.off).toNat f.hi f.lo v))

/-- Set or clear a one-bit field. -/
def setFlag (s : State) (f : RF) (b : Bool) : State := setFld s f (b2n b)

/-- Record an output of the module. -/
def send (s : State) (o : Out) : State := { s with sent := s.sent ++ [o] }

/-- Roles of PAR_STAT.ROLE (R465). -/
def role (s : State) : Nat := fld s Reg.PAR_STAT_ROLE

/-- BST_RECOVER has taken a self-test target out of service (R476; log entry 158). -/
def outOfService (s : State) (t : Nat) : Bool := s.bst.tests.any fun x => decide (x.target = t) && x.recover

/-- A Span message (R452): SRC, DST with BCAST, TTL, SEQ, MSG and body. -/
structure SpanMsg where
  msg : Nat
  src : Nat
  dst : Nat
  bcast : Bool
  ttl : Nat
  seq : Nat
  body : List Byte
  deriving DecidableEq, Repr

def SpanMsg.bytes (m : SpanMsg) : List Byte :=
  [0x10] ++ beBytes 1 m.msg ++ beBytes 2 m.body.length ++ beBytes 2 m.src ++ beBytes 2 (m.dst + 0x8000 * b2n m.bcast) ++
    beBytes 1 m.ttl ++ [0] ++ beBytes 4 m.seq ++ [0, 0] ++ m.body

/-- A mirror message: SRC and DST are the pair's module ID (R446). -/
def mirMsg (s : State) (msg seq : Nat) (body : List Byte) : SpanMsg :=
  { msg := msg, src := fld s Reg.FED_ID_ID, dst := fld s Reg.FED_ID_ID, bcast := false, ttl := 1, seq := seq, body := body }

/-- Send a mirror message; SEQ is counted by MSG (R446). -/
def mirSend (s : State) (msg : Nat) (body : List Byte) : State :=
  let n := s.pair.mirSeq.get msg 0 + 1
  send { s with pair := { s.pair with mirSeq := s.pair.mirSeq.set msg n 0 } } (.mir (mirMsg s msg n body).bytes)

/-- While ACTIVE, a module mirrors a stream to its partner (R442). -/
def mirror (s : State) (msg : Nat) (body : List Byte) : State := if role s = 2 then mirSend s msg body else s

/-- Raise an MSI-X vector: the message goes out, or the pending bit is set (R529). -/
def raiseVec (s : State) (v : Nat) : State :=
  let m := s.host.msix
  if m.enable && !m.fmask && m.unmasked.get v false then send s (.msi v)
  else { s with host := { s.host with msix := { m with pend := m.pend.set v true false } } }

/-- The interrupt register that belongs to an error register: GLB_IRQ is at 0x10, TIM has none, the others follow
their error register. -/
def irqOf (errOff : Nat) : Option Nat :=
  if errOff = 0x8 then some 0x10 else if errOff = 0x3008 then none else some (errOff + 4)

/-- Set an error flag; when it was 0 and its enable bit is 1, raise the block's vector (R86, log entry 9). -/
def setErr (s : State) (f : RF) : State :=
  if flag s f then s
  else
    let s1 := setFld s f 1
    match irqOf f.off with
    | none => s1
    | some irq => if bit (reg s irq).toNat f.lo then raiseVec s1 (fld s ⟨irq, 20, 16⟩) else s1

/-- Set several error flags. -/
def setErrs (s : State) (fs : List RF) : State := fs.foldl setErr s

/-- Add `k` to a 32-bit counter field; counters saturate. -/
def countBy (s : State) (f : RF) (k : Nat) : State :=
  setFld s f (min (fld s f + k) (2 ^ (f.hi + 1 - f.lo) - 1))

/-- Count one occurrence. -/
def count1 (s : State) (f : RF) : State := countBy s f 1

/-- A fresh free value below `2^w` (log entry 7). -/
def freeVal (s : State) (w : Nat) : Nat := Config.free s.freeN % 2 ^ w

/-- Draw the free value. -/
def drawFree (s : State) : State := { s with freeN := s.freeN + 1 }

/-- DT seconds, fraction, and a DT from both (R5). -/
def dtSec (t : Nat) : Nat := t / 65536
def dtFrac (t : Nat) : Nat := t % 65536
def dtOf (sec frac : Nat) : Nat := (sec * 65536 + frac) % 2 ^ 56

/-- At least `ms` milliseconds of elapsed time have passed since `t`. -/
def passedMs (s : State) (t ms : Nat) : Bool := decide (t * 1000 + ms * 65536 ≤ s.el * 1000)

/-- At least `us` microseconds of elapsed time have passed since `t`. -/
def passedUs (s : State) (t us : Nat) : Bool := decide (t * 1000000 + us * 65536 ≤ s.el * 1000000)

/-- At least `n` seconds of elapsed time have passed since `t`. -/
def passedSec (s : State) (t n : Nat) : Bool := decide (t + n * 65536 ≤ s.el)

end Sys2Proof.Machine
end

