-- ==== Sys2Proof/Machine/Ops.lean ====
section
/-! DEFINITION. The shared operations: host memory, Cistern records, event records, completions and ring recovery. -/

namespace Sys2Proof.Machine

/-! ### Host memory (R41, R50, R533) -/

/-- One byte of host memory. -/
def memByte (s : State) (a : Nat) : Byte := s.host.mem.get (a % 2 ^ 64) 0

/-- `n` bytes of host memory from address `a`. -/
def memRead (s : State) (a n : Nat) : List Byte := (List.range n).map fun i => memByte s (a + i)

/-- Bytes stored from address `a` on. -/
def memPut : SMap Byte → Nat → List Byte → SMap Byte
  | m, _, [] => m
  | m, a, b :: r => memPut (m.set (a % 2 ^ 64) b 0) (a + 1) r

/-- The attributes of a bulk data write: relaxed ordering while Device Control enables it, never No Snoop (R39). -/
def bulkAttr (s : State) : TlpAttr := { relaxed := bit s.host.link.devCtl 4 }

/-- Write bulk data to host memory. -/
def memWrite (s : State) (a : Nat) (l : List Byte) : State :=
  { s with host := { s.host with mem := memPut s.host.mem a l, attr := bulkAttr s } }

/-- Write a completion entry or an event record to host memory: one request, never with relaxed ordering (R39, R43). -/
def entryWrite (s : State) (a : Nat) (l : List Byte) : State :=
  { s with host := { s.host with mem := memPut s.host.mem a l, attr := {} } }

/-- An access of `n` bytes at `a` fails: a failing range meets it (R533, log entry 4). -/
def memFails (s : State) (a n : Nat) : Bool :=
  decide (0 < n) && s.host.bad.any fun r => decide (r.1 < a + n) && decide (a < r.2)

/-! ### State of the queues -/

def sqAt (s : State) (n : Nat) : SqSt := s.host.sqs.get n {}
def cqAt (s : State) (n : Nat) : CqSt := s.host.cqs.get n {}
def eqAt (s : State) (n : Nat) : EqSt := s.host.eqs.get n {}

def setSq (s : State) (n : Nat) (q : SqSt) : State :=
  { s with host := { s.host with sqs := s.host.sqs.set n q {} } }
def setCq (s : State) (n : Nat) (q : CqSt) : State :=
  { s with host := { s.host with cqs := s.host.cqs.set n q {} } }
def setEq (s : State) (n : Nat) (q : EqSt) : State :=
  { s with host := { s.host with eqs := s.host.eqs.set n q {} } }

/-- HIF_STAT.STATE: 0 DISABLED, 1 RUNNING, 2 RECOVERING, 3 HALTED. -/
def hifState (s : State) : Nat := fld s Reg.HIF_STAT_STATE

/-- All fetched commands of all SQs, by SQ. -/
def allFetched (s : State) : List Cmd := (List.range 16).flatMap fun n => (sqAt s n).fetched

/-- All completions held for CQs. -/
def allHeld (s : State) : List Held := (List.range 16).flatMap fun n => (cqAt s n).held

/-- A command's completion entry is still to be written (R64). -/
def entryPending (s : State) (seq : Nat) : Bool :=
  (allFetched s).any (fun c => c.seq = seq) || (allHeld s).any (fun h => h.cmd.seq = seq) ||
    s.host.kept.any (fun h => h.cmd.seq = seq)

/-! ### Cistern records (R288-R291, R298-R301) -/

/-- The CRC of R289. -/
def crc16 (l : List Byte) : Nat :=
  l.foldl (fun crc b =>
    (List.range 8).foldl
      (fun c _ => if bit c 15 then Nat.xor (c * 2) 0x1021 % 65536 else c * 2 % 65536)
      (Nat.xor crc (b.toNat * 256))) 0xFFFF

/-- LENGTH of a record (R288). -/
def CisRec.len (r : CisRec) : Nat := r.payload.length + 20

/-- Bytes 0 to LENGTH - 5 of a record. -/
def CisRec.head (r : CisRec) : List Byte :=
  leBytes 2 r.len ++ leBytes 1 (r.cls + 4 * r.kind) ++ leBytes 1 r.source ++ leBytes 6 r.seq ++
    leBytes 2 (dtFrac r.dt) ++ leBytes 4 (dtSec r.dt) ++ r.payload

/-- The bytes of a record (R288). -/
def CisRec.bytes (r : CisRec) : List Byte :=
  r.head ++ leBytes 2 (crc16 r.head) ++ [0] ++ leBytes 1 r.mark

def cisUpd (s : State) (f : CisSt → CisSt) : State := { s with cis := f s.cis }

/-- Size of ring 0 (R299). -/
def ring0Size : Nat := 16777216

/-- Bytes stored into ring 0, modulo its size. -/
def ringPut : SMap Byte → Nat → List Byte → SMap Byte
  | m, _, [] => m
  | m, a, b :: r => ringPut (m.set (a % ring0Size) b 0) (a + 1) r

/-- Drop the oldest live records until `need` bytes fit, counting those not archived (R299 step 1, R300). -/
def dropLive : Nat → Nat → State → State
  | 0, _, s => s
  | fuel + 1, need, s =>
    match s.cis.live with
    | [] => s
    | o :: r =>
      if (s.cis.live.map fun l => l.body.len).sum + need ≤ ring0Size then s
      else
        let s1 := cisUpd s fun c => { c with
          live := r
          first := (match r with | n :: _ => n.ofs | [] => c.headOfs)
          fseq := o.body.seq + 1 }
        dropLive fuel need
          (if o.archived then s1 else setErr (count1 s1 (Reg.CIS_CNT_COUNT 4)) Reg.CIS_ERR_ARCH_LOST)

/-- The journalled NSEQ after NSEQ has reached `n`: the last multiple of 65,536 (R303). -/
def journalSeq (j : TwoSlots Nat) (n : Nat) : TwoSlots Nat :=
  if n / 65536 * 65536 = j.get then j else j.put (n / 65536 * 65536)

/-- Ring 0 with its records in SEQ order, one after another from FIRST (R299, R304). -/
def relay (c : CisSt) : CisSt :=
  let l := c.live.sortBy fun a b => decide (a.body.seq ≤ b.body.seq)
  let (ring, live, e) := l.foldl (fun (m, out, e) x =>
    (ringPut m e x.body.bytes, out ++ [{ x with ofs := e }], (e + x.body.len) % ring0Size)) (c.ring0, ([] : List LiveRec), c.first)
  { c with ring0 := ring, live := live, headOfs := e, fseq := match l with | x :: _ => x.body.seq | [] => c.nseq }

/-- Append a record to ring 0 (R299). -/
def livePut (s : State) (r : CisRec) : State :=
  let s1 := mirror (dropLive s.cis.live.length r.len s) 0x46 (leBytes 8 0 ++ r.bytes)
  let c := s1.cis
  let n := r.seq + 1
  cisUpd (count1 s1 (Reg.CIS_CNT_COUNT 0)) fun _ => { c with
    ring0 := ringPut c.ring0 c.headOfs r.bytes
    live := c.live ++ [{ body := r, ofs := c.headOfs, made := s.el }]
    fseq := (if c.live.isEmpty then r.seq else c.fseq)
    headOfs := (c.headOfs + r.len) % ring0Size
    nseq := n
    journal := journalSeq c.journal n }

/-- Put a record into ring 1's pending store, or lose it (R301). -/
def auditPut (s0 : State) (r : CisRec) : State :=
  let s := mirror s0 0x46 (leBytes 8 1 ++ r.bytes)
  if (s.cis.pend1.map CisRec.len).sum + r.len ≤ 65536 then
    cisUpd (count1 s (Reg.CIS_CNT_COUNT 1)) fun c => { c with pend1 := c.pend1 ++ [r], nseq1 := r.seq + 1 }
  else
    cisUpd (setErr (count1 s (Reg.CIS_CNT_COUNT 5)) Reg.CIS_ERR_AUDIT_DROP) fun c => { c with nseq1 := r.seq + 1 }

/-- Tokens that a bucket holds now: RATE a DT second since `sec`, up to BURST (R298). -/
def gained (s : State) (tokens sec : Nat) : Nat :=
  min (fld s Reg.CIS_STORM_BURST) (tokens + fld s Reg.CIS_STORM_RATE * (dtSec s.dt - sec))

/-- Tokens of a source that has taken none. -/
def idleTokens (s : State) : Nat :=
  match s.cis.idle with
  | some (t, sec) => gained s t sec
  | none => fld s Reg.CIS_STORM_BURST

/-- The bucket of a source with the tokens of the DT seconds since it was last seen (R298). -/
def bucketNow (s : State) (source : Nat) : Bucket :=
  match s.cis.buckets.get source none with
  | some b => { b with tokens := gained s b.tokens b.sec, sec := dtSec s.dt }
  | none => { tokens := idleTokens s, sec := dtSec s.dt }

/-- Store a bucket; one as every idle source has it is not listed. -/
def setBucket (s : State) (source : Nat) (b : Bucket) : State :=
  cisUpd s fun c => { c with
    buckets := c.buckets.set source (if b.tokens = idleTokens s ∧ b.sup0 + b.sup1 = 0 then none else some b) none }

/-- A write of CIS_STORM finds each bucket with what the old RATE gave it; a new BURST below that cuts it (R298). -/
def stormSettle (s0 s : State) : State :=
  let top := fld s Reg.CIS_STORM_BURST
  let t := min top (idleTokens s0)
  cisUpd s fun c => { c with
    buckets := s0.cis.buckets.keys.map fun k => (k, let b := bucketNow s0 k; some { b with tokens := min top b.tokens })
    idle := if t = top then none else some (t, dtSec s.dt) }

/-- The storm bucket lets a record of a source pass, or suppresses it (R298). -/
def stormTake (s : State) (cls source : Nat) : State × Bool :=
  let b := bucketNow s source
  if 0 < b.tokens then (setBucket s source { b with tokens := b.tokens - 1 }, true)
  else
    let b' := if cls = 0 then { b with sup0 := b.sup0 + 1 } else { b with sup1 := b.sup1 + 1 }
    (setErr (count1 (setBucket s source b') (Reg.CIS_CNT_COUNT 2)) Reg.CIS_ERR_STORM, false)

/-- Make a record: it takes the next SEQ of its ring (R290). STORM records (KIND 2) take no token (R298).
The second part says whether the record was made. -/
def recordAt (s : State) (dt cls kind source : Nat) (payload : List Byte) : State × Bool :=
  if cls < 2 then
    let (s1, ok) := if kind = 2 then (s, true) else stormTake s cls source
    if ok then
      (livePut s1 { cls := cls, kind := kind, source := source, seq := s1.cis.nseq, dt := dt, payload := payload }, true)
    else (s1, false)
  else
    (auditPut s { cls := cls, kind := kind, source := source, seq := s.cis.nseq1, dt := dt, payload := payload }, true)

/-- Make a record with the present DT. -/
def record (s : State) (cls kind source : Nat) (payload : List Byte) : State :=
  (recordAt s s.dt cls kind source payload).1

/-! ### Event records (R45, R58, R59, R64, R83, R292) -/

/-- Put a record into an EQ's pending store; a full store discards it (R45). -/
def eqPut (s : State) (n : Nat) (r : EvRec) : State :=
  let q := eqAt s n
  if q.pend.length < 2048 then setEq s n { q with pend := q.pend ++ [r] }
  else
    setErr (count1 (setEq s n { q with overflow := true, discarded := satInc 32 q.discarded 1 }) (Reg.HIF_EQ_LOST_COUNT n))
      Reg.GLB_ERR_EQ_LOST

/-- The recovery epoch (R58). -/
def epoch (s : State) : Nat := fld s Reg.HIF_STAT_EPOCH

/-- Write an event of a block: route it (R83) and copy it to Cistern (R292). `ref` and `status` name the command whose
outcome it reports (R59); `after` the commands that caused it (R64). -/
def emitAt (s : State) (dt code : Nat) (payload : List Byte) (ref : Option CmdRef) (status : Nat) (after : List Nat) :
    State :=
  let g := code / 256
  let pl := padTo 16 payload
  let r : EvRec := { code := code, epoch := epoch s, sq := (match ref with | some c => c.sq | none => 0xFF),
                     tag := (match ref with | some c => c.tag | none => 0), status := status, dt := dt,
                     payload := pl, after := after }
  let rt := s.host.routes.get g {}
  let s1 := if rt.enable then eqPut s rt.eq r else s
  if g ≠ 1 ∧ g ≠ 9 ∧ bit (fld s Reg.CIS_DIAG_MASK_GROUPS) g then
    (recordAt s1 dt 0 0 g (leBytes 2 code ++ [0, 0] ++ pl)).1
  else s1

/-- An event that reports on no command. -/
def emit (s : State) (code : Nat) (payload : List Byte) : State := emitAt s s.dt code payload none 0 []

/-- The outcome event of a QUEUED command (R59). -/
def emitOutcome (s : State) (code : Nat) (payload : List Byte) (ref : Option CmdRef) (status : Nat) : State :=
  emitAt s s.dt code payload ref (if ref.isSome then status else 0) (ref.map CmdRef.seq).toList

/-- An event caused by a running command that is not its outcome (R64). -/
def emitBy (s : State) (code : Nat) (payload : List Byte) (seq : Nat) : State :=
  emitAt s s.dt code payload none 0 [seq]

/-- Records that a command's work made beyond those that stood before wait for its completion entry too (R64). -/
def causedBy (before s : State) (seq : Nat) : State :=
  { s with host := { s.host with eqs := (List.range 4).foldl (fun m n =>
      let k := (eqAt before n).pend.length
      let q := m.get n {}
      m.set n { q with pend := q.pend.take k ++ (q.pend.drop k).map fun r => { r with after := r.after ++ [seq] } } {}) s.host.eqs } }

/-! ### Faults (R293-R295) -/

/-- Payload of a FAULT record (R293). `eph` 0x3FFFF and `feeder` 7 stand for none. -/
def faultPayload (fcode : Nat) (clear : Bool) (eph feeder detail count lost : Nat) : List Byte :=
  leBytes 2 fcode ++ leBytes 1 (b2n clear) ++ [0] ++ leBytes 3 eph ++ leBytes 1 feeder ++
    leBytes 4 detail ++ leBytes 4 count ++ leBytes 4 lost

/-- Record a fault in ring 0, and write the FAULT event when FAULT_EVT is 1 (R295). -/
def faultAt (s : State) (dt source fcode : Nat) (clear : Bool) (eph feeder detail count lost : Nat) : State :=
  let seq := s.cis.nseq
  let (s1, made) := recordAt s dt 1 1 source (faultPayload fcode clear eph feeder detail count lost)
  if made && flag s Reg.CIS_CTRL_FAULT_EVT then
    emit s1 0x0900 (leBytes 2 fcode ++ leBytes 1 (b2n clear) ++ leBytes 1 feeder ++ leBytes 3 eph ++ [0] ++ leBytes 6 seq)
  else s1

/-- A fault of a block of the module. -/
def fault (s : State) (source fcode : Nat) (clear : Bool) (detail : Nat) : State :=
  faultAt s s.dt source fcode clear 0x3FFFF 7 detail 1 0

/-! ### Completions (R44, R52, R54, R61, R65, R69) -/

/-- Bits of the descriptor that the completion needs. -/
def Cmd.opcode (c : Cmd) : Nat := fieldLE c.bytes 0 2
def Cmd.flags (c : Cmd) : Nat := fieldLE c.bytes 2 1
def Cmd.barrierBit (c : Cmd) : Bool := bit c.flags 0
def Cmd.unorderedBit (c : Cmd) : Bool := bit c.flags 1
/-- BARRIER and UNORDERED act only when not both are set (R52). -/
def Cmd.barrier (c : Cmd) : Bool := c.barrierBit && !c.unorderedBit
def Cmd.ordered (c : Cmd) : Bool := !c.unorderedBit || c.barrierBit
def Cmd.notify (c : Cmd) : Bool := bit c.flags 2
def Cmd.noCompletion (c : Cmd) : Bool := bit c.flags 3
def Cmd.tag (c : Cmd) : Nat := fieldLE c.bytes 3 1
def Cmd.bufs (c : Cmd) : Nat := fieldLE c.bytes 4 1 % 4
def Cmd.intent (c : Cmd) : Nat := fieldLE c.bytes 8 8
def Cmd.ref (c : Cmd) : CmdRef := { seq := c.seq, sq := c.sq, tag := c.tag }
/-- An operand of `n` bytes at descriptor offset `o` (R49). -/
def Cmd.op (c : Cmd) (o n : Nat) : Nat := fieldLE c.bytes o n

/-- The intent enters the window of its SQ (R65). One that the window holds already keeps its entry and its age (log entry 143). -/
def windowAdd (w : List Intent) (c : Cmd) (a : Answer) : List Intent :=
  if c.intent = 0 ∨ a.status = 0x21 ∨ a.status = 0x30 ∨ a.status = 0x31 ∨ w.any (fun i => i.id = c.intent) then w
  else ({ id := c.intent, opcode := c.opcode, ans := a } :: w).take 4096

/-- Nothing is outstanding: no command fetched and no completion held. -/
def idle (s : State) : Bool := (allFetched s).isEmpty && (allHeld s).isEmpty

/-- HIF_CTRL.ENABLE at 0 takes RUNNING to DISABLED once nothing is outstanding (R74). -/
def drainCheck (s : State) : State :=
  if hifState s = 1 ∧ !flag s Reg.HIF_CTRL_ENABLE ∧ idle s then setFld s Reg.HIF_STAT_STATE 0 else s

/-- A duplicate that waits for a command whose outcome enters no window gets that outcome (R65, R66). -/
def passOn (c : Cmd) (a : Answer) (x : Cmd) : Cmd :=
  if c.intent ≠ 0 ∧ x.intent = c.intent ∧ c.seq < x.seq ∧ !x.started ∧ (a.status = 0x21 ∨ a.status = 0x30 ∨ a.status = 0x31) then
    { x with dup := some (c.opcode, a) }
  else x

/-- A command with its final status leaves its SQ and enters the window and the statistics. -/
def leaveSq (s : State) (c : Cmd) (a : Answer) : State :=
  let q := sqAt s c.sq
  setSq s c.sq { q with
    fetched := (q.fetched.filter (fun x => x.seq ≠ c.seq)).map (passOn c a)
    window := windowAdd q.window c a
    completed := satInc 32 q.completed 1
    aborted := if a.status = 0x30 ∨ a.status = 0x31 then satInc 32 q.aborted 1 else q.aborted }

/-- The completion entry is held for the CQ, or kept while recovery is pending. -/
def holdEntry (s : State) (c : Cmd) (a : Answer) : State :=
  let h : Held := { cmd := c.ref, epoch := c.epoch, ans := a }
  if hifState s = 2 ∨ hifState s = 3 then
    { s with host := { s.host with
        kept := s.host.kept ++ [h]
        rcvAborted := if a.status = 0x30 then s.host.rcvAborted + 1 else s.host.rcvAborted } }
  else if c.noCompletion ∧ a.status ≤ 1 then s
  else
    let n := fld s (Reg.HIF_SQ_CFG_CQ c.sq)
    let k := cqAt s n
    setCq s n { k with held := k.held ++ [h] }

/-- The COMMAND_NOTIFY record of a command that asks for one (R52, R60); it goes to NEQ whatever EVENT_ROUTE says of group 0x01 (log
entry 130). -/
def notifyDone (s : State) (c : Cmd) (a : Answer) : State :=
  if c.notify then
    eqPut s (fld s (Reg.HIF_SQ_CFG_NEQ c.sq))
      { code := 0x0101, epoch := epoch s, sq := c.sq, tag := c.tag, status := a.status, dt := s.dt,
        payload := leBytes 2 a.detail ++ List.replicate 6 0 ++ leBytes 8 a.result, after := [c.seq] }
  else s

/-- Give a command its final status: it leaves its SQ, enters the window and the statistics, and its completion entry
is held for its CQ, or kept while recovery is pending. -/
def complete (s : State) (c : Cmd) (a : Answer) : State :=
  drainCheck (notifyDone (holdEntry (leaveSq s c a) c a) c a)

/-- Give several commands their final status. -/
def completeAll (s : State) (cs : List Cmd) (a : Answer) : State := cs.foldl (fun s c => complete s c a) s

/-- The started command with a fetch number, if it is still outstanding. -/
def cmdBySeq (s : State) (seq : Nat) : Option Cmd := (allFetched s).find? fun c => c.seq = seq

/-- Complete an outstanding command by its fetch number. -/
def completeSeq (s : State) (seq : Nat) (a : Answer) : State :=
  match cmdBySeq s seq with
  | some c => complete s c a
  | none => s

/-- Commands in the order they were fetched. -/
def sortCmds (l : List Cmd) : List Cmd := l.sortBy fun a b => decide (a.seq ≤ b.seq)

/-- Move the held completions of every CQ to the kept ones (R69). -/
def keepHeld (s : State) : State :=
  { s with host := { s.host with
      kept := s.host.kept ++ allHeld s
      cqs := (List.range 16).foldl (fun m n => m.set n { (m.get n {}) with held := [] } {}) s.host.cqs
      sqs := (List.range 16).foldl (fun m n => m.set n { (m.get n {}) with reEnabled := false } {}) s.host.sqs
      rcvAborted := 0
      recoveries := satInc 32 s.host.recoveries 1 } }

/-! ### Ring recovery (R40, R68-R74) -/

/-- Enter ring recovery: the cause register collects from here on, the epoch advances, and commands that have not started are
aborted (R68, R69). -/
def beginRecovery (s : State) (causes errs : List RF) : State :=
  let s1 := setReg s Reg.HIF_RCV_CAUSE_LINK_DOWN.off 0
  let s2 := causes.foldl (fun s f => setFld s f 1) s1
  let s3 := setFld s2 Reg.HIF_STAT_EPOCH ((epoch s + 1) % 256)
  let s4 := setErrs (keepHeld (setFld s3 Reg.HIF_STAT_STATE 2)) errs
  completeAll s4 (sortCmds ((allFetched s4).filter fun c => !c.started)) { status := 0x30 }

/-- A cause of recovery: flags of HIF_RCV_CAUSE and of GLB_ERR (R68). A cause in RECOVERING or HALTED sets its GLB_ERR flag again,
and one in DISABLED, where nothing is served, leaves no trace (log entry 128). -/
def enterRecovery (s : State) (causes errs : List RF) : State :=
  if hifState s = 1 then beginRecovery s causes errs
  else if hifState s = 2 ∨ hifState s = 3 then
    setErrs (causes.foldl (fun s f => setFld s f 1) s) errs
  else s

/-- A ring fault of a kind at ring `n` (ring kind 0 SQ, 1 CQ, 2 EQ); the first of a recovery is described (R68). It enters recovery
from DISABLED too, since R530 applies in every STATE that accepts a doorbell (log entry 128). -/
def ringFault (s : State) (kind ring n : Nat) : State :=
  let first := hifState s < 2 ∨ !flag s Reg.HIF_RCV_CAUSE_RING_FAULT
  let s1 := { s with host := { s.host with ringFaults := satInc 32 s.host.ringFaults 1 } }
  let s2 := if hifState s = 0 then beginRecovery s1 [Reg.HIF_RCV_CAUSE_RING_FAULT] [Reg.GLB_ERR_RING_FAULT]
    else enterRecovery s1 [Reg.HIF_RCV_CAUSE_RING_FAULT] [Reg.GLB_ERR_RING_FAULT]
  if first then
    setFld (setFld (setFld s2 Reg.HIF_RCV_CAUSE_FAULT_KIND kind) Reg.HIF_RCV_CAUSE_FAULT_RING ring)
      Reg.HIF_RCV_CAUSE_FAULT_SQ n
  else s2

/-! ### Writing entries (R43, R44, R45, R46, R53, R58, R64) -/

/-- Coalescing after an entry is written (R46): the new state of the ring and whether the vector is raised. -/
def coalStep (s : State) (cnt : Nat) (c : CoalSt) : CoalSt × Bool :=
  if cnt ≤ c.count + 1 then ({}, true)
  else ({ count := c.count + 1, since := if c.count = 0 then s.el else c.since }, false)

/-- The 16 bytes of a completion entry (R53). -/
def entryBytes (h : Held) (phase sqHead : Nat) : List Byte :=
  leBytes 1 h.cmd.tag ++ leBytes 1 h.ans.status ++ leBytes 2 h.ans.detail ++ leBytes 1 h.epoch ++
    leBytes 1 (h.cmd.sq % 16 + 128 * phase) ++ leBytes 2 sqHead ++ leBytes 8 h.ans.result

/-- Base address and size of a ring from its registers (R41). -/
def sqBase (s : State) (n : Nat) : Nat :=
  fld s (Reg.HIF_SQ_BASE_LO_ADDR n) * 4096 + fld s (Reg.HIF_SQ_BASE_HI_ADDR n) * 2 ^ 32
def cqBase (s : State) (n : Nat) : Nat :=
  fld s (Reg.HIF_CQ_BASE_LO_ADDR n) * 4096 + fld s (Reg.HIF_CQ_BASE_HI_ADDR n) * 2 ^ 32
def eqBase (s : State) (n : Nat) : Nat :=
  fld s (Reg.HIF_EQ_BASE_LO_ADDR n) * 4096 + fld s (Reg.HIF_EQ_BASE_HI_ADDR n) * 2 ^ 32
def sqSize (s : State) (n : Nat) : Nat := 2 ^ fld s (Reg.HIF_SQ_CFG_SIZE_LOG2 n)
def cqSize (s : State) (n : Nat) : Nat := 2 ^ fld s (Reg.HIF_CQ_CFG_SIZE_LOG2 n)
def eqSize (s : State) (n : Nat) : Nat := 2 ^ fld s (Reg.HIF_EQ_CFG_SIZE_LOG2 n)

/-- The CQ has a free slot (R43, R44). -/
def cqFree (s : State) (n : Nat) : Bool :=
  flag s (Reg.HIF_CQ_CFG_ENABLE n) && decide ((fld s (Reg.HIF_CQ_WR_INDEX n) + 1) % cqSize s n ≠ (cqAt s n).head)

/-- A write of the next entry of the CQ would fail. -/
def cqFails (s : State) (n : Nat) : Bool := memFails s (cqBase s n + 16 * fld s (Reg.HIF_CQ_WR_INDEX n)) 16

/-- Put the oldest held completion of a CQ, `h`, into its next slot; `r` are the others. -/
def putCompletion (s : State) (n : Nat) (h : Held) (r : List Held) : State :=
  let i := fld s (Reg.HIF_CQ_WR_INDEX n)
  let ph := fld s (Reg.HIF_CQ_WR_PHASE n)
  let s1 := entryWrite s (cqBase s n + 16 * i) (entryBytes h ph (fld s (Reg.HIF_SQ_HEAD_HEAD h.cmd.sq)))
  let i' := (i + 1) % cqSize s n
  let s2 := setFld (setFld s1 (Reg.HIF_CQ_WR_INDEX n) i') (Reg.HIF_CQ_WR_PHASE n) (if i' = 0 then 1 - ph else ph)
  let (co, irq) := coalStep s (fld s (Reg.HIF_CQ_CFG_COAL_CNT n)) (cqAt s n).coal
  let s3 := setCq s2 n { cqAt s2 n with held := r, coal := co }
  if irq then raiseVec s3 (fld s (Reg.HIF_CQ_CFG_VEC n)) else s3

/-- The 32 bytes of an event record (R58). -/
def eventBytes (r : EvRec) (ovf : Bool) (phase : Nat) : List Byte :=
  leBytes 2 r.code ++ leBytes 1 (r.code / 256) ++ leBytes 1 (64 * b2n ovf + 128 * phase) ++ leBytes 1 r.epoch ++
    leBytes 1 r.sq ++ leBytes 1 r.tag ++ leBytes 1 r.status ++ leBytes 8 r.dt ++ padTo 16 r.payload

/-- The EQ has a free slot (R43). -/
def eqFree (s : State) (n : Nat) : Bool :=
  flag s (Reg.HIF_EQ_CFG_ENABLE n) && decide ((fld s (Reg.HIF_EQ_WR_INDEX n) + 1) % eqSize s n ≠ (eqAt s n).head)

/-- A write of the next record of the EQ would fail. -/
def eqFails (s : State) (n : Nat) : Bool := memFails s (eqBase s n + 32 * fld s (Reg.HIF_EQ_WR_INDEX n)) 32

/-- A record may be written: the completion entries of the commands that caused it are out (R64). -/
def released (s : State) (r : EvRec) : Bool := r.after.all fun q => !entryPending s q

/-- Put the oldest record of an EQ's pending store, `r`, into its next slot; `rest` are the others. -/
def putEvent (s : State) (n : Nat) (r : EvRec) (rest : List EvRec) : State :=
  let i := fld s (Reg.HIF_EQ_WR_INDEX n)
  let ph := fld s (Reg.HIF_EQ_WR_PHASE n)
  let s1 := entryWrite s (eqBase s n + 32 * i) (eventBytes r (eqAt s n).overflow ph)
  let i' := (i + 1) % eqSize s n
  let s2 := setFld (setFld s1 (Reg.HIF_EQ_WR_INDEX n) i') (Reg.HIF_EQ_WR_PHASE n) (if i' = 0 then 1 - ph else ph)
  let (co, irq) := coalStep s (fld s (Reg.HIF_EQ_CFG_COAL_CNT n)) (eqAt s n).coal
  let s3 := setEq s2 n { eqAt s2 n with pend := rest, overflow := false, coal := co }
  if irq then raiseVec s3 (fld s (Reg.HIF_EQ_CFG_VEC n)) else s3

/-! ### Resume (R71, R74) -/

/-- Write the oldest held completion of a CQ if it can be written now. One whose write would fail stays held until COMPLETION_WRITE
tries it and raises the fault (log entry 144). -/
def tryCompletion (s : State) (n : Nat) : State :=
  match (cqAt s n).held with
  | [] => s
  | h :: r => if cqFree s n && !cqFails s n then putCompletion s n h r else s

/-- Write the records of an EQ's pending store that can be written now, at most `fuel`. -/
def drainEq : Nat → State → Nat → State
  | 0, s, _ => s
  | fuel + 1, s, n =>
    match (eqAt s n).pend with
    | [] => s
    | r :: rest => if eqFree s n && released s r && !eqFails s n then drainEq fuel (putEvent s n r rest) n else s

/-- Write kept completions to their CQs in the order of their fetch, discarding and counting those whose CQ is not enabled (R71
step 2). The CQ is the one that the SQ is bound to now (log entry 129); an entry that finds no free slot is held. -/
def restoreKept : List Held → State → Nat → State × Nat
  | [], s, n => (s, n)
  | h :: r, s, n =>
    let k := fld s (Reg.HIF_SQ_CFG_CQ h.cmd.sq)
    if flag s (Reg.HIF_CQ_CFG_ENABLE k) then
      let q := cqAt s k
      restoreKept r (tryCompletion (setCq s k { q with held := q.held ++ [h] }) k) n
    else restoreKept r s (n + 1)

/-- RESUME takes effect (R71): the records that wait go out before RECOVERY_DONE, EQ by EQ (log entry 145). RECOVERY_DONE passes
EVENT_ROUTE by (log entry 130). -/
def resumeNow (s : State) : State :=
  let s1 := (List.range 16).foldl (fun s n =>
    let q := sqAt s n
    if flag s (Reg.HIF_SQ_CFG_ENABLE n) && !q.reEnabled then
      setSq s n { q with tail := fld s (Reg.HIF_SQ_HEAD_HEAD n) } else s) s
  let kept := s1.host.kept.sortBy fun a b => decide (a.cmd.seq ≤ b.cmd.seq)
  let (s2, dropped) := restoreKept kept { s1 with host := { s1.host with kept := [] } } 0
  let pl := leBytes 4 (reg s2 Reg.HIF_RCV_CAUSE_LINK_DOWN.off).toNat ++ leBytes 2 s2.host.rcvAborted ++ leBytes 2 dropped
  let s3 := (List.range 4).foldl (fun s n =>
    if flag s (Reg.HIF_EQ_CFG_ENABLE n) then
      let r : EvRec := { code := 0x0100, epoch := epoch s, sq := 0xFF, tag := 0, status := 0, dt := s.dt, payload := padTo 16 pl,
                         after := [] }
      let s' := eqPut (drainEq (eqAt s n).pend.length s n) n r
      drainEq (eqAt s' n).pend.length s' n
    else s) s2
  drainCheck (setFld (setFld s3 Reg.HIF_RCV_CTRL_RESUME 0) Reg.HIF_STAT_STATE 1)

/-- A standing RESUME takes effect in HALTED while ENABLE is 1 (R74). -/
def resumeCheck (s : State) : State :=
  if hifState s = 3 ∧ flag s Reg.HIF_CTRL_ENABLE ∧ flag s Reg.HIF_RCV_CTRL_RESUME then resumeNow s else s

end Sys2Proof.Machine
end

