-- ==== Sys2Proof/Machine/CfgTables.lean ====
section
/-! DEFINITION. The tables that the configuration checkpoint holds beside the registers, and the CFG stream's changes of them (R442,
R446; log entry 100). -/

namespace Sys2Proof.Machine

/-- The descriptor of a loop with the coefficient sets that a COEF_SET has given it. -/
def Loop.newDesc (l : Loop) : Option LoopDesc :=
  l.desc.map fun d => { d with coefs := l.coefNext.foldl (fun c x => c.set x.1 x.2) d.coefs }

/-- The tables as the module holds them. -/
def cfgTables (s : State) : CfgTables :=
  { custom := s.rad.custom, profile := s.rad.ckProfile, maps := s.mac.maps
    members := s.street.members, groups := s.street.groups, scheds := s.street.profiles, exceptions := s.street.exceptions
    scenes := s.street.scenes, graph := s.cas.active, gen := fld s Reg.CAS_STAT_GEN, borders := s.cas.borders
    loops := s.weir.loops.map fun x => (x.1, { desc := x.2.newDesc, en := x.2.cfgEn, man := x.2.cfgMan })
    compGroups := (s.weir.groupNext.foldl (fun m x => match x.2 with | some g => m.set x.1 g {} | none => m) s.weir.groups).map fun x =>
      (x.1, { x.2 with winner := none })
    temps := s.bas.chans.map fun x => (x.1, x.2.table), lanterns := s.bas.lanterns
    fixtures := s.ftn.fixtures.map fun x => (x.1, x.2.map fun y => { y with target := none, codes := [] })
    colors := s.ftn.colors, jets := s.ftn.jets.map fun x => (x.1, x.2.prog)
    banks := s.ox.banks, hasProg := s.ox.hasProg, bank := fld s Reg.OX_STAT_BANK
    routes := s.fed.routes, peers := s.fed.peers, pubs := s.fed.pubs, feederMap := s.fed.feederMap, mode := s.pwr.ckMode }

/-- A loop with a checkpoint's settings; what it runs with stays. -/
def Loop.withCfg (l : Loop) (c : LoopCfg) : Loop := { l with desc := c.desc, coefNext := [], cfgEn := c.en, cfgMan := c.man }

/-- Entries for the remote modules of a feeder map: one that says nothing yet counts as heard now (R456). -/
def mapHeard (s : State) (m : SMap (Option (Nat × Nat))) : SMap (Option (Nat × Nat × Nat)) :=
  m.foldl (fun r x => match x.2 with
    | some y => if r.get y.1 none = none then r.set y.1 (some (0, 0, s.el)) none else r
    | none => r) s.fed.remote

/-- Every entry of a table takes its part of a checkpoint's table, or what an entry has that the checkpoint does not list. -/
def cfgOnto {α β : Type} [DecidableEq α] (m : SMap α) (d : α) (c : SMap β) (none' : β) (put : α → β → α) : SMap α :=
  (m.keys ++ c.keys).foldl (fun r k => r.set k (put (r.get k d) (c.get k none')) d) m

/-- A STANDBY module's tables become those given (R442). -/
def setCfgTables (s : State) (c : CfgTables) : State :=
  let s1 := setFld (setFld s Reg.CAS_STAT_GEN c.gen) Reg.OX_STAT_BANK c.bank
  let s2 := if c.mode = s.pwr.ckMode then s1 else setFld (setFld s1 Reg.PWR_STAT_MODE c.mode) Reg.RAD_CTRL_QUIET c.mode
  { s2 with
    rad := { s2.rad with custom := c.custom, ckProfile := c.profile }
    mac := { s2.mac with maps := c.maps }
    street := { s2.street with members := c.members, groups := c.groups, profiles := c.scheds, exceptions := c.exceptions
                               scenes := c.scenes }
    cas := { s2.cas with active := c.graph, staging := if c.graph = s2.cas.active then s2.cas.staging else c.graph
                         borders := c.borders }
    weir := { s2.weir with
      loops := cfgOnto s2.weir.loops {} c.loops { desc := none, en := false, man := false } Loop.withCfg
      groups := c.compGroups, groupNext := [] }
    bas := { s2.bas with
      chans := cfgOnto s2.bas.chans {} c.temps [] fun x t => { x with table := t }
      lanterns := c.lanterns }
    ftn := { s2.ftn with fixtures := c.fixtures, colors := c.colors
                         jets := cfgOnto s2.ftn.jets {} c.jets none fun x p => { x with prog := p } }
    ox := { s2.ox with banks := c.banks, hasProg := c.hasProg }
    fed := { s2.fed with routes := c.routes, peers := c.peers, pubs := c.pubs, feederMap := c.feederMap
                         remote := mapHeard s2 c.feederMap }
    pwr := { s2.pwr with ckMode := c.mode } }

/-! ### Generations in NAND (R32, R471) -/

/-- A configuration checkpoint is written over the older generation (R223, R397, R467). -/
def ckWrite (s : State) : State :=
  { s with pwr := { s.pwr with ckNand := s.pwr.ckNand.put { tables := cfgTables s, regs := s.pwr.ckRegs }, ckLost := false, ckHas := true } }

/-- The newer generation cannot be read: the other one serves, from the next reset on (log entry 139). -/
def ckDrop (s : State) : State := { s with pwr := { s.pwr with ckNand := s.pwr.ckNand.back, ckLost := true } }

/-- What a reset takes from the other generation. -/
def ckFallBack (s : State) : State :=
  if !s.pwr.ckLost then s
  else
    let g := s.pwr.ckNand.get
    let s1 := setCfgTables s g.tables
    { s1 with pwr := { s1.pwr with ckRegs := g.regs, ckTold := g.tables, ckLost := false } }

/-! ### The bytes of the tables (R446) -/

/-- The bytes of the tables in the checkpoint: the layout is open, and a first byte tells which of two the rest is in. -/
def cfgImage (t : CfgTables) : List Byte :=
  let b := CfgTables.code.enc t
  let p := Config.cfgPack b
  if Config.cfgUnpack p = b then 0 :: p else 1 :: b

/-- The tables that bytes spell. -/
def cfgRead : List Byte → Option CfgTables
  | [] => none
  | k :: r => (CfgTables.code.dec (if k = 0 then Config.cfgUnpack r else r)).map Prod.fst

/-- Length of the longest common beginning. -/
def sameUpTo : List Byte → List Byte → Nat
  | a :: l, b :: r => if a = b then sameUpTo l r + 1 else 0
  | _, _ => 0

/-- Bytes of the tables that one CFG message carries at most (log entry 100). -/
def cfgPiece : Nat := 32768

/-- Bytes from an OFFSET on, in pieces: each with its OFFSET. The fuel is at least their number. -/
def cfgPieces : Nat → Nat → List Byte → List (Nat × List Byte)
  | 0, o, l => [(o, l)]
  | k + 1, o, l => if l.length ≤ cfgPiece then [(o, l)] else (o, l.take cfgPiece) :: cfgPieces k (o + cfgPiece) (l.drop cfgPiece)

/-- OFFSET and bytes of the CFG messages that change the tables: from the first changed byte on. -/
def cfgDelta (old new : CfgTables) : List (Nat × List Byte) :=
  let l := cfgImage new
  let o := sameUpTo (cfgImage old) l
  cfgPieces l.length o (l.drop o)

/-- The bytes of the tables after a CFG message. -/
def cfgOver (l : List Byte) (x : Nat × List Byte) : List Byte := l.take x.1 ++ x.2

/-- The body of a CFG message. -/
def cfgBody (item ofs : Nat) (b : List Byte) : List Byte := beBytes 2 item ++ [0, 0] ++ beBytes 4 ofs ++ b

end Sys2Proof.Machine
end

