-- ==== Sys2Proof/Machine/Operands.lean ====
section
/-! DEFINITION. Descriptor operands, buffer references and the judgement of a descriptor (R49-R57, R66, R531-R533),
and the one way every ring opcode runs. -/

namespace Sys2Proof.Machine

/-! ### Answers (R54, R55, R531) -/

def ansDone (result : Nat := 0) : Answer := { status := 0x00, result := result }
def ansQueued (detail : Nat := 0) (result : Nat := 0) : Answer := { status := 0x01, detail := detail, result := result }
def ansBadField (reason off : Nat) : Answer := { status := 0x11, detail := reason * 256 + off }
/-- An offending byte in buffer `k` (R531). -/
def ansBadBuf (k reason ofs : Nat) : Answer :=
  { status := 0x11, detail := reason * 256 + (if k = 0 then 40 else 24), result := ofs }
def ansBadState (code : Nat) : Answer := { status := 0x12, detail := code }
def ansDenied (code : Nat) : Answer := { status := 0x13, detail := code }
def ansBadSig (d : Nat) : Answer := { status := 0x14, detail := d }
def ansStale (d : Nat) : Answer := { status := 0x15, detail := d }
def ansNoSpace (d : Nat) : Answer := { status := 0x20, detail := d }
def ansRetry (ms : Nat) : Answer := { status := 0x21, detail := ms }
def ansIntegrity (d : Nat) : Answer := { status := 0x40, detail := d }
def ansHwFault (d : Nat) : Answer := { status := 0x41, detail := d }

/-- Why an opcode's work ends early: a final status with the state it leaves, or a failed buffer access (R533). -/
inductive Stop where
  | ans (a : Answer)
  /-- a final status other than the opcode's own, after effects that stand -/
  | ansIn (s : State) (a : Answer)
  | bufFault (s : State)

/-- The work of an opcode: a stop, or the next state with the final status, `none` while the command stays outstanding. -/
abbrev Work := Except Stop (State × Option Answer)

/-- Stop with an answer when a condition holds. -/
def stopIf (b : Bool) (a : Answer) : Except Stop Unit := if b then .error (.ans a) else .ok ()

/-- A check of a byte: it offends, its offset, its reason. -/
structure Chk where
  bad : Bool
  off : Nat
  reason : Nat

/-- Of the offending bytes the one of lowest offset is reported (R532). -/
def worst : List Chk → Option Chk
  | [] => none
  | c :: r =>
    match worst r with
    | none => if c.bad then some c else none
    | some d => if c.bad ∧ c.off ≤ d.off then some c else some d

/-- Report the first offending descriptor byte. -/
def checkOps (l : List Chk) : Except Stop Unit :=
  match worst l with
  | some c => .error (.ans (ansBadField c.reason c.off))
  | none => .ok ()

/-- Report the first offending byte of buffer `k`. -/
def checkBuf (k : Nat) (l : List Chk) : Except Stop Unit :=
  match worst l with
  | some c => .error (.ans (ansBadBuf k c.reason c.off))
  | none => .ok ()

/-! ### Buffer references (R50) -/

/-- Descriptor offset of buffer reference `k`. -/
def bufOff (k : Nat) : Nat := if k = 0 then 40 else 24
def Cmd.bufAddr (c : Cmd) (k : Nat) : Nat := c.op (bufOff k) 8
def Cmd.bufLen (c : Cmd) (k : Nat) : Nat := c.op (bufOff k + 8) 4
def Cmd.bufDir (c : Cmd) (k : Nat) : Nat := c.op (bufOff k + 12) 1

/-- Checks of a buffer reference (R50). -/
def bufRefChks (c : Cmd) (k : Nat) : List Chk :=
  let o := bufOff k
  let a := c.bufAddr k
  let n := c.bufLen k
  [⟨decide (a % 8 ≠ 0), o, 0x05⟩,
   ⟨decide (n = 0 ∨ 16777216 < n), o + 8, 0x01⟩,
   ⟨decide (2 ^ 64 < a + n), o + 8, 0x01⟩,
   ⟨decide (1 < c.bufDir k), o + 12, 0x02⟩,
   ⟨decide (c.op (o + 13) 1 ≠ 0), o + 13, 0x02⟩,
   ⟨decide (c.op (o + 14) 2 ≠ 0), (if c.op (o + 14) 1 = 0 then o + 15 else o + 14), 0x02⟩]

/-- Checks of the descriptor layout (R532 step 3). -/
def layoutChks (c : Cmd) : List Chk :=
  [⟨decide (c.flags / 16 ≠ 0), 2, 0x02⟩, ⟨c.barrierBit && c.unorderedBit, 2, 0x03⟩,
   ⟨decide (c.op 4 1 / 4 ≠ 0), 4, 0x02⟩] ++
  (match firstNonZero c.bytes 5 3 with | some o => [⟨true, o, 0x02⟩] | none => []) ++
  (match firstNonZero c.bytes 56 8 with | some o => [⟨true, o, 0x02⟩] | none => []) ++
  (if 1 ≤ c.bufs then bufRefChks c 0 else []) ++ (if 2 ≤ c.bufs then bufRefChks c 1 else [])

/-- The checks that every opcode makes of its operands: `used` lists the operand fields as offset and length, all other
operand bytes being reserved (R16); `want` lists direction and minimum length of each buffer (R50). -/
def opChks (c : Cmd) (used : List (Nat × Nat)) (want : List (Nat × Nat)) : List Chk :=
  (if want.length < c.bufs then [⟨true, 4, 0x03⟩] else if c.bufs < want.length then [⟨true, 4, 0x04⟩] else []) ++
  ((List.range (40 - 16 * c.bufs)).filterMap fun i =>
    let o := 16 + i
    if used.any (fun u => u.1 ≤ o ∧ o < u.1 + u.2) then none
    else if c.op o 1 = 0 then none else some ⟨true, o, 0x02⟩) ++
  (want.zipIdx.filterMap fun (w, k) =>
    if k < c.bufs ∧ (c.bufDir k ≠ w.1 ∨ c.bufLen k < w.2) then some ⟨true, bufOff k, 0x04⟩ else none)

/-- A DT word with high bits set (R6). -/
def dtChk (c : Cmd) (o : Nat) : Chk := ⟨decide (c.op (o + 7) 1 ≠ 0), o + 7, 0x01⟩

/-- An operand outside its range. -/
def rangeChk (b : Bool) (o : Nat) : Chk := ⟨b, o, 0x01⟩

/-- Reserved bits that are not zero. -/
def rsvChk (b : Bool) (o : Nat) : Chk := ⟨b, o, 0x02⟩

/-- Read a DIR = 0 buffer in full (R533). -/
def readBuf (s : State) (c : Cmd) (k : Nat) : Except Stop (List Byte) :=
  if memFails s (c.bufAddr k) (c.bufLen k) then .error (.bufFault s)
  else .ok (memRead s (c.bufAddr k) (c.bufLen k))

/-- Bytes that are undefined: each is a free value. -/
def freeBytes (s : State) (n : Nat) : List Byte := (List.range n).map fun i => BitVec.ofNat 8 (Config.free (s.freeN + i))

/-- Write bytes to a DIR = 1 buffer; when a request for one of them fails, those bytes are undefined (R533). -/
def writeBuf (s : State) (c : Cmd) (k : Nat) (l : List Byte) : Except Stop State :=
  let a := c.bufAddr k
  let b := l.take (c.bufLen k)
  if memFails s a b.length then
    .error (.bufFault { memWrite s a (freeBytes s b.length) with freeN := s.freeN + b.length })
  else .ok (memWrite s a b)

/-! ### Judgement (R57, R66, R532) -/

/-- Opcode group: the high byte of OPCODE. -/
def Cmd.group (c : Cmd) : Nat := c.opcode / 256

/-- The last opcode of each group: R81, R111, R138, R181, R206, R231, R256, R285, R311, R335, R364, R402, R427, R463,
R478, R500. -/
def lastOpcode (g : Nat) : Nat :=
  [0, 0x05, 0x03, 0x03, 0x08, 0x0B, 0x08, 0x09, 0x05, 0x06, 0x0A, 0x08, 0x08, 0x0B, 0x08, 0x02, 0x01].getD g 0

/-- The opcode is defined. -/
def opcodeDefined (op : Nat) : Bool :=
  decide (1 ≤ op / 256 ∧ op / 256 ≤ 0x10 ∧ op % 256 ≤ lastOpcode (op / 256))

/-- Opcodes that a STANDBY or FENCED module accepts (R448). -/
def standbyAccepts (c : Cmd) : Bool :=
  let op := c.opcode
  decide ((0x0100 ≤ op ∧ op ≤ 0x0105) ∨ (0x0200 ≤ op ∧ op ≤ 0x0203) ∨ op = 0x0303 ∨ op = 0x0402 ∨ op = 0x0403 ∨
    (0x0509 ≤ op ∧ op ≤ 0x050B) ∨ op = 0x0606 ∨ op = 0x0607 ∨ op = 0x0707 ∨ op = 0x0708 ∨
    op = 0x0801 ∨ op = 0x0802 ∨ op = 0x0804 ∨ op = 0x0805 ∨ (0x0900 ≤ op ∧ op ≤ 0x0905) ∨
    (((0x0A00 ≤ op ∧ op ≤ 0x0A03) ∨ op = 0x0A06) ∧ c.op 16 1 ≤ 1) ∨ op = 0x0A04 ∨ op = 0x0A05 ∨ op = 0x0C07 ∨
    (0x0D00 ≤ op ∧ op ≤ 0x0D0B) ∨ (0x0E01 ≤ op ∧ op ≤ 0x0E03))

/-- The state of power domain `d`: 0 OFF, 1 RET, 2 ON (R482, R502). One but AO that the clock monitor holds in reset does nothing, and
counts as OFF (R495). -/
def domState (s : State) (d : Nat) : Nat :=
  if s.pwr.phase = .clockHeld ∧ d ≠ 0 then 0 else bits (fld s Reg.PWR_DOMAIN_STATE) (2 * d + 1) (2 * d)

/-- A domain changes state. -/
def setDom (s : State) (d v : Nat) : State :=
  setFld s Reg.PWR_DOMAIN_STATE (putBits (fld s Reg.PWR_DOMAIN_STATE) (2 * d + 1) (2 * d) v)

/-- The power domain number of an opcode group's block (R482, R524). -/
def groupDomain (g : Nat) : Nat :=
  match g with
  | 0x02 => 3 | 0x03 => 8 | 0x06 => 9 | 0x07 => 9 | 0x08 => 10 | 0x0B => 11 | 0x0C => 11 | 0x0D => 1 | 0x0E => 3 | _ => 2

/-- OPCODE and outcome of an earlier command of the SQ with the same INTENT: one that this command waited for, or one in the SQ's
window (R66). -/
def priorOutcome (s : State) (c : Cmd) : Option (Nat × Answer) :=
  match c.dup with
  | some d => some d
  | none =>
    if c.intent = 0 then none
    else ((sqAt s c.sq).window.find? fun i => i.id = c.intent).map fun i => (i.opcode, i.ans)

/-- Steps 2 to 7 of R532: the outcome of a descriptor that is not to run. -/
def judge (s : State) (c : Cmd) : Option Answer :=
  match priorOutcome s c with
  | some (op, a) => some (if op = c.opcode then a else ansBadField 0x06 8)
  | none =>
    match worst (layoutChks c) with
    | some k => some (ansBadField k.reason k.off)
    | none =>
      let op := c.opcode
      let g := c.group
      if !opcodeDefined op then some { status := 0x10 }
      else if (g ≠ 1 ∨ (op ≠ 0x0100 ∧ op ≠ 0x0101)) ∧ !bit (reg s (Reg.HIF_SQ_PERM_GROUPS c.sq).off).toNat g then
        some (ansDenied 0x0001)
      else if flag s Reg.UPD_STAT_RESCUE ∧ g ≠ 1 ∧ ¬(0x0A00 ≤ op ∧ op ≤ 0x0A06) then some (ansBadState 0x00FF)
      else if (role s = 3 ∨ role s = 4) ∧ !standbyAccepts c then some (ansBadState 0x00FE)
      else if g = 0x0D ∧ op ≠ 0x0D08 ∧ op ≠ 0x0D0B ∧ fld s Reg.KEY_STAT_ROOT ≠ 1 then some (ansBadState 0x0006)
      else if fld s Reg.KEY_STAT_LC = 5 ∧ g ≠ 1 ∧ op ≠ 0x0D08 ∧ op ≠ 0x0D0B then some (ansDenied 0x0003)
      else if domState s (groupDomain g) ≠ 2 then some (ansBadState 0x00FD)
      else none

/-- The outcome is that of an earlier command with the same intent (R66). -/
def intentHit (s : State) (c : Cmd) : Bool := (priorOutcome s c).isSome

/-! ### Starting commands (R44, R52, R61, R66) -/

/-- The rings are served: RUNNING, no power-fail warning is latched, and no activation has stopped them (R74, R322, R489). -/
def serving (s : State) : Bool :=
  hifState s = 1 && !flag s Reg.PWR_STAT_PF && !s.upd.act.any fun a => a.since.isSome

/-- The commit to FRAM that follows a power-fail warning is in progress (R82, R490). -/
def committing (s : State) : Bool :=
  flag s Reg.PWR_STAT_PF && !passedUs s (s.pwr.pfAt - 1) (match s.pwr.pfRec with | some r => r.us | none => 0)

/-- Commands may start. After a power-fail warning only those start that R493 says are refused then: MODULE_RESET during the
commit, PWR_MODE_SET and PWR_DOMAIN_SET (log entry 18). -/
def mayStart (s : State) (c : Cmd) : Bool :=
  serving s || (hifState s = 1 && flag s Reg.PWR_STAT_PF &&
    (decide (c.opcode = 0x1000 ∨ c.opcode = 0x1001) || (decide (c.opcode = 0x0105) && committing s)))

/-- Coop makes a command wait: key updates and KEY_SCRAP one at a time (R417), and any request between steps 3 and 4 of a transition
(R423). -/
def coopWaits (s : State) (c : Cmd) : Bool :=
  match s.key.job with
  | none => false
  | some j => decide (c.opcode = 0x0D00 ∨ c.opcode = 0x0D0A ∨ (c.opcode / 256 = 0x0D ∧ j.left.head? = some KeyStage.lcRecord))

/-- A fetched command may start now. -/
def startable (s : State) (c : Cmd) : Bool :=
  let all := allFetched s
  mayStart s c && !c.started && !coopWaits s c &&
  (cqAt s (fld s (Reg.HIF_SQ_CFG_CQ c.sq))).held.isEmpty &&
  (!c.barrier || all.all fun x => c.seq ≤ x.seq) &&
  (all.all fun x => !x.barrier || c.seq ≤ x.seq) &&
  (!c.ordered || (sqAt s c.sq).fetched.all fun x => !x.ordered || c.seq ≤ x.seq) &&
  (c.intent = 0 || (sqAt s c.sq).fetched.all fun x => x.intent ≠ c.intent || c.seq ≤ x.seq)

/-- The oldest command of an SQ with an opcode that may start. -/
def pick (s : State) (sq op : Nat) : Option Cmd :=
  (sqAt s sq).fetched.find? fun c => c.opcode = op && startable s c

/-- A command has started and stays outstanding. -/
def markStarted (s : State) (c : Cmd) : State :=
  let q := sqAt s c.sq
  setSq s c.sq { q with fetched := q.fetched.map fun x => if x.seq = c.seq then { x with started := true } else x }

/-- Complete a command that its judgement refuses, counting an intent match (R85). -/
def completeJudged (s : State) (c : Cmd) (a : Answer) : State :=
  let s1 :=
    if intentHit s c then { s with host := { s.host with intentMatches := satInc 32 s.host.intentMatches 1 } } else s
  complete s1 c a

/-- Opcodes that change what the configuration checkpoint holds when they complete (R444, R467). -/
def configOps : List Nat :=
  [0x0300, 0x0301, 0x0500, 0x0501, 0x0502, 0x0503, 0x0504, 0x0604, 0x0700, 0x0701, 0x0702, 0x0703, 0x0800, 0x0803, 0x0B00,
   0x0B03, 0x0B04, 0x0C00, 0x0C01, 0x0C02, 0x0E02, 0x0E03, 0x0E04, 0x0E05, 0x1000]

/-- The tables differ from those of the checkpoint. -/
def ckChanged (s : State) : Bool := decide (cfgTables s ≠ s.pwr.ckTold)

/-- The checkpoint takes changed tables, and an ACTIVE module mirrors the change (R442). -/
def ckTables (s : State) : State :=
  let t := cfgTables s
  let s1 := { s with pwr := { s.pwr with ckHas := true, ckTold := t } }
  if !ckChanged s then s1
  else
    (cfgDelta s.pwr.ckTold t).foldl (fun s x => mirror s 0x48 (cfgBody Config.tableItem x.1 x.2)) s1

/-- A configuration command is done: the checkpoint has it, and the completion of one that changed the tables waits for CFG_ACK
while the partner is present (R444). -/
def completeConfig (s : State) (c : Cmd) (a : Answer) : State :=
  let s1 := ckTables s
  if role s = 2 ∧ flag s Reg.PAR_STAT_PARTNER ∧ ckChanged s then
    let w : CfgWait := { mirSeq := s1.pair.mirSeq.get 0x48 0, seq := c.seq, ans := a, since := s.el }
    markStarted { s1 with pair := { s1.pair with cfgWait := s1.pair.cfgWait ++ [w] } } c
  else complete s1 c a

/-- A configuration command that waited for its moment is done (R223, R397). -/
def completeConfigSeq (s : State) (seq : Nat) (a : Answer) : State :=
  match cmdBySeq s seq with
  | some c => completeConfig s c a
  | none => ckTables s

/-- Run an opcode's work for a command. -/
def runCmd (s : State) (c : Cmd) (body : State → Cmd → Work) : State :=
  match judge s c with
  | some a => completeJudged s c a
  | none =>
    match body s c with
    | .ok (s', some a) => if configOps.contains c.opcode then completeConfig s' c a else complete s' c a
    | .ok (s', none) => markStarted s' c
    | .error (.ans a) => complete s c a
    | .error (.ansIn s' a) => complete s' c a
    | .error (.bufFault s') =>
      complete (ringFault (markStarted s' c) 2 0 c.sq) c { status := 0x30 }

/-- A ring opcode: the oldest command of the SQ with this opcode that may start runs. -/
def runRing (s : State) (sq op : Nat) (body : State → Cmd → Work) : State :=
  match pick s sq op with
  | some c => runCmd s c body
  | none => s

end Sys2Proof.Machine
end

