-- ==== Sys2Proof/Machine/Admin.lean ====
section
/-! DEFINITION. The admin opcodes but for MODULE_RESET (R81-R85). -/

namespace Sys2Proof.Machine

def bodyNop (s : State) (c : Cmd) : Work := do
  checkOps (opChks c [(16, 8)] [])
  pure (s, some (ansDone (c.op 16 8)))

def execNop (sq : Fin 16) (s : State) : Host.Outcome State Fault Refusal := .next (runRing s sq 0x0100 bodyNop)

/-- VERSION of the image that runs (R315); 0 in RESCUE, where none does (log entry 126). -/
def runVersion (s : State) : List Byte :=
  if flag s Reg.UPD_STAT_RESCUE then List.replicate 4 0 else (s.upd.slots.get s.upd.runSlot {}).version

/-- The 512-byte IDENTIFY page (R84). -/
def identifyPage (s : State) : List Byte :=
  page 512 [(0, leBytes 4 (reg s Reg.GLB_ID_PART.off).toNat), (4, leBytes 8 Config.moduleEui),
    (12, (Config.serial ++ List.replicate 16 0x20).take 16), (28, runVersion s), (32, leBytes 4 Config.bootRom),
    (36, leBytes 1 (fld s Reg.KEY_STAT_LC)),
    (38, leBytes 2 (if flag s Reg.FED_ID_VALID then fld s Reg.FED_ID_ID else 0xFFFF)), (40, leBytes 8 s.dt)]

def bodyIdentify (s : State) (c : Cmd) : Work := do
  checkOps (opChks c [] [(1, 512)])
  let s1 ← writeBuf s c 0 (identifyPage s)
  pure (s1, some (ansDone 512))

def execIdentify (sq : Fin 16) (s : State) : Host.Outcome State Fault Refusal := .next (runRing s sq 0x0101 bodyIdentify)

def bodyEventRoute (s : State) (c : Cmd) : Work := do
  let g := c.op 16 1
  let v := c.op 17 1
  checkOps (opChks c [(16, 2)] [] ++ [rangeChk (decide (g < 1 ∨ 0x10 < g)) 16, rsvChk (decide (bits v 6 2 ≠ 0)) 17])
  pure ({ s with host := { s.host with routes := s.host.routes.set g { eq := v % 4, enable := bit v 7 } {} } }, some ansDone)

def execEventRoute (sq : Fin 16) (s : State) : Host.Outcome State Fault Refusal := .next (runRing s sq 0x0102 bodyEventRoute)

def bodyIntentForget (s : State) (c : Cmd) : Work := do
  let v := c.op 16 1
  let n := v % 16
  checkOps (opChks c [(16, 1)] [] ++ [rsvChk (decide (15 < v)) 16])
  stopIf ((sqAt s n).fetched.any fun x => x.seq ≠ c.seq) (ansBadState 0x0001)
  let q := sqAt s n
  pure (setSq s n { q with window := [] }, some (ansDone q.window.length))

def execIntentForget (sq : Fin 16) (s : State) : Host.Outcome State Fault Refusal := .next (runRing s sq 0x0103 bodyIntentForget)

/-- The 256-byte statistics page (R85). -/
def statsPage (s : State) : List Byte :=
  padTo 256 ((List.range 16).flatMap (fun n => leBytes 4 (sqAt s n).completed) ++
    (List.range 16).flatMap (fun n => leBytes 4 (sqAt s n).aborted) ++
    (List.range 4).flatMap (fun n => leBytes 4 (eqAt s n).discarded) ++
    leBytes 4 s.host.recoveries ++ leBytes 4 s.host.ringFaults ++ leBytes 4 s.host.intentMatches)

def bodyStatsRead (s : State) (c : Cmd) : Work := do
  checkOps (opChks c [] [(1, 256)])
  let s1 ← writeBuf s c 0 (statsPage s)
  pure (s1, some (ansDone 256))

def execStatsRead (sq : Fin 16) (s : State) : Host.Outcome State Fault Refusal := .next (runRing s sq 0x0104 bodyStatsRead)

end Sys2Proof.Machine
end

