-- ==== Sys2Proof/Machine/Hif.lean ====
section
/-! DEFINITION. The host link: doorbells, fetch, completion and event writes, recovery causes, MSI-X and Rill (chapter 02). -/

namespace Sys2Proof.Machine

def hostUpd (s : State) (f : HostSt → HostSt) : State := { s with host := f s.host }

/-- An access that breaks R38 or R47; GLB_ERR_ADDR captures it while neither access flag is set (R86). -/
def badAccess (s : State) (bar : Nat) (write : Bool) (off : Nat) : State :=
  let s1 :=
    if flag s Reg.GLB_ERR_BAD_ACCESS ∨ flag s Reg.GLB_ERR_PD_ACCESS then s
    else setFld (setFlag (setFld s Reg.GLB_ERR_ADDR_BAR bar) Reg.GLB_ERR_ADDR_WRITE write) Reg.GLB_ERR_ADDR_OFFSET off
  setErr s1 Reg.GLB_ERR_BAD_ACCESS

/-- An access to a register whose domain is RET or OFF (R483): a dropped write counts in DROPPED. -/
def pdAccess (s : State) (write : Bool) (off : Nat) : State :=
  let s1 :=
    if flag s Reg.GLB_ERR_BAD_ACCESS ∨ flag s Reg.GLB_ERR_PD_ACCESS then s
    else setFld (setFlag (setFld s Reg.GLB_ERR_ADDR_BAR 0) Reg.GLB_ERR_ADDR_WRITE write) Reg.GLB_ERR_ADDR_OFFSET off
  let s2 := setErr s1 Reg.GLB_ERR_PD_ACCESS
  if write then count1 s2 Reg.GLB_FENCE_DROPPED else s2

/-! ### Rings (R41, R42, R43, R530) -/

/-- A write to a ring's CFG register (R41). `size` and `en` are its SIZE_LOG2 and ENABLE fields, `err` its CFG_ERR;
`others` are its other RW fields; `onEnable` zeroes the indices. -/
def ringCfgWrite (s : State) (v : Nat) (size en err : RF) (others : List RF) (onEnable : State → State) : State :=
  let was := flag s en
  let s1 := others.foldl (fun s f => setFld s f (bits v f.hi f.lo)) s
  let s2 := if was then s1 else setFld s1 size (bits v size.hi size.lo)
  if bit v en.lo then
    if was then s2
    else if 4 ≤ fld s2 size ∧ fld s2 size ≤ 16 then onEnable (setFld (setFld s2 en 1) err 0)
    else setFld s2 err 1
  else setFld s2 en 0

/-- Write of HIF_SQn_CFG. -/
def sqCfgWrite (s : State) (n v : Nat) : State :=
  ringCfgWrite s v (Reg.HIF_SQ_CFG_SIZE_LOG2 n) (Reg.HIF_SQ_CFG_ENABLE n) (Reg.HIF_SQ_CFG_CFG_ERR n)
    [Reg.HIF_SQ_CFG_WEIGHT n, Reg.HIF_SQ_CFG_CQ n, Reg.HIF_SQ_CFG_NEQ n]
    fun s => setSq (setFld s (Reg.HIF_SQ_HEAD_HEAD n) 0) n { sqAt s n with tail := 0, reEnabled := true }

/-- Write of HIF_CQn_CFG. -/
def cqCfgWrite (s : State) (n v : Nat) : State :=
  ringCfgWrite s v (Reg.HIF_CQ_CFG_SIZE_LOG2 n) (Reg.HIF_CQ_CFG_ENABLE n) (Reg.HIF_CQ_CFG_CFG_ERR n)
    [Reg.HIF_CQ_CFG_VEC n, Reg.HIF_CQ_CFG_COAL_CNT n, Reg.HIF_CQ_CFG_COAL_TIME n]
    fun s => setCq (setFld (setFld s (Reg.HIF_CQ_WR_INDEX n) 0) (Reg.HIF_CQ_WR_PHASE n) 1) n { cqAt s n with head := 0, coal := {} }

/-- Write of HIF_EQn_CFG. -/
def eqCfgWrite (s : State) (n v : Nat) : State :=
  ringCfgWrite s v (Reg.HIF_EQ_CFG_SIZE_LOG2 n) (Reg.HIF_EQ_CFG_ENABLE n) (Reg.HIF_EQ_CFG_CFG_ERR n)
    [Reg.HIF_EQ_CFG_VEC n, Reg.HIF_EQ_CFG_COAL_CNT n, Reg.HIF_EQ_CFG_COAL_TIME n]
    fun s => setEq (setFld (setFld s (Reg.HIF_EQ_WR_INDEX n) 0) (Reg.HIF_EQ_WR_PHASE n) 1) n { eqAt s n with head := 0, coal := {} }

/-- Setting a ring's ENABLE (R41): the write of its CFG register. -/
def execRingEnable (r : RingSel) (v : Word) (s : State) : Host.Outcome State Fault Refusal :=
  .next (match r with
    | .sq n => sqCfgWrite s n v.toNat
    | .cq n => cqCfgWrite s n v.toNat
    | .eq n => eqCfgWrite s n v.toNat)

/-! ### Doorbells (R42, R47, R48, R530) -/

/-- What the host did to its own memory before it rang: bytes written, and ranges that fail from now on. -/
def hostActs (s : State) (u : HostUpdate) : State :=
  hostUpd s fun h => { h with mem := u.writes.foldl (fun m w => memPut m w.1 w.2) h.mem, bad := u.faulty }

/-- A write of SQ n's tail doorbell (R42, R47, R48). -/
def sqDoorbell (s : State) (n v : Nat) : State :=
  if 65536 ≤ v then badAccess s 1 true (8 * n)
  else if !flag s (Reg.HIF_SQ_CFG_ENABLE n) ∨ hifState s = 2 ∨ hifState s = 3 then s
  else if sqSize s n ≤ v then ringFault s 4 0 n
  else setSq s n { sqAt s n with tail := v }

/-- A tail doorbell, after what the host did to its memory. -/
def execSqTailDoorbell (n : Fin 16) (v : Word) (u : HostUpdate) (s : State) : Host.Outcome State Fault Refusal :=
  .next (sqDoorbell (hostActs s u) n v.toNat)

/-- A head doorbell value is valid when it frees only entries that the module has written (R530). -/
def headValid (size head wr h : Nat) : Bool :=
  decide (h < size) && decide ((h + size - head) % size ≤ (wr + size - head) % size)

/-- A write of CQ n's head doorbell (R47, R48, R530). -/
def cqDoorbell (s : State) (n v : Nat) : State :=
  if 65536 ≤ v then badAccess s 1 true (0x100 + 8 * n)
  else if !flag s (Reg.HIF_CQ_CFG_ENABLE n) then s
  else if headValid (cqSize s n) (cqAt s n).head (fld s (Reg.HIF_CQ_WR_INDEX n)) v then setCq s n { cqAt s n with head := v }
  else ringFault s 4 1 n

/-- A write of EQ n's head doorbell (R47, R48, R530). -/
def eqDoorbell (s : State) (n v : Nat) : State :=
  if 65536 ≤ v then badAccess s 1 true (0x200 + 8 * n)
  else if !flag s (Reg.HIF_EQ_CFG_ENABLE n) then s
  else if headValid (eqSize s n) (eqAt s n).head (fld s (Reg.HIF_EQ_WR_INDEX n)) v then setEq s n { eqAt s n with head := v }
  else ringFault s 4 2 n

def execCqHeadDoorbell (n : Fin 16) (v : Word) (s : State) : Host.Outcome State Fault Refusal := .next (cqDoorbell s n v.toNat)

def execEqHeadDoorbell (n : Fin 4) (v : Word) (s : State) : Host.Outcome State Fault Refusal := .next (eqDoorbell s n v.toNat)

/-! ### Fetching (R42, R51, R62, R532) -/

/-- An SQ holds a descriptor that may be fetched now (R62). -/
def canFetch (s : State) (n : Nat) : Bool :=
  serving s && flag s Reg.HIF_CTRL_ENABLE && flag s (Reg.HIF_SQ_CFG_ENABLE n) &&
  decide (fld s (Reg.HIF_SQ_HEAD_HEAD n) ≠ (sqAt s n).tail) && decide ((sqAt s n).fetched.length < 64)

/-- Weighted round robin: the SQ that is served now goes on while its share lasts, else the next SQ that can (R62). -/
def nextSq (s : State) : Option Nat :=
  if canFetch s s.host.rrSq ∧ s.host.rrUsed < 2 ^ fld s (Reg.HIF_SQ_CFG_WEIGHT s.host.rrSq) then some s.host.rrSq
  else ((List.range 16).map fun i => (s.host.rrSq + 1 + i) % 16).find? fun n => canFetch s n

/-- Fetch the descriptor at an SQ's head (R42, R51), a read that is never relaxed (R39). -/
def fetchFrom (s : State) (n : Nat) : State :=
  let s1 := hostUpd s fun h => { h with
    attr := {}, rrSq := n
    rrUsed := if n = h.rrSq ∧ h.rrUsed < 2 ^ fld s (Reg.HIF_SQ_CFG_WEIGHT n) then h.rrUsed + 1 else 1 }
  let head := fld s (Reg.HIF_SQ_HEAD_HEAD n)
  let a := sqBase s n + 64 * head
  if memFails s a 64 then ringFault s1 1 0 n
  else
    let b := memRead s a 64
    let op := fieldLE b 0 2
    if op = 0 ∨ op = 0xFFFF ∨ fieldLE b 4 1 % 4 = 3 then ringFault s1 5 0 n
    else
      let c : Cmd := { seq := s.host.nextSeq, sq := n, bytes := b, epoch := epoch s }
      let q := sqAt s n
      hostUpd (setSq (setFld s1 (Reg.HIF_SQ_HEAD_HEAD n) ((head + 1) % sqSize s n)) n { q with fetched := q.fetched ++ [c] })
        fun h => { h with nextSeq := h.nextSeq + 1 }

/-- Complete every command that may start and that its judgement refuses (R532 steps 2 to 7). -/
def settle : Nat → State → State
  | 0, s => s
  | fuel + 1, s =>
    match (allFetched s).find? fun c => startable s c && (judge s c).isSome with
    | some c => settle fuel (completeJudged s c ((judge s c).getD (ansDone)))
    | none => s

/-- The module fetches a descriptor and judges what it holds (R62, R532). -/
def execDescriptorFetch (s : State) : Host.Outcome State Fault Refusal :=
  let s1 := match nextSq s with
    | some n => fetchFrom s n
    | none => s
  .next (settle (allFetched s1).length s1)

/-! ### Writing entries (R43, R44, R45, R46) -/

/-- Write the oldest held completion of a CQ. -/
def writeCompletion (s : State) (n : Nat) : State :=
  match (cqAt s n).held with
  | [] => s
  | h :: r =>
    if hifState s ≠ 1 ∨ !cqFree s n then s
    else if cqFails s n then ringFault s 3 1 n
    else drainCheck (putCompletion s n h r)

def execCompletionWrite (n : Fin 16) (s : State) : Host.Outcome State Fault Refusal := .next (writeCompletion s n)

/-- Write the oldest record of an EQ's pending store (R45). -/
def writeEvent (s : State) (n : Nat) : State :=
  match (eqAt s n).pend with
  | [] => s
  | r :: rest =>
    if hifState s ≠ 1 ∨ !eqFree s n ∨ !released s r then s
    else if eqFails s n then ringFault s 3 2 n
    else putEvent s n r rest

def execEventRecordWrite (n : Fin 4) (s : State) : Host.Outcome State Fault Refusal := .next (writeEvent s n)

/-- The coalescing time of a ring that coalesces has passed since its first unsignalled entry (R46). -/
def execCoalesceTimeout (r : RingSel) (s : State) : Host.Outcome State Fault Refusal :=
  .next (match r with
    | .sq _ => s
    | .cq n =>
      let q := cqAt s n
      if 0 < q.coal.count ∧ 0 < fld s (Reg.HIF_CQ_CFG_COAL_CNT n) ∧ passedUs s q.coal.since (8 * fld s (Reg.HIF_CQ_CFG_COAL_TIME n)) then
        raiseVec (setCq s n { q with coal := {} }) (fld s (Reg.HIF_CQ_CFG_VEC n))
      else s
    | .eq n =>
      let q := eqAt s n
      if 0 < q.coal.count ∧ 0 < fld s (Reg.HIF_EQ_CFG_COAL_CNT n) ∧ passedUs s q.coal.since (8 * fld s (Reg.HIF_EQ_CFG_COAL_TIME n)) then
        raiseVec (setEq s n { q with coal := {} }) (fld s (Reg.HIF_EQ_CFG_VEC n))
      else s)

/-! ### Recovery causes and resets of the link (R40, R68, R73, R74, R529, R534) -/

/-- The registers of a reset source take their reset values. -/
def dropRegs (s : State) (p : Card → Bool) : State :=
  { s with regs := s.regs.filter fun e => match cardAt e.1 with
      | some (c, _) => !p c
      | none => true }

/-- PERST, hot reset and FLR reset the ring registers, MSI-X and configuration space (R73, R529); the AER registers are sticky. -/
def linkReset (s : State) : State :=
  hostUpd (dropRegs s fun c => c.src = .perst) fun h => { h with
    msix := {}, link := { perst := h.link.perst, perstRelease := h.link.perstRelease, aer := h.link.aer } }

/-- The data link leaves DL_Active: LINK_UP, WIDTH and GEN read 0. -/
def linkLost (s : State) : State :=
  setFld (setFld (setFld s Reg.HIF_STAT_LINK_UP 0) Reg.HIF_STAT_WIDTH 0) Reg.HIF_STAT_GEN 0

/-- Causes of a reset that takes the link down: RESET, and LINK_DOWN when the link was up (R68). -/
def resetCauses (s : State) : List RF :=
  if flag s Reg.HIF_STAT_LINK_UP then [Reg.HIF_RCV_CAUSE_RESET, Reg.HIF_RCV_CAUSE_LINK_DOWN] else [Reg.HIF_RCV_CAUSE_RESET]

/-- PERST_N goes low and is released after `low` units (R36, R73). -/
def execPerstAssert (low : Nat) (s : State) : Host.Outcome State Fault Refusal :=
  let s1 := linkReset (linkLost (enterRecovery s (resetCauses s) [Reg.GLB_ERR_LINK_DOWN]))
  .next (hostUpd s1 fun h => { h with link := { perst := false, perstRelease := s.el + low } })

def execHotReset (s : State) : Host.Outcome State Fault Refusal :=
  .next (linkReset (linkLost (enterRecovery s (resetCauses s) [Reg.GLB_ERR_LINK_DOWN])))

/-- A function-level reset (R73). -/
def funcReset (s : State) : State := linkReset (enterRecovery s [Reg.HIF_RCV_CAUSE_RESET] [Reg.GLB_ERR_LINK_DOWN])

def execFlr (s : State) : Host.Outcome State Fault Refusal := .next (funcReset s)

def execLinkDown (s : State) : Host.Outcome State Fault Refusal :=
  .next (linkLost (enterRecovery s [Reg.HIF_RCV_CAUSE_LINK_DOWN] [Reg.GLB_ERR_LINK_DOWN]))

/-- The greatest width and rate that STRAP2 and STRAP1:0 allow (R504). -/
def maxWidth (s : State) : Nat := if bit (fld s Reg.PIN_STRAP_STRAP) 2 then 2 else 1
def maxGen (s : State) : Nat := min 3 (fld s Reg.PIN_STRAP_STRAP % 4 + 1)

/-- The link reaches DL_Active with its negotiated width and rate, at most what the straps allow (R35). -/
def execLinkUp (width gen : Nat) (s : State) : Host.Outcome State Fault Refusal :=
  .next (setFld (setFld (setFld s Reg.HIF_STAT_LINK_UP 1) Reg.HIF_STAT_WIDTH (min width (maxWidth s))) Reg.HIF_STAT_GEN
    (min gen (maxGen s)))

/-- The function is put into D3hot (R40). -/
def enterD3hot (s : State) : State :=
  hostUpd (enterRecovery s [Reg.HIF_RCV_CAUSE_D3HOT] [Reg.GLB_ERR_LINK_DOWN]) fun h =>
    { h with link := { h.link with d3hot := true } }

def execD3hotEntry (s : State) : Host.Outcome State Fault Refusal := .next (enterD3hot s)

/-- Return to D0 has no effect of its own: No_Soft_Reset is 1 (R534). -/
def leaveD3hot (s : State) : State := hostUpd s fun h => { h with link := { h.link with d3hot := false } }

def execD3hotExit (s : State) : Host.Outcome State Fault Refusal := .next (leaveD3hot s)

/-- The bits of uncorrectable errors that the AER severity register marks fatal, or those that it does not (R40). -/
def aerBits (s : State) (fatal : Bool) : List Nat := (List.range 32).filter fun b => bit s.host.link.aer.sev b == fatal

/-- Which of `l` the link's error is: the commands name no bit, so it is a free value. -/
def aerBit (s : State) (l : List Nat) : Nat := l.getD (Config.free s.freeN % l.length) 0

/-- The state after the three free values of an error, its bit, header and kind, are drawn. -/
def aerDrawn (s : State) : State := drawFree (drawFree (drawFree s))

/-- An uncorrectable error is logged; the first keeps its header, a free value (R35, R40). -/
def logUnc (s : State) (b : Nat) : State :=
  hostUpd (aerDrawn s) fun h =>
    let a := h.link.aer
    let hdr := if a.unc = 0 then BitVec.ofNat 128 (Config.free (s.freeN + 1)) else a.hdr
    { h with link := { h.link with aer := { a with unc := Nat.lor a.unc (2 ^ b), hdr := hdr } } }

/-- A correctable error is logged (R40). -/
def logCor (s : State) (b : Nat) : State :=
  hostUpd (aerDrawn s) fun h =>
    { h with link := { h.link with aer := { h.link.aer with cor := Nat.lor h.link.aer.cor (2 ^ b) } } }

/-- An uncorrectable error that the severity register marks fatal is logged and enters recovery; none is where it marks none (R40). -/
def execAerFatal (s : State) : Host.Outcome State Fault Refusal :=
  let l := aerBits s true
  .next (if l.isEmpty then s else enterRecovery (logUnc s (aerBit s l)) [Reg.HIF_RCV_CAUSE_AER_FATAL] [Reg.GLB_ERR_AER_FATAL])

/-- A correctable or non-fatal uncorrectable error, free which of the two, is logged and does not touch the rings (R40). -/
def execAerCorrectable (s : State) : Host.Outcome State Fault Refusal :=
  let l := aerBits s false
  .next (if l.isEmpty || freeVal (drawFree (drawFree s)) 1 == 0 then logCor s (aerBit s (List.range 32)) else logUnc s (aerBit s l))

/-- Every started command has its final status: HALTED (R69); a standing RESUME then takes effect (R71, R74). -/
def execRecoveryHalted (s : State) : Host.Outcome State Fault Refusal :=
  .next (if hifState s = 2 ∧ (allFetched s).isEmpty then resumeCheck (setFld s Reg.HIF_STAT_STATE 3) else s)

/-- A write of HIF_CTRL.ENABLE (R74). -/
def hifEnableWrite (s : State) (b : Bool) : State :=
  if b then
    if flag s Reg.HIF_STAT_READY then
      let s1 := setFld s Reg.HIF_CTRL_ENABLE 1
      resumeCheck (if hifState s1 = 0 then setFld s1 Reg.HIF_STAT_STATE 1 else s1)
    else s
  else drainCheck (setFld s Reg.HIF_CTRL_ENABLE 0)

def execHifEnableWrite (b : Bool) (s : State) : Host.Outcome State Fault Refusal := .next (hifEnableWrite s b)

/-- A write of 1 to HIF_RCV_CTRL.RESUME (R71, R74). -/
def resumeWrite (s : State) : State :=
  if hifState s = 2 ∨ hifState s = 3 then resumeCheck (setFld s Reg.HIF_RCV_CTRL_RESUME 1) else s

def execResume (s : State) : Host.Outcome State Fault Refusal := .next (resumeWrite s)

/-! ### MSI-X (R36, R529) -/

/-- Configuration requests are answered: 100 ms have passed since the release of PERST_N or the end of a MOD reset (R36, R496). -/
def cfgReady (s : State) : Bool := passedMs s s.host.link.perstRelease 100

/-- Send every pending message whose conditions hold (R529). -/
def flushMsix (s : State) : State :=
  (List.range 32).foldl (fun s v =>
    let m := s.host.msix
    if m.pend.get v false && m.enable && !m.fmask && m.unmasked.get v false then
      send (hostUpd s fun h => { h with msix := { m with pend := m.pend.set v false false } }) (.msi v)
    else s) s

/-- A dword write to the MSI-X table (R47). -/
def msixTableWrite (m : MsixSt) (off v : Nat) : MsixSt :=
  let i := off / 16
  match off / 4 % 4 with
  | 0 => { m with addr := m.addr.set i (putBits (m.addr.get i 0) 31 0 v) 0 }
  | 1 => { m with addr := m.addr.set i (putBits (m.addr.get i 0) 63 32 v) 0 }
  | 2 => { m with data := m.data.set i v 0 }
  | _ => { m with unmasked := m.unmasked.set i (!bit v 0) false }

/-- A write to the MSI-X capability, a configuration request, or to the table. -/
def execMsixConfigWrite (w : MsixWrite) (s : State) : Host.Outcome State Fault Refusal :=
  .next (match w with
    | .control en fm =>
      if cfgReady s then flushMsix (hostUpd s fun h => { h with retried := false, msix := { h.msix with enable := en, fmask := fm } })
      else hostUpd s fun h => { h with retried := true }
    | .table off v => flushMsix (hostUpd s fun h => { h with msix := msixTableWrite h.msix off v.toNat }))

/-! ### Rill queues (R76-R80) -/

/-- fill of a queue of 2^k entries (R76). -/
def RillSt.fill (q : RillSt) (k : Nat) : Nat := (q.wr + 2 * 2 ^ k - q.rd) % (2 * 2 ^ k)

/-- The consumer's read (R77): the oldest entry with its LOSTMARK. -/
def RillSt.pop (q : RillSt) (k : Nat) : RillSt × Nat × Bool :=
  ({ q with rd := (q.rd + 1) % (2 * 2 ^ k), lostmark := false }, q.entries.get (q.rd % 2 ^ k) 0, q.lostmark)

/-- A write (R77): the new queue, and whether an entry was lost; nothing changes when POLICY 0 stalls the producer. -/
def RillSt.push (q : RillSt) (k : Nat) (overwrite : Bool) (w : Nat) : RillSt × Bool :=
  if q.fill k = 2 ^ k then
    if overwrite then
      ({ q with rd := (q.rd + 1) % (2 * 2 ^ k), lostmark := true, entries := q.entries.set (q.wr % 2 ^ k) w 0,
                wr := (q.wr + 1) % (2 * 2 ^ k) }, true)
    else (q, false)
  else ({ q with entries := q.entries.set (q.wr % 2 ^ k) w 0, wr := (q.wr + 1) % (2 * 2 ^ k) }, false)

/-- A read or a flush that reaches the queue in the same cycle as a write applies before it (R78). -/
def RillSt.before (q : RillSt) (k : Nat) : RillWith → RillSt
  | .alone => q
  | .read => if q.fill k = 0 then q else (q.pop k).1
  | .flush => { q with rd := q.wr, lostmark := false }

/-- A read of RIL_HPn_DATA_LO (R79). -/
def portRead (s : State) (n : Nat) : State :=
  let k := fld s (Reg.RIL_HP_CFG_DEPTH_LOG2 n)
  let q := s.host.ports.get n {}
  if q.fill k = 0 then
    hostUpd (setFld (setReg s (Reg.RIL_HP_DATA_HI_VALID n).off 0) (Reg.RIL_HP_STAT_UNDERRUN n) 1) fun h => { h with readData := 0 }
  else
    let (q', w, lm) := q.pop k
    let s1 := setReg s (Reg.RIL_HP_DATA_HI_VALID n).off
      (BitVec.ofNat 32 (bits w 55 32 + 2 ^ 30 * b2n lm + 2 ^ 31))
    hostUpd s1 fun h => { h with ports := h.ports.set n q' {}, readData := w % 2 ^ 32 }

/-- A write of 1 to RIL_HPn_CTRL.FLUSH (R78). -/
def portFlush (s : State) (n : Nat) : State :=
  let q := s.host.ports.get n {}
  hostUpd s fun h => { h with ports := h.ports.set n { q with rd := q.wr, lostmark := false } {} }

/-- An entry reaches host port n; its VEC is raised when fill rises from 0 to 1 (R77, R80). -/
def portPush (s : State) (n : Nat) (w : Nat) : State :=
  if !flag s (Reg.RIL_HP_CFG_ENABLE n) then s
  else
    let k := fld s (Reg.RIL_HP_CFG_DEPTH_LOG2 n)
    let q0 := s.host.ports.get n {}
    let (q1, lost) := q0.push k true w
    let s1 := hostUpd s fun h => { h with ports := h.ports.set n q1 {} }
    let s2 := if lost then setErr (count1 s1 (Reg.RIL_HP_LOST_COUNT n)) Reg.GLB_ERR_HP_LOST else s1
    if q0.fill k = 0 then raiseVec s2 (fld s (Reg.RIL_HP_CFG_VEC n)) else s2

/-- A read or a flush of the port that comes with the write applies before it (R78, R79). -/
def portWrite (s : State) (n : Nat) (w : Nat) (how : RillWith) : State :=
  portPush (match how with | .alone => s | .read => portRead s n | .flush => portFlush s n) n w

/-- A write to an internal queue. -/
def queueWrite (s : State) (n : Nat) (w : Nat) (how : RillWith) : State :=
  let k := Config.rillDepth n
  let q0 := (s.host.rill.get n {}).before k how
  let (q1, lost) := q0.push k (Config.rillPolicy n) w
  let s1 := hostUpd s fun h => { h with rill := h.rill.set n q1 {} }
  if lost then count1 s1 (Reg.RIL_Q_LOST_COUNT n) else s1

def execRillQueueWrite (q : RillSel) (w : BitVec 64) (how : RillWith) (s : State) : Host.Outcome State Fault Refusal :=
  .next (match q with
    | .queue n => queueWrite s n w.toNat how
    | .port n => portWrite s n w.toNat how)

def execHostPortDataRead (n : Fin 8) (s : State) : Host.Outcome State Fault Refusal := .next (portRead s n)

def execHostPortFlush (n : Fin 8) (s : State) : Host.Outcome State Fault Refusal := .next (portFlush s n)

/-- A read of GLB_FENCE (R31): every earlier write has taken effect; DROPPED is returned and cleared. -/
def execGlbFenceRead (s : State) : Host.Outcome State Fault Refusal :=
  .next (hostUpd (setFld s Reg.GLB_FENCE_DROPPED 0) fun h => { h with readData := fld s Reg.GLB_FENCE_DROPPED })

end Sys2Proof.Machine
end

