-- ==== Sys2Proof/Machine/Radio.lean ====
section
/-! DEFINITION. Radio front ends, demodulator pool, transmission and regional limits (chapter 04). -/

namespace Sys2Proof.Machine

def radUpd (s : State) (f : RadSt → RadSt) : State := { s with rad := f s.rad }
def chainAt (s : State) (n : Nat) : ChainSt := s.rad.chains.get n {}
def setChain (s : State) (n : Nat) (c : ChainSt) : State := radUpd s fun r => { r with chains := r.chains.set n c {} }

/-- The module may transmit on air: ROLE UNPAIRED or ACTIVE (R433). -/
def onAir (s : State) : Bool := role s = 0 || role s = 2

/-- The radio stays off: in RESCUE (R325), and in RETURN and SCRAP (R420). -/
def radioBarred (s : State) : Bool := flag s Reg.UPD_STAT_RESCUE || decide (4 ≤ fld s Reg.KEY_STAT_LC)

/-! ### Channels (R114, R116, R118) -/

/-- The band of channel c, or of the pair that begins at c, in kHz. -/
def chanBand (s : State) (c : Nat) (wide : Bool) : Nat × Nat :=
  let lo := fld s Reg.RAD_WIN_CH0_KHZ + 200 * c - 100
  (lo, lo + if wide then 400 else 200)

/-- A channel lies wholly inside the variant's range. -/
def inBand (s : State) (c : Nat) (wide : Bool) : Bool :=
  let b := chanBand s c wide
  decide (Config.range.1 ≤ b.1 ∧ b.2 ≤ Config.range.2)

/-- Bit c of a mask held in three registers. -/
def maskBit (s : State) (f : Nat → RF) (c : Nat) : Bool := bit (fld s (f (c / 32))) (c % 32)

/-- Channels 2p and 2p + 1 are paired. -/
def paired (s : State) (c : Nat) : Bool := bit (fld s (Reg.RAD_PAIR_PAIR (c / 64))) (c / 2 % 32)

/-- The channeliser and the demodulator pool run: FLK is ON, and no power-fail warning has stopped them (R482, R489). -/
def poolRuns (s : State) : Bool := decide (domState s 8 = 2) && !flag s Reg.PWR_STAT_PF

/-- The conditions of R118 but for the limit of 40 channels. -/
def detectorOn (s : State) (c : Nat) : Bool :=
  poolRuns s && flag s Reg.RAD_CTRL_RX_EN && !radioBarred s && maskBit s Reg.RAD_RXMASK_MASK c && inBand s c (paired s c) &&
  !(paired s c && c % 2 = 1) && (!flag s Reg.RAD_CTRL_QUIET || maskBit s Reg.RAD_QMASK_MASK c)

/-- The detector of channel c runs (R118). -/
def detectorRuns (s : State) (c : Nat) : Bool :=
  detectorOn s c &&
  (!flag s Reg.RAD_CTRL_QUIET || decide (((List.range c).filter (detectorOn s)).length < 40))

/-! ### Blanking (R130, R131) -/

/-- The receive path of antenna a (0 A, 1 B) is on. -/
def pathOn (s : State) (a : Nat) : Bool :=
  domState s (5 + a) = 2 && !(chainAt s a).busy && !outOfService s (0x68 + a) && !outOfService s 0x6A

/-- Channel c lies on or beside a transmit channel. -/
def suppressed (s : State) (c : Nat) : Bool :=
  let hi := if paired s c then c + 1 else c
  [0, 1].any fun n =>
    let t := chainAt s n
    t.busy && decide (t.ch ≤ hi + 1 ∧ c ≤ t.ch + b2n t.wide + 1)

/-- The antennas left of `ant` (0 A, 1 B, 2 both), if any. -/
def antLeft (s : State) (ant : Nat) : Option Nat :=
  match (ant = 0 || ant = 2) && pathOn s 0, (ant = 1 || ant = 2) && pathOn s 1 with
  | true, true => some 2
  | true, false => some 0
  | false, true => some 1
  | false, false => none

/-- RAD_STAT.BUSY follows the demodulators at work, and their peak is kept (RAD_OCC). -/
def setDemods (s : State) (l : List Demod) : State :=
  setFld (radUpd s fun r => { r with demods := l, occPeak := max r.occPeak l.length }) Reg.RAD_STAT_BUSY l.length

/-- A transmission has begun: detections and demodulations that it blanks are lost. -/
def blank (s : State) : State :=
  let keep (ch ant : Nat) : Option Nat := if suppressed s ch then none else antLeft s ant
  let d := s.rad.demods.filterMap fun d => (keep d.ch d.ant).map fun a => { d with ant := a }
  let w := s.rad.waiting.filterMap fun d => (keep d.ch d.ant).map fun a => { d with ant := a }
  countBy (setDemods (radUpd s fun r => { r with waiting := w }) d) (Reg.RAD_CNT_COUNT 5) (s.rad.demods.length - d.length)

/-- RX_EN was cleared: every demodulation ends uncounted (R125). -/
def rxOff (s : State) : State := setDemods (radUpd s fun r => { r with waiting := [] }) []

/-! ### Profiles (R132, R136) -/

def euProfile : Profile :=
  { subs := [⟨863000, 865000, 56, 100, 0, 0, false⟩, ⟨865000, 868000, 56, 1000, 0, 0, false⟩,
             ⟨868000, 868600, 56, 1000, 0, 0, false⟩, ⟨868700, 869200, 56, 100, 0, 0, false⟩,
             ⟨869400, 869650, 108, 10000, 0, 0, false⟩, ⟨869700, 870000, 56, 1000, 0, 0, false⟩] }

def naProfile : Profile := { minHop := 50, subs := [⟨902000, 928000, 108, 0xFFFF, 400, 20, false⟩] }

/-- The profile of a number; 3 is none. -/
def profileAt (s : State) (n : Nat) : Option Profile :=
  match n with
  | 0 => some euProfile
  | 1 => some naProfile
  | 2 => some s.rad.custom
  | _ => none

/-- The active profile. -/
def profile (s : State) : Option Profile := profileAt s (fld s Reg.RAD_STAT_PROFILE)

/-- The sub-band that wholly contains a channel's band. -/
def subOf (s : State) (p : Profile) (c : Nat) (wide : Bool) : Option (Nat × SubBand) :=
  let b := chanBand s c wide
  (p.subs.zipIdx.find? fun (x, _) => decide (x.lo ≤ b.1 ∧ b.2 ≤ x.hi)).map fun (x, i) => (i, x)

/-- Channel c carries a frame: MODE 2 goes out on a pair and any other MODE on an unpaired channel (R116), but a RESP goes out on the
pair of bins whether or not it is paired (R144). -/
def carries (s : State) (c : Nat) (wide resp : Bool) : Bool :=
  if wide then decide (c % 2 = 0) && (resp || paired s c) else !paired s c

/-- Channels that may transmit: in band, in RAD_TXMASK, in a sub-band that transmits (R128, R132), and of the frame's width. -/
def txChannel (s : State) (p : Profile) (c : Nat) (wide resp : Bool) : Option (Nat × SubBand) :=
  if inBand s c wide && maskBit s Reg.RAD_TXMASK_MASK c && carries s c wide resp then
    match subOf s p c wide with
    | some (i, x) => if x.rxOnly then none else some (i, x)
    | none => none
  else none

/-- Channels that count toward MIN_HOP (R135). -/
def hopCount (s : State) (p : Profile) : Nat :=
  ((List.range 80).filter fun c =>
    !(paired s c && c % 2 = 1) && (txChannel s p c (paired s c) false).isSome).length

/-! ### Airtime, duty and dwell (R120, R133, R134) -/

/-- Data rate of a MODE in bit/s. -/
def modeRate (mode : Nat) : Nat := if mode = 0 then 50000 else if mode = 1 then 100000 else 200000

/-- Airtime of a sub-GHz frame in µs (R120). -/
def airtimeUs (mode pre psdu : Nat) (fec : Bool) : Nat :=
  let bits := if fec then (pre + 2) * 8 + ((2 + psdu + 1 + 1) / 2) * 2 * 2 * 8 else (pre + 2 + psdu + 2) * 8
  (bits * 1000000 + modeRate mode - 1) / modeRate mode

def dutyAt (s : State) (n : Nat) : DutySt := s.rad.duty.get n {}

/-- Airtime in the current bucket and the 35 before it, in µs. -/
def DutySt.used (d : DutySt) : Nat := d.cur + (d.closed.take 35).sum

/-- Store a sub-band's airtime; RAD_SUBn.USED follows it. -/
def setDuty (s : State) (n : Nat) (d : DutySt) : State :=
  setFld (radUpd s fun r => { r with duty := r.duty.set n d {} }) (Reg.RAD_SUB_USED n) (min (d.used / 1000) (2 ^ 22 - 1))

/-- Start of the present dwell bucket of DWELL_WIN_S / 20 s, in 1/20 units of elapsed time. -/
def dwellStart (s : State) (win : Nat) : Nat := s.el * 20 / (win * 65536) * (win * 65536)

/-- Airtime of a channel over the last DWELL_WIN_S s, in µs: of the buckets that end after the window begins, whatever window was in
force when they were charged (R134). -/
def dwellUsed (s : State) (c win : Nat) : Nat :=
  (((s.rad.dwell.get c []).filter fun e => decide (dwellStart s win + win * 65536 < e.start + e.len + 20 * (win * 65536))).map
    DwellBucket.us).sum

/-- Charge a channel's dwell bucket; those past the longest window of 255 s are forgotten. -/
def dwellAdd (s : State) (c win us : Nat) : State :=
  radUpd s fun r => { r with
    dwell := r.dwell.set c ((r.dwell.get c []).filter (fun e => decide (s.el * 20 < e.start + e.len + 20 * (255 * 65536))) ++
      [{ start := dwellStart s win, len := win * 65536, us := us }]) [] }

/-! ### Admission (R128, R131-R135) -/

/-- Why a frame is refused. -/
inductive Refused where
  | off | profile | hop | mask | overlap
  | duty (sub : Nat)
  | dwell
  deriving DecidableEq, Repr

/-- What a transmission is for: a link frame, a RESP (R144), or a test (R138). -/
inductive TxFor where
  | link | resp | test
  deriving DecidableEq, Repr

/-- A frame that is offered: channel (2p of a pair), MODE, FEC, preamble and FCS octets, whitening, and the bytes before the FCS. -/
structure TxReq where
  ch : Nat
  wide : Bool := false
  mode : Nat
  fec : Option Fec := none
  pre : Nat
  fcs : Nat := 2
  whiten : Bool := false
  why : TxFor := .link
  bytes : List Byte
  deriving DecidableEq, Repr

def TxReq.form (r : TxReq) : AirForm := { mode := r.mode, fec := r.fec, fcs := r.fcs, whiten := r.whiten, pre := r.pre }

def TxReq.airtime (r : TxReq) : Nat := airtimeUs r.mode r.pre (r.bytes.length + r.fcs) r.fec.isSome

/-- The chain's TXx_EN is 1, its domain is ON, and the module transmits on air. -/
def chainOn (s : State) (n : Nat) (test : Bool) : Bool :=
  onAir s && !radioBarred s && !flag s Reg.PWR_STAT_PF && domState s (5 + n) = 2 && !outOfService s (0x68 + n) &&
    (test || flag s (if n = 0 then Reg.RAD_CTRL_TXA_EN else Reg.RAD_CTRL_TXB_EN))

/-- Admission of `us` µs on a chain and channel: the sub-band, or the cause of refusal. -/
def txAdmit (s : State) (n ch : Nat) (wide : Bool) (why : TxFor) (us : Nat) : Except Refused (Nat × SubBand) :=
  if !chainOn s n (why = .test) then .error .off
  else match profile s with
    | none => .error .profile
    | some p =>
      if hopCount s p < p.minHop then .error .hop
      else match txChannel s p ch wide (why = .resp) with
        | none => .error .mask
        | some (i, x) =>
          if flag s Reg.RAD_CTRL_KEEP_RX && (chainAt s (1 - n)).busy then .error .overlap
          else if x.duty ≠ 0xFFFF ∧ x.duty * 36000 < (dutyAt s i).used + us then .error (.duty i)
          else if x.dwellMs ≠ 0 ∧ (!passedSec s s.rad.resetAt x.dwellWin ∨ x.dwellMs * 1000 < dwellUsed s ch x.dwellWin + us) then
            .error .dwell
          else .ok (i, x)

/-- The first refusal of a run on a sub-band writes DUTY_LIMIT (R133, R139). -/
def dutyRefusal (s : State) (i n us : Nat) : State :=
  let s1 := setFld s (Reg.RAD_SUB_AT_LIMIT i) 1
  if s.rad.refusing.get i false then s1
  else emit (radUpd s1 fun r => { r with refusing := r.refusing.set i true false }) 0x0302
        (leBytes 1 i ++ leBytes 1 n ++ [0, 0] ++ leBytes 4 us)

/-- The last frame offered to the sub-band of a channel was not refused for duty: AT_LIMIT is 0 (R140). -/
def offerElse (s : State) (ch : Nat) (wide : Bool) : State :=
  match (profile s).bind fun p => subOf s p ch wide with
  | some (i, _) => setFld s (Reg.RAD_SUB_AT_LIMIT i) 0
  | none => s

/-- A refused frame is counted and its cause is flagged. -/
def refuse (s : State) (n ch : Nat) (wide : Bool) (us : Nat) (w : Refused) : State :=
  let s1 := offerElse (count1 s (Reg.RAD_CNT_COUNT 6)) ch wide
  match w with
  | .off | .mask => s1
  | .profile => setErr s1 Reg.RAD_ERR_NO_PROFILE
  | .hop => setErr s1 Reg.RAD_ERR_HOP_SHORT
  | .overlap => setErr s1 Reg.RAD_ERR_TX_OVERLAP
  | .dwell => setErr s1 Reg.RAD_ERR_DWELL
  | .duty i => dutyRefusal (setErr s1 Reg.RAD_ERR_DUTY) i n us

/-- TXA_ON or TXB_ON. -/
def txOnFld (n : Nat) : RF := if n = 0 then Reg.RAD_STAT_TXA_ON else Reg.RAD_STAT_TXB_ON

/-- An admitted frame is charged, occupies its chain and blanks reception (R130, R133, R134). -/
def chargeTx (s : State) (n ch : Nat) (wide : Bool) (us i : Nat) (x : SubBand) (test : Option CmdRef) : State :=
  let d := dutyAt s i
  let s1 := setFld (setDuty s i { d with cur := d.cur + us }) (Reg.RAD_SUB_AT_LIMIT i) 0
  let s2 := radUpd s1 fun r => { r with refusing := r.refusing.set i false false }
  let s3 := if x.dwellMs = 0 then s2 else dwellAdd s2 ch x.dwellWin us
  blank (setFld (setChain s3 n { chainAt s3 n with busy := true, start := s3.el, airtime := us, ch := ch, wide := wide, test := test })
    (txOnFld n) 1)

/-- The power at the pad: the lowest of the request, the chain's MAX and PWR_MAX (R115). -/
def padPower (s : State) (n : Nat) (want : Int) (x : SubBand) : Int :=
  min want (min (sfld s (if n = 0 then Reg.RAD_TXA_PWR_MAX else Reg.RAD_TXB_PWR_MAX)) x.pwr)

/-- Offer a frame to a chain; the second part says whether it is sent. -/
def txStart (s : State) (n : Nat) (want : Int) (r : TxReq) : State × Bool :=
  match txAdmit s n r.ch r.wide r.why r.airtime with
  | .error w => (refuse s n r.ch r.wide r.airtime w, false)
  | .ok (i, x) =>
    (send (chargeTx s n r.ch r.wide r.airtime i x none) (.air n r.ch r.form (padPower s n want x) r.bytes), true)

/-- No frame is in progress on chain n, and Tamin does not hold it. -/
def chainFree (s : State) (n : Nat) : Bool := !(chainAt s n).busy && decide ((chainAt s n).holdUntil ≤ s.el)

/-- Hold a chain for a time in µs, as a dedicated event does (R145). -/
def holdChain (s : State) (n us : Nat) : State :=
  setChain s n { chainAt s n with holdUntil := s.el + us * 65536 / 1000000 }

/-- A frame that Tamin schedules starts on a chain, unless the chain is sending. -/
def execTxStart (n : Fin 2) (r : AirFrame) (s : State) : Host.Outcome State Fault Refusal :=
  .next (if (chainAt s n).busy then s
    else (txStart s n r.power
      { ch := r.ch, wide := r.mode = 2, mode := r.mode, fec := r.fec, pre := fld s Reg.RAD_DET_TX_PRE,
        fcs := if r.fcs4 then 4 else 2, whiten := r.whiten, bytes := r.bytes }).1)

/-- The chain stops transmitting and its receive path resumes (R130). -/
def endTx (s : State) (n : Nat) : State :=
  setFld (setChain s n { chainAt s n with busy := false, test := none }) (txOnFld n) 0

/-- After a power-fail warning, FLK goes off when no admitted frame is running (R489). -/
def flkShed (s : State) : State :=
  if flag s Reg.PWR_STAT_PF ∧ !(chainAt s 0).busy ∧ !(chainAt s 1).busy then setDom s 8 0 else s

def execTxEnd (n : Fin 2) (s : State) : Host.Outcome State Fault Refusal :=
  let c := chainAt s n
  .next (if c.busy ∧ c.test = none ∧ passedUs s c.start c.airtime then flkShed (endTx s n) else s)

/-- A 100 s bucket closes and is written to FRAM (R133). -/
def closeBuckets (s : State) : State :=
  let s1 := s.rad.duty.keys.foldl (fun s n =>
    let d := dutyAt s n
    setDuty s n { cur := 0, closed := (d.cur :: d.closed).take 35 }) s
  radUpd s1 fun r => { r with bucketStart := r.bucketStart + 6553600, fram := r.fram.put (r.duty, s.dt) }

def execDutyBucketClose (s : State) : Host.Outcome State Fault Refusal :=
  .next (if domState s 2 = 2 ∧ passedSec s s.rad.bucketStart 100 then closeBuckets s else s)

/-- DUTY × 1,000 µs of a sub-band of a profile, 0 where it has no duty limit or does not exist. -/
def openCharge (p : Option Profile) (i : Nat) : Nat :=
  match p.bind fun p => p.subs[i]? with
  | some x => if x.duty = 0xFFFF then 0 else x.duty * 1000
  | none => 0

/-- The buckets of every sub-band after a start-up, aged by the DT that has elapsed since the last of FRAM's ended; the one that was
open at the reset, the first after it, is charged DUTY × 1,000 µs of the selected profile, and FRAM holds those that are over
(R133). A DT before that end, as when AO was lost, ages nothing (log entry 152). -/
def restoreDuty (s : State) : State :=
  let (kept, at') := s.rad.fram.get
  let n := (s.dt - at') / 6553600
  let p := profileAt s s.rad.ckProfile
  let s1 := (List.range 16).foldl (fun s i =>
    let d := kept.get i {}
    setDuty s i (if n = 0 then { cur := openCharge p i, closed := d.closed }
      else { cur := 0, closed := (List.replicate (min (n - 1) 35) 0 ++ openCharge p i :: d.closed).take 35 }))
    (radUpd s fun r => { r with bucketStart := s.el - (s.dt - at') % 6553600, duty := [] })
  if n = 0 then s1 else radUpd s1 fun r => { r with fram := r.fram.put (r.duty, at' + 6553600 * n) }

/-! ### Detection and the pool (R121-R127) -/

/-- Position of DT on the slot grid, and the uplink window of phase group g widened by ±500 µs (R123, R143), in units
of 1/655,360 s. -/
def inGridNow (s : State) (c : Nat) : Bool :=
  let y := (s.dt * 10 + 8192 - (c % 8) * 1024) % 8192
  decide (y ≤ 5570 ∨ 7865 ≤ y)

/-- The antennas that RAD_CTRL.DIV uses of those on which a signal is above the threshold; 3 keeps the stronger. -/
def divAnt (s : State) (d : Signal) : Option Nat :=
  let both := d.antA && d.antB
  match fld s Reg.RAD_CTRL_DIV with
  | 1 => if d.antA then some 0 else none
  | 2 => if d.antB then some 1 else none
  | 3 => if both then some (if d.bStronger then 1 else 0) else if d.antA then some 0 else if d.antB then some 1 else none
  | _ => if both then some 2 else if d.antA then some 0 else if d.antB then some 1 else none

/-- A preamble on a channel: detected when MIN_PRE octets are THR dB above the noise floor on a running detector of the
preamble's MODE, on an antenna that receives (R116, R118, R121, R130); a port that transmits hears nothing, so RAD_CTRL.DIV chooses of
the others. -/
def execDetection (d : Signal) (s : State) : Host.Outcome State Fault Refusal :=
  let c : Nat := d.ch
  .next (
    if detectorRuns s c && (paired s c == decide (d.mode.val = 2)) && !suppressed s c &&
        decide (fld s Reg.RAD_DET_MIN_PRE ≤ d.octets ∧ fld s Reg.RAD_DET_THR ≤ d.overDb) then
      match divAnt s { d with antA := d.antA && pathOn s 0, antB := d.antB && pathOn s 1 } with
      | some a =>
        radUpd (count1 s (Reg.RAD_CNT_COUNT 0)) fun r => { r with
          waiting := r.waiting ++ [{ ch := c, ant := a, rssi := d.rssi, at' := s.el, inGrid := inGridNow s c }] }
      | none => s
    else s)

/-- PRIO of a channel (R123). -/
def prio (s : State) (c : Nat) : Nat := bits (fld s (Reg.RAD_PRIO_PRIO (c / 16))) (2 * (c % 16) + 1) (2 * (c % 16))

/-- The ranking of R123: the keys of a detection, greater first. -/
def rankKey (s : State) (d : Det) : List Int :=
  [prio s d.ch, (b2n d.inGrid : Int), d.rssi, -(d.at' : Int), -(d.ch : Int)]

/-- Lexicographic order. -/
def lexGt : List Int → List Int → Bool
  | a :: r, b :: t => decide (b < a) || (decide (a = b) && lexGt r t)
  | _, _ => false

/-- The highest-ranked detection. -/
def topDet (s : State) : List Det → Option Det
  | [] => none
  | d :: r =>
    match topDet s r with
    | none => some d
    | some e => if lexGt (rankKey s e) (rankKey s d) then some e else some d

/-- Remove the first element equal to `a`. -/
def removeOne {α : Type} [DecidableEq α] (a : α) : List α → List α
  | [] => []
  | b :: r => if a = b then r else b :: removeOne a r

/-- The demodulator that is free to take a detection: the lowest lane that works, is idle and is not under test (log entry 137). -/
def idleLane (s : State) : Nat :=
  ((List.range 68).find? fun t => !s.bst.lanes.contains t && !(s.bst.tests.any fun x => x.target = t) &&
    !s.rad.demods.any fun d => decide (d.lane = t)).getD 0

/-- A free demodulator takes the highest-ranked waiting detection (R122, R123). -/
def execDemodAssign (s : State) : Host.Outcome State Fault Refusal :=
  .next (
    if poolRuns s && decide (s.rad.demods.length < fld s Reg.RAD_STAT_DEMODS) then
      match topDet s (s.rad.waiting.filter fun d => !passedMs s d.at' 1) with
      | some d => setDemods (radUpd s fun r => { r with waiting := removeOne d r.waiting })
                    (s.rad.demods ++ [{ ch := d.ch, ant := d.ant, at' := d.at', lane := idleLane s }])
      | none => s
    else s)

/-- Detections that have waited 1 ms are dropped (R124). -/
def execDetectionDrop (s : State) : Host.Outcome State Fault Refusal :=
  let k := (s.rad.waiting.filter fun d => passedMs s d.at' 1).length
  .next (if k = 0 then s
    else setErr (countBy (radUpd s fun r => { r with waiting := r.waiting.filter fun d => !passedMs s d.at' 1 })
      (Reg.RAD_CNT_COUNT 4) k) Reg.RAD_ERR_OVERLOAD)

/-- Release the oldest demodulator of a channel. -/
def release (s : State) (d : Demod) : State := setDemods s (removeOne d s.rad.demods)

/-- 2 ms after the detection no SFD has come (R125). -/
def execNoSfd (c : Fin 80) (s : State) : Host.Outcome State Fault Refusal :=
  .next (
    match s.rad.demods.find? fun d => decide (d.ch = c.val) && passedMs s d.at' 2 with
    | some d => count1 (release s d) (Reg.RAD_CNT_COUNT 3)
    | none => s)

/-- DT in 2.5 µs units. -/
def dt25 (t : Nat) : Nat := t * 400000 / 65536

/-- The entry of a delivered frame for host ports of SRC 0x0300 (R127). -/
def frameEntry (f : RxFrame) (len : Nat) : Nat :=
  f.ch % 128 + f.mode * 2 ^ 7 + f.ant * 2 ^ 9 + 2 ^ 11 + b2n f.fec.isSome * 2 ^ 12 + (f.rssi % 256) * 2 ^ 13 +
    (f.t25 % 400000) * 2 ^ 21 + (len % 2048) * 2 ^ 40 + (f.t25 / 400000 % 32) * 2 ^ 51

/-- Write an entry to every host port of a SRC. -/
def toPorts (s : State) (src w : Nat) : State :=
  (List.range 8).foldl (fun s n => if fld s (Reg.RIL_HP_CFG_SRC n) = src then portWrite s n w .alone else s) s

/-- Deliver a frame to Tamin and to the host ports (R126, R127). -/
def deliver (s : State) (f : RxFrame) (len : Nat) : State :=
  toPorts (radUpd s fun r => { r with rxq := r.rxq ++ [f] }) 0x0300 (frameEntry f len)

/-- The end of a frame on a channel: checked, delivered or discarded, and the demodulator released (R119, R125). A frame of a MODE that
the channel does not carry is noise to it (R116). -/
def execDemodRelease (c : Fin 80) (e : FrameEnd) (s : State) : Host.Outcome State Fault Refusal :=
  .next (
    match (if poolRuns s then s.rad.demods else []).find? fun d => decide (d.ch = c.val) with
    | none => s
    | some d =>
      let s1 := release s d
      if decide (e.mode.val = 2) ≠ paired s c then s
      else if e.modeSwitch then count1 s1 (Reg.RAD_CNT_COUNT 7)
      else if e.psdu.length < 3 ∨ 2047 < e.psdu.length ∨ !e.fcsOk then count1 s1 (Reg.RAD_CNT_COUNT 2)
      else deliver (count1 s1 (Reg.RAD_CNT_COUNT 1))
        { bytes := e.psdu.take (e.psdu.length - if e.fcs4 then 4 else 2), ch := c, mode := e.mode, ant := d.ant, fec := e.fec,
          rssi := e.rssi, t25 := dt25 s.dt - e.sfdAgo } e.psdu.length)

/-- A good frame on the RF24 port, of at most 127 octets with a 2-octet FCS (R129). -/
def execRf24FrameRx (e : FrameEnd) (s : State) : Host.Outcome State Fault Refusal :=
  .next (
    if flag s Reg.RAD_CTRL_RF24_EN && !radioBarred s && decide (domState s 7 = 2 ∧ 3 ≤ e.psdu.length ∧ e.psdu.length ≤ 127) && e.fcsOk then
      deliver s { bytes := e.psdu.take (e.psdu.length - 2), ch := fld s Reg.MAC_T1_CHANNEL, mode := 3, ant := 3, fec := none,
                  rssi := e.rssi, t25 := dt25 s.dt - e.sfdAgo } e.psdu.length
    else s)

/-! ### Opcodes (R136, R138) -/

/-- Read a sub-band entry. -/
def subBandOf (b : List Byte) (o : Nat) : SubBand :=
  { lo := fieldLE b o 4, hi := fieldLE b (o + 4) 4, pwr := toSigned 16 (fieldLE b (o + 8) 2), duty := fieldLE b (o + 10) 2,
    dwellMs := fieldLE b (o + 12) 2, dwellWin := fieldLE b (o + 14) 1, rxOnly := bit (fieldLE b (o + 15) 1) 0 }

/-- Checks of sub-band entry i against R136, `prior` being the entries before it. -/
def subBandChks (b : List Byte) (i : Nat) (prior : List SubBand) : List Chk :=
  let o := 16 * (i + 1)
  let x := subBandOf b o
  [rangeChk (decide (x.lo < Config.range.1) || prior.any fun y => decide (x.lo < y.hi ∧ y.lo < x.hi)) o,
   rangeChk (decide (x.hi ≤ x.lo ∨ Config.range.2 < x.hi)) (o + 4),
   rangeChk (decide (x.pwr < -40 ∨ 108 < x.pwr)) (o + 8),
   rangeChk (decide (x.dwellMs ≠ 0 ∧ x.dwellWin < 20)) (o + 14),
   rsvChk (decide (fieldLE b (o + 15) 1 / 2 ≠ 0)) (o + 15)]

def bodyRadioProfileLoad (s : State) (c : Cmd) : Work := do
  checkOps (opChks c [] [(0, 16)])
  let b ← readBuf s c 0
  let n := fieldLE b 0 1
  checkOps [⟨decide (1 ≤ n ∧ n ≤ 16 ∧ c.bufLen 0 < 16 + 16 * n), 40, 0x04⟩]
  let subs := (List.range (min n 16)).map fun i => subBandOf b (16 * (i + 1))
  checkBuf 0 ([rangeChk (decide (n < 1 ∨ 16 < n)) 0, rangeChk (decide (80 < fieldLE b 1 1)) 1] ++
    (match firstNonZero b 2 14 with | some o => [rsvChk true o] | none => []) ++
    (List.range (min n 16)).flatMap fun i => subBandChks b i (subs.take i))
  stopIf (decide (fld s Reg.RAD_STAT_PROFILE = 2) && (flag s Reg.RAD_CTRL_TXA_EN || flag s Reg.RAD_CTRL_TXB_EN)) (ansBadState 0x0005)
  pure (setFld (radUpd s fun r => { r with custom := { minHop := fieldLE b 1 1, subs := subs }, customLoaded := true }) Reg.RAD_STAT_CUSTOM_VALID 1,
    some ansDone)

def execRadioProfileLoad (sq : Fin 16) (s : State) : Host.Outcome State Fault Refusal :=
  .next (runRing s sq 0x0300 bodyRadioProfileLoad)

/-- PROFILE_SELECT. The airtime of sub-band i goes on as that of the new profile's sub-band i (log entry 151). -/
def bodyProfileSelect (s : State) (c : Cmd) : Work := do
  let p := c.op 16 1
  checkOps (opChks c [(16, 1)] [] ++ [rangeChk (decide (2 < p)) 16])
  stopIf (flag s Reg.RAD_CTRL_TXA_EN || flag s Reg.RAD_CTRL_TXB_EN) (ansBadState 0x0006)
  stopIf (decide (p = 2) && !s.rad.customLoaded) (ansBadState 0x0007)
  pure (setFld (radUpd s fun r => { r with ckProfile := p }) Reg.RAD_STAT_PROFILE p, some ansDone)

def execProfileSelect (sq : Fin 16) (s : State) : Host.Outcome State Fault Refusal :=
  .next (runRing s sq 0x0301 bodyProfileSelect)

/-- NO_SPACE detail of a refused test (R138). -/
def testDetail : Refused → Nat
  | .duty _ => 1
  | .dwell => 2
  | _ => 3

/-- TX_TEST; an odd CHANNEL with MODE 2 and a POWER outside R115's range are bad fields (log entry 149), and a link frame that still runs
on the chain after TXx_EN was cleared counts as a running test (log entry 138). -/
def bodyTxTest (s : State) (c : Cmd) : Work := do
  let n := c.op 16 1
  let mode := c.op 18 1
  let ch := c.op 20 2
  let pwr := toSigned 8 (c.op 22 1)
  let ms := c.op 24 4
  checkOps (opChks c [(16, 3), (20, 3), (24, 4)] [] ++
    [rangeChk (decide (1 < n)) 16, rangeChk (decide (1 < c.op 17 1)) 17, rangeChk (decide (2 < mode)) 18,
     rangeChk (decide (79 < ch ∨ (mode = 2 ∧ ch % 2 = 1))) 20, rangeChk (decide (pwr < -40 ∨ 108 < pwr)) 22,
     rangeChk (decide (ms < 1 ∨ 60000 < ms)) 24])
  stopIf (flag s (if n = 0 then Reg.RAD_CTRL_TXA_EN else Reg.RAD_CTRL_TXB_EN)) (ansBadState 0x0001)
  stopIf (chainAt s n).busy (ansBadState 0x0002)
  match txAdmit s n ch (mode = 2) .test (ms * 1000) with
  | .error w => .error (.ansIn (causedBy s (refuse s n ch (mode = 2) (ms * 1000) w) c.seq) (ansNoSpace (testDetail w)))
  | .ok (i, x) =>
    let form : AirForm := { mode := mode, fcs := 0, test := some (c.op 17 1) }
    pure (send (chargeTx s n ch (mode = 2) (ms * 1000) i x (some c.ref)) (.air n ch form (padPower s n pwr x) []), some ansQueued)

def execTxTest (sq : Fin 16) (s : State) : Host.Outcome State Fault Refusal := .next (runRing s sq 0x0302 bodyTxTest)

/-- The test's duration is over (R138, R139). -/
def execTxTestDone (n : Fin 2) (s : State) : Host.Outcome State Fault Refusal :=
  let c := chainAt s n
  .next (
    match c.test with
    | some r =>
      if c.busy ∧ passedUs s c.start c.airtime then
        flkShed (emitOutcome (endTx s n) 0x0300 (leBytes 1 n ++ [0, 0, 0] ++ leBytes 4 c.airtime) (some r) 0)
      else s
    | none => s)

def bodyRxSurvey (s : State) (c : Cmd) : Work := do
  let ms := c.op 16 4
  checkOps (opChks c [(16, 4)] [(1, 640)] ++ [rangeChk (decide (ms < 10 ∨ 10000 < ms)) 16])
  stopIf (!flag s Reg.RAD_CTRL_RX_EN) (ansBadState 0x0003)
  stopIf s.rad.survey.isSome (ansBadState 0x0004)
  pure (radUpd s fun r => { r with survey := some { ref := c.ref, addr := c.bufAddr 0, len := c.bufLen 0, start := s.el, ms := ms } },
    some ansQueued)

def execRxSurvey (sq : Fin 16) (s : State) : Host.Outcome State Fault Refusal := .next (runRing s sq 0x0303 bodyRxSurvey)

/-- The survey ends: `v` are the measured values, four for each bin (R138). -/
def execSurveyDone (v : List (BitVec 16)) (s : State) : Host.Outcome State Fault Refusal :=
  .next (
    match s.rad.survey with
    | some q =>
      if passedMs s q.start q.ms then
        let s1 := radUpd s fun r => { r with survey := none }
        let b := padTo 640 (v.flatMap fun x => leBytes 2 x.toNat)
        if memFails s1 q.addr 640 then
          let s2 := ringFault { memWrite s1 q.addr (freeBytes s1 640) with freeN := s1.freeN + 640 } 2 0 q.ref.sq
          emitOutcome s2 0x0301 [] (some q.ref) 0x30
        else emitOutcome (memWrite s1 q.addr b) 0x0301 (leBytes 2 640) (some q.ref) 0
      else s
    | none => s)

end Sys2Proof.Machine
end

