-- ==== Sys2Proof/Machine/Coop.lean ====
section
/-! DEFINITION. Coop's slots, the uses of a key, derivation and OTP (R406-R412, R419, R420, R425, R426). -/

namespace Sys2Proof.Machine

def keyUpd (s : State) (f : KeySt → KeySt) : State := { s with key := f s.key }

/-- A bit, and a byte, of CRC-32C (log entry 30). -/
def crcBit (c : Nat) : Nat := Nat.xor (c / 2) (c % 2 * 0x82F63B78)
def crcByte (c : Nat) (b : Byte) : Nat := crcBit (crcBit (crcBit (crcBit (crcBit (crcBit (crcBit (crcBit (Nat.xor c b.toNat))))))))
/-- CRC-32C (log entry 30). -/
def crc32c (l : List Byte) : Nat := Nat.xor (l.foldl crcByte 0xFFFFFFFF) 0xFFFFFFFF

/-- The bytes of an ASCII label. -/
def ascii (t : String) : List Byte := t.toList.map fun c => BitVec.ofNat 8 c.toNat

/-! ### OTP (R425, R426) -/

/-- Bytes that the map of R425 gives as zero. -/
def otpZero (a : Nat) : Bool :=
  decide (40 ≤ a ∧ a < 60 ∨ 0x41 ≤ a ∧ a < 0x80 ∨ 0x141 ≤ a ∧ a < 0x180 ∨ 0x1DA0 ≤ a)

/-- The bits of a byte that the map of R425 uses. -/
def otpUsed (a : Nat) : Byte :=
  if a = 0x40 then 0x1F else if a = 0x140 then 0x0F else if 0xD80 ≤ a ∧ a < 0x1D80 ∧ a % 64 = 63 then 0x7F else 0xFF

/-- A byte of OTP as delivered: what the map leaves to the part, zeros, and the CRC-32C of the identity record (R425; log entry 99). -/
def otpBorn (a : Nat) : Byte :=
  if otpZero a then 0
  else if 60 ≤ a ∧ a < 64 then
    (leBytes 4 (crc32c ((List.range 60).map fun i => if otpZero i then 0 else Config.otp i))).getD (a - 60) 0
  else Config.otp a &&& otpUsed a

/-- A byte of OTP. -/
def otpByte (s : State) (a : Nat) : Byte := otpBorn a ||| s.key.burned.get a 0

/-- Bytes of OTP. -/
def otpBytes (s : State) (o n : Nat) : List Byte := (List.range n).map fun i => otpByte s (o + i)

/-- Burn bits: they change only from 0 to 1. -/
def otpBurn (s : State) (o : Nat) (l : List Byte) : State :=
  keyUpd s fun k => { k with burned := l.zipIdx.foldl (fun m x => m.upd (o + x.2) 0 fun b => b ||| x.1) k.burned }

/-- The life-cycle state that OTP holds (R420). -/
def otpLifeCycle (s : State) : Nat := lcOf (otpByte s 0x40).toNat

def authHash (s : State) (g : Nat) : List Byte := otpBytes s (0x80 + 48 * g) 48
def authWritten (s : State) (g : Nat) : Bool := (authHash s g).any fun b => b ≠ 0
def authRevoked (s : State) (g : Nat) : Bool := bit (otpByte s 0x140).toNat g

/-- The current authority generation (R419). -/
def authGen (s : State) : Option Nat := (List.range 4).find? fun g => authWritten s g && !authRevoked s g

/-- Floor bits burned (R418). -/
def floorBits (s : State) : Nat :=
  ((otpBytes s 0x180 1024).map fun b => ((List.range 8).filter (bit b.toNat)).length).sum

def cfgGen (s : State) (g : Nat) : List Byte := otpBytes s (0x580 + 512 * g) 512
def cfgWritten (s : State) (g : Nat) : Bool := (cfgGen s g).any fun b => b ≠ 0

/-- A configuration generation is valid (R426). -/
def cfgValid (s : State) (g : Nat) : Bool :=
  let b := cfgGen s g
  decide (fieldLE b 0 4 = 0x4746434F ∧ fieldLE b 4 1 = g ∧ fieldLE b 508 4 = crc32c (b.take 508))

/-- The newest valid configuration generation. -/
def cfgNewest (s : State) : Option Nat := (List.range 4).reverse.find? (cfgValid s)

/-- A byte of the configuration in force, with its default. -/
def cfgField (s : State) (o n dflt : Nat) : Nat := match cfgNewest s with | some g => fieldLE (cfgGen s g) o n | none => dflt

/-- A mask of the generations that satisfy a predicate. -/
def genMask (p : Nat → Bool) : Nat := (((List.range 4).filter p).map fun g => 2 ^ g).sum

/-- Show OTP in the registers that read from it (R430). -/
def otpShow (s : State) : State :=
  let fb := floorBits s
  [(Reg.KEY_STAT_LC, otpLifeCycle s), (Reg.KEY_STAT_AUTH_GEN, (authGen s).getD 0), (Reg.KEY_STAT_FLOOR_FULL, b2n (decide (fb = 8192))),
   (Reg.KEY_FLOOR_BITS, fb), (Reg.OTP_STAT_AUTH_REVOKED, genMask (authRevoked s)), (Reg.OTP_STAT_AUTH_WRITTEN, genMask (authWritten s)),
   (Reg.OTP_STAT_CFG_WRITTEN, genMask (cfgWritten s)), (Reg.OTP_STAT_CFG_VALID, genMask (cfgValid s))].foldl
    (fun s x => setFld s x.1 x.2) s

/-! ### Uses of a slot (R411, R412) -/

def lifeCycle (s : State) : Nat := fld s Reg.KEY_STAT_LC
/-- Where a slot lies under the permutation of this start (R414). -/
def place (s : State) (n : Nat) : Nat := s.key.places.getD n n
def slotAt (s : State) (n : Nat) : KeySlot := s.key.slots.get (place s n) {}
def KeySlot.type (k : KeySlot) : Nat := bits k.attr 22 20

/-- Why a requester's use of a slot is refused: the DENIED details of R412. Usage and master are bit numbers. -/
def useRefusal (s : State) (k : KeySlot) (usage master : Nat) (secure : Bool) : Option Nat :=
  if !(bit k.attr usage && bit k.attr master) then some 1
  else if !bit k.attr (if secure then 16 else 17) then some 2
  else if !bit k.attr (24 + lifeCycle s) then some 3
  else none

/-- The key of an internal use, `none` when it is refused. -/
def internalUse (s : State) (n type usage master : Nat) : Option (List Byte) :=
  let k := slotAt s n
  if fld s Reg.KEY_STAT_ROOT = 1 ∧ k.attr ≠ 0 ∧ k.type = type ∧ useRefusal s k usage master true = none then some k.value else none

/-- A refused internal use is counted. -/
def useRefused (s : State) : State := setErr (count1 s (Reg.KEY_CNT_COUNT 2)) Reg.KEY_ERR_USE_DENIED

/-- Length of a key by TYPE (R411). -/
def keyLen (type : Nat) : Nat := [0, 16, 32, 32, 96, 48].getD type 0

/-! ### Derivation (R409) -/

/-- kdf_n, n in bytes. -/
def kdfN (key : List Byte) (label ctx : List Byte) (n : Nat) : List Byte :=
  ((List.range ((n + 31) / 32)).flatMap fun i =>
    hmacSha256 key (beBytes 4 (i + 1) ++ label ++ [0] ++ ctx ++ beBytes 4 (8 * n))).take n

/-- The transport key. -/
def transportKey (s : State) : List Byte := kdfN (s.key.root.getD []) (ascii "COOP-TRANSPORT") Config.uid 32

/-! ### Random values (R410) -/

/-- HMAC_DRBG_Update (SP 800-90A). -/
def Drbg.update (d : Drbg) (data : List Byte) : Drbg :=
  let k := hmacSha256 d.key (d.v ++ [0] ++ data)
  let v := hmacSha256 k d.v
  if data.isEmpty then { d with key := k, v := v }
  else
    let k2 := hmacSha256 k (v ++ [1] ++ data)
    { d with key := k2, v := hmacSha256 k2 v }

/-- The values that V takes one after another. -/
def vChain (key : List Byte) : Nat → List Byte → List (List Byte)
  | 0, _ => []
  | n + 1, v => let w := hmacSha256 key v; w :: vChain key n w

/-- Bytes of the noise source are free values (log entry 99). -/
def noise (s : State) (n : Nat) : List Byte × State := (freeBytes s n, { s with freeN := s.freeN + n })

/-- The DRBG is seeded at start-up. -/
def drbgSeed (s : State) : State :=
  let (e, s1) := noise s 48
  keyUpd s1 fun k => { k with drbg := ({ key := List.replicate 32 0, v := List.replicate 32 1 } : Drbg).update e }

/-- One request; the DRBG is reseeded every 2^20. -/
def random (s : State) (n : Nat) : List Byte × State :=
  let (e, s1) := if 2 ^ 20 ≤ s.key.drbg.count then noise s 32 else ([], s)
  let d := if e.isEmpty then s1.key.drbg else { s1.key.drbg.update e with count := 0 }
  let l := vChain d.key ((n + 31) / 32) d.v
  (l.flatten.take n, keyUpd s1 fun k => { k with drbg := { ({ d with v := l.getLastD d.v } : Drbg).update [] with count := d.count + 1 } })

/-! ### Masked slots (R413, R414) -/

/-- Whether the debug port is open: in MANUFACTURE, and in RETURN once every slot is zeroised, unless OTP keeps it locked (R420, R426;
log entry 99). -/
def debugShow (s : State) : State :=
  let lc := lifeCycle s
  let empty := (List.range 64).all fun n => decide ((slotAt s n).attr = 0)
  let ok := decide (lc = 1) || (decide (lc = 4) && empty && decide (cfgField s 12 1 0 % 2 = 0))
  keyUpd s fun k => { k with debug := if ok then .opened else .locked }

/-- Slots in use. -/
def showSlots (s : State) : State := setFld s Reg.KEY_STAT_SLOTS (s.key.slots.filter fun x => x.2.attr ≠ 0).length

/-- Put a key into a slot under a new mask. -/
def putSlot (s : State) (n attr : Nat) (value : List Byte) : State :=
  let (m, s1) := random s value.length
  keyUpd s1 fun k => { k with slots := k.slots.set (place s n) { attr := attr, share := xorBytes value m, mask := m } {} }

/-- Change a slot; a change of the fleet master slot flushes the derived keys (R413). -/
def setSlot (s : State) (n attr : Nat) (value : List Byte) : State :=
  let s1 := if attr = 0 then keyUpd s fun k => { k with slots := k.slots.set (place s n) {} {} } else putSlot s n attr value
  debugShow (showSlots (if n = fld s Reg.MAC_KEY_CFG_MASTER_SLOT then { s1 with mac := { s1.mac with kcache := [] } } else s1))

/-- A slot has been used: its mask is renewed. -/
def remask (s : State) (n : Nat) : State :=
  let k := slotAt s n
  if k.attr = 0 then s else putSlot s n k.attr k.value

/-- An ECDSA P-384 signature over SHA-384 under an internal verify key: the state, and whether it verifies. -/
def verifyUnder (s : State) (slot master : Nat) (msg sig : List Byte) : State × Bool :=
  match internalUse s slot 4 4 master with
  | some k => (remask s slot, ecdsaVerify k (sha384 msg) sig)
  | none => (useRefused s, false)

/-! ### The key store and the counter (R414, R417, R418) -/

/-- The key-encryption key of a SALT. -/
def kek (s : State) (salt : List Byte) : List Byte := kdfN (s.key.root.getD []) (ascii "COOP-KEK") salt 32

/-- The newest copy of the store. -/
def lastCopy (k : KeySt) : Nat := k.copies.foldl (fun a c => max a c.seq) 0

/-- Write the key store to NAND under the KEK of a SALT: the newest two copies stay. Without a root there is no KEK. -/
def storeWrite (s : State) (salt : List Byte) : State :=
  if s.key.root.isNone then s
  else
    let n := lastCopy s.key + 1
    let c : StoreCopy := { seq := n, sealed := sealStore (kek s salt) n ((List.range 64).map (slotAt s)) }
    keyUpd s fun k => { k with copies := (c :: k.copies).take 2 }

/-- The newest valid FRAM record. -/
def recNow (s : State) : Option CoopRec :=
  ((s.key.recs.filter CoopRec.ok).sortBy fun a b => decide (b.seq ≤ a.seq)).head?

/-- The sequence number that a FRAM record counts with: an invalid one has none. -/
def CoopRec.rank (r : CoopRec) : Nat := if r.ok then r.seq else 0

/-- Write the FRAM record in the slot of lower sequence number; its CRC-32C is still to come. -/
def recWrite (s : State) (counter : Nat) : State :=
  keyUpd s fun k =>
    let c := k.copies.find? fun c => decide (c.seq = lastCopy k)
    let new : CoopRec := {
      seq := k.recs.foldl (fun a r => max a r.rank) 0 + 1, counter := counter, store := lastCopy k,
      hash := sha256 ((c.map StoreCopy.sealed).getD []), ok := false }
    let kept (r : CoopRec) : CoopRec := { r with seq := r.rank }
    { k with recs := match k.recs with | [a, b] => if a.rank ≤ b.rank then [new, kept b] else [kept a, new] | l => l }

/-- The CRC-32C of the record is written: the record holds, and its counter with it. -/
def recClose (s : State) : State :=
  let s1 := keyUpd s fun k => { k with recs := k.recs.map fun r => { r with ok := decide (r.seq ≠ 0) } }
  match recNow s1 with
  | some r => setFld s1 Reg.KEY_COUNTER_COUNT r.counter
  | none => s1

/-- A KIND 18 record (R429). -/
def keyFaultRec (s : State) (cause : Nat) : State :=
  record s 3 18 0x0D (leBytes 1 cause ++ leBytes 1 (fld s Reg.KEY_STAT_PUF_MAX_ERR) ++ List.replicate 26 0)

/-- Rebuild the root from the PUF cells at a cold start (R407). -/
def rootBuild (s : State) (cells : Nat) : State :=
  let word (b : Nat) : Nat :=
    Nat.xor (cells / 2 ^ (511 * b) % 2 ^ 511) (leNat (otpBytes s (0xD80 + 64 * b) 64) % 2 ^ 511)
  let dec := (List.range 64).map fun b => Config.bchDecode (word b)
  let fail (s : State) : State := keyFaultRec (setFld (keyUpd s fun k => { k with root := none }) Reg.KEY_STAT_ROOT 2) 0
  if dec.any Option.isNone then fail s
  else
    let ms := dec.map fun d => (d.getD (0, 0)).1
    let root := sha256 (ascii "COOP-ROOT" ++ ms.flatMap fun m => beBytes 34 (m * 16))
    if sha256 (ascii "COOP-CHECK" ++ root) ≠ otpBytes s 0x1D80 32 then fail s
    else
      let e := min 29 (dec.foldl (fun a d => max a (d.getD (0, 0)).2) 0)
      let s1 := setFld (setFld (keyUpd s fun k => { k with root := some root }) Reg.KEY_STAT_ROOT 1) Reg.KEY_STAT_PUF_MAX_ERR e
      if 20 < e then setErr s1 Reg.KEY_ERR_PUF_MARGIN else s1

/-- A KIND 17 record (R429). -/
def keyAudit (s : State) (op target status msgCounter : Nat) : State :=
  record s 3 17 0x0D (leBytes 1 op ++ leBytes 1 target ++ leBytes 1 status ++ [0] ++ leBytes 4 msgCounter ++
    leBytes 4 (fld s Reg.KEY_COUNTER_COUNT) ++ leBytes 1 (lifeCycle s) ++ List.replicate 15 0)

/-! ### Transitions of the life cycle (R420-R423) -/

/-- Slots that a transition to state `n` zeroises. -/
def doomed (s : State) (n : Nat) : List Nat :=
  (List.range 64).filter fun i => decide ((slotAt s i).attr ≠ 0) && !bit (slotAt s i).attr (24 + n)

/-- Step 1 of a transition: the pending record. -/
def lcBegin (s : State) (n op counter : Nat) : State :=
  let (salt, s1) := random s 32
  setFlag (keyUpd s1 fun k => { k with lcPend := some { state := n, salt := salt, op := op, counter := counter } }) Reg.KEY_STAT_PENDING true

/-- Step 2: the life-cycle bit; entry into SCRAP burns the PUF helper data too. -/
def lcBurn (s : State) (n : Nat) : State :=
  let s1 := otpBurn s 0x40 [BitVec.ofNat 8 (2 ^ (n - 1))]
  if n = 5 then otpBurn s1 0xD80 ((List.range 4096).map fun i => otpUsed (0xD80 + i)) else s1

/-- Step 3: the slots that lack the state are zeroised, and the store is written under the KEK of the new SALT. The radio stops at entry
into RETURN (R423). -/
def lcZeroise (s : State) (p : LcPend) : State :=
  let s1 := (doomed s p.state).foldl (fun s i => setSlot s i 0 []) (setFld s Reg.KEY_STAT_LC p.state)
  let s2 := storeWrite s1 p.salt
  debugShow (if 4 ≤ p.state then rxOff s2 else s2)

/-- Step 4: the FRAM records. -/
def lcRecord (s : State) (p : LcPend) : State :=
  let s1 := keyUpd s fun k => { k with lcRec := { state := p.state, salt := p.salt }, lcPend := none }
  setFlag (recClose (recWrite s1 (fld s Reg.KEY_COUNTER_COUNT))) Reg.KEY_STAT_PENDING false

/-- A transition that power loss interrupted: it is completed when its bit is burned, and its pending record discarded otherwise. -/
def lcResume (s : State) : State :=
  match s.key.lcPend with
  | none => s
  | some p =>
    if otpLifeCycle s ≠ p.state then keyUpd s fun k => { k with lcPend := none }
    else
      let gone := (doomed s p.state).length
      let s1 := lcRecord (lcZeroise s p) p
      keyAudit (emit s1 0x0D01 (leBytes 1 s.key.lcRec.state ++ leBytes 1 p.state ++ leBytes 1 gone)) p.op p.state 0 p.counter

/-! ### Start-up (R414, R418) -/

/-- The slots of a store, laid out as KeySlot.bytes. -/
def loadSlots (s : State) (b : List Byte) : State :=
  (List.range 64).foldl (fun s n =>
    let a := fieldLE b (100 * n) 4
    if a = 0 then s else putSlot s n a (sliceB b (100 * n + 4) (keyLen (bits a 22 20)))) s

/-- The slots that a copy of the store opens to under the KEK of the SALT. -/
def openCopy (s : State) (c : StoreCopy) : Option (List Byte) :=
  if c.ok then gcmOpen (kek s s.key.lcRec.salt) (leBytes 12 c.seq) [] c.sealed else none

/-- Empty slots under a permutation drawn anew (R414). -/
def emptyStore (s : State) : State :=
  let (b, s1) := random s 128
  let l := (List.range 64).sortBy fun i j => decide (fieldLE b (2 * i) 2 ≤ fieldLE b (2 * j) 2)
  keyUpd s1 fun k => { k with slots := [], places := l }

/-- Load the key store: the newest copy that matches the FRAM record, else the newest that opens. -/
def storeLoad (s : State) : State :=
  let good := (s.key.copies.filter fun c => (openCopy s c).isSome).sortBy fun a b => decide (b.seq ≤ a.seq)
  let load (c : StoreCopy) : State := loadSlots s ((openCopy s c).getD [])
  match good.find? fun c => (recNow s).any fun r => decide (r.store = c.seq ∧ r.hash = sha256 c.sealed) with
  | some c => load c
  | none => match good with
    | c :: _ => setErr (load c) Reg.KEY_ERR_STORE_FALLBACK
    | [] => keyFaultRec (setErr s Reg.KEY_ERR_STORE_FALLBACK) 1

/-- Seed the DRBG, show OTP, load counter and key store at start-up, and complete an interrupted transition. -/
def coopRestore (s0 : State) : State :=
  let s := emptyStore (drbgSeed (otpShow s0))
  let fl := 4096 * floorBits s
  let s1 := match recNow s with
    | some r => setFld s Reg.KEY_COUNTER_COUNT (max r.counter fl)
    | none => setErr (setFld s Reg.KEY_COUNTER_COUNT fl) Reg.KEY_ERR_CNT_FALLBACK
  debugShow (lcResume (showSlots (if fld s1 Reg.KEY_STAT_ROOT ≠ 1 then s1 else storeLoad s1)))

end Sys2Proof.Machine
end

