-- ==== Sys2Proof/Machine/Cistern.lean ====
section
/-! DEFINITION. Cistern: folding, storm limits, archiving, reading, snapshots and restart (chapter 10). -/

namespace Sys2Proof.Machine

/-! ### Folding by feeder (R296, R297) -/

def foldAt (s : State) (f : Nat) : FoldCase := s.cis.folds.get f {}
def setFold (s : State) (f : Nat) (c : FoldCase) : State := cisUpd s fun x => { x with folds := x.folds.set f c {} }

/-- A cause of folding (`bitv` 1 Basin dead, 2 contactor open) begins on feeder f. -/
def foldBegin (s : State) (f bitv : Nat) : State :=
  let c := foldAt s f
  if c.active then setFold s f { c with causes := Nat.lor c.causes bitv, seen := Nat.lor c.seen bitv }
  else
    let k := (s.cis.held.filter fun h => h.feeder = f).length
    let s1 := cisUpd (countBy s (Reg.CIS_CNT_COUNT 3) k) fun x => { x with held := x.held.filter fun h => h.feeder ≠ f }
    let s2 := setFold s1 f { active := true, causes := bitv, seen := bitv, count := k, began := s.el }
    faultAt s2 s2.dt 0x09 0x8901 false 0x3FFFF f bitv k 0

/-- A cause of folding ends on feeder f. -/
def foldEnd (s : State) (f bitv : Nat) : State :=
  let c := foldAt s f
  if Nat.land c.causes bitv = 0 then s
  else
    let left := c.causes - bitv
    setFold s f { c with causes := left, ended := if left = 0 then s.el else c.ended }

/-- A cause of folding begins or ends. -/
def foldCause (s : State) (f bitv : Nat) (on : Bool) : State :=
  if on then (if Nat.land (foldAt s f).causes bitv = 0 then foldBegin s f bitv else s) else foldEnd s f bitv

/-- GRACE s after the causes end, the fold ends and writes its CLEAR record (R296). -/
def execFoldGraceEnd (f : Fin 6) (s : State) : Host.Outcome State Fault Refusal :=
  let c := foldAt s f
  .next (
    if c.active ∧ c.causes = 0 ∧ passedSec s c.ended (fld s Reg.CIS_FOLD_GRACE) then
      faultAt (setFold s f {}) s.dt 0x09 0x8901 true 0x3FFFF f
        (c.seen + 256 * min ((c.ended - c.began) / 65536) (2 ^ 24 - 1)) c.count c.lost
    else s)

/-- A POWER_LOSS report of a feeder lantern (R296, R297). -/
def powerLoss (s : State) (eph feeder detail : Nat) : State :=
  let c := foldAt s feeder
  if c.active then count1 (setFold s feeder { c with count := c.count + 1 }) (Reg.CIS_CNT_COUNT 3)
  else cisUpd s fun x => { x with held := x.held ++ [{ eph := eph, feeder := feeder, detail := detail, dt := s.dt, arrived := s.el }] }

/-- The oldest held report whose hold has ended is recorded with the DT of its arrival (R297). -/
def execPowerLossHoldEnd (s : State) : Host.Outcome State Fault Refusal :=
  .next (
    match s.cis.held with
    | [] => s
    | h :: r =>
      if passedSec s h.arrived (fld s Reg.CIS_FOLD_HOLD) then
        faultAt (cisUpd s fun x => { x with held := r }) h.dt 0x04 0x0001 false h.eph h.feeder h.detail 1 0
      else s)

/-- A lantern of a folding feeder that became LOST is counted in the fold (R296); `none` when its feeder is not folding. -/
def foldLost (s : State) (feeder : Nat) : Option State :=
  let c := foldAt s feeder
  if feeder < 6 ∧ c.active then some (setFold s feeder { c with lost := c.lost + 1 }) else none

/-! ### Storm limits (R298) -/

/-- One source at the end of a DT second: a STORM record for suppressed records. -/
def stormSource (s : State) (src : Nat) : State :=
  let b := bucketNow s src
  let s1 := setBucket s src { b with sup0 := 0, sup1 := 0 }
  if b.sup0 + b.sup1 = 0 then s1
  else
    let s2 := record s1 1 2 0x09 (leBytes 4 src ++ leBytes 4 b.sup0 ++ leBytes 4 b.sup1 ++ List.replicate 8 0)
    emit s2 0x0902 (leBytes 4 src ++ leBytes 4 (b.sup0 + b.sup1))

/-- The end of a DT second. -/
def execStorm (s : State) : Host.Outcome State Fault Refusal :=
  .next (
    if s.cis.stormSec = dtSec s.dt then s
    else s.cis.buckets.keys.foldl stormSource (cisUpd s fun c => { c with stormSec := dtSec s.dt }))

/-! ### Storage (R300-R303) -/

/-- Drop the oldest records until the rest fit in `size` bytes. -/
def dropTo (size : Nat) : List CisRec → List CisRec
  | [] => []
  | r :: rest => if ((r :: rest).map CisRec.len).sum ≤ size then r :: rest else dropTo size rest

/-- `k` records that fail their CRC are counted and flagged (R302). -/
def skipRecs (s : State) (k : Nat) : State :=
  if k = 0 then s else setErr (countBy s (Reg.CIS_CNT_COUNT 7) k) Reg.CIS_ERR_INTEGRITY

/-- Live records that fail their CRC are skipped. -/
def skipTorn (s : State) (l : List LiveRec) : State := skipRecs s (l.filter LiveRec.torn).length

/-- A stored record of a ring fails its CRC. -/
def isBad (s : State) (ring : Nat) (r : CisRec) : Bool := s.cis.bad.contains (ring, r.seq)

/-- Stored records that fail their CRC are skipped. -/
def skipBad (s : State) (ring : Nat) (l : List CisRec) : State := skipRecs s (l.filter (isBad s ring)).length

/-- Copy ring 0 records to the NAND archive of 192 MiB (R300). -/
def liveArchive (s : State) : State :=
  let new := s.cis.live.filter fun l => !l.archived
  cisUpd (skipTorn s new) fun c => { c with
    arch0 := dropTo 201326592 (c.arch0 ++ (new.filter fun l => !l.torn).map LiveRec.body)
    live := c.live.map fun l => { l with archived := true } }

def execLiveArchive (s : State) : Host.Outcome State Fault Refusal := .next (liveArchive s)

/-- Write the oldest pending ring 1 record to FRAM, if the 2 MiB have room for it; the space of the oldest archived records is reused
(R301). -/
def framWrite (s : State) : State :=
  match s.cis.pend1 with
  | [] => s
  | r :: rest =>
    let held := ((s.cis.fram1 ++ [r]).map CisRec.len).sum
    if held ≤ 2097152 then
      cisUpd s fun c => { c with pend1 := rest, fram1 := c.fram1 ++ [r], framOld := dropTo (2097152 - held) c.framOld }
    else s

def execAuditFramWrite (s : State) : Host.Outcome State Fault Refusal := .next (framWrite s)

/-- Records in SEQ order. -/
def bySeq (l : List CisRec) : List CisRec := l.sortBy fun a b => decide (a.seq ≤ b.seq)

/-- Every ring 1 record held, in SEQ order: archive, FRAM, pending. -/
def auditAll (s : State) : List CisRec := bySeq (s.cis.arch1 ++ s.cis.fram1 ++ s.cis.pend1)

/-- CIS_AUD_OSEQ: the oldest ring 1 sequence held. -/
def auditOseq (s : State) : Nat :=
  match auditAll s with
  | r :: _ => r.seq
  | [] => s.cis.nseq1

/-- Snapshots whose FIRST the oldest sequence has passed are invalidated (R309). -/
def invalidateSnaps (s : State) : State :=
  (List.range 4).foldl (fun s n =>
    if flag s (Reg.CIS_SNAP_PINNED n) ∧ !flag s (Reg.CIS_SNAP_INVALID n) ∧ (s.cis.snaps.get n {}).first < auditOseq s then
      emit (setErr (count1 (setFld s (Reg.CIS_SNAP_INVALID n) 1) (Reg.CIS_CNT_COUNT 6)) Reg.CIS_ERR_SNAP_INVALID) 0x0901
        (leBytes 8 n ++ leBytes 6 (auditOseq s))
    else s) s

/-- Archive ring 1: 1 MiB has gathered, or an hour has passed (R301). -/
def execAuditArchive (s : State) : Host.Outcome State Fault Refusal :=
  let fresh := s.cis.fram1
  .next (
    if 1048576 ≤ (fresh.map CisRec.len).sum ∨ passedSec s s.cis.arch1At 3600 then
      let all := bySeq (s.cis.arch1 ++ fresh.filter fun r => !isBad s 1 r)
      let kept := dropTo 268435456 all
      let s1 := cisUpd (skipBad s 1 fresh) fun c => { c with
        arch1 := kept, fram1 := [], framOld := c.framOld ++ fresh, arch1At := s.el }
      invalidateSnaps (if kept.length < all.length then setErr s1 Reg.CIS_ERR_AUDIT_WRAP else s1)
    else s)

/-! ### Reading (R305-R308) -/

/-- The live ring's pointers and sequences are latched. -/
def liveLatch (s : State) : State :=
  let c := s.cis
  let s1 := setFld (setFld (setFld s Reg.CIS_LIVE_FSEQ_HI_SEQ (c.fseq / 2 ^ 32)) Reg.CIS_LIVE_NSEQ_LO_SEQ c.nseq)
    Reg.CIS_LIVE_NSEQ_HI_SEQ (c.nseq / 2 ^ 32)
  setFld (setFld s1 Reg.CIS_LIVE_FIRST_OFS c.first) Reg.CIS_LIVE_HEAD_OFS c.headOfs

/-- A read of CIS_LIVE_FSEQ_LO latches the live ring's pointers and sequences (R305). -/
def liveFseqRead (s : State) : State :=
  let s1 := liveLatch s
  { s1 with host := { s1.host with readData := s.cis.fseq % 2 ^ 32 } }

def execCisLiveFseqRead (s : State) : Host.Outcome State Fault Refusal := .next (liveFseqRead s)

/-- The three audit sequence registers that a read of the fourth latches (R313). -/
def audLatch (s : State) : State :=
  setFld (setFld (setFld s Reg.CIS_AUD_OSEQ_HI_SEQ (auditOseq s / 2 ^ 32)) Reg.CIS_AUD_NSEQ_LO_SEQ s.cis.nseq1)
    Reg.CIS_AUD_NSEQ_HI_SEQ (s.cis.nseq1 / 2 ^ 32)

/-- A read of CIS_AUD_OSEQ_LO latches the other three audit sequences (R313). -/
def audOseqRead (s : State) : State :=
  let s1 := audLatch s
  { s1 with host := { s1.host with readData := auditOseq s % 2 ^ 32 } }

def execCisAudOseqRead (s : State) : Host.Outcome State Fault Refusal := .next (audOseqRead s)

/-- Bytes of ring 0 from an offset, modulo its size. -/
def ringBytes (s : State) (o n : Nat) : List Byte := (List.range n).map fun i => s.cis.ring0.get ((o + i) % ring0Size) 0

def bodyCisWinRead (s : State) (c : Cmd) : Work := do
  checkOps (opChks c [] [(1, 528)])
  let s1 ← writeBuf s c 0 (ringBytes s (fld s Reg.CIS_CURSOR_OFS) 512 ++ leBytes 8 s.cis.nseq ++ leBytes 8 s.cis.fseq)
  pure (s1, some (ansDone 528))

def execCisWinRead (sq : Fin 16) (s : State) : Host.Outcome State Fault Refusal := .next (runRing s sq 0x0900 bodyCisWinRead)

/-- Whole records while the next one fits, at most 65,535: the bytes, the number copied, the first that was left. -/
def takeFit : Nat → Nat → List CisRec → List Byte × Nat × Option CisRec
  | _, _, [] => ([], 0, none)
  | 0, _, r :: _ => ([], 0, some r)
  | n + 1, room, r :: rest =>
    if r.len ≤ room then
      let (b, k, m) := takeFit n (room - r.len) rest
      (r.bytes ++ b, k + 1, m)
    else ([], 0, some r)

/-- The RESULT of CIS_READ and CIS_SNAP_READ (R311). -/
def readResult (k : Nat) (left : Option CisRec) (stop : Nat) : Nat :=
  (match left with | some r => r.seq | none => stop) % 2 ^ 48 + k * 2 ^ 48

def bodyCisRead (s : State) (c : Cmd) : Work := do
  let cls := c.op 17 1
  let from' := c.op 24 6
  checkOps (opChks c [(17, 1), (24, 6)] [(1, 512)] ++ [⟨decide (3 < cls), 17, 0x03⟩, rangeChk (decide (s.cis.nseq ≤ from')) 24])
  let new := s.cis.live.filter fun l => !l.archived
  let wanted (r : CisRec) : Bool := decide (from' ≤ r.seq) && bit cls r.cls
  let all := (s.cis.arch0.filter fun r => !isBad s 0 r) ++ (new.filter fun l => !l.torn).map LiveRec.body
  let (b, k, left) := takeFit 65535 (c.bufLen 0) (all.filter wanted)
  let last := (match left with | some r => r.seq | none => s.cis.nseq)
  let passed (r : CisRec) : Bool := wanted r && decide (r.seq < last)
  let s1 ← writeBuf (skipTorn (skipBad s 0 (s.cis.arch0.filter passed)) (new.filter fun l => passed l.body)) c 0 b
  pure (s1, some (ansDone (readResult k left s.cis.nseq)))

def execCisRead (sq : Fin 16) (s : State) : Host.Outcome State Fault Refusal := .next (runRing s sq 0x0901 bodyCisRead)

def bodyCisSnapPin (s : State) (c : Cmd) : Work := do
  let n := c.op 16 1
  let cls := c.op 17 1
  let first := c.op 24 6
  let last := if c.op 32 6 = 0 then s.cis.nseq1 - 1 else c.op 32 6
  checkOps (opChks c [(16, 2), (24, 6), (32, 6)] [] ++
    [rangeChk (decide (3 < n)) 16, ⟨decide (cls % 4 ≠ 0 ∨ 15 < cls), 17, 0x03⟩,
     rangeChk (decide (s.cis.nseq1 ≤ first ∨ last < first)) 24, rangeChk (decide (s.cis.nseq1 ≤ last)) 32])
  stopIf (flag s (Reg.CIS_SNAP_PINNED n)) (ansBadState 0x0001)
  stopIf (decide (first < auditOseq s)) (ansBadState 0x0002)
  let s1 := setReg s (Reg.CIS_SNAP_PINNED n).off (BitVec.ofNat 32 (2 ^ 31 + cls))
  pure (cisUpd s1 fun x => { x with snaps := x.snaps.set n { first := first, last := last } {} }, some (ansDone last))

def execCisSnapPin (sq : Fin 16) (s : State) : Host.Outcome State Fault Refusal := .next (runRing s sq 0x0902 bodyCisSnapPin)

def bodyCisSnapRead (s : State) (c : Cmd) : Work := do
  let n := c.op 16 1
  let from' := c.op 24 6
  checkOps (opChks c [(16, 1), (24, 6)] [(1, 512)] ++ [rangeChk (decide (3 < n)) 16, rangeChk (decide (s.cis.nseq1 ≤ from')) 24])
  stopIf (!flag s (Reg.CIS_SNAP_PINNED n)) (ansBadState 0x0003)
  stopIf (flag s (Reg.CIS_SNAP_INVALID n)) (ansBadState 0x0004)
  let p := s.cis.snaps.get n {}
  let cls := (reg s (Reg.CIS_SNAP_PINNED n).off).toNat
  let l := (auditAll s).filter fun r => decide (from' ≤ r.seq ∧ p.first ≤ r.seq ∧ r.seq ≤ p.last) && bit cls r.cls
  let (b, k, left) := takeFit 65535 (c.bufLen 0) (l.filter fun r => !isBad s 1 r)
  let s1 ← writeBuf (skipBad s 1 (l.filter fun r => match left with | some m => decide (r.seq < m.seq) | none => true)) c 0 b
  pure (s1, some (ansDone (readResult k left (p.last + 1))))

def execCisSnapRead (sq : Fin 16) (s : State) : Host.Outcome State Fault Refusal := .next (runRing s sq 0x0903 bodyCisSnapRead)

def bodyCisSnapRelease (s : State) (c : Cmd) : Work := do
  let n := c.op 16 1
  checkOps (opChks c [(16, 1)] [] ++ [rangeChk (decide (3 < n)) 16])
  stopIf (!flag s (Reg.CIS_SNAP_PINNED n)) (ansBadState 0x0003)
  pure (cisUpd (setReg s (Reg.CIS_SNAP_PINNED n).off 0) fun x => { x with snaps := x.snaps.set n {} {} }, some ansDone)

def execCisSnapRelease (sq : Fin 16) (s : State) : Host.Outcome State Fault Refusal := .next (runRing s sq 0x0904 bodyCisSnapRelease)

/-- A challenge returns a random nonce and replaces the old one (R310). -/
def bodyCisClearChallenge (s : State) (c : Cmd) : Work := do
  checkOps (opChks c [] [])
  let (b, s1) := random s 8
  pure (cisUpd s1 fun x => { x with nonce := some (leNat b, s.el) }, some (ansDone (leNat b)))

def execCisClearChallenge (sq : Fin 16) (s : State) : Host.Outcome State Fault Refusal :=
  .next (runRing s sq 0x0905 bodyCisClearChallenge)

/-! ### Restart (R291, R303, R309) -/

/-- Cistern after a MOD reset: ring 0 empty, ring 1 as FRAM and the archive hold it, snapshots released. -/
def cisReset (s : State) : State :=
  cisUpd s fun c =>
    { c with ring0 := [], live := [], first := 0, headOfs := 0, fseq := c.nseq, mirSeq := [], pend1 := [], snaps := [], nonce := none
             buckets := [], idle := none, folds := [], held := [] }

/-- The SEQ after the last of some records, 1 after none. -/
def nextSeq (l : List CisRec) : Nat := l.foldl (fun n r => max n (r.seq + 1)) 1

/-- The sequences at a restart (R303): ring 0 goes on at its journalled NSEQ + 65,536, ring 1 after its last record that is good; the
latched registers show them. -/
def cisResume (s : State) : State :=
  audLatch <| liveLatch <| cisUpd s fun c =>
    let n := if c.started then c.journal.get + 65536 else c.nseq
    let m := nextSeq (c.arch1 ++ c.fram1)
    { c with fseq := n, nseq := n, restartSeq := n, journal := journalSeq c.journal n
             nseq1 := if c.arch1 ++ c.fram1 = [] ∧ c.started then c.nseq1 else m }

/-- Stored records that a start-up finds with a bad CRC: those of ring 1 after its last good one go (R303). -/
def cisBad (s : State) (l : List (Nat × Nat)) : State :=
  let s1 := cisUpd s fun c => { c with bad := c.bad ++ l }
  let good := nextSeq ((s1.cis.arch1 ++ s1.cis.fram1).filter fun r => !isBad s1 1 r)
  if (s1.cis.arch1 ++ s1.cis.fram1).any fun r => decide (good ≤ r.seq) then
    audLatch <| cisUpd s1 fun c => { c with
      arch1 := c.arch1.filter fun r => decide (r.seq < good)
      fram1 := c.fram1.filter fun r => decide (r.seq < good)
      bad := c.bad.filter fun x => decide (x.1 ≠ 1 ∨ x.2 < good), nseq1 := good }
  else s1

/-- The RESTART record and event of a start-up (R303). -/
def restartRecord (s : State) (cause : Nat) : State :=
  let arch := match s.cis.arch0.getLast? with
    | some r => r.seq
    | none => 0
  let n := s.cis.restartSeq
  let s1 := record s 2 3 0x09 (leBytes 8 cause ++ leBytes 8 n ++ leBytes 12 arch)
  cisUpd (emit s1 0x0903 (List.replicate 8 0 ++ leBytes 6 n)) fun c => { c with started := true }

end Sys2Proof.Machine
end

