-- ==== Sys2Proof/Machine/Float.lean ====
section
/-! DEFINITION. IEEE 754 binary32 and binary64 with round-to-nearest-even and subnormals (R12, R198), computed exactly on
integers and rounded once. A number is held as its bit pattern. -/

namespace Sys2Proof

/-- A format: precision with the hidden bit, and exponent bits. -/
structure Fmt where
  p : Nat
  w : Nat

def b32 : Fmt := ⟨24, 8⟩
def b64 : Fmt := ⟨53, 11⟩

def Fmt.bias (f : Fmt) : Int := 2 ^ (f.w - 1) - 1
/-- Exponent of the lowest bit of a subnormal. -/
def Fmt.low (f : Fmt) : Int := 2 - f.bias - f.p
def Fmt.signBit (f : Fmt) : Nat := 2 ^ (f.p - 1 + f.w)
def Fmt.infBits (f : Fmt) : Nat := (2 ^ f.w - 1) * 2 ^ (f.p - 1)
/-- The NaN that an operation gives: its payload is not 0 and otherwise open (log entry 32). -/
def Fmt.nan (f : Fmt) : Nat := f.infBits + 1 + Config.nanPayload f.p % (2 ^ (f.p - 1) - 1)

/-- A number: not a number, an infinity, or ± m × 2^e. -/
inductive FV where
  | nan
  | inf (neg : Bool)
  | fin (neg : Bool) (m : Nat) (e : Int)
  deriving DecidableEq, Repr

/-- The number that a bit pattern spells. -/
def Fmt.decode (f : Fmt) (x : Nat) : FV :=
  let m := x % 2 ^ (f.p - 1)
  let e := x / 2 ^ (f.p - 1) % 2 ^ f.w
  let neg := bit x (f.p - 1 + f.w)
  if e = 2 ^ f.w - 1 then (if m = 0 then .inf neg else .nan)
  else if e = 0 then .fin neg m f.low
  else .fin neg (m + 2 ^ (f.p - 1)) (f.low + e - 1)

/-- The bit pattern nearest to ± m × 2^e, ties to even. -/
def Fmt.round (f : Fmt) (neg : Bool) (m : Nat) (e : Int) : Nat :=
  let s := if neg then f.signBit else 0
  if m = 0 then s
  else
    let e1 := max (e + (Nat.log2 m + 1 : Nat) - f.p) f.low
    let q :=
      if e1 ≤ e then m * 2 ^ (e - e1).toNat
      else
        let d := 2 ^ (e1 - e).toNat
        let q := m / d
        let r := m % d
        if d < 2 * r ∨ (2 * r = d ∧ q % 2 = 1) then q + 1 else q
    let (q, e1) := if q = 2 ^ f.p then (q / 2, e1 + 1) else (q, e1)
    if f.bias < e1 + f.p - 1 then s + f.infBits
    else if q < 2 ^ (f.p - 1) then s + q
    else s + (q - 2 ^ (f.p - 1)) + (e1 - f.low + 1).toNat * 2 ^ (f.p - 1)

/-- Signed significand of a finite number at a lower exponent. -/
def alignTo (neg : Bool) (m : Nat) (e e0 : Int) : Int :=
  let k : Int := (m * 2 ^ (e - e0).toNat : Nat)
  if neg then -k else k

def Fmt.neg (f : Fmt) (x : Nat) : Nat := if bit x (f.p - 1 + f.w) then x - f.signBit else x + f.signBit
def Fmt.abs (f : Fmt) (x : Nat) : Nat := if bit x (f.p - 1 + f.w) then x - f.signBit else x
def Fmt.isNan (f : Fmt) (x : Nat) : Bool := match f.decode x with | .nan => true | _ => false
/-- Neither an infinity nor a NaN. -/
def Fmt.isFinite (f : Fmt) (x : Nat) : Bool := match f.decode x with | .fin _ _ _ => true | _ => false

def Fmt.add (f : Fmt) (x y : Nat) : Nat :=
  match f.decode x, f.decode y with
  | .nan, _ => f.nan
  | _, .nan => f.nan
  | .inf a, .inf b => if a = b then x else f.nan
  | .inf _, _ => x
  | _, .inf _ => y
  | .fin a m e, .fin b n g =>
    let e0 := min e g
    let v := alignTo a m e e0 + alignTo b n g e0
    if v = 0 then (if a && b then f.signBit else 0) else f.round (decide (v < 0)) v.natAbs e0

def Fmt.sub (f : Fmt) (x y : Nat) : Nat := if f.isNan y then f.nan else f.add x (f.neg y)

def Fmt.mul (f : Fmt) (x y : Nat) : Nat :=
  match f.decode x, f.decode y with
  | .nan, _ => f.nan
  | _, .nan => f.nan
  | .inf a, .inf b => if a = b then f.infBits else f.signBit + f.infBits
  | .inf a, .fin b n _ => if n = 0 then f.nan else if a = b then f.infBits else f.signBit + f.infBits
  | .fin a m _, .inf b => if m = 0 then f.nan else if a = b then f.infBits else f.signBit + f.infBits
  | .fin a m e, .fin b n g => f.round (a != b) (m * n) (e + g)

/-- The bit pattern nearest to ± num / den. -/
def Fmt.ratio (f : Fmt) (neg : Bool) (num den : Nat) : Nat :=
  let k := 2 * f.p + 2 + Nat.log2 (den + 1) - min (Nat.log2 (num + 1)) (2 * f.p + 1)
  let q := num * 2 ^ k / den
  f.round neg (2 * q + b2n (num * 2 ^ k % den ≠ 0)) (-(k : Int) - 1)

def Fmt.div (f : Fmt) (x y : Nat) : Nat :=
  match f.decode x, f.decode y with
  | .nan, _ => f.nan
  | _, .nan => f.nan
  | .inf _, .inf _ => f.nan
  | .inf a, .fin b _ _ => if a = b then f.infBits else f.signBit + f.infBits
  | .fin a _ _, .inf b => if a = b then 0 else f.signBit
  | .fin a m e, .fin b n g =>
    if n = 0 then (if m = 0 then f.nan else if a = b then f.infBits else f.signBit + f.infBits)
    else
      let k := 2 * f.p + 2
      let q := m * 2 ^ k / n
      f.round (a != b) (2 * q + b2n (m * 2 ^ k % n ≠ 0)) (e - g - k - 1)

/-- The integer square root, by Newton's steps from above. -/
def isqrtFrom : Nat → Nat → Nat → Nat
  | 0, _, x => x
  | k + 1, n, x => let y := (x + n / x) / 2; if y < x then isqrtFrom k n y else x

def isqrt (n : Nat) : Nat := if n = 0 then 0 else isqrtFrom 64 n (2 ^ (Nat.log2 n / 2 + 1))

def Fmt.sqrt (f : Fmt) (x : Nat) : Nat :=
  match f.decode x with
  | .nan => f.nan
  | .inf a => if a then f.nan else x
  | .fin a m e =>
    if m = 0 then x
    else if a then f.nan
    else
      let k := 2 * f.p + 4
      let sh : Nat := if (e - k) % 2 = 0 then k else k + 1
      let n := m * 2 ^ sh
      let r := isqrt n
      f.round false (2 * r + b2n (r * r ≠ n)) ((e - sh) / 2 - 1)

/-- Exact comparison; a NaN compares false. -/
def Fmt.lt (f : Fmt) (x y : Nat) : Bool :=
  match f.decode x, f.decode y with
  | .nan, _ => false
  | _, .nan => false
  | .inf a, .inf b => a && !b
  | .inf a, .fin _ _ _ => a
  | .fin _ _ _, .inf b => !b
  | .fin a m e, .fin b n g => let e0 := min e g; decide (alignTo a m e e0 < alignTo b n g e0)

def Fmt.le (f : Fmt) (x y : Nat) : Bool := !f.isNan x && !f.isNan y && !f.lt y x

def Fmt.max (f : Fmt) (x y : Nat) : Nat := if f.lt x y then y else x
def Fmt.min (f : Fmt) (x y : Nat) : Nat := if f.lt y x then y else x

def Fmt.ofInt (f : Fmt) (v : Int) : Nat := f.round (decide (v < 0)) v.natAbs 0

/-- The exact value of a finite number as numerator and power of two of the denominator; 0 for the others. -/
def Fmt.toDyadic (f : Fmt) (x : Nat) : Int × Nat :=
  match f.decode x with
  | .fin a m e => let v : Int := (m * 2 ^ e.toNat : Nat); (if a then -v else v, (-e).toNat)
  | _ => (0, 0)

/-- `num / den` rounded to an integer, half away from zero. -/
def roundAway (num : Int) (den : Nat) : Int :=
  let q : Int := ((2 * num.natAbs + den) / (2 * den) : Nat)
  if num < 0 then -q else q

/-- A finite number rounded to an integer, half away from zero. -/
def Fmt.toIntAway (f : Fmt) (x : Nat) : Int := let (n, k) := f.toDyadic x; roundAway n (2 ^ k)

/-- A finite number rounded toward minus infinity. -/
def Fmt.toIntFloor (f : Fmt) (x : Nat) : Int := let (n, k) := f.toDyadic x; n.fdiv (2 ^ k : Nat)

/-- A finite number truncated toward zero. -/
def Fmt.toIntTrunc (f : Fmt) (x : Nat) : Int := let (n, k) := f.toDyadic x; n.tdiv (2 ^ k : Nat)

/-- `num / den` rounded to an integer, ties to even. -/
def roundEven (num : Int) (den : Nat) : Int :=
  let q := num.fdiv den
  let r := num - q * den
  if 2 * r < den then q else if (den : Int) < 2 * r then q + 1 else q + q % 2

/-- A finite number rounded to an integer, ties to even. -/
def Fmt.toIntEven (f : Fmt) (x : Nat) : Int := let (n, k) := f.toDyadic x; roundEven n (2 ^ k)

/-- From one format to another. -/
def Fmt.to (f g : Fmt) (x : Nat) : Nat :=
  match f.decode x with
  | .nan => g.nan
  | .inf a => if a then g.signBit + g.infBits else g.infBits
  | .fin a m e => g.round a m e

/-! ### Trigonometric functions, on fixed point with 160 fraction bits and rounded once (log entry 31) -/

def fixOne : Int := 2 ^ 160
def fixPi : Int := 4591442807048218921384805199743311128454155024418

/-- A finite number in fixed point. -/
def Fmt.toFix (f : Fmt) (x : Nat) : Int := let (n, k) := f.toDyadic x; (n * fixOne).fdiv (2 ^ k : Nat)

def Fmt.ofFix (f : Fmt) (v : Int) : Nat := f.round (decide (v < 0)) v.natAbs (-160)

/-- Taylor series of sine (from `k` = 1) and cosine (from `k` = 0): terms t·x²/((k+1)(k+2)) of alternating sign. -/
def taylor : Nat → Int → Int → Nat → Int
  | 0, _, _, _ => 0
  | n + 1, t, x2, k => t + taylor n (-(t * x2 / fixOne) / ((k + 1) * (k + 2) : Nat)) x2 (k + 2)

/-- Reduction to −π to π. -/
def fixReduce (x : Int) : Int := (x + fixPi) % (2 * fixPi) - fixPi

def fixSin (x : Int) : Int := let y := fixReduce x; taylor 30 y (y * y / fixOne) 1
def fixCos (x : Int) : Int := let y := fixReduce x; taylor 30 fixOne (y * y / fixOne) 0

/-- The angle from 0 to π whose cosine is `c`, by bisection. -/
def fixAcosIn : Nat → Int → Int → Int → Int
  | 0, lo, _, _ => lo
  | n + 1, lo, hi, c => let m := (lo + hi) / 2; if c < fixCos m then fixAcosIn n m hi c else fixAcosIn n lo m c

def Fmt.sin (f : Fmt) (x : Nat) : Nat := if f.isFinite x then f.ofFix (fixSin (f.toFix x)) else f.nan
def Fmt.cos (f : Fmt) (x : Nat) : Nat := if f.isFinite x then f.ofFix (fixCos (f.toFix x)) else f.nan
def Fmt.acos (f : Fmt) (x : Nat) : Nat := if f.isFinite x then f.ofFix (fixAcosIn 130 0 fixPi (f.toFix x)) else f.nan

/-! ### Logarithm and exponential, on the same fixed point -/

def fixLn2 : Int := 1013035739299659071135698605846798551586536899366

/-- The odd series of the inverse hyperbolic tangent. -/
def atanhSeries : Nat → Int → Int → Nat → Int
  | 0, _, _, _ => 0
  | n + 1, t, z2, k => t / k + atanhSeries n (t * z2 / fixOne) z2 (k + 2)

/-- The natural logarithm of a positive m × 2^-k. -/
def fixLn (m k : Nat) : Int :=
  let e := Nat.log2 m
  let y := (m : Int) * fixOne / (2 ^ e : Nat)
  let z := (y - fixOne) * fixOne / (y + fixOne)
  2 * atanhSeries 60 z (z * z / fixOne) 1 + ((e : Int) - k) * fixLn2

/-- The exponential of a number that is not negative. -/
def fixExp (x : Int) : Int :=
  let q := (x / fixLn2).toNat
  let r := x - q * fixLn2
  ((List.range 50).foldl (fun (a : Int × Int) i => (a.1 + a.2, a.2 * r / fixOne / (i + 1 : Nat))) (0, fixOne)).1 * (2 ^ q : Nat)

/-- A decimal constant ± num / den in binary64. -/
def dec (num : Int) (den : Nat) : Nat := b64.ratio (decide (num < 0)) num.natAbs den

/-- π in binary64. -/
def pi64 : Nat := b64.ofFix fixPi

end Sys2Proof
end

