-- ==== Sys2Proof/Machine/Pins.lean ====
section
/-! DEFINITION. Pads: driven values, analogue inputs and digital inputs (chapter 18). -/

namespace Sys2Proof.Machine

/-! ### Output pads (R433, R436, R505) -/

/-- The hardware gate of R436. -/
def gateOpen (s : State) : Bool := flag s Reg.PAR_STAT_ACT_OWN && !flag s Reg.PAR_STAT_ACT_IN

/-- The pad shows what its block drives: its domain is ON, and the gate is open for a gated one. -/
def padOn (s : State) (p : Pad) : Bool := (p.dom.all fun d => decide (domState s d = 2)) && (!p.gated || gateOpen s)

/-- The value that its block drives on a pad. -/
def padDrive (s : State) (p : Pad) : Option Nat := (s.pin.drive.find? fun x => x.1 = p).map Prod.snd

/-- What a pad shows now. -/
def padNow (s : State) (p : Pad) : PadLevel :=
  match padDrive s p with
  | some v => if padOn s p then .driven v else p.atRest
  | none => p.atRest

/-- What a pad last showed. -/
def padShown (s : State) (p : Pad) : PadLevel := ((s.pin.shown.find? fun x => x.1 = p).map Prod.snd).getD p.atRest

/-- A pad follows what drives it: a change goes out (log entry 8). -/
def showPad (s : State) (p : Pad) : State :=
  let v := padNow s p
  if padShown s p = v then s
  else send { s with pin := { s.pin with shown := s.pin.shown.filter (fun x => x.1 ≠ p) ++ [(p, v)] } } (.pad p v)

/-- Every pad that a block drives or has driven follows a change of the gate, of a domain, or a reset. -/
def showPads (s : State) : State := (s.pin.shown.map Prod.fst ++ s.pin.drive.map Prod.fst).foldl showPad s

/-- A block drives a pad. -/
def drivePad (s : State) (p : Pad) (v : Nat) : State :=
  showPad { s with pin := { s.pin with drive := s.pin.drive.filter (fun x => x.1 ≠ p) ++ [(p, v)] } } p

/-- The blocks no longer drive the pads of which `p` holds. -/
def dropDrives (s : State) (p : Pad → Bool) : State :=
  showPads { s with pin := { s.pin with drive := s.pin.drive.filter fun x => !p x.1 } }

/-- A block sends a frame on a bus whose pads it drives at idle before and after; nothing goes out while the pads are in their reset
state. -/
def sendLine (s : State) (idle : List (Pad × Nat)) (o : Out) : State :=
  let s1 := idle.foldl (fun s x => drivePad s x.1 x.2) s
  if idle.all fun x => padOn s1 x.1 then send s1 o else s1

/-- Idle levels of a remote I/O port, of a DALI line, and of a feature bus port in chain and in addressed mode (R359, R360, R515). -/
def rioIdle (p : Nat) : List (Pad × Nat) := [(.rioTx p, 1), (.rioDe p, 0)]
def daliIdle (p : Nat) : List (Pad × Nat) := [(.daliTx p, 0)]
def flbIdle (s : State) (p : Nat) : List (Pad × Nat) :=
  if flag s (Reg.FTN_FLB_CFG_MODE p) then [(.flbClk p, 1), (.flbLat p, 0)] else [(.flbClk p, 0), (.flbDat p, 0), (.flbLat p, 0)]

/-! ### Analogue and digital inputs (R510, R523) -/

/-- An AIN conversion in V: 0 to 3.0 V in 12 bits, whole steps of 3 V / 4,096 (log entry 155). -/
def ainVolts (w : Word) : Word :=
  BitVec.ofNat 32 (if b32.isFinite w.toNat then
    let v := b32.max 0 (b32.min w.toNat (b32.ofInt 3))
    let k := min 4095 (b32.toIntFloor (b32.div (b32.mul v (b32.ofInt 4096)) (b32.ofInt 3)))
    b32.div (b32.mul (b32.ofInt k) (b32.ofInt 3)) (b32.ofInt 4096)
  else 0)

/-- New conversions of AIN0-7. -/
def setAin (s : State) (l : List Word) : State :=
  if outOfService s 0x6B then s else
  { s with pin := { s.pin with ain := (List.range 8).map fun i => ainVolts (l.getD i 0) } }

/-- The latest conversion of an analogue input, binary32. -/
def ain (s : State) (i : Nat) : Nat := (s.pin.ain.getD i 0).toNat

/-- The filter time of DIN n in µs; 0 acts as 1 (R510). -/
def dinFilter (s : State) (n : Nat) : Nat := max 1 (bits (fld s (Reg.PIN_DINFILT_FILT (n / 4))) (8 * (n % 4) + 7) (8 * (n % 4)))

/-- DIN n has shown a level: it is accepted once it has held for the filter time (R510). -/
def execDinLevelAccept (n : Fin 24) (x : DinLevel) (s : State) : Host.Outcome State Fault Refusal :=
  .next (
    if domState s 11 = 2 ∧ dinFilter s n.val ≤ x.held then
      setFld s Reg.PIN_DIN_LEVEL (putBits (fld s Reg.PIN_DIN_LEVEL) n.val n.val (b2n x.high))
    else s)

end Sys2Proof.Machine
end

