-- ==== Sys2Proof/Machine/Span.lean ====
section
/-! DEFINITION. Span messages: their header, routing, forwarding and the receipt common to every message (R451-R454). -/

namespace Sys2Proof.Machine

def fedUpd (s : State) (f : FedSt → FedSt) : State := { s with fed := f s.fed }
def pairUpd (s : State) (f : PairSt → PairSt) : State := { s with pair := f s.pair }

def fedOn (s : State) : Bool := flag s Reg.FED_CTRL_EN

/-- The module sends Span messages of its own: UNPAIRED or ACTIVE (R433). -/
def spanMine (s : State) : Bool := fedOn s && (role s = 0 || role s = 2)

/-- A message with its header, `none` when VERSION, a reserved bit or LENGTH is wrong (R452). -/
def SpanMsg.parse (l : List Byte) : Option SpanMsg :=
  let src := fieldBE l 4 2
  let d := fieldBE l 6 2
  if 16 ≤ l.length ∧ fieldBE l 0 1 = 0x10 ∧ fieldBE l 2 2 = l.length - 16 ∧ src < 4096 ∧
      d % 0x8000 < 4096 ∧ (d < 0x8000 ∨ d = 0x8000) ∧ fieldBE l 9 1 = 0 ∧ fieldBE l 14 2 = 0 then
    some { msg := fieldBE l 1 1, src := src, dst := d % 4096, bcast := decide (0x8000 ≤ d), ttl := fieldBE l 8 1,
           seq := fieldBE l 10 4, body := l.drop 16 }
  else none

/-- A received Span message, of at most 1,500 bytes (R451). -/
def SpanMsg.ofBytes (l : List Byte) : Option SpanMsg := if l.length ≤ 1500 then SpanMsg.parse l else none

/-- A port has link: a message has arrived on it in the last 3 s, the time of NEIGH (log entry 70). -/
def portLink (s : State) (p : Nat) : Bool :=
  let t := s.fed.rxAt.get p 0
  decide (t ≠ 0) && !passedSec s (t - 1) 3

/-- The MAC address of a port: the EUI-64 without its bytes 3 and 4, with the port's number added to its last byte (R451). -/
def portMac (p : Nat) : List Byte :=
  let e := beBytes 8 Config.moduleEui
  e.take 3 ++ sliceB e 5 2 ++ [(e.getD 7 0) + BitVec.ofNat 8 p]

/-- The broadcast MAC address. -/
def everyMac : List Byte := List.replicate 6 0xFF

/-- Where the frames of a port go: to its neighbour, as learnt from a HELLO, and until then to every station (R451, log entry 160). -/
def neighMac (s : State) (p : Nat) : List Byte := s.fed.neighMac.get p everyMac

/-- A route byte (R463) names a next hop that can be used: a port, or a peer while UDP_EN is 1 (R451). -/
def hopUsable (s : State) (b : Nat) : Bool :=
  bit b 7 && (if bit b 6 then
    flag s Reg.FED_CTRL_UDP_EN && (match s.fed.peers.get (b % 64) none with | some p => portLink s p.port | none => false)
  else decide (b % 64 < 4) && portLink s (b % 64))

/-- The hop of a module ID: the primary, or the alternate when the primary has no link (R453). -/
def routeHop (s : State) (dst : Nat) : Option Nat :=
  let (p, a) := s.fed.routes.get dst (0, 0)
  if hopUsable s p then some p else if hopUsable s a then some a else none

/-- Send a message on a port, as an Ethernet frame to an address. -/
def portSend (s : State) (p : Nat) (mac : List Byte) (m : SpanMsg) : State :=
  send s (.span p mac (portMac p) (fld s Reg.FED_CFG_ETYPE) m.bytes)

/-- Send a message on a hop: to the port's neighbour, or to a UDP peer (R451, R463). -/
def hopSend (s : State) (hop : Nat) (m : SpanMsg) : State :=
  if bit hop 6 then
    match s.fed.peers.get (hop % 64) none with
    | some p => send s (.udp p.port p.mac p.ip (fld s Reg.FED_UDP_PORT) m.bytes)
    | none => s
  else portSend s (hop % 64) (neighMac s (hop % 64)) m

/-- A message without a route (R453). -/
def noRoute (s : State) : State := setErr (count1 s (Reg.FED_CNT_COUNT 4)) Reg.FED_ERR_NO_ROUTE

/-- Originate a message to a module (R452). -/
def spanSend (s : State) (dst msg : Nat) (body : List Byte) : State :=
  if !spanMine s then s
  else
    let n := (s.fed.seq + 1) % 2 ^ 32
    let s1 := fedUpd s fun f => { f with seq := n }
    match routeHop s dst with
    | none => noRoute s1
    | some h =>
      hopSend (count1 s1 (Reg.FED_CNT_COUNT 1)) h
        { msg := msg, src := fld s Reg.FED_ID_ID, dst := dst, bcast := false, ttl := fld s Reg.FED_CFG_TTL, seq := n, body := body }

/-- Originate a broadcast: one message, sent out of every Span port. -/
def spanBcast (s : State) (ttl msg : Nat) (body : List Byte) : State :=
  if !spanMine s then s
  else
    let n := (s.fed.seq + 1) % 2 ^ 32
    let m : SpanMsg := { msg := msg, src := fld s Reg.FED_ID_ID, dst := 0, bcast := true, ttl := ttl, seq := n, body := body }
    (List.range 4).foldl (fun s p => hopSend s p m) (count1 (fedUpd s fun f => { f with seq := n }) (Reg.FED_CNT_COUNT 1))

/-- A SEQ of a sender: whether it is a repeat, and the sender's new highest SEQ and window (R453). -/
def dupStep (old : Nat × Nat) (seq : Nat) : Bool × (Nat × Nat) :=
  let (hi, w) := old
  if hi ≤ seq then
    (false, (seq + 1, if hi = 0 then 0 else (w * 2 + 1) * 2 ^ (seq - hi) % 2 ^ 64))
  else if seq + 1 = hi then (true, old)
  else
    let k := hi - 2 - seq
    if 64 ≤ k then (false, old)
    else if bit w k then (true, old) else (false, (hi, w + 2 ^ k))

/-- The module is addressed by an ID that another module claims (R457). -/
def idConflict (s : State) : Bool :=
  match s.fed.dupId with
  | some t => !passedSec s t 3
  | none => false

/-- Forward a message with TTL - 1 (R453). -/
def spanForward (s : State) (m : SpanMsg) : State :=
  match routeHop s m.dst with
  | none => noRoute s
  | some h => hopSend (count1 s (Reg.FED_CNT_COUNT 2)) h { m with ttl := m.ttl - 1 }

/-- A message that reaches the module on Span port `p`: its header is checked, repeats are dropped, transit traffic and
broadcasts, HELLO among them, are forwarded, and a consumed message is copied to the partner (R452-R454). -/
def spanRx (s : State) (p : Nat) (l : List Byte) : State × Option SpanMsg :=
  if !fedOn s then (s, none)
  else
    let s0 := count1 (fedUpd s fun f => { f with rxAt := f.rxAt.set p (s.el + 1) 0 }) (Reg.FED_CNT_COUNT 0)
    match SpanMsg.ofBytes l with
    | none => (setErr (count1 s0 (Reg.FED_CNT_COUNT 3)) Reg.FED_ERR_BAD_MSG, none)
    | some m =>
      if m.ttl = 0 then (setErr (count1 s0 (Reg.FED_CNT_COUNT 5)) Reg.FED_ERR_TTL, none)
      else
        let (rep, w) := dupStep (s.fed.dup.get m.src (0, 0)) m.seq
        if rep then (count1 s0 (Reg.FED_CNT_COUNT 6), none)
        else
          let s1 := fedUpd s0 fun f => { f with dup := f.dup.set m.src w (0, 0) }
          let mine := decide (m.dst = fld s Reg.FED_ID_ID) && flag s Reg.FED_ID_VALID
          if m.bcast then
            let s2 := ((List.range 4).filter fun q => decide (q ≠ p)).foldl
              (fun s q => hopSend s q { m with ttl := m.ttl - 1 }) (count1 s1 (Reg.FED_CNT_COUNT 2))
            (if role s = 0 then s2 else count1 (mirSend s2 0x4B l) (Reg.PAR_CNT_COUNT 4), some m)
          else if mine then
            if idConflict s then (s1, none)
            else (if role s = 0 then s1 else count1 (mirSend s1 0x4B l) (Reg.PAR_CNT_COUNT 4), some m)
          else (spanForward s1 m, none)

/-- The module acts on a consumed message type: a member that is not ACTIVE acts on HELLO, BORDER_DEMAND and PIECE_PART only
(R454). -/
def spanActs (s : State) (msg : Nat) : Bool :=
  role s = 0 || role s = 2 || msg = 1 || msg = 2 || msg = 5

/-- The MSG byte of a message. -/
def spanKind (l : List Byte) : Nat := fieldBE l 1 1

end Sys2Proof.Machine
end

