-- ==== Sys2Proof/Machine/Fold.lean ====
section
/-! DEFINITION. The Fold: entries and their bytes, the journal, keys, the slot grid, hopping, and the frames that Tamin sends
(R143-R148, R152-R154, R161-R173). -/

namespace Sys2Proof.Machine

def macUpd (s : State) (f : TaminSt → TaminSt) : State := { s with mac := f s.mac }
def entAt (s : State) (n : Nat) : FoldEntry := s.mac.fold.get n {}
def epAt (s : State) (n : Nat) : EpSt := s.mac.ep.get n {}
def setEp (s : State) (n : Nat) (x : EpSt) : State := macUpd s fun m => { m with ep := m.ep.set n x {} }
def foldSize : Nat := 262144

/-! ### The bytes of an entry (R152) -/

def FoldEntry.bytes (e : FoldEntry) : List Byte :=
  leBytes 8 e.eui ++ leBytes 1 (e.state + e.type * 16 + e.gen * 64) ++
  leBytes 1 (e.feeder + b2n e.mapStale * 8 + b2n e.rekeyPend * 16 + e.relays * 32 + b2n e.hostAdmit * 128) ++
  leBytes 3 (e.parent + e.sca * 2 ^ 18 + e.caps * 2 ^ 21) ++ leBytes 1 e.pre ++ leBytes 2 e.keyEpoch ++ leBytes 4 e.access ++
  leBytes 2 e.interval ++ leBytes 2 e.superv ++ leBytes 4 e.lastSp ++ leBytes 2 e.lastEvt ++ leBytes 1 e.mapIdx ++
  leBytes 1 e.mode ++ leBytes 1 e.listen ++ leBytes 1 e.rssi ++ leBytes 2 (ofSigned 16 e.ofs) ++
  leBytes 2 (ofSigned 16 e.drift) ++ leBytes 2 e.repeats ++ leBytes 4 e.ulFcnt ++ leBytes 4 e.dlFcnt ++ leBytes 4 e.ulHash ++
  leBytes 4 e.lastRx ++ leBytes 4 e.groupPtr ++ leBytes 2 e.levelCmd ++ leBytes 2 e.levelRpt ++ leBytes 2 e.powerRpt ++
  leBytes 6 e.energyRpt ++ leBytes 4 e.energySec ++ leBytes 2 e.faultBits ++ leBytes 2 e.faultCode ++ leBytes 16 e.ota ++
  leBytes 4 e.ulCount ++ leBytes 2 e.ackPend ++ leBytes 1 (b2n e.cntGuard) ++ [0] ++ leBytes 2 e.homeModule ++
  List.replicate 22 0

/-- The entry that 128 bytes spell. -/
def FoldEntry.ofBytes (b : List Byte) : FoldEntry :=
  let f (o n : Nat) := fieldLE b o n
  { eui := f 0 8, state := bits (f 8 1) 3 0, type := bits (f 8 1) 5 4, gen := bits (f 8 1) 7 6, feeder := bits (f 9 1) 2 0,
    mapStale := bit (f 9 1) 3, rekeyPend := bit (f 9 1) 4, relays := bits (f 9 1) 6 5, hostAdmit := bit (f 9 1) 7,
    parent := bits (f 10 3) 17 0, sca := bits (f 10 3) 20 18, caps := bits (f 10 3) 23 21, pre := f 13 1, keyEpoch := f 14 2,
    access := f 16 4, interval := f 20 2, superv := f 22 2, lastSp := f 24 4, lastEvt := f 28 2, mapIdx := f 30 1,
    mode := bits (f 31 1) 1 0, listen := f 32 1, rssi := f 33 1, ofs := toSigned 16 (f 34 2), drift := toSigned 16 (f 36 2),
    repeats := f 38 2, ulFcnt := f 40 4, dlFcnt := f 44 4, ulHash := f 48 4, lastRx := f 52 4, groupPtr := f 56 4,
    levelCmd := f 60 2, levelRpt := f 62 2, powerRpt := f 64 2, energyRpt := f 66 6, energySec := f 72 4, faultBits := f 76 2,
    faultCode := f 78 2, ota := f 80 16, ulCount := f 96 4, ackPend := f 100 2, cntGuard := bit (f 102 1) 0,
    homeModule := bits (f 104 2) 11 0 }

/-! ### Writing entries and the journal (R154) -/

/-- STATE, parameters, keys and membership: what an entry record of the journal is written for. -/
def FoldEntry.params (e : FoldEntry) : FoldEntry :=
  { e with lastSp := 0, lastEvt := 0, rssi := 0, ofs := 0, drift := 0, repeats := 0, ulFcnt := 0, dlFcnt := 0, ulHash := 0,
           lastRx := 0, levelCmd := 0, levelRpt := 0, powerRpt := 0, energyRpt := 0, energySec := 0, faultBits := 0,
           faultCode := 0, ota := 0, ulCount := 0, ackPend := 0 }

/-- The bytes of a journal record before its CRC-32C: the EPH and the kind, then the entry, or the value and zeros (R154). -/
def JrnRec.body : JrnRec → List Byte
  | .entry n e => leBytes 3 n ++ [0] ++ e.bytes
  | .counter k n v => leBytes 3 n ++ leBytes 1 k ++ leBytes 4 v ++ leBytes 4 0

/-- A journal record: 136 bytes for an entry, 16 for a counter (R154). -/
def JrnRec.bytes (r : JrnRec) : List Byte := r.body ++ leBytes 4 (crc32c r.body)

/-- The record that bytes of the journal hold; `none` when its CRC-32C fails. -/
def JrnRec.ofBytes (b : List Byte) : Option JrnRec :=
  let n := b.length - 4
  let body := b.take n
  if b.drop n ≠ leBytes 4 (crc32c body) then none
  else
    let eph := fieldLE body 0 3
    match fieldLE body 3 1 with
    | 0 => some (.entry eph (.ofBytes (body.drop 4)))
    | k => some (.counter k eph (fieldLE body 4 4))

def jrn (s : State) (r : JrnRec) : State := macUpd s fun m => { m with journal := m.journal ++ [r.bytes] }

/-- Bytes that the journal takes. -/
def journalBytes (l : List (List Byte)) : Nat := (l.map List.length).sum

/-- Write an entry: it is journalled as R154 sets out and mirrored; MAC_STAT.ENTRIES counts the entries that are not FREE. -/
def setEnt (s : State) (n : Nat) (e : FoldEntry) : State :=
  let o := entAt s n
  if o = e then s
  else
    let s1 := macUpd s fun m => { m with fold := m.fold.set n e {} }
    let s2 := setFld s1 Reg.MAC_STAT_ENTRIES s1.mac.fold.length
    let s3 := if o.params = e.params then s2 else jrn s2 (.entry n e)
    let s4 := if o.ulFcnt / 16 < e.ulFcnt / 16 then jrn s3 (.counter 1 n e.ulFcnt) else s3
    let s5 := if o.dlFcnt / 16384 < e.dlFcnt / 16384 then jrn s4 (.counter 2 n e.dlFcnt) else s4
    mirror s5 0x41 (beBytes 3 n ++ [0] ++ e.bytes)

/-- Change an entry. -/
def updEnt (s : State) (n : Nat) (f : FoldEntry → FoldEntry) : State := setEnt s n (f (entAt s n))

/-- Forget what Tamin keeps of an entry that becomes FREE. -/
def forgetEp (s0 : State) (n : Nat) : State :=
  let s := { s0 with bas := { s0.bas with reported := s0.bas.reported.del n, energy := s0.bas.energy.del n } }
  macUpd s fun m => { m with
    ep := m.ep.del n, joins := m.joins.del n, resps := m.resps.filter fun r => r.eph ≠ n,
    plans := m.plans.filter fun p => p.eph ≠ n, acks := m.acks.filter fun a => a ≠ n, ambient := m.ambient.del n }

def streetUpd (s : State) (f : StreetSt → StreetSt) : State := { s with street := f s.street }

/-- Free an entry (R153). -/
def freeEnt (s : State) (n : Nat) : State :=
  streetUpd (forgetEp (setEnt s n {}) n) fun x => { x with
    members := x.members.del n, queue := x.queue.del n, repair := x.repair.del n, floorOver := x.floorOver.del n,
    comp := x.comp.del n, judging := x.judging.del n }

/-- Look an EUI-64 up among the entries that are not FREE. -/
def findEui (s : State) (eui : Nat) : Option Nat :=
  (s.mac.fold.find? fun x => decide (x.2.state ≠ 0 ∧ x.2.eui = eui)).map Prod.fst

/-- The lowest EPH that the list, in rising order, does not name. -/
def lowestFree : SMap FoldEntry → Nat → Nat
  | [], n => n
  | (k, _) :: r, n => if k = n then lowestFree r (n + 1) else n

/-- The lowest FREE EPH (R150). -/
def freeEph (s : State) : Option Nat :=
  let n := lowestFree s.mac.fold 0
  if n < foldSize then some n else none

/-- One journal record applied to a Fold and a broadcast counter. -/
def replay (m : SMap FoldEntry × Nat) : JrnRec → SMap FoldEntry × Nat
  | .entry n e => (m.1.set n e {}, m.2)
  | .counter 1 n v => (m.1.upd n {} fun e => { e with ulFcnt := v }, m.2)
  | .counter 2 n v => (m.1.upd n {} fun e => { e with dlFcnt := v }, m.2)
  | .counter _ _ v => (m.1, v)

/-- A Fold and a broadcast counter with the valid records of a journal applied. -/
def replayAll (m : SMap FoldEntry × Nat) (l : List (List Byte)) : SMap FoldEntry × Nat := (l.filterMap JrnRec.ofBytes).foldl replay m

/-- An entry as a restore leaves it: DL_FCNT + 65,536, at most 0xFFFF_FFFF (R173), and CNT_GUARD (R154). -/
def restored (e : FoldEntry) : FoldEntry :=
  if e.state = 0 then e else { e with dlFcnt := min (e.dlFcnt + 65536) 0xFFFFFFFF, cntGuard := true }

/-- Write a checkpoint of the Fold; the journal begins anew. -/
def checkpointFold (s : State) : State :=
  macUpd s fun m => { m with ckptOld := (m.ckpt, m.ckptBcnt), ckpt := m.fold, ckptBcnt := fld s Reg.MAC_BCNT_COUNT, journal := [], ckptAt := s.el }

/-- The last checkpoint cannot be read: the other generation serves (R471). -/
def dropCheckpoint (s : State) : State := macUpd s fun m => { m with ckpt := m.ckptOld.1, ckptBcnt := m.ckptOld.2 }

/-- Restore the Fold from the last checkpoint and the journal, and keep the raised counters (R154). -/
def restoreFold (s : State) : State :=
  let (f, b) := replayAll (s.mac.ckpt, s.mac.ckptBcnt) s.mac.journal
  let s1 := macUpd s fun m => { m with fold := f.map fun x => (x.1, restored x.2) }
  checkpointFold (setFld (setFld s1 Reg.MAC_STAT_ENTRIES s1.mac.fold.length) Reg.MAC_BCNT_COUNT ((b + 65536) % 2 ^ 32))

/-! ### Keys and frame security (R156, R168-R170, R172) -/

/-- Coop allows the use of the fleet master key (R412). -/
def masterOk (s : State) : Bool := (internalUse s (fld s Reg.MAC_KEY_CFG_MASTER_SLOT) 3 5 10).isSome

/-- The fleet master key. -/
def masterKey (s : State) : List Byte := (internalUse s (fld s Reg.MAC_KEY_CFG_MASTER_SLOT) 3 5 10).getD Config.refusedKey

def kdf (s : State) (label : String) (ctx : List Byte) : List Byte :=
  (hmacSha256 (masterKey s) ([0, 0, 0, 1] ++ ascii label ++ [0] ++ ctx ++ [0, 0, 0, 0x80])).take 16

/-- The link key that the cache holds (R170). -/
def cachedKey (s : State) (eui e : Nat) : Option (List Byte) :=
  (s.mac.kcache.find? fun k => decide (k.eui = eui ∧ k.epoch = e)).map CachedKey.key

/-- The link key of an EUI-64 and an epoch: the cached one, or the one derived. -/
def linkKey (s : State) (eui e : Nat) : List Byte :=
  (cachedKey s eui e).getD (kdf s "TAMIN-LINK" (beBytes 8 eui ++ beBytes 2 e))

def segEui (s : State) : Nat := fld s Reg.MAC_SEG_EUI_LO_EUI + fld s Reg.MAC_SEG_EUI_HI_EUI * 2 ^ 32

def bcastKey (s : State) (e : Nat) : List Byte := kdf s "TAMIN-BCAST" (beBytes 8 (segEui s) ++ beBytes 2 e)

/-- Use a link key: the cache of 4,096 keeps the most recently used; a miss derives the key and counts, or is a refused use of the
master key (R170, R412). -/
def useKey (s : State) (eui e : Nat) : State :=
  let hit := (cachedKey s eui e).isSome
  if hit || masterOk s then
    let k : CachedKey := { eui := eui, epoch := e, key := linkKey s eui e }
    let s1 := macUpd s fun m => { m with kcache := (k :: m.kcache.filter fun x => !decide (x.eui = eui ∧ x.epoch = e)).take 4096 }
    if hit then s1 else remask (count1 s1 (Reg.MAC_CNT_COUNT 12)) (fld s Reg.MAC_KEY_CFG_MASTER_SLOT)
  else useRefused s

/-- Derive from the fleet master key: a use of it, or a refused one (R412, R414). -/
def useMaster (s : State) : State := if masterOk s then remask s (fld s Reg.MAC_KEY_CFG_MASTER_SLOT) else useRefused s

/-- The nonce of R168. -/
def nonce (addr ctr level : Nat) : List Byte := beBytes 8 addr ++ beBytes 4 ctr ++ leBytes 1 level

/-- The secured frame of level 6: header, then encrypted payload and MIC. -/
def seal6 (key : List Byte) (addr ctr : Nat) (head payload : List Byte) : List Byte :=
  head ++ ccmSeal key (nonce addr ctr 6) head payload

/-- The secured frame of level 2: everything before the MIC is a-data. -/
def seal2 (key : List Byte) (addr ctr : Nat) (head payload : List Byte) : List Byte :=
  head ++ payload ++ ccmSeal key (nonce addr ctr 2) (head ++ payload) []

/-- The common header (R161). -/
def header (ftype gen kep evf hops : Nat) (fwd : Bool) : List Byte :=
  leBytes 1 (ftype + gen * 16 + kep * 64) ++ leBytes 1 (evf + hops * 16 + b2n fwd * 128)

/-- An element of a payload (R162). -/
def elem (t : Nat) (v : List Byte) : List Byte := leBytes 1 t ++ leBytes 1 v.length ++ v

/-! ### Slot grid and hopping (R143, R146, R147) -/

/-- The present slot period: DT in units of 12.5 ms. -/
def curSp (s : State) : Nat := s.dt * 5 / 4096

/-- The first slot period that starts at or after a DT. -/
def spFrom (t : Nat) : Nat := (t * 5 + 4095) / 4096

/-- Slot periods between events (R146). -/
def FoldEntry.p (e : FoldEntry) : Nat := e.interval * 4 / 5

/-- Channels of a map, ascending. -/
def mapChans (m : Nat) : List Nat := (List.range 80).filter fun c => bit m c

def mapAt (s : State) (i : Nat) : Nat := s.mac.maps.get i 0

/-- Offset of the slot of a channel in its slot period, in 2.5 µs units (R143). -/
def slotOfs (gen ch : Nat) : Nat := if gen = 3 then ch % 8 * 625 else 0

/-- The new map of an INDEX whose ACT_DT has come at the start of slot period k. -/
def dueMap (s : State) (i k : Nat) : Option Nat :=
  (s.mac.mapPend.find? fun p => decide (p.index = i ∧ p.actDt * 5 ≤ k * 4096)).map MapPend.map

/-- The map of an INDEX for the events of slot period k: a new one from its ACT_DT on, before that the one it supersedes (R148). -/
def mapFor (s : State) (i k : Nat) : Nat :=
  match ((s.mac.oldMaps.get i []).filter fun o => decide (k < o.until')).getLast?, dueMap s i k with
  | some o, _ => o.map
  | none, some m => m
  | none, none => mapAt s i

/-- Maps of an INDEX that slot period k finds superseded, and that are still accepted for 3,600 s (R148). -/
def oldFor (s : State) (i k : Nat) : List Nat :=
  (if (dueMap s i k).isSome then [mapAt s i] else []) ++
    ((s.mac.oldMaps.get i []).filter fun o => decide (o.until' ≤ k) && !passedSec s o.from' 3600).map OldMap.map

/-- The hop function over a map (R147); none when the map holds no channel. -/
def hopOn (access m n : Nat) : Option Nat :=
  let used := mapChans m
  let x0 := (n * 40503 + access % 65536) % 65536
  let x1 := Nat.xor x0 (access / 65536)
  let x2 := (x1 * 25173 + 13849) % 65536
  let x3 := Nat.xor x2 (x2 / 128)
  used[x3 * used.length / 65536]?

/-- The channel of event n, which falls in slot period k. -/
def hop (s : State) (e : FoldEntry) (n k : Nat) : Option Nat := hopOn e.access (mapFor s e.mapIdx k) n

/-- Slot periods from LAST_SP to slot period k, modulo 2^32. -/
def sinceLast (e : FoldEntry) (k : Nat) : Nat := (k + 2 ^ 32 - e.lastSp % 2 ^ 32) % 2 ^ 32

/-- The event of an entry that falls in slot period k. -/
def eventAt (e : FoldEntry) (k : Nat) : Option Nat :=
  if e.p = 0 then none
  else if sinceLast e k % e.p = 0 ∧ sinceLast e k < 2 ^ 31 then some ((e.lastEvt + sinceLast e k / e.p) % 65536) else none

/-! ### Sending (R144, R145, R162, R171, R173) -/

/-- Queue an element for an entry. -/
def queueDl (s : State) (n : Nat) (i : DlItem) : State := setEp s n { epAt s n with dlq := (epAt s n).dlq ++ [i] }

/-- Start a rekey of an entry (R173). -/
def startRekey (s : State) (n : Nat) (ref : Option CmdRef) : State :=
  let e := entAt s n
  if e.rekeyPend then s
  else if e.keyEpoch = 65535 then setErr s Reg.MAC_ERR_KEY_EXHAUSTED
  else
    let s1 := setEnt (useKey s e.eui (e.keyEpoch + 1)) n { e with rekeyPend := true }
    let s2 := setEp s1 n { epAt s1 n with rekeyRef := ref }
    queueDl s2 n { type := 0x12, val := leBytes 2 (e.keyEpoch + 1) ++ linkKey s e.eui (e.keyEpoch + 1), kind := .rekey }

/-- A unicast frame was sent: it used the entry's link key and its next downlink counter; at 0xFFF0_0000 a rekey starts (R170,
R173). -/
def takeDl (s : State) (n : Nat) : State :=
  let e := entAt s n
  let s1 := updEnt (useKey s e.eui e.keyEpoch) n fun e => { e with dlFcnt := (e.dlFcnt + 1) % 2 ^ 32 }
  if 0xFFF00000 ≤ (entAt s1 n).dlFcnt then startRekey s1 n none else s1

/-- A unicast downlink frame under the entry's key with the next counter (R162). -/
def dlFrame (s : State) (n ftype : Nat) (payload : List Byte) : List Byte :=
  let e := entAt s n
  let c := e.dlFcnt + 1
  seal6 (linkKey s e.eui e.keyEpoch) (segEui s) c
    (header ftype e.gen (e.keyEpoch % 2) 0 0 false ++ leBytes 3 n ++ leBytes 4 c) payload

/-- Chain A when it is free, otherwise chain B (R144). -/
def pickChain (s : State) : Option Nat := if chainFree s 0 then some 0 else if chainFree s 1 then some 1 else none

/-- Airtime in µs of a frame of `n` bytes before its 2-octet FCS, sent by Tamin in a MODE. -/
def dlAirtime (s : State) (mode n : Nat) : Nat := airtimeUs mode (fld s Reg.RAD_DET_TX_PRE) (n + 2) false

/-- Send a frame on a chain as a dedicated event: the chain is held for the slot period, or for two in a double event
(R145). -/
def sendOn (s : State) (chain ch mode : Nat) (frame : List Byte) : State × Bool :=
  let us := dlAirtime s mode frame.length
  let t := bits (fieldLE frame 0 1) 3 0
  let (s1, ok) := txStart s chain (Config.txPower t)
    { ch := ch, wide := mode = 2, mode := mode, pre := fld s Reg.RAD_DET_TX_PRE, whiten := Config.txWhiten t, bytes := frame }
  if ok then (holdChain s1 chain (if 12000 < us then 25000 else 12500), true) else (s1, false)

/-- An image window that runs in this slot period holds the chain (R328). -/
def windowHolds (s : State) (chain : Nat) : Bool :=
  s.upd.camps.any fun x => x.2.wins.any fun w => decide (w.chain = some chain ∧ w.sp ≤ curSp s ∧ curSp s < w.sp + w.blocks.length)

/-- The chain of a dedicated event: a free one, rather one that no image window holds. -/
def eventChain (s : State) : Option Nat := ([0, 1].find? fun c => chainFree s c && !windowHolds s c).or (pickChain s)

/-- Send a frame in a dedicated event on a free chain. -/
def sendDedicated (s : State) (ch mode : Nat) (frame : List Byte) : State × Bool :=
  match eventChain s with
  | some c => sendOn s c ch mode frame
  | none => (s, false)

/-- A frame of this length fits its event: 12.0 ms, or 24.5 ms in MODE 0 (R145). -/
def fitsEvent (s : State) (mode n : Nat) : Bool :=
  decide (dlAirtime s mode n ≤ if mode = 0 then 24500 else 12000)

/-- Elements from the front of a queue while the frame that carries them fits: those taken and those left. -/
def takeElems (fits : Nat → Bool) : Nat → List DlItem → List DlItem × List DlItem
  | _, [] => ([], [])
  | len, i :: r =>
    let n := len + 2 + i.val.length
    if fits n then let (a, b) := takeElems fits n r; (i :: a, b) else ([], i :: r)

/-- A broadcast frame of Tamin under the broadcast key (R162, R171); its counter is the next MAC_BCNT. -/
def bcFrame (s : State) (ftype : Nat) (fwd : Bool) (payload : List Byte) : List Byte :=
  let c := fld s Reg.MAC_BCNT_COUNT + 1
  let e := fld s Reg.MAC_KEY_CFG_BK_EPOCH
  let head := header ftype 3 (e % 2) 0 0 fwd ++ leBytes 4 c
  if ftype = 7 then seal2 (bcastKey s e) (segEui s) c head payload else seal6 (bcastKey s e) (segEui s) c head payload

/-- Start a broadcast key change: every ACTIVE entry is queued the BCAST_KEY element (R165, R171). -/
def startBcastRekey (s : State) (actDt : Nat) (ref : Option CmdRef) : State :=
  let ep := (fld s Reg.MAC_KEY_CFG_BK_EPOCH + 1) % 65536
  let v := leBytes 2 ep ++ leBytes 8 actDt ++ bcastKey s ep ++ [0, 0]
  let s1 := macUpd (useMaster s) fun m => { m with bcast := some { epoch := ep, actDt := actDt, ref := ref } }
  s.mac.fold.foldl (fun s x => if x.2.state = 3 then queueDl s x.1 { type := 0x13, val := v, kind := .plain } else s) s1

/-- MAC_BCNT takes the counter that a broadcast frame used, under the broadcast key; at 0xFFF0_0000 a broadcast rekey starts, with an ACT_DT that the
spec does not give (R154, R171). -/
def takeBcnt (s : State) : State :=
  let c := fld s Reg.MAC_BCNT_COUNT
  let n := (c + 1) % 2 ^ 32
  let s1 := setFld (useMaster s) Reg.MAC_BCNT_COUNT n
  let s2 := if c / 4096 < n / 4096 then jrn s1 (.counter 3 0 n) else s1
  if 0xFFF00000 ≤ n ∧ s.mac.bcast.isNone then
    setErr (drawFree (startBcastRekey s2 ((s.dt + freeVal s 32) % 2 ^ 56) none)) Reg.MAC_ERR_BCAST_REKEY
  else s2

/-- RELAY_FWD: an endpoint addressed by the frame has RELAYS above 0 (R176). -/
def anyRelayed (s : State) (p : Nat → FoldEntry → Bool) : Bool :=
  s.mac.fold.any fun x => decide (x.2.state ≠ 0 ∧ 0 < x.2.relays) && p x.1 x.2

/-- A broadcast frame with a payload of `n` bytes fits a dedicated event of 12.0 ms (R145). -/
def fitsBroadcast (s : State) (mode n : Nat) : Bool := decide (dlAirtime s mode (n + 14) ≤ 12000)

/-- Send a broadcast frame in a dedicated event on a chain, unless it is longer than the event allows. -/
def sendBroadcastOn (s : State) (chain : Option Nat) (ftype ch mode : Nat) (fwd : Bool) (payload : List Byte) : State × Bool :=
  match chain with
  | none => (s, false)
  | some c =>
    if !fitsBroadcast s mode payload.length then (s, false)
    else
      let (s1, ok) := sendOn s c ch mode (bcFrame s ftype fwd payload)
      if ok then (takeBcnt s1, true) else (s1, false)

/-- Send a broadcast frame in a dedicated event on a free chain. -/
def sendBroadcast (s : State) (ftype ch mode : Nat) (fwd : Bool) (payload : List Byte) : State × Bool :=
  sendBroadcastOn s (eventChain s) ftype ch mode fwd payload

/-- An acknowledgement is left to aggregation (R177). -/
def ackLater (s : State) (n fcnt : Nat) : State :=
  macUpd (updEnt s n fun e => { e with ackPend := 0x8000 + fcnt % 64 }) fun m => { m with
    acks := m.acks.filter (fun a => a ≠ n) ++ [n] }

/-- Take up to `k` pending acknowledgements: their 3-byte entries, and the state with them sent (R166, R177). -/
def takeAcks (s : State) (k : Nat) : List Byte × State :=
  let l := s.mac.acks.take k
  let b := l.flatMap fun n => leBytes 3 (n + (entAt s n).ackPend % 64 * 2 ^ 18)
  let s1 := l.foldl (fun s n => updEnt s n fun e => { e with ackPend := 0 }) s
  (b, countBy (macUpd s1 fun m => { m with acks := m.acks.drop k }) (Reg.MAC_CNT_COUNT 8) l.length)

end Sys2Proof.Machine
end

