-- ==== Sys2Proof/Machine/Time.lean ====
section
/-! DEFINITION. Time, calendar and alarms (chapter 03). -/

namespace Sys2Proof.Machine

def timeUpd (s : State) (f : TimeSt → TimeSt) : State := { s with time := f s.time }

/-! ### Calendar arithmetic (R102, R104) -/

def leapYear (y : Int) : Bool := decide (y % 4 = 0 ∧ (y % 100 ≠ 0 ∨ y % 400 = 0))

/-- days_in of R102. -/
def daysIn (y : Int) (m : Nat) : Nat :=
  if m = 2 then (if leapYear y then 29 else 28)
  else if m = 4 ∨ m = 6 ∨ m = 9 ∨ m = 11 then 30 else 31

/-- Days from 2000-01-01 to January 1 of a year. -/
def daysToYear (y : Int) : Int :=
  let k := y - 1
  365 * (y - 2000) + (k.fdiv 4 - k.fdiv 100 + k.fdiv 400) - (1999 / 4 - 1999 / 100 + 1999 / 400)

/-- days_before of R102: days from 2000-01-01 to (y, m, d). -/
def daysBefore (y : Int) (m d : Nat) : Int :=
  daysToYear y + (((List.range (m - 1)).map fun i => daysIn y (i + 1)).sum : Nat) + d - 1

/-- The loop of R102 that carries surplus days into the next months. -/
def carryDays : Nat → Int → Nat → Nat → Int × Nat × Nat
  | 0, y, m, d => (y, m, d)
  | fuel + 1, y, m, d =>
    if daysIn y m < d then
      if m = 12 then carryDays fuel (y + 1) 1 (d - daysIn y m) else carryDays fuel y (m + 1) (d - daysIn y m)
    else (y, m, d)

/-- Seconds from 2000-01-01T00:00:00 of a calendar value as written (R102). -/
def calSecs (c : Cal) : Int :=
  let (y, m) := if c.month = 0 then ((c.year : Int) - 1, 12) else if 13 ≤ c.month then ((c.year : Int) + 1, c.month - 12)
                else ((c.year : Int), c.month)
  let (y, m, d) := if c.day = 0 then
      (if m = 1 then (y - 1, 12, daysIn (y - 1) 12) else (y, m - 1, daysIn y (m - 1)))
    else (y, m, c.day)
  let (y, m, d) := carryDays 3 y m d
  daysBefore y m d * 86400 + c.hour * 3600 + c.min * 60 + c.sec

/-- Year of a day number: the one whose January 1 is the last not after it. -/
def yearOf (days : Int) : Int :=
  let y := 2000 + (if 0 ≤ days then days.fdiv 366 else days.fdiv 365 - 1)
  ((List.range 120).map fun (i : Nat) => y + (i : Int)).foldl (fun a k => if daysToYear k ≤ days then k else a) y

/-- Month of a day of the year, and the day of the month less one. -/
def monthOf (y : Int) : Nat → Nat → Nat → Nat × Nat
  | 0, m, d => (m, d)
  | fuel + 1, m, d => if m < 12 ∧ daysIn y m ≤ d then monthOf y fuel (m + 1) (d - daysIn y m) else (m, d)

/-- A calendar value with its weekday. -/
structure CalView where
  weekday : Nat
  year : Int
  month : Nat
  day : Nat
  hour : Nat
  min : Nat
  sec : Nat

/-- The calendar of a count of seconds from 2000-01-01T00:00:00 (R102). -/
def calOf (secs : Int) : CalView :=
  let days := secs.fdiv 86400
  let r := (secs - days * 86400).toNat
  let y := yearOf days
  let (m, d) := monthOf y 12 1 (days - daysToYear y).toNat
  { weekday := ((days + 6) % 7).toNat, year := y, month := m, day := d + 1, hour := r / 3600, min := r / 60 % 60, sec := r % 60 }

/-- Day number of a DST rule's day in a year (R104). -/
def ruleDay (y : Int) (month week weekday : Nat) : Int :=
  let first := daysBefore y month 1
  let off := ((weekday : Int) - (first + 6)) % 7
  let d := first + off + 7 * ((week : Int) - 1)
  if week = 5 ∧ first + daysIn y month ≤ d then d - 7 else d

/-- A DST rule as its register word holds it. -/
structure DstRule where
  en : Bool
  hour : Nat
  weekday : Nat
  week : Nat
  month : Nat

def dstRule (w : Nat) : DstRule :=
  { en := bit w 31, hour := bits w 20 16, weekday := bits w 10 8, week := bits w 6 4, month := bits w 3 0 }

/-- UTC seconds of a rule's transition in a year, `ofs` minutes being the local offset before it (R104). -/
def transition (r : DstRule) (y : Int) (ofs : Int) : Int :=
  ruleDay y r.month r.week r.weekday * 86400 + r.hour * 3600 - ofs * 60

/-- The last transition not after `t`, looking at the year of `t` and its neighbours. -/
def lastTransition (r : DstRule) (ofs t : Int) : Int :=
  let y := yearOf (t.fdiv 86400)
  [y - 1, y, y + 1].foldl (fun a k => let x := transition r k ofs; if x ≤ t ∧ a < x then x else a) (-(2 : Int) ^ 62)

/-- DST is in force at a UTC second (R104). -/
def dstInForce (s : State) (t : Int) : Bool :=
  let a := dstRule (reg s Reg.TIM_DST_START_EN.off).toNat
  let b := dstRule (reg s Reg.TIM_DST_END_EN.off).toNat
  let ofs := sfld s Reg.TIM_UTC_OFS_OFS_MIN
  let sh : Int := fld s Reg.TIM_UTC_OFS_DST_SHIFT
  a.en && b.en && decide (lastTransition b (ofs + sh) t < lastTransition a ofs t)

/-- Local seconds of a UTC second (R104). -/
def localSecs (s : State) (t : Int) : Int :=
  let sh : Int := if dstInForce s t then fld s Reg.TIM_UTC_OFS_DST_SHIFT else 0
  t + (sfld s Reg.TIM_UTC_OFS_OFS_MIN + sh) * 60

/-- The date and time words of a calendar value (R113); YEAR is shown modulo 4,096 (R100, log entry 135). -/
def dateWord (c : CalView) : Nat := c.weekday * 2 ^ 28 + (c.year % 4096).toNat * 2 ^ 16 + c.month * 256 + c.day
def timeWord (c : CalView) : Nat := c.hour * 65536 + c.min * 256 + c.sec

/-- The calendar the date and time registers show: the staged value normalised, or the present UTC (R100, R101). -/
def shownCal (s : State) : CalView :=
  match s.time.staged with
  | some c => calOf (calSecs c)
  | none => calOf (dtSec s.dt)

/-- TIM_CAL_DATE as read (R101). -/
def calDateWord (s : State) : Nat := dateWord (shownCal s) + 2 ^ 31 * b2n s.time.staged.isSome

/-! ### Boundaries of DT (R24, R92) -/

/-- The present instant: elapsed time and DT. -/
def nowAt (s : State) : Nat × Nat := (s.el, s.dt)

/-- DT has just come to a unit at which `idx` takes a new value. -/
def crossedNow (s : State) (idx : Nat → Nat) : Bool :=
  decide (s.time.since ≤ s.dt) && (decide (s.time.since = 0) || decide (idx (s.time.since - 1) ≠ idx s.dt))

/-- A DT second boundary. -/
def atSecond (s : State) : Bool := crossedNow s dtSec

/-- The last second boundary whose ±100 ms window has closed at a DT, if any (R89, R92). -/
def lastWindow (dt : Nat) : Nat := (dt * 10 - 65536) / 655360

/-! ### Quality (R88, R89, R98) -/

def qual (s : State) : Nat := fld s Reg.TIM_STAT_QUAL

/-- Change QUAL, with its QUALITY record (R88, R112). `after` names the command that caused it. -/
def setQual (s : State) (q : Nat) (after : Option Nat) : State :=
  let old := qual s
  if old = q then s
  else
    let s1 := timeUpd (setFld s Reg.TIM_STAT_QUAL q) fun t => { t with
      rtcValid := t.rtcValid || q ≠ 0
      leftLocked := if old = 4 then some s.el else t.leftLocked }
    emitAt s1 s1.dt 0x0202 (leBytes 1 old ++ leBytes 1 q) none 0 after.toList

/-- HOLD_AGE: whole seconds since QUAL last left LOCKED, saturating (R89). -/
def holdAge (s : State) : Nat :=
  match s.time.leftLocked with
  | some t => min ((s.el - t) / 65536) (2 ^ 20 - 1)
  | none => 0

/-- The selected source is lost (R89, R90). -/
def sourceLost (s : State) : State :=
  let s1 := setErr s Reg.TIM_ERR_SRC_LOST
  if qual s = 4 then setQual s1 3 none else s1

/-- TIM_CTRL.SRC, values 4 to 7 acting as 0 (R90). -/
def timSrc (s : State) : Nat := let v := fld s Reg.TIM_CTRL_SRC; if 4 ≤ v then 0 else v

/-- A write of TIM_CTRL (R90). Leap flags taken from a PTP source stay in force (log entry 133). -/
def timCtrlWrite (s : State) (v : Nat) : State :=
  let old := fld s Reg.TIM_CTRL_SRC
  let s1 := [Reg.TIM_CTRL_PPS_OUT_EN, Reg.TIM_CTRL_PPS_IN_EDGE, Reg.TIM_CTRL_PPS_WIDTH, Reg.TIM_CTRL_PTP_PORT,
    Reg.TIM_CTRL_SRC].foldl (fun s f => setFld s f (bits v f.hi f.lo)) s
  if bits v 2 0 = old then s1
  else
    let s2 := timeUpd s1 fun t => { t with lockRun := 0, ppsMissing := 0, ptpLost := false, ppsLost := false, onAlt := false,
                                           lastSync := s.el, ppsLastSec := dtSec s.dt, servoStep := none, slewLeft := 0 }
    if qual s = 4 then sourceLost s2 else s2

def execTimSrcWrite (v : Word) (s : State) : Host.Outcome State Fault Refusal := .next (timCtrlWrite s v.toNat)

/-! ### Alarms (R106-R108) -/

/-- The value of alarm n. -/
def alarmValue (s : State) (n : Nat) : Nat :=
  dtOf (fld s (Reg.TIM_ALM_LO_SEC n) + fld s (Reg.TIM_ALM_HI_SEC n) * 2 ^ 32) (fld s (Reg.TIM_ALM_HI_FRAC n))

/-- Fire alarm n (R106). -/
def fireAlarm (s : State) (n : Nat) (stepped : Bool) (after : Option Nat) : State :=
  let a := alarmValue s n
  let s1 := setFld (setFlag (setFld s (Reg.TIM_ALM_CTRL_FIRED n) 1) (Reg.TIM_ALM_CTRL_STEPPED n) stepped) (Reg.TIM_ALM_CTRL_ARMED n) 0
  emitAt s1 s1.dt 0x0200 (leBytes 1 n ++ leBytes 1 (b2n stepped) ++ List.replicate 6 0 ++ leBytes 8 a) none 0 after.toList

/-- Alarm n is armed and DT has crossed its value since its crossings were last judged. -/
def alarmDue (s : State) (n : Nat) : Bool :=
  flag s (Reg.TIM_ALM_CTRL_ARMED n) && decide (s.time.almSeen.get n 0 < alarmValue s n) && decide (alarmValue s n ≤ s.dt)

def execAlarm (n : Fin 8) (s : State) : Host.Outcome State Fault Refusal :=
  .next (if alarmDue s n then fireAlarm s n false none else s)

/-- A write of 1 to ARMED (R108). -/
def armAlarm (s : State) (n : Nat) : State :=
  let past := decide (alarmValue s n ≤ s.dt)
  let s1 := setFlag (setFld s (Reg.TIM_ALM_CTRL_ARMED n) 1) (Reg.TIM_ALM_CTRL_PAST n) past
  let s2 := if flag s (Reg.TIM_ALM_CTRL_ARMED n) then s1
            else timeUpd s1 fun t => { t with almSeen := t.almSeen.set n s.dt 0 }
  if past then setErr s2 Reg.TIM_ERR_ALM_PAST else s2

def execAlarmArm (n : Fin 8) (s : State) : Host.Outcome State Fault Refusal := .next (armAlarm s n)

/-! ### Periodic wakes (R109) -/

/-- A write of EN of wake n from 0 to 1. -/
def enableWake (s : State) (n : Nat) : State :=
  if flag s (Reg.TIM_WAKE_CTRL_EN n) then s
  else
    let p := fld s (Reg.TIM_WAKE_PERIOD_PERIOD n)
    timeUpd (setFld (setFld s (Reg.TIM_WAKE_CTRL_EN n) 1) (Reg.TIM_WAKE_CTRL_COUNT n) 0)
      fun t => { t with wakes := t.wakes.set n { last := s.el, period := p } {} }

def execWakeEnable (n : Fin 4) (s : State) : Host.Outcome State Fault Refusal := .next (enableWake s n)

/-- A wake fires each PERIOD / 1,024 s of elapsed time, which is PERIOD × 64 units. -/
def execWake (n : Fin 4) (s : State) : Host.Outcome State Fault Refusal :=
  let w := s.time.wakes.get n {}
  .next (
    if flag s (Reg.TIM_WAKE_CTRL_EN n) ∧ w.last + w.period * 64 ≤ s.el then
      let c := (fld s (Reg.TIM_WAKE_CTRL_COUNT n) + 1) % 65536
      let s1 := timeUpd (setFld s (Reg.TIM_WAKE_CTRL_COUNT n) c) fun t => { t with
        wakes := t.wakes.set n { last := w.last + w.period * 64, period := fld s (Reg.TIM_WAKE_PERIOD_PERIOD n) } {} }
      emit s1 0x0204 (leBytes 1 n ++ [0, 0, 0] ++ leBytes 2 c)
    else s)

/-! ### The step of DT (R98, R99, R106, R107, R112) -/

/-- Armed alarms that a forward step from `old` to `new` crosses, by value and then by number (R107). -/
def crossed (s : State) (old new : Nat) : List Nat :=
  ((List.range 8).filter fun n =>
    flag s (Reg.TIM_ALM_CTRL_ARMED n) && decide (old < alarmValue s n) && decide (alarmValue s n ≤ new)).sortBy
      fun a b => decide (alarmValue s a < alarmValue s b ∨ (alarmValue s a = alarmValue s b ∧ a ≤ b))

/-- PPS windows after a step of DT: those before the new time are over, but for an edge that counted in the one that is open (R89). -/
def rebasePps (t : TimeSt) (new : Nat) : TimeSt :=
  let w := lastWindow new
  if t.ppsLastSec = w + 1 ∧ (w + 1) * 655360 ≤ new * 10 + 65536 then t else { t with ppsLastSec := w }

/-- DT steps to `goal`, which R5 holds in 56 bits: STEP, then QUALITY for a host step while SRC is 0, then the alarms (R98, R107). -/
def stepClock (s : State) (goal : Nat) (byHost : Bool) (after : Option Nat) : State :=
  let old := s.dt
  let new := goal % 2 ^ 56
  let s1 := emitAt { s with dt := new, time := { rebasePps s.time new with since := new } } new 0x0201 (leBytes 8 old ++ leBytes 8 new) none 0 after.toList
  let s2 := if byHost ∧ timSrc s = 0 then setQual s1 2 after else s1
  let s3 := (crossed s2 old new).foldl (fun s n => fireAlarm s n true after) s2
  timeUpd s3 fun t => { t with almSeen := (List.range 8).foldl (fun m n => m.set n new 0) t.almSeen }

/-! ### Discipline (R89-R92) -/

/-- A measured offset in ns (source less DT): it is slewed or stepped, and counts toward LOCKED (R88, R91). A run of
good measurements is not broken by the loss of its source (log entry 131). -/
def measure (s : State) (off : Int) : State :=
  let small := decide (off.natAbs * 65536 < fld s Reg.TIM_SERVO_STEP_THR * 1000000000)
  let run := if off.natAbs ≤ 10000 then min (s.time.lockRun + 1) 16 else 0
  let s1 := timeUpd s fun t =>
    if small then { t with slewLeft := off, servoStep := none, lockRun := run }
    else { t with servoStep := some off, slewLeft := 0, lockRun := run }
  if run = 16 then setQual s1 4 none else s1

/-- The network port whose PTP messages are accepted: the alternate one while the source on PTP_PORT is lost and ALT_EN is 1 (R90,
R462). -/
def ptpPort (s : State) : Nat :=
  if s.time.onAlt && flag s Reg.FED_CTRL_ALT_EN then fld s Reg.FED_CTRL_ALT_PORT else fld s Reg.TIM_CTRL_PTP_PORT

/-- The host's leap schedule in TIM_LEAP: both flags set act as neither (R93, R113). -/
def hostLeap (s : State) : Option Leap :=
  let i := flag s Reg.TIM_LEAP_INSERT
  let d := flag s Reg.TIM_LEAP_DELETE
  if i = d then none else some { insert := i, day := fld s Reg.TIM_LEAP_DAY }

/-- The host's schedule and the PTP flags disagree on a day or a direction (R94). -/
def leapConflict (s : State) : State :=
  if (hostLeap s).isSome ∧ s.time.ptpLeap.isSome ∧ hostLeap s ≠ s.time.ptpLeap then setErr s Reg.TIM_ERR_LEAP_CONFLICT else s

/-- A Sync is accepted: PTP is selected on a port that is slave-capable, in a domain and at an interval that the module supports
(R90, R462, log entry 136). -/
def syncTaken (s : State) (port : Nat) (m : SyncMsg) : Bool :=
  decide ((timSrc s = 1 ∨ timSrc s = 2) ∧ port = ptpPort s ∧ m.domain ≤ 127 ∧ -7 ≤ m.logInterval ∧ m.logInterval ≤ 0) &&
    decide (bits (fld s Reg.FED_CFG_PTP_ROLE) (2 * port + 1) (2 * port) = 1)

/-- Source less DT in ns, from DT less source as a timestamp of 8 ns resolution gives it, cut off (R90, R516, log entry 136). -/
def stamped (late : Int) : Int := -(late / 8 * 8)

/-- The offset of a Sync in ns: PTP time is TAI, and UTC is currentUtcOffset seconds behind it (R90). -/
def syncOffset (m : SyncMsg) : Int := stamped (m.utcOffset * 1000000000 - m.taiNs)

/-- A PTP Sync on a port (R89-R91, R94). With SRC 2 it sets the time of day: one that is at least STEP_THR off steps DT by its whole
offset, and a smaller offset is left to the PPS edges (log entry 146). -/
def execPtpSync (port : Fin 4) (m : SyncMsg) (leap : Option LeapNotice) (s : State) : Host.Outcome State Fault Refusal :=
  .next (
    if syncTaken s port.val m then
      let s1 := leapConflict (timeUpd s fun t => { t with
        lastSync := s.el, ptpLost := false, onAlt := t.onAlt && flag s Reg.FED_CTRL_ALT_EN
        ptpLeap := leap.map fun n => { insert := n.insert, day := n.day } })
      if timSrc s = 2 ∧ (syncOffset m).natAbs * 65536 < fld s Reg.TIM_SERVO_STEP_THR * 1000000000 then s1 else measure s1 (syncOffset m)
    else s)

/-- An edge on PPS_IN; one of the selected direction counts within ±100 ms (R92, R113). One that comes `ns` after DT's boundary says
that DT is ahead by as much. -/
def execPpsInEdge (e : PpsEdge) (s : State) : Host.Outcome State Fault Refusal :=
  .next (
    if (timSrc s = 2 ∨ timSrc s = 3) ∧ e.ns.natAbs ≤ 100000000 ∧ e.rising = !flag s Reg.TIM_CTRL_PPS_IN_EDGE then
      measure (timeUpd s fun t => { t with ppsMissing := 0, ppsLost := false, ppsLastSec := (s.dt + 32768) / 65536 }) (stamped e.ns)
    else s)

/-- No Sync for 4 s (R89); PTP then comes from ALT_PORT when ALT_EN is 1 (R462). -/
def execPtpSourceLost (s : State) : Host.Outcome State Fault Refusal :=
  .next (
    if (timSrc s = 1 ∨ timSrc s = 2) ∧ !s.time.ptpLost ∧ passedSec s s.time.lastSync 4 then
      sourceLost (timeUpd s fun t => { t with ptpLost := true, onAlt := true })
    else s)

/-- The window of a second boundary closes without an edge; the third in a row is a loss (R89). -/
def execPpsWindowClose (s : State) : Host.Outcome State Fault Refusal :=
  let k := lastWindow s.dt
  .next (
    if (timSrc s = 2 ∨ timSrc s = 3) ∧ 65536 ≤ s.dt * 10 ∧ s.time.ppsLastSec < k then
      let m := s.time.ppsMissing + 1
      let s1 := timeUpd s fun t => { t with ppsMissing := m, ppsLastSec := k }
      if 3 ≤ m ∧ !s.time.ppsLost then sourceLost (timeUpd s1 fun t => { t with ppsLost := true }) else s1
    else s)

/-- HOLDOVER has lasted 2,000 s (R88). -/
def execHoldoverExpiry (s : State) : Host.Outcome State Fault Refusal :=
  .next (
    match s.time.leftLocked with
    | some t => if qual s = 3 ∧ passedSec s t 2000 then setQual s 2 none else s
    | none => s)

/-! ### Leap seconds (R93, R94) -/

/-- The schedule that rules: the host's over the PTP flags (R94), also one whose DAY ends no month, which slews nothing (log entry
147). -/
def leapPlan (s : State) : Option Leap :=
  match hostLeap s with
  | some l => some l
  | none => s.time.ptpLeap

/-- DAY is the last day of a month (R93). -/
def lastOfMonth (day : Nat) : Bool := decide ((calOf ((day + 1) * 86400)).day = 1)

/-- S of R93, and the DT at which the slew starts. -/
def leapEnd (l : Leap) : Nat := (l.day + 1) * 86400 * 65536
def leapStart (l : Leap) : Nat := leapEnd l - (if l.insert then 999 else 1001) * 65536

/-- DT reaches the start of the slew. -/
def execLeapSlewStart (s : State) : Host.Outcome State Fault Refusal :=
  .next (
    match leapPlan s, s.time.leap with
    | some l, none =>
      if lastOfMonth l.day ∧ leapStart l ≤ s.dt ∧ s.dt < leapEnd l then
        timeUpd (setFld s Reg.TIM_LEAP_ACTIVE 1) fun t => { t with leap := some l, leapAcc := 0 }
      else s
    | _, _ => s)

/-- DT reaches S: the slew ends (R93). TIM_LEAP keeps what the host wrote (log entry 132). -/
def execLeap (s : State) : Host.Outcome State Fault Refusal :=
  .next (
    match s.time.leap with
    | some l =>
      if leapEnd l ≤ s.dt then
        emit (timeUpd (setFld s Reg.TIM_LEAP_ACTIVE 0) fun t => { t with leap := none, leapAcc := 0 }) 0x0203
          (leBytes 1 (if l.insert then 1 else 2) ++ [0, 0, 0] ++ leBytes 4 l.day)
      else s
    | none => s)

/-! ### PPS_OUT (R92) -/

/-- PPS_WIDTH in ms: 0 acts as 1, above 1,000 as 1,000. -/
def ppsWidth (s : State) : Nat := max 1 (min 1000 (fld s Reg.TIM_CTRL_PPS_WIDTH))

/-- PPS_OUT falls PPS_WIDTH ms after it rose, also when PPS_OUT_EN is cleared meanwhile (log entry 148), and rises once at each DT
second boundary. -/
def execPpsOutPulse (s : State) : Host.Outcome State Fault Refusal :=
  let t := s.time
  .next (
    if t.ppsOut ∧ passedMs s t.ppsRise (ppsWidth s) then
      drivePad (timeUpd s fun t => { t with ppsOut := false }) .ppsOut 0
    else if flag s Reg.TIM_CTRL_PPS_OUT_EN ∧ atSecond s ∧ t.ppsAt ≠ some (nowAt s) then
      drivePad (timeUpd s fun t => { t with ppsOut := true, ppsRise := s.el, ppsAt := some (nowAt s) }) .ppsOut 1
    else s)

/-! ### Reading and setting (R96, R97, R100, R101) -/

/-- The rest of DT is latched (R96). -/
def latchSec (s : State) : State := setFld (setFld s Reg.TIM_SEC_HI_SEC (dtSec s.dt / 2 ^ 32)) Reg.TIM_FRAC_FRAC (dtFrac s.dt)

/-- A read of TIM_SEC_LO latches the rest of DT (R96). -/
def secLoRead (s : State) : State :=
  let s1 := latchSec s
  { s1 with host := { s1.host with readData := dtSec s.dt % 2 ^ 32 } }

def execTimSecLoRead (s : State) : Host.Outcome State Fault Refusal := .next (secLoRead s)

/-- Latch the UTC time and the local date and time (R100). -/
def latchCal (s : State) : State :=
  let t : Int := dtSec s.dt
  let l := calOf (localSecs s t)
  setReg (setReg (setReg s Reg.TIM_CAL_TIME_SEC.off (BitVec.ofNat 32 (timeWord (shownCal s))))
    Reg.TIM_LOC_DATE_DAY.off (BitVec.ofNat 32 (dateWord l)))
    Reg.TIM_LOC_TIME_SEC.off (BitVec.ofNat 32 (timeWord l + 2 ^ 31 * b2n (dstInForce s t)))

/-- A read of TIM_CAL_DATE (R100). -/
def calDateRead (s : State) : State :=
  let s1 := latchCal s
  { s1 with host := { s1.host with readData := calDateWord s } }

def execTimCalDateRead (s : State) : Host.Outcome State Fault Refusal := .next (calDateRead s)

/-- A register commit awaits its boundary. -/
def setBusy (s : State) : Bool := flag s Reg.TIM_COMMIT_PENDING

/-- The present UTC calendar as six fields. -/
def nowCal (s : State) : Cal :=
  let c := calOf (dtSec s.dt)
  { year := (c.year % 4096).toNat, month := c.month, day := c.day, hour := c.hour, min := c.min, sec := c.sec }

/-- A write to TIM_CAL_DATE or TIM_CAL_TIME (R97, R101). -/
def stageWrite (s : State) (time : Bool) (v : Nat) : State :=
  if setBusy s then setErr s Reg.TIM_ERR_SET_BUSY
  else
    let c := match s.time.staged with
      | some c => c
      | none => nowCal s
    let c' := if time then { c with hour := bits v 20 16, min := bits v 13 8, sec := bits v 5 0 }
              else { c with year := bits v 27 16, month := bits v 11 8, day := bits v 4 0 }
    timeUpd s fun t => { t with staged := some c' }

def execCalendarStageWrite (time : Bool) (v : Word) (s : State) : Host.Outcome State Fault Refusal :=
  .next (stageWrite s time v.toNat)

/-- A write of TIM_COMMIT.MODE (R97). -/
def commitWrite (s : State) (mode : Nat) : State :=
  if setBusy s then setErr s Reg.TIM_ERR_SET_BUSY
  else if mode = 1 ∨ mode = 2 ∨ mode = 7 then
    timeUpd (setFld s Reg.TIM_COMMIT_PENDING 1) fun t => { t with commitMode := mode }
  else s

def execTimCommitSet (s : State) : Host.Outcome State Fault Refusal := .next (commitWrite s 1)
def execTimCommitCalendar (s : State) : Host.Outcome State Fault Refusal := .next (commitWrite s 2)
def execTimCommitDiscard (s : State) : Host.Outcome State Fault Refusal := .next (commitWrite s 7)

/-- The staged value of a MODE 1 commit. -/
def stagedSet (s : State) : Nat :=
  dtOf (fld s Reg.TIM_SET_LO_SEC + fld s Reg.TIM_SET_HI_SEC * 2 ^ 32) (fld s Reg.TIM_SET_HI_FRAC)

/-- The last second of the calendar range of R103: 2399-12-31 23:59:59. -/
def lastCalSec : Int := daysBefore 2400 1 1 * 86400 - 1

/-! ### Opcodes (R111) -/

/-- Checks of a DST rule word at descriptor offset `o` (R105). -/
def ruleChks (c : Cmd) (o : Nat) : List Chk :=
  let r := dstRule (c.op o 4)
  let w := c.op o 4
  [rangeChk (decide (r.month < 1 ∨ 12 < r.month)) o, rangeChk (decide (r.week < 1 ∨ 5 < r.week)) o, rsvChk (bit w 7) o,
   rangeChk (decide (6 < r.weekday)) (o + 1), rsvChk (decide (bits w 15 11 ≠ 0)) (o + 1),
   rangeChk (decide (23 < r.hour)) (o + 2), rsvChk (decide (bits w 23 21 ≠ 0)) (o + 2), rsvChk (decide (bits w 30 24 ≠ 0)) (o + 3)]

def bodyTimeSet (s : State) (c : Cmd) : Work := do
  checkOps (opChks c [(16, 8)] [] ++ [dtChk c 16])
  stopIf (decide (qual s = 4)) (ansBadState 0x0001)
  pure (timeUpd s fun t => { t with ringSteps := t.ringSteps ++ [{ cmdSeq := c.seq, adjust := false, value := c.op 16 8 }] }, none)

def execTimeSet (sq : Fin 16) (s : State) : Host.Outcome State Fault Refusal := .next (runRing s sq 0x0200 bodyTimeSet)

/-- The DT that TIME_ADJUST reaches, if it lies in 0 to 2^56 - 1. -/
def adjusted (s : State) (off : Int) : Option Nat :=
  let v := (s.dt : Int) + off
  if 0 ≤ v ∧ v < 2 ^ 56 then some v.toNat else none

def bodyTimeAdjust (s : State) (c : Cmd) : Work := do
  let off := toSigned 64 (c.op 16 8)
  checkOps (opChks c [(16, 8)] [] ++ [rangeChk (adjusted s off).isNone 16])
  stopIf (decide (qual s = 4)) (ansBadState 0x0001)
  pure (timeUpd s fun t => { t with ringSteps := t.ringSteps ++ [{ cmdSeq := c.seq, adjust := true, value := off }] }, none)

def execTimeAdjust (sq : Fin 16) (s : State) : Host.Outcome State Fault Refusal := .next (runRing s sq 0x0201 bodyTimeAdjust)

def bodyLeapSchedule (s : State) (c : Cmd) : Work := do
  let day := bits (c.op 16 4) 16 0
  let kind := c.op 20 1
  let l : Leap := { insert := kind = 1, day := day }
  checkOps (opChks c [(16, 5)] [] ++
    [rangeChk (!lastOfMonth day) 16, rsvChk (decide (bits (c.op 16 4) 31 17 ≠ 0)) (if bits (c.op 16 4) 23 17 ≠ 0 then 18 else 19),
     rangeChk (decide (2 < kind)) 20])
  stopIf s.time.leap.isSome (ansBadState 0x0002)
  stopIf (decide (kind ≠ 0 ∧ leapStart l ≤ s.dt)) (ansBadState 0x0003)
  let s1 := setFlag (setFlag s Reg.TIM_LEAP_INSERT (decide (kind = 1))) Reg.TIM_LEAP_DELETE (decide (kind = 2))
  pure (leapConflict (if kind = 0 then s1 else setFld s1 Reg.TIM_LEAP_DAY day), some ansDone)

def execLeapSchedule (sq : Fin 16) (s : State) : Host.Outcome State Fault Refusal := .next (runRing s sq 0x0202 bodyLeapSchedule)

def bodyLocalRuleSet (s : State) (c : Cmd) : Work := do
  let ofs := toSigned 16 (c.op 16 2)
  checkOps (opChks c [(16, 3), (20, 8)] [] ++
    [rangeChk (decide (ofs < -1080 ∨ 1080 < ofs)) 16, rangeChk (decide (120 < c.op 18 1)) 18] ++ ruleChks c 20 ++ ruleChks c 24)
  pure (timeUpd s fun t => { t with rules := t.rules ++
    [{ cmdSeq := c.seq, ofs := c.op 16 2 + 65536 * c.op 18 1, start := c.op 20 4, stop := c.op 24 4 }] }, none)

def execLocalRuleSet (sq : Fin 16) (s : State) : Host.Outcome State Fault Refusal := .next (runRing s sq 0x0203 bodyLocalRuleSet)

/-- LOCAL_RULE_SETs that wait take effect together at the boundary (R99, R105). -/
def applyRules (s : State) : State :=
  s.time.rules.foldl (fun s r =>
    completeSeq (setReg (setReg (setReg s Reg.TIM_UTC_OFS_OFS_MIN.off (BitVec.ofNat 32 r.ofs))
      Reg.TIM_DST_START_EN.off (BitVec.ofNat 32 r.start)) Reg.TIM_DST_END_EN.off (BitVec.ofNat 32 r.stop)) r.cmdSeq ansDone)
    (timeUpd s fun t => { t with rules := [] })

end Sys2Proof.Machine
end

