-- ==== Sys2Proof/Machine/Tamin.lean ====
section
/-! DEFINITION. Tamin but for the uplinks: answers, polls, downlink events, beacons, maps, supervision and the opcodes of
group 0x04 (chapter 05). -/

namespace Sys2Proof.Machine

/-! ### T1 capacity (R142) -/

/-- The slot period nearest to the present one that has 32 bits. -/
def nearSp (s : State) (v : Nat) : Nat :=
  let d := (curSp s + 2 ^ 32 - v % 2 ^ 32) % 2 ^ 32
  if d < 2 ^ 31 then curSp s - d else curSp s + (2 ^ 32 - d)

/-- LAST_SP in full. -/
def fullSp (s : State) (e : FoldEntry) : Nat := nearSp s e.lastSp

/-- Slot periods between the events of a change's INTERVAL. -/
def ConnPend.p (c : ConnPend) : Nat := c.interval * 4 / 5

/-- Other T1 connections. -/
def t1Peers (s : State) (n : Nat) : List (Nat × FoldEntry) :=
  s.mac.fold.filter fun x => decide (x.1 ≠ n ∧ x.2.gen = 1 ∧ x.2.state ≠ 0 ∧ x.2.state ≠ 7 ∧ 0 < x.2.p)

/-- The pending change of an entry's INTERVAL. -/
def pendInterval (s : State) (n : Nat) : Option ConnPend := (epAt s n).conn.filter fun c => bit c.mask 2 && decide (0 < c.p)

/-- Other T1 connections as period and anchor residue, `none` where there is no anchor yet; one whose INTERVAL is to change counts as it
is and as it will be. -/
def t1Others (s : State) (n : Nat) : List (Nat × Option Nat) :=
  (t1Peers s n).flatMap fun x =>
    (x.2.p, if x.2.state = 1 ∨ x.2.state = 5 then none else some (fullSp s x.2 % x.2.p)) ::
      (pendInterval s x.1).toList.map fun c => (c.p, c.at'.map fun a => nearSp s a.2 % c.p)

/-- The sum of 1/p of the others, each at the shorter of its present and its coming period, and of a new period does not exceed 1. -/
def t1Fits (s : State) (n p : Nat) : Bool :=
  let ps := (t1Peers s n).map fun x => min x.2.p (((pendInterval s x.1).map ConnPend.p).getD x.2.p)
  let (a, b) := ps.foldl (fun (a, b) q => (a * q + b, b * q)) (1, p)
  decide (a ≤ b)

/-- A residue is a candidate for period p (R150). -/
def t1Candidate (s : State) (n p r : Nat) : Bool :=
  (t1Others s n).all fun x =>
    match x.2 with
    | some b => decide (r % Nat.gcd p x.1 ≠ b % Nat.gcd p x.1)
    | none => true

/-- Event k after LAST_EVT can be the first with a period of p: for T1, its slot period is a candidate (R142). -/
def connFits (s : State) (n p k : Nat) : Bool :=
  let e := entAt s n
  decide (e.gen ≠ 1) || t1Candidate s n p ((fullSp s e + k * e.p) % p)

/-- The event, counted from LAST_EVT, from which a change is to hold: the first that fits from two events ahead on. -/
def connAfter (s : State) (n p : Nat) : Option Nat :=
  let e := entAt s n
  let first := sinceLast e (curSp s) / max e.p 1 + 2
  ((List.range p).find? fun i => connFits s n p (first + i)).map (first + ·)

/-! ### Downlink elements (R164, R165, R182) -/

/-- The entry may be sent what its queue holds: it is JOINING or ACTIVE (R153). -/
def served (s : State) (n : Nat) : Bool := decide ((entAt s n).state = 2 ∨ (entAt s n).state = 3)

/-- An answer of the entry that could not be sent waits: REJOIN, which every entry is sent, CSKIP or a correction (R153, R158). -/
def answerWaits (s : State) (n : Nat) : Bool :=
  let x := epAt s n
  x.rejoin || served s n && (x.cskip || x.tcorr.isSome)

/-- The leaf on whose path `n` is the first relay, and for which elements or an answer wait (R158, R176). -/
def waitingLeaf (s : State) (n : Nat) : Option Nat :=
  (s.mac.fold.find? fun x =>
    let par := x.2.parent
    (served s x.1 && !(epAt s x.1).dlq.isEmpty || answerWaits s x.1) && decide (0 < x.2.relays) &&
      (decide (par = n) || (decide (x.2.relays = 2 ∧ (entAt s par).parent = n) && decide ((entAt s par).state = 3)))).map Prod.fst

/-- A downlink waits for the entry, or for a leaf behind it. -/
def dlWaiting (s : State) (n : Nat) : Bool := !(epAt s n).dlq.isEmpty || (waitingLeaf s n).isSome

/-- FLAGS of an answer in a STATUS element, the same byte as in a RESP (R164). -/
def statusFlags (s : State) (n : Nat) : Nat :=
  let x := epAt s n
  let e := entAt s n
  let active := decide (e.state = 3)
  b2n x.ack.isSome + 2 * b2n x.tcorr.isSome + 4 * b2n (active && (dlWaiting s n || e.mapStale)) + 8 * b2n (active && e.mapStale) +
    16 * b2n x.rejoin + 32 * b2n x.cskip

/-- The STATUS element of an entry (R164). -/
def statusElem (s : State) (n : Nat) : List Byte :=
  let x := epAt s n
  elem 0x17 (leBytes 1 (statusFlags s n) ++ leBytes 4 (x.ack.getD 0) ++ leBytes 2 (ofSigned 16 (x.tcorr.getD 0)))

/-- A pending REJOIN flag has been sent; an entry that was handed over is HANDED_OVER from then on (R158, R459). -/
def rejoinSent (s : State) (n : Nat) : State :=
  let x := epAt s n
  let s1 := setEp s n { x with rejoin := false, handTo := none }
  match x.handTo with
  | some m => if x.rejoin then setEnt s1 n { entAt s1 n with state := 7, homeModule := m } else setEp s1 n { epAt s1 n with handTo := x.handTo }
  | none => s1

/-- The STATUS element was sent: its content no longer waits. -/
def statusSent (s : State) (n : Nat) : State :=
  let x := epAt s n
  rejoinSent (setEp s n { x with ack := none, tcorr := none, cskip := false, tcorrSent := x.tcorrSent || x.tcorr.isSome }) n

/-- The STATUS element could not be sent: its acknowledgement goes to aggregation, and the rest waits for the next event in which
the endpoint listens (R158, R177). -/
def statusFailed (s : State) (n : Nat) : State :=
  match (epAt s n).ack with
  | some c => ackLater (setEp s n { epAt s n with ack := none }) n c
  | none => s

/-- The values of a CONN_SET over an entry, where MASK selects them. -/
def ConnPend.apply (p : ConnPend) (e : FoldEntry) : FoldEntry :=
  { e with feeder := if bit p.mask 0 then p.feeder else e.feeder, superv := if bit p.mask 1 then p.superv else e.superv,
           interval := if bit p.mask 2 then p.interval else e.interval, mapIdx := if bit p.mask 3 then p.mapIdx else e.mapIdx,
           listen := if bit p.mask 4 then p.listen else e.listen }

/-- The change of an entry that was sent and whose AT_EVT has come in slot period k, with AT_EVT and its slot period. -/
def connDue (s : State) (n k : Nat) : Option (ConnPend × Nat × Nat) :=
  (epAt s n).conn.bind fun c => c.at'.bind fun a => if (k + 2 ^ 32 - a.2) % 2 ^ 32 < 2 ^ 31 then some (c, a) else none

/-- The entry whose schedule holds in slot period k: from AT_EVT on, the values of a change that was sent (R165, R182). -/
def schedEnt (s : State) (n k : Nat) : FoldEntry :=
  let e := entAt s n
  match connDue s n k with
  | some (c, evt, sp) =>
    let e' := c.apply e
    { e' with lastSp := (sp + 2 ^ 32 - e'.p) % 2 ^ 32, lastEvt := (evt + 65535) % 65536 }
  | none => e

/-- The CONN_UPDATE of a pending change, for an AT_EVT at least two events ahead (R165). -/
def connElem (s : State) (n : Nat) (c : ConnPend) : List Byte :=
  let e := entAt s n
  let k := (connAfter s n c.p).getD (sinceLast e (curSp s) / max e.p 1 + 2)
  let evt := (e.lastEvt + k) % 65536
  let sp := (e.lastSp + k * e.p) % 2 ^ 32
  let m := mapAt s c.mapIdx
  leBytes 2 evt ++ leBytes 2 c.interval ++ leBytes 2 c.superv ++ leBytes 4 sp ++ leBytes 1 c.listen ++ leBytes 1 c.mapIdx ++
    leBytes 10 m

/-- Elements are about to be sent: a waiting CONN_UPDATE is written for its AT_EVT. -/
def prepare (s : State) (n : Nat) : State :=
  let x := epAt s n
  match x.conn with
  | some c => setEp s n { x with dlq := x.dlq.map fun i => if i.kind = .conn then { i with val := connElem s n c } else i }
  | none => s

/-- The first `k` elements of the queue were sent: attempts count, a pending change has the AT_EVT that its CONN_UPDATE named,
and LEVEL_CMD takes a level that is sent,
which counts in LEVELS_SENT once (R165, R191, R208). -/
def markSent (s : State) (n k : Nat) : State :=
  let x := epAt s n
  let sent := x.dlq.take k
  let conn := match sent.find? fun i => i.kind = .conn with
    | some i => x.conn.map fun c => { c with at' := some (fieldLE i.val 0 2, fieldLE i.val 6 4), tries := c.tries + 1 }
    | none => x.conn
  let s1 := setEp s n { x with conn := conn, dlq := (sent.map fun i => { i with attempts := i.attempts + 1 }) ++ x.dlq.drop k }
  let levels := sent.filter fun i => i.type = 0x15
  let s2 := countBy s1 (Reg.STR_CNT_COUNT 1) (levels.filter fun i => i.attempts = 0).length
  match levels.getLast? with
  | some i => updEnt s2 n fun e => { e with levelCmd := fieldLE i.val 0 2 }
  | none => s2

/-- The outcome of an element: `ok` acknowledged, else not acknowledged (R182, R183, R207). -/
def itemOutcome (s : State) (n : Nat) (ok : Bool) (i : DlItem) : State :=
  let r := b2n (!ok)
  match i.kind with
  | .app ref => emitOutcome s 0x0406 (leBytes 3 n ++ leBytes 1 r) (some ref) 0
  | .member (some ref) => emitOutcome s 0x0503 (leBytes 3 n ++ leBytes 1 r) (some ref) 0
  | .conn =>
    if ok then s
    else
      let ref := (epAt s n).conn.bind ConnPend.ref
      let s1 := setEp s n { epAt s n with conn := none }
      if ref.isSome then emitOutcome s1 0x0404 (leBytes 3 n ++ leBytes 1 1) ref 0 else s1
  | _ => s

/-- An accepted uplink acknowledges the elements sent before it. A REKEY has its own confirmation; a CONN_UPDATE that is acknowledged is
not sent again, and its change waits for the first uplink after AT_EVT (R182). -/
def ackItems (s : State) (n : Nat) : State :=
  let q := (epAt s n).dlq
  let own (i : DlItem) : Bool := decide (i.kind = .rekey)
  let done := q.filter fun i => decide (1 ≤ i.attempts) && !own i
  done.foldl (fun s i => itemOutcome s n true i)
    (setEp s n { epAt s n with dlq := q.filter fun i => !(decide (1 ≤ i.attempts) && !own i) })

/-- Elements that had three attempts without an acknowledgement fail, and so does a change whose CONN_UPDATE was sent three times. -/
def failItems (s : State) (n : Nat) : State :=
  let q := (epAt s n).dlq
  let dead (i : DlItem) : Bool :=
    decide (3 ≤ i.attempts ∧ i.kind ≠ .rekey) || decide (i.kind = .conn) && (epAt s n).conn.any fun c => decide (3 ≤ c.tries)
  (q.filter dead).foldl (fun s i => itemOutcome s n false i) (setEp s n { epAt s n with dlq := q.filter fun i => !dead i })

/-- Every element of an entry fails, when the entry is removed. -/
def dropItems (s : State) (n : Nat) : State :=
  (epAt s n).dlq.foldl (fun s i => itemOutcome s n false i) (setEp s n { epAt s n with dlq := [] })

/-! ### Dedicated downlink events (R145, R176) -/

/-- A downlink counter is left under the entry's key (R173). -/
def ctrLeft (s : State) (n : Nat) : Bool := decide ((entAt s n).dlFcnt < 0xFFFFFFFF)

/-- The entry may be sent unicast frames now: ACTIVE or JOINING, or an answer that carries REJOIN (R153), and a counter is left
(R173). -/
def mayUnicast (s : State) (n : Nat) : Bool :=
  (decide ((entAt s n).state = 2 ∨ (entAt s n).state = 3) || (epAt s n).rejoin) && ctrLeft s n

/-- The generation is enabled (R141). -/
def genOn (s : State) (g : Nat) : Bool :=
  flag s (if g = 1 then Reg.MAC_CTRL_T1_EN else if g = 2 then Reg.MAC_CTRL_T2_EN else Reg.MAC_CTRL_T3_EN)

/-- Bytes that a frame adds to its payload: header, DST, FCNT and MIC (R162). -/
def dlOver : Nat := 17

/-- A frame of elements for a leaf, nested in the RELAY_DOWN frames of its path of which `n` is the first relay: STATUS when an
answer waits, then as many elements as fit (R158, R176). -/
def sendLeaf (s0 : State) (n m ch mode : Nat) : State :=
  let s := prepare (failItems s0 m) m
  let q := (entAt s m).parent
  let two := q ≠ n
  let status := answerWaits s m
  let stat := if status then statusElem s m else []
  let fits (k : Nat) : Bool := fitsEvent s mode (k + dlOver * (if two then 3 else 2)) && served s m
  let (items, _) := takeElems fits stat.length (epAt s m).dlq
  if stat = [] ∧ items = [] ∨ !(ctrLeft s n && ctrLeft s m && ctrLeft s q) then s
  else
    let inner := dlFrame s m 5 (stat ++ items.flatMap fun i => elem i.type i.val)
    let mid := if two then dlFrame s q 6 inner else inner
    let (s1, ok) := sendDedicated s ch mode (dlFrame s n 6 mid)
    if ok then
      let s2 := takeDl (takeDl (markSent s1 m items.length) m) n
      let s3 := if two then takeDl s2 q else s2
      if status then statusSent s3 m else s3
    else s1

/-- Send what waits for a direct entry: STATUS first when `status`, then as many elements as fit; with nothing of its own to send,
the frame of a leaf behind it. An entry that is neither JOINING nor ACTIVE gets the STATUS element alone (R153). -/
def sendWaiting (s0 : State) (n ch mode : Nat) (status : Bool) : State :=
  let s := prepare (failItems s0 n) n
  let stat := if status then statusElem s n else []
  match (if served s n && (epAt s n).dlq.isEmpty && !status then waitingLeaf s n else none) with
  | some m => sendLeaf s n m ch mode
  | none =>
    let (items, _) := takeElems (fun k => fitsEvent s mode (k + dlOver) && served s n) stat.length (epAt s n).dlq
    if stat = [] ∧ items = [] ∨ !ctrLeft s n then s
    else
      let (s1, ok) := sendDedicated s ch mode (dlFrame s n 5 (stat ++ items.flatMap fun i => elem i.type i.val))
      if ok then
        let s2 := takeDl (markSent s1 n items.length) n
        if status then statusSent s2 n else s2
      else if status then statusFailed s1 n else s1

/-- The slot period of a channel's slots in which a time lies. -/
def slotIdx (gen ch t25 : Nat) : Nat := (t25 + 5000 - slotOfs gen ch) / 5000 - 1

/-- This instant is the slot start of a channel in slot period k (R143). -/
def slotStarts (s : State) (gen ch k : Nat) : Bool :=
  crossedNow s (fun t => (dt25 t + 5000 - slotOfs gen ch) / 5000) && decide (slotIdx gen ch (dt25 s.dt) = k ∧ slotOfs gen ch + k * 5000 ≤ dt25 s.dt)

/-- The slot start of a channel in slot period k has passed. -/
def slotPassed (s : State) (gen ch k : Nat) : Bool := decide (slotOfs gen ch + k * 5000 ≤ dt25 s.dt) && !slotStarts s gen ch k

/-- The nearest slot period of the channel, and the signed distance of the frame start from its slot start. -/
def nearestSlot (gen ch start : Nat) : Nat × Int :=
  let k := (start + 2500 - slotOfs gen ch) / 5000
  (k, (start : Int) - (k * 5000 + slotOfs gen ch : Nat))

/-- A T2 entry whose listening event was in the slot period before this one, with elements or an answer waiting (R146, R158). -/
def listenT2 (s : State) : Option (Nat × Nat × Nat) :=
  let k := curSp s
  s.mac.fold.findSome? fun (n, _) =>
    let e := schedEnt s n (k - 1)
    if e.gen = 2 ∧ genOn s 2 ∧ e.state = 3 ∧ e.relays = 0 ∧ e.listen ≠ 0 ∧ (epAt s n).listenSp ≠ k ∧ (dlWaiting s n || answerWaits s n) then
      match eventAt e (k - 1) with
      | some v => if v % e.listen = 0 ∧ slotStarts s 2 0 k then (hop s e v (k - 1)).map fun c => (n, c, e.mode) else none
      | none => none
    else none

/-- A dedicated downlink event begins at the slot start of its channel: one that was planned, or that of a listening T2 endpoint. A
plan whose slot start has passed is dropped. -/
def execDedicatedDownlink (s : State) : Host.Outcome State Fault Refusal :=
  let k := curSp s
  let gen (p : DlPlan) : Nat := (entAt s p.eph).gen
  .next (
    match s.mac.plans.find? fun p => slotStarts s (gen p) p.ch p.sp || slotPassed s (gen p) p.ch p.sp with
    | some p =>
      let s1 := macUpd s fun m => { m with plans := removeOne p m.plans }
      let st := gen p = 2 && (statusFlags s p.eph != 0)
      if slotPassed s (gen p) p.ch p.sp ∨ !mayUnicast s p.eph ∨ !onAir s then (if st then statusFailed s1 p.eph else s1)
      else sendWaiting s1 p.eph p.ch p.mode st
    | none =>
      if !onAir s then s
      else match listenT2 s with
        | some (n, c, mode) => sendWaiting (setEp s n { epAt s n with listenSp := k }) n c mode (answerWaits s n)
        | none => s)

/-! ### RESP (R144, R158, R164, R172) -/

/-- The RESP payload: FLAGS and the fields of the set flags. MAP_STALE goes with DL_PENDING, to an ACTIVE entry (R164). -/
def respPayload (s : State) (r : RespPend) : List Byte :=
  let e := entAt s r.eph
  let x := epAt s r.eph
  let stale := decide (e.state = 3) && e.mapStale
  let dl := decide (e.state = 3) && (dlWaiting s r.eph || e.mapStale)
  leBytes 1 (b2n r.ack + 2 * b2n r.tcorr.isSome + 4 * b2n dl + 8 * b2n stale + 16 * b2n x.rejoin + 32 * b2n x.cskip) ++
    (match r.tcorr with | some v => leBytes 2 (ofSigned 16 v) | none => []) ++ (if dl then leBytes 2 2 ++ leBytes 1 r.ch else []) ++
    (if stale then leBytes 1 e.mapIdx else [])

/-- A RESP cannot be sent: its acknowledgement goes to aggregation, its correction waits (R158). -/
def respLost (s : State) (r : RespPend) : State :=
  let s1 := if r.tcorr.isSome then setEp s r.eph { epAt s r.eph with tcorr := r.tcorr } else s
  if r.ack then ackLater s1 r.eph r.fcnt else s1

/-- A RESP was sent: its flags wait no longer, and DL_PENDING plans its event (R145, R158). -/
def respSent (s : State) (r : RespPend) (dl : Bool) : State :=
  let n := r.eph
  let s1 := takeDl (count1 s (Reg.MAC_CNT_COUNT 6)) n
  let x := epAt s1 n
  let s2 := rejoinSent (setEp s1 n { x with cskip := false, tcorr := none, tcorrSent := x.tcorrSent || r.tcorr.isSome }) n
  if dl then
    let sp := (nearestSlot 3 r.ch (r.at' - 3400)).1 + 2
    macUpd s2 fun m => { m with plans := m.plans ++ [{ eph := n, sp := sp, ch := r.ch, mode := (entAt s n).mode }] }
  else s2

/-- Send a RESP, or count it as refused (R144). -/
def sendResp (s : State) (r : RespPend) : State :=
  let e := entAt s r.eph
  let payload := respPayload s r
  let c := e.dlFcnt + 1
  let frame := seal6 (linkKey s e.eui e.keyEpoch) (segEui s) c
    (header 4 e.gen (e.keyEpoch % 2) r.evf 0 false ++ leBytes 2 c) payload
  let fail (s : State) : State := respLost (count1 s (Reg.MAC_CNT_COUNT 7)) r
  if !mayUnicast s r.eph then respLost s r
  else match pickChain s with
    | none => fail s
    | some a =>
      let (s1, ok) := txStart s a (Config.txPower 4)
        { ch := r.ch / 2 * 2, wide := true, mode := 2, pre := min (fld s Reg.RAD_DET_TX_PRE) 8, whiten := Config.txWhiten 4, why := .resp,
          bytes := frame }
      if ok then respSent s1 r (bit (fieldLE payload 0 1) 2) else fail s1

/-- A T3 entry in whose listening event's response window the module is, with elements or an answer waiting (R146, R158). The windows of
phase groups 3 to 7 lie in the slot period after their slot's (R143). -/
def listenT3 (s : State) : Option RespPend :=
  let now := dt25 s.dt
  let inSp (n k : Nat) : Option RespPend :=
    let e := schedEnt s n k
    if e.gen = 3 ∧ e.state = 3 ∧ e.relays = 0 ∧ e.listen ≠ 0 ∧ (epAt s n).listenSp ≠ k then
      match eventAt e k with
      | some v =>
        if v % e.listen = 0 then
          (hop s e v k).bind fun c =>
            let at' := k * 5000 + slotOfs 3 c + 3400
            if at' ≤ now ∧ now < at' + 600 then
              some { eph := n, ch := c, at' := at', evf := v % 16, ack := false, fcnt := 0, tcorr := (epAt s n).tcorr }
            else none
        else none
      | none => none
    else none
  if !genOn s 3 then none
  else s.mac.fold.findSome? fun (n, _) =>
    if dlWaiting s n || answerWaits s n then (inSp n (curSp s)).or (inSp n (curSp s - 1)) else none

/-- The slot period of the slot that a RESP answers in. -/
def RespPend.sp (r : RespPend) : Nat := (r.at' - 3400) / 5000

/-- A RESP falls due: one that answers an uplink, or one of a listening event. -/
def execResp (s : State) : Host.Outcome State Fault Refusal :=
  .next (
    match s.mac.resps.find? fun r => decide (r.at' ≤ dt25 s.dt) with
    | some r => sendResp (macUpd s fun m => { m with resps := removeOne r m.resps }) r
    | none =>
      match listenT3 s with
      | some r => if onAir s then sendResp (setEp s r.eph { epAt s r.eph with listenSp := r.sp }) r else s
      | none => s)

/-! ### T1 polls (R142) -/

/-- Send a frame on the RF24 port, which needs no admission (R129). -/
def sendRf24 (s : State) (frame : List Byte) : State :=
  send s (.air 2 (fld s Reg.MAC_T1_CHANNEL) { mode := 3 } (min (Config.txPower 5) (2 * sfld s Reg.RAD_RF24_PWR_MAX)) frame)

def rf24On (s : State) : Bool := onAir s && !radioBarred s && !flag s Reg.PWR_STAT_PF && flag s Reg.RAD_CTRL_RF24_EN && decide (domState s 7 = 2)

/-- A T1 event has been used in this slot period. -/
def t1Used (s : State) : Bool := s.mac.fold.any fun x => decide (x.2.gen = 1 ∧ (epAt s x.1).listenSp = curSp s)

/-- The T1 entry whose event falls in this slot period; at most one does, and the poll that carries a JOIN_ACCEPT is it where one is
due (R142, R150). -/
def pollDue (s : State) : Option (Nat × Nat) :=
  let k := curSp s
  if t1Used s || s.mac.joins.any fun x => x.2.any fun j => decide (j.mode = 3 ∧ j.sp = k) then none
  else s.mac.fold.findSome? fun (n, _) =>
    let e := schedEnt s n k
    if e.gen = 1 ∧ mayUnicast s n ∧ ¬(e.state = 2 ∧ sinceLast e k = 0) then (eventAt e k).map fun v => (n, v) else none

/-- At a T1 event the module sends the poll: STATUS, then elements as far as 127 octets allow. -/
def execT1Poll (s : State) : Host.Outcome State Fault Refusal :=
  .next (
    if rf24On s && flag s Reg.MAC_CTRL_T1_EN then
      match pollDue s with
      | some (n, v) =>
        let s0 := if (connDue s n (curSp s)).isNone then updEnt s n fun e => { e with lastSp := curSp s % 2 ^ 32, lastEvt := v } else s
        let s1 := prepare (failItems (setEp s0 n { epAt s0 n with listenSp := curSp s }) n) n
        let stat := statusElem s1 n
        let (items, _) := takeElems (fun k => decide (k + dlOver + 2 ≤ 127) && served s n) stat.length (epAt s1 n).dlq
        let s2 := sendRf24 s1 (dlFrame s1 n 5 (stat ++ items.flatMap fun i => elem i.type i.val))
        statusSent (takeDl (markSent s2 n items.length) n) n
      | none => s
    else s)

/-! ### Joins (R150, R183) -/

def moduleId (s : State) : Nat := if flag s Reg.FED_ID_VALID then fld s Reg.FED_ID_ID else 0xFFFF

/-- The value of a JOIN_ACCEPT element (R165). -/
def joinVal (s : State) (n : Nat) (j : JoinPlan) : List Byte :=
  let e := entAt s n
  let bk := fld s Reg.MAC_KEY_CFG_BK_EPOCH
  leBytes 4 j.jn ++ leBytes 3 n ++ leBytes 4 e.access ++ leBytes 2 e.interval ++ leBytes 2 e.superv ++
    leBytes 4 j.anchor ++ leBytes 1 e.listen ++ leBytes 1 e.mapIdx ++ leBytes 10 (mapAt s e.mapIdx) ++
    leBytes 2 (fld s Reg.MAC_GRID_MAP_VER) ++ bcastKey s bk ++ leBytes 2 bk ++ leBytes 2 (moduleId s)

/-- The JOIN_ACCEPT element. -/
def joinElem (s : State) (n : Nat) (j : JoinPlan) : List Byte := elem 0x10 (joinVal s n j)

/-- The joins in progress. -/
def joinList (s : State) : List (Nat × JoinPlan) := s.mac.joins.filterMap fun x => x.2.map fun j => (x.1, j)

/-- JOIN_DELAY seconds after the request the JOIN_ACCEPT is sent at the slot start of the request's channel, for T1 as a poll; one
whose slot start has passed is lost (R145, R150). -/
def execJoinAccept (s : State) : Host.Outcome State Fault Refusal :=
  let gen (n : Nat) : Nat := (entAt s n).gen
  .next (
    match (joinList s).find? fun x => !x.2.sent && (slotStarts s (gen x.1) x.2.ch x.2.sp || slotPassed s (gen x.1) x.2.ch x.2.sp) with
    | none => s
    | some (n, j) =>
      let s1 := macUpd s fun m => { m with joins := m.joins.set n (some { j with sent := true }) none }
      if slotPassed s (gen n) j.ch j.sp ∨ !onAir s ∨ !ctrLeft s n then s1
      else if j.mode = 3 then
        if rf24On s && !t1Used s then
          let s2 := setEp s1 n { epAt s1 n with listenSp := curSp s }
          takeDl (sendRf24 (useMaster s2) (dlFrame s2 n 5 (elem 0x17 (List.replicate 7 0) ++ joinElem s2 n j))) n
        else s1
      else
        let (s2, ok) := sendDedicated (useMaster s1) j.ch j.mode (dlFrame s1 n 5 (joinElem s1 n j))
        if ok then takeDl s2 n else s2)

/-- A join is over: its plan and its JOIN_ACCEPT go. -/
def dropJoin (s : State) (n : Nat) : State :=
  setEp (macUpd s fun m => { m with joins := m.joins.del n }) n
    { epAt s n with dlq := (epAt s n).dlq.filter fun i => decide (i.type ≠ 0x10) }

/-- Events 0 to 3 have passed without an accepted uplink (R150). -/
def execJoinFailed (s : State) : Host.Outcome State Fault Refusal :=
  .next (
    match (joinList s).find? fun x =>
      decide (((entAt s x.1).state = 2 ∨ (entAt s x.1).state = 6) ∧ x.2.anchor + 3 * (entAt s x.1).p + 1 < curSp s) with
    | none => s
    | some (n, j) =>
      let e := entAt s n
      let s1 := dropJoin s n
      let s2 := if j.former = 0 then freeEnt s1 n else setEnt s1 n { e with state := j.former }
      emit s2 0x0409 (leBytes 3 n ++ leBytes 1 j.former ++ List.replicate 4 0 ++ leBytes 8 e.eui))

/-! ### Supervision (R153, R159, R176, R296) -/

/-- A leaf becomes ORPHAN with its relay; a join of it that fails leaves it ORPHAN where it was ACTIVE before (R150, R176). -/
def orphan (s : State) (n : Nat) : State :=
  macUpd (setEnt s n { entAt s n with state := 6 }) fun m => { m with
    joins := m.joins.map fun x => if x.1 = n then (x.1, x.2.map fun (j : JoinPlan) => { j with former := if j.former = 3 then 6 else j.former }) else x }

/-- An entry becomes LOST: counted and recorded, or counted in its feeder's fold; a relay's leaves, those that join through it among them,
become ORPHAN. -/
def becomeLost (s : State) (n : Nat) : State :=
  let e := entAt s n
  let s1 := dropJoin (setEnt s n { e with state := 4 }) n
  let s2 := emit (count1 s1 (Reg.MAC_CNT_COUNT 9)) 0x0401 (leBytes 3 n ++ [0] ++ leBytes 4 e.lastRx)
  let s3 :=
    match (if e.type = 0 then foldLost s2 e.feeder else none) with
    | some t => setEp t n { epAt t n with foldedLost := true }
    | none => faultAt (setEp s2 n { epAt s2 n with foldedLost := false }) s2.dt 0x04 0x8401 false n e.feeder e.lastRx 1 0
  s3.mac.fold.foldl (fun s x =>
    if x.2.parent = n ∧ 0 < x.2.relays ∧ (x.2.state = 2 ∨ x.2.state = 3) then orphan s x.1 else s) s3

/-- Once per DT second every ACTIVE, JOINING and ORPHAN entry is checked. -/
def execEndpointLost (s : State) : Host.Outcome State Fault Refusal :=
  let now := dtSec s.dt
  .next (
    if s.mac.supSec = now then s
    else if !onAir s then macUpd s fun m => { m with supSec := now }
    else
      s.mac.fold.foldl (fun s x =>
        let e := entAt s x.1
        if (e.state = 2 ∨ e.state = 3 ∨ e.state = 6) ∧ e.superv ≤ 2 * ((now + 2 ^ 32 - e.lastRx % 2 ^ 32) % 2 ^ 32) then
          becomeLost s x.1
        else s) (macUpd s fun m => { m with supSec := now }))

/-! ### Rooster and windows (R166, R177-R179) -/

/-- TIME_OK (R179). -/
def timeOk (s : State) : Bool := qual s = 4 || (qual s = 3 && decide (holdAge s ≤ 2000))

/-- The beacon channel of a phase group. -/
def beaconCh (s : State) (g : Nat) : Nat := bits (fld s (Reg.MAC_ROOSTER_CH_CH (g / 4))) (8 * (g % 4) + 6) (8 * (g % 4))

/-- Channels of Tamin's own windows: those of the join map that carry a broadcast frame, the one with the least airtime in its dwell
window first (log entry 154). -/
def windowChans (s : State) : List Nat :=
  let room (c : Nat) : Option (Nat × Nat) :=
    ((profile s).bind fun p => txChannel s p c false false).map fun x => (if x.2.dwellMs = 0 then 0 else dwellUsed s c x.2.dwellWin, c)
  (((mapChans (mapAt s 0)).filterMap room).sortBy fun a b => decide (a.1 ≤ b.1)).map Prod.snd

/-- The channel of the i-th of Tamin's own windows of a beacon; the lowest of the join map when none may carry it. -/
def windowCh (s : State) (i : Nat) : Nat :=
  let l := windowChans s
  l.getD (i % max 1 l.length) ((mapChans (mapAt s 0)).headD 0)

/-- Bytes of a window in a beacon of slot period k (R166). -/
def winBytes (k : Nat) (w : Win) : List Byte :=
  leBytes 2 (min (w.sp - k) 65535) ++ leBytes 1 w.ch ++ leBytes 1 (w.mode + w.kind * 4) ++ leBytes 1 w.count ++ [0] ++ leBytes 2 w.id

/-- The four nearest windows of the 8 s after slot period k. -/
def nextWins (s : State) (k : Nat) : List Win :=
  ((s.mac.wins.filter fun w => decide (k < w.sp ∧ w.sp ≤ k + 640)).sortBy fun a b => decide (a.sp ≤ b.sp)).take 4

/-- A beacon is due in this slot period and has not been sent (R178). -/
def beaconDue (s : State) : Bool :=
  flag s Reg.MAC_CTRL_ROOSTER_EN && onAir s && decide (s.mac.beaconSec ≠ some (dtSec s.dt) ∧ curSp s = 80 * dtSec s.dt)

/-- The acknowledgements that one ACK_AGG carries: at most 40, as far as the frame fits its event (R145, R167). -/
def ackRoom (s : State) (mode : Nat) : Nat := ((List.range 41).filter fun n => n = 0 || fitsBroadcast s mode (1 + 3 * n)).length - 1

/-- The ACK_AGG windows that a beacon announces, at most `room`: slot periods for the acknowledgements beyond the 16 that the beacon
carries; a whole second of them where ACK_MAX ends before the acknowledgements of the next beacon can go out (R177). They follow each
other, each on a channel of its own. -/
def ackWindows (s : State) (k room : Nat) : List Win :=
  let n := (s.mac.acks.length - 16 + ackRoom s 1 - 1) / max 1 (ackRoom s 1)
  let count := if 8 * fld s Reg.MAC_TIMING_ACK_MAX < 88 + n then max 80 n else n
  let each := min 255 ((count + room - 1) / max 1 room)
  if count = 0 then []
  else (List.range room).map fun i => { sp := k + 8 + each * i, ch := windowCh s i, mode := 1, kind := 2, count := each, id := 0 }

/-- The MAP windows that a beacon announces, of three slot periods each: the maps that were sent fewer than three times, the nearest
ACT_DT first (R148). -/
def mapWindows (s : State) (k room : Nat) : List Win :=
  let due := (s.mac.mapPend.filter fun p => decide (p.sent < 3)).sortBy fun a b => decide (a.actDt ≤ b.actDt)
  ((due.take room).zip (List.range room)).map fun x =>
    { sp := k + 16 + 3 * x.2, ch := windowCh s (3 - x.2), mode := 1, kind := 4, count := 3, id := x.1.index }

/-- The module plans its own windows at a beacon, four with those that others have planned for the time after it; one is left to the
acknowledgements. -/
def planWins (s : State) (k : Nat) : State :=
  let left := 4 - (nextWins s k).length
  let m := mapWindows s k (left - 1)
  macUpd s fun x => { x with wins := x.wins ++ ackWindows s k (left - m.length) ++ m }

/-- The ROOSTER payload of second t (R166). -/
def roosterPayload (s : State) (t : Nat) : List Byte :=
  let k := 80 * t
  let g := t % 8
  let ab := (takeAcks s 16).1
  let ws := nextWins s k
  leBytes 8 (t * 65536 + g * 1024 / 10) ++ leBytes 2 (fld s Reg.MAC_GRID_GRID_EPOCH) ++ leBytes 2 (fld s Reg.MAC_GRID_MAP_VER) ++
    leBytes 2 (moduleId s) ++ leBytes 1 (qual s + 8 * b2n (timeOk s) + 16 * b2n (flag s Reg.MAC_CTRL_JOIN_EN)) ++
    leBytes 1 (ab.length / 3 + ws.length * 32) ++ leBytes 2 (min (holdAge s) 65535) ++ ab ++ ws.flatMap (winBytes k)

/-- The beacon of a DT second: on chain A, or B when A is refused, or skipped (R178). A beacon that is sent takes the acknowledgements it
carries; one that is skipped announced nothing, so the windows planned for it go. -/
def execRooster (s : State) : Host.Outcome State Fault Refusal :=
  let t := dtSec s.dt
  .next (
    if beaconDue s && slotStarts s 3 (t % 8) (80 * t) then
      let s0 := planWins (macUpd s fun m => { m with beaconSec := some t }) (80 * t)
      let frame := bcFrame s0 7 (anyRelayed s fun _ _ => true) (roosterPayload s0 t)
      let tryOn (s : State) (c : Nat) : State × Bool := if chainFree s c then sendOn s c (beaconCh s (t % 8)) 1 frame else (s, false)
      let sent (s : State) : State := takeBcnt (takeAcks s 16).2
      let (a, okA) := tryOn s0 0
      if okA then sent a
      else
        let (b, okB) := tryOn a 1
        if okB then sent b
        else count1 (macUpd b fun m => { m with wins := s.mac.wins }) (Reg.MAC_CNT_COUNT 15)
    else s)

/-- A window takes this slot period. -/
def Win.takes (w : Win) (k : Nat) : Bool := decide (w.sp ≤ k ∧ k < w.sp + w.count)

/-- Chains of this slot period that are kept for what R193 serves first: 1 before a commit window, 2 before image-block, map and
acknowledgement windows, 3 before level-vector events. -/
def keptChains (s : State) (rank : Nat) : Nat :=
  let k := curSp s
  let wins (p : Win → Bool) : Nat := (s.mac.wins.filter fun w => p w && w.takes k).length
  b2n (beaconDue s) + (if 2 ≤ rank then wins fun w => decide (w.kind = 1) else 0) +
    (if 3 ≤ rank then wins fun w => decide (w.kind = 3 ∨ w.kind = 4 ∨ w.kind = 2 ∧ s.mac.acks ≠ []) else 0)

/-- Chains that are left for dedicated events of a rank (R193). -/
def chainsLeft (s : State) (rank : Nat) : Nat := b2n (chainFree s 0) + b2n (chainFree s 1) - keptChains s rank

/-- A chain is left for a dedicated event of a rank. -/
def chainLeft (s : State) (rank : Nat) : Bool := decide (0 < chainsLeft s rank)

/-- Take a window of a KIND, for which `p` holds, at the slot start of one of its slot periods; its later slot periods stay, and windows
that were passed are dropped. -/
def takeWin (s : State) (kind : Nat) (p : Win → Bool) : State × Option Win :=
  let idx (w : Win) : Nat := slotIdx 3 w.ch (dt25 s.dt)
  let gone (w : Win) : Bool := decide (w.sp + w.count ≤ idx w) || decide (w.sp + w.count = idx w + 1) && slotPassed s 3 w.ch (idx w)
  let s1 := macUpd s fun m => { m with wins := m.wins.filter fun w => decide (w.kind ≠ kind) || !gone w }
  match s1.mac.wins.find? fun w => decide (w.kind = kind) && p w && w.takes (idx w) && slotStarts s 3 w.ch (idx w) with
  | some w =>
    let rest := w.sp + w.count - 1 - idx w
    (macUpd s1 fun m => { m with wins := m.wins.flatMap fun x =>
      if x = w then (if rest = 0 then [] else [{ w with sp := idx w + 1, count := rest }]) else [x] }, some w)
  | none => (s1, none)

/-- Send the pending acknowledgements that fit one ACK_AGG in a window; they stay pending when it is not sent (R167, R177). -/
def sendAcks (s : State) (w : Win) : State :=
  let n := ackRoom s w.mode
  let b := (takeAcks s n).1
  let q := sendBroadcast s 11 w.ch w.mode (anyRelayed s fun i _ => (s.mac.acks.take n).contains i) (leBytes 1 (b.length / 3) ++ b)
  if q.2 then (takeAcks q.1 n).2 else q.1

/-- Acknowledgements go out in an announced window, up to 40. -/
def execAckAgg (s : State) : Host.Outcome State Fault Refusal :=
  .next (
    if s.mac.acks.isEmpty || !onAir s || !chainLeft s 2 then s
    else
      match takeWin s 2 fun _ => true with
      | (s1, some w) => sendAcks s1 w
      | (s1, none) => s1)

/-- The new map goes out in an announced window (R148, R167). -/
def execMap (s : State) : Host.Outcome State Fault Refusal :=
  .next (
    if !chainLeft s 2 then s
    else
      match takeWin s 4 fun _ => true with
      | (s1, some w) =>
        match s1.mac.mapPend.find? fun p => p.index = w.id with
        | some p =>
          let fwd := anyRelayed s1 fun _ e => e.mapIdx = p.index
          let (s2, ok) := sendBroadcast s1 12 w.ch w.mode fwd
            (leBytes 1 p.index ++ [0] ++ leBytes 2 (fld s Reg.MAC_GRID_MAP_VER) ++ leBytes 8 p.actDt ++ leBytes 10 p.map)
          if ok then macUpd s2 fun m => { m with mapPend := m.mapPend.map fun q => if q = p then { q with sent := q.sent + 1 } else q }
          else s2
        | none => s1
      | (s1, none) => s1)

/-- At ACT_DT the new map takes effect (R148). -/
def execMapActive (s : State) : Host.Outcome State Fault Refusal :=
  .next (
    match s.mac.mapPend.find? fun p => decide (p.actDt ≤ s.dt) with
    | some p =>
      let v := (fld s Reg.MAC_GRID_MAP_VER + 1) % 65536
      let s1 := macUpd s fun m => { m with
        mapPend := removeOne p m.mapPend
        oldMaps := m.oldMaps.upd p.index [] fun l => { map := mapAt s p.index, until' := spFrom p.actDt, from' := s.el } :: l
        maps := m.maps.set p.index p.map 0 }
      emitOutcome (ckTables (setFld s1 Reg.MAC_GRID_MAP_VER v)) 0x0405 (leBytes 1 p.index ++ [0] ++ leBytes 2 v) p.ref 0
    | none => s)

/-- 3,600 s after ACT_DT the old map is no longer accepted (R148). -/
def execMapOldWindowEnd (s : State) : Host.Outcome State Fault Refusal :=
  .next (macUpd s fun m => { m with oldMaps :=
    (m.oldMaps.map fun x => (x.1, x.2.filter fun o => !passedSec s o.from' 3600)).filter fun x => !x.2.isEmpty })

/-- The Fold is checkpointed (R154). -/
def execFoldCheckpoint (s : State) : Host.Outcome State Fault Refusal :=
  .next (
    if domState s 2 ≠ 2 then s
    else if passedSec s s.mac.ckptAt (fld s Reg.MAC_CKPT_PERIOD) ∨ 786432 ≤ journalBytes s.mac.journal then checkpointFold s else s)

/-- At ACT_DT the new broadcast key takes effect (R171, R183). -/
def execBcastKeyActive (s : State) : Host.Outcome State Fault Refusal :=
  .next (
    match s.mac.bcast with
    | some b =>
      if b.actDt ≤ s.dt then
        let s1 := setFld (setFld s Reg.MAC_KEY_CFG_BK_EPOCH b.epoch) Reg.MAC_BCNT_COUNT 0
        let s2 := jrn (macUpd s1 fun m => { m with bcast := none }) (.counter 3 0 0)
        emitOutcome s2 0x0407 (List.replicate 4 0 ++ leBytes 2 b.epoch ++ leBytes 1 1) b.ref 0
      else s
    | none => s)

/-! ### Opcodes (R181, R182) -/

/-- An EPH operand: 18 bits in three bytes. -/
def ephChk (c : Cmd) (o : Nat) : Chk := rangeChk (decide (2 ^ 18 ≤ c.op o 3)) (o + 2)

def badInterval (v : Nat) : Bool := decide (v % 5 ≠ 0 ∨ v < 10)
def badSuperv (v : Nat) : Bool := decide (v < 1 ∨ 7200 < v)
def badFeeder (v : Nat) : Bool := decide (v = 6 ∨ 7 < v)
/-- A map that holds fewer than 16 channels. -/
def smallMap (m : Nat) : Bool := decide ((mapChans m).length < 16)

def bodyFoldAdmit (s : State) (c : Cmd) : Work := do
  let eui := c.op 16 8
  let gen := c.op 25 1
  let iv := c.op 28 2
  checkOps (opChks c [(16, 16)] [] ++
    [rangeChk (decide (3 < c.op 24 1)) 24, rangeChk (decide (gen < 1 ∨ 3 < gen)) 25, rangeChk (badFeeder (c.op 26 1)) 26,
     rangeChk (smallMap (mapAt s (c.op 27 1))) 27, rangeChk (badInterval iv) 28, rangeChk (badSuperv (c.op 30 2)) 30])
  stopIf (findEui s eui).isSome (ansBadState 0x0001)
  match freeEph s with
  | none => .error (.ansIn (setErr s Reg.MAC_ERR_FOLD_FULL) (ansNoSpace 0x0001))
  | some n =>
    stopIf (decide (gen = 1) && !(t1Fits s n (iv * 4 / 5) && (List.range (iv * 4 / 5)).any (t1Candidate s n (iv * 4 / 5))))
      (ansNoSpace 0x0003)
    pure (setEnt s n { eui := eui, state := 1, type := c.op 24 1, gen := gen, feeder := c.op 26 1, hostAdmit := true,
                       mapIdx := c.op 27 1, interval := iv, superv := c.op 30 2 }, some (ansDone n))

def execFoldAdmit (sq : Fin 16) (s : State) : Host.Outcome State Fault Refusal := .next (runRing s sq 0x0400 bodyFoldAdmit)

def bodyFoldRemove (s : State) (c : Cmd) : Work := do
  let n := c.op 16 3
  checkOps (opChks c [(16, 3)] [] ++ [ephChk c 16])
  stopIf (decide ((entAt s n).state = 0)) (ansBadState 0x0002)
  stopIf (s.mac.fold.any fun x => decide (x.2.parent = n ∧ x.1 ≠ n ∧ 0 < x.2.relays)) (ansBadState 0x0003)
  pure (causedBy s (freeEnt (dropItems s n) n) c.seq, some ansDone)

def execFoldRemove (sq : Fin 16) (s : State) : Host.Outcome State Fault Refusal := .next (runRing s sq 0x0401 bodyFoldRemove)

def bodyFoldRead (s : State) (c : Cmd) : Work := do
  let n := c.op 16 3
  let k := c.op 20 4
  checkOps (opChks c [(16, 3), (20, 4)] [(1, 128 * min k 4096)] ++
    [ephChk c 16, rangeChk (decide (foldSize < n + k)) 16, rangeChk (decide (k < 1 ∨ 4096 < k)) 20])
  let s1 ← writeBuf s c 0 ((List.range k).flatMap fun i => (entAt s (n + i)).bytes)
  pure (s1, some (ansDone k))

def execFoldRead (sq : Fin 16) (s : State) : Host.Outcome State Fault Refusal := .next (runRing s sq 0x0402 bodyFoldRead)

def bodyFoldFind (s : State) (c : Cmd) : Work := do
  checkOps (opChks c [(16, 8)] [])
  pure (s, some (ansDone ((findEui s (c.op 16 8)).getD 0xFFFFFFFF)))

def execFoldFind (sq : Fin 16) (s : State) : Host.Outcome State Fault Refusal := .next (runRing s sq 0x0403 bodyFoldFind)

def bodyConnSet (s : State) (c : Cmd) : Work := do
  let n := c.op 16 3
  let m := c.op 19 1
  let e := entAt s n
  checkOps (opChks c [(16, 11)] [] ++
    [ephChk c 16, rsvChk (decide (31 < m)) 19, rangeChk (bit m 0 && badFeeder (c.op 20 1)) 20,
     rangeChk (bit m 3 && smallMap (mapAt s (c.op 21 1))) 21, rangeChk (bit m 2 && badInterval (c.op 22 2)) 22,
     rangeChk (bit m 1 && badSuperv (c.op 24 2)) 24])
  stopIf (decide (e.state = 0)) (ansBadState 0x0002)
  stopIf (decide (e.state ≠ 3 ∧ 4 ≤ m)) (ansBadState 0x0005)
  stopIf (decide (4 ≤ m) && (epAt s n).conn.any fun p => p.ref.isSome) (ansBadState 0x0006)
  let iv := c.op 22 2 * 4 / 5
  stopIf (bit m 2 && decide (e.gen = 1) && !(t1Fits s n iv && (connAfter s n iv).isSome)) (ansNoSpace 0x0003)
  let p : ConnPend := { ref := some c.ref, mask := m, feeder := c.op 20 1, superv := if bit m 1 then c.op 24 2 else e.superv,
                        interval := if bit m 2 then c.op 22 2 else e.interval, mapIdx := if bit m 3 then c.op 21 1 else e.mapIdx,
                        listen := if bit m 4 then c.op 26 1 else e.listen }
  if m < 4 then pure (setEnt s n (p.apply e), some ansDone)
  else
    let x := epAt s n
    let s1 := setEp s n { x with conn := some p, dlq := x.dlq.filter fun i => i.kind ≠ .conn }
    pure (queueDl s1 n { type := 0x11, val := connElem s1 n p, kind := .conn }, some ansQueued)

def execConnSet (sq : Fin 16) (s : State) : Host.Outcome State Fault Refusal := .next (runRing s sq 0x0404 bodyConnSet)

def bodyMapSet (s : State) (c : Cmd) : Work := do
  let i := c.op 16 1
  let m := c.op 18 10
  let t := c.op 28 8
  checkOps (opChks c [(16, 1), (18, 18)] [] ++
    [rangeChk (smallMap m || (mapChans m).any fun k => !inBand s k false) 18, dtChk c 28])
  stopIf (decide (t < s.dt + 60 * 65536)) (ansBadState 0x0007)
  stopIf (s.mac.mapPend.any fun p => p.index = i) (ansBadState 0x0008)
  pure (macUpd s fun x => { x with mapPend := x.mapPend ++ [{ index := i, map := m, actDt := t, ref := some c.ref }] },
    some ansQueued)

def execMapSet (sq : Fin 16) (s : State) : Host.Outcome State Fault Refusal := .next (runRing s sq 0x0405 bodyMapSet)

/-- The element is one of DL_SEND. -/
def DlItem.isApp (i : DlItem) : Bool := match i.kind with | .app _ => true | _ => false

def bodyDlSend (s : State) (c : Cmd) : Work := do
  let n := c.op 16 3
  checkOps (opChks c [(16, 3)] [(0, 1)] ++ [ephChk c 16, rangeChk (decide (1 ≤ c.bufs ∧ 100 < c.bufLen 0)) 48])
  let b ← readBuf s c 0
  stopIf (decide ((entAt s n).state ≠ 3)) (ansBadState 0x0005)
  stopIf (decide (4 ≤ ((epAt s n).dlq.filter DlItem.isApp).length)) (ansNoSpace 0x0002)
  pure (queueDl s n { type := 0x7F, val := b, kind := .app c.ref }, some ansQueued)

def execDlSend (sq : Fin 16) (s : State) : Host.Outcome State Fault Refusal := .next (runRing s sq 0x0406 bodyDlSend)

def bodyRekey (s : State) (c : Cmd) : Work := do
  let n := c.op 16 3
  checkOps (opChks c [(16, 3)] [] ++ [ephChk c 16])
  stopIf (decide ((entAt s n).state ≠ 3)) (ansBadState 0x0005)
  stopIf (entAt s n).rekeyPend (ansBadState 0x0006)
  stopIf (decide ((entAt s n).keyEpoch = 65535)) (ansBadState 0x0009)
  pure (startRekey s n (some c.ref), some ansQueued)

def execRekey (sq : Fin 16) (s : State) : Host.Outcome State Fault Refusal := .next (runRing s sq 0x0407 bodyRekey)

def bodyBcastRekey (s : State) (c : Cmd) : Work := do
  checkOps (opChks c [(16, 8)] [] ++ [dtChk c 16])
  stopIf s.mac.bcast.isSome (ansBadState 0x000A)
  pure (startBcastRekey s (c.op 16 8) (some c.ref), some ansQueued)

def execBcastRekey (sq : Fin 16) (s : State) : Host.Outcome State Fault Refusal := .next (runRing s sq 0x0408 bodyBcastRekey)

end Sys2Proof.Machine
end

