-- ==== Sys2Proof/Machine/Basin.lean ====
section
/-! DEFINITION. Basin: samples, windows, the residual alarm, accumulators, intervals and reconciliation (chapter 09). -/

namespace Sys2Proof.Machine

def basUpd (s : State) (f : BasinSt → BasinSt) : State := { s with bas := f s.bas }
def chanAt (s : State) (n : Nat) : BasChan := s.bas.chans.get n {}
def updChan (s : State) (n : Nat) (f : BasChan → BasChan) : State := basUpd s fun b => { b with chans := b.chans.upd n {} f }
def fdrAt (s : State) (f : Nat) : Feeder := s.bas.feeders.get f {}
def updFdr (s : State) (f : Nat) (g : Feeder → Feeder) : State := basUpd s fun b => { b with feeders := b.feeders.upd f {} g }

/-- Change the open interval of a feeder. -/
def updIntv (s : State) (f : Nat) (g : OpenInterval → OpenInterval) : State :=
  updFdr s f fun x => { x with interval := x.interval.map g }

/-- The feeder is metered: EN of Basin and of the feeder, with MET on (R272). -/
def metered (s : State) (f : Nat) : Bool :=
  flag s Reg.BAS_CTRL_EN && flag s (Reg.BAS_FDR_CFG_EN f) && decide (domState s 10 = 2)

/-! ### Channels (R259-R263) -/

/-- A channel that is enabled and clocked (R261). -/
def chanOn (s : State) (n : Nat) : Bool :=
  flag s (Reg.BAS_CH_CFG_EN n) && bit (fld s Reg.BAS_CLK_EN) (fld s (Reg.BAS_CH_CFG_CLK_SEL n))

/-- A CHANNEL_FAULT event (R286). -/
def chanEvent (s : State) (n code : Nat) : State := emit s 0x0804 (leBytes 1 n ++ leBytes 1 code)

/-- A channel fault record (R294). -/
def chanFault (s : State) (n fcode : Nat) (clear : Bool) : State :=
  faultAt s s.dt 0x08 fcode clear 0x3FFFF (n / 7) n 1 0

/-- No transition for 1,024 clock periods: the channel is STUCK (R261). -/
def execChannelStuck (n : Fin 42) (s : State) : Host.Outcome State Fault Refusal :=
  .next (
    if chanOn s n.val ∧ !flag s (Reg.BAS_CH_CFG_FAULT n.val) then
      let s1 := setErr (count1 (setFlag s (Reg.BAS_CH_CFG_FAULT n.val) true) (Reg.BAS_CNT_COUNT 0)) Reg.BAS_ERR_CH_FAULT
      chanFault (chanEvent (updIntv s1 (n.val / 7) fun i => { i with chf := true }) n.val 0) n.val 0x8802 false
    else s)

/-- Transitions for 8,192 clock periods: a STUCK channel recovers. -/
def execChannelRecover (n : Fin 42) (s : State) : Host.Outcome State Fault Refusal :=
  .next (
    if chanOn s n.val ∧ flag s (Reg.BAS_CH_CFG_FAULT n.val) then
      chanFault (chanEvent (setFlag s (Reg.BAS_CH_CFG_FAULT n.val) false) n.val 2) n.val 0x8802 true
    else s)

/-- A STUCK channel whose EN or clock is off: the fault ends. -/
def execChannelDisabledWhileStuck (n : Fin 42) (s : State) : Host.Outcome State Fault Refusal :=
  .next (
    if domState s 10 = 2 ∧ !chanOn s n.val ∧ flag s (Reg.BAS_CH_CFG_FAULT n.val) then
      chanFault (chanEvent (setFlag s (Reg.BAS_CH_CFG_FAULT n.val) false) n.val 3) n.val 0x8802 true
    else s)

def fullCode : Int := 8388607

/-- The modulator clocks (R260): 1 while the clock runs, 0 while it is held low. -/
def driveClks (s : State) : State :=
  (List.range 4).foldl (fun s k =>
    drivePad s (.modClk k) (b2n (bit (fld s Reg.BAS_CLK_EN) k))) s

/-- A signed fraction of a binary64 value: `e` within ±1,024, of 2^24. -/
def smallPart (e : Int) (x : Nat) : Nat := b64.div (b64.mul (b64.ofInt (max (-1024) (min 1024 e))) x) (b64.ofInt 16777216)

/-- The value `m`/64 of a sample back from the newest of `l`: the cubic through four samples, and a free deviation of at most 2^-14 of
the largest of them (R263, R269; log entry 66). -/
def interp (m : Nat) (l : List Nat) : Nat :=
  let x := (m : Int)
  let w : List Int := [-(x - 64) * (x - 128) * (x - 192), 3 * x * (x - 128) * (x - 192), -(3 * x * (x - 64) * (x - 192)),
    x * (x - 64) * (x - 128)]
  let v := (List.range 4).map fun i => l.getD i 0
  let top := v.foldl (fun a y => b64.max a (b64.abs y)) 0
  b64.add (b64.div (((w.zip v).map fun y => b64.mul (b64.ofInt y.1) y.2).foldl b64.add 0) (b64.ofInt 1572864))
    (smallPart (Config.interpError m l) top)

/-- Where between two samples a crossing lies, as a fraction of a sample: that of the straight line, and a free deviation of at most
2^-14 (R267, R269; log entry 66). -/
def crossing (v0 v1 : Nat) : Nat :=
  b64.max 0 (b64.add (b64.div (b64.neg v0) (b64.sub v1 v0)) (smallPart (Config.crossingError v0 v1) (b64.ofInt 1)))

/-- The value of a delayed signal, its samples being newest first: whole samples exactly, the rest by the interpolator (R263). -/
def delayed (d : Nat) (l : List Nat) : Nat :=
  if d % 64 = 0 then l.getD (d / 64) 0 else interp (d % 64) (l.drop (d / 64))

/-- The code of a filter chain (R262): (2ρ − 1) × 8,388,607 for a steady density ρ, its rounding being open. -/
def filterCode (x : FilterIn) : Int :=
  match x with
  | .steady n k =>
    let a : Int := (2 * (n : Int) - k) * fullCode
    a / (k : Int) + (if a % (k : Int) = 0 then 0 else b2n (Config.roundUp a k))
  | .code c => c

/-- An over-range sample (R262). -/
def overRange (s : State) (n : Nat) : State :=
  let s1 := setErr (count1 (setFlag s (Reg.BAS_CH_CFG_OVR n) true) (Reg.BAS_CNT_COUNT 1)) Reg.BAS_ERR_CH_OVR
  let s2 := updIntv s1 (n / 7) fun i => { i with chf := true }
  if (chanAt s n).ovrSec = dtSec s.dt + 1 then s2
  else chanFault (chanEvent (updChan s2 n fun c => { c with ovrSec := dtSec s.dt + 1 }) n 1) n 0x8803 false

/-- One channel takes a code from its filter chain, which latches the edge that EDGE names (R260): its value (R263). -/
def chanSample (s : State) (n : Nat) (c : ChanIn) : State :=
  let code := filterCode (if flag s (Reg.BAS_CH_CFG_EDGE n) then c.falling else c.rising)
  let live := chanOn s n && !flag s (Reg.BAS_CH_CFG_FAULT n)
  let x := if live then max (-fullCode) (min fullCode code) else 0
  let s1 := if live ∧ x.natAbs = fullCode.natAbs then overRange s n else s
  let c := chanAt s1 n
  let g := b64.add (b64.ofInt 1) (b64.mul (b64.ofInt c.gppm) (dec 1 1000000))
  let v := b64.mul (b64.mul (b64.ofInt x) (b32.to b64 (fld s (Reg.BAS_CH_SCALE_SCALE n)))) g
  updChan s1 n fun c => { c with raw := (v :: c.raw).take 32 }

/-- The delayed value of a channel. -/
def chanVal (s : State) (n : Nat) : Nat := let c := chanAt s n; delayed c.delay c.raw

/-! ### Feeders (R267-R272) -/

/-- f_used in binary64: that of the last window, or F_NOM's before the first (R267). -/
def fNom (s : State) : Nat := b64.ofInt (if flag s Reg.BAS_CTRL_F_NOM then 60 else 50)
def fUsed (s : State) (f : Nat) : Nat := let x := (fdrAt s f).fUsed; if x = 0 then fNom s else x

/-- Phases of a feeder. -/
def phasesOf (s : State) (f : Nat) : List Nat := (List.range 3).filter fun p => bit (fld s (Reg.BAS_FDR_CFG_PHASES f)) p

/-- Sum of binary64 numbers in order. -/
def sum64 (l : List Nat) : Nat := l.foldl b64.add 0

/-- An accumulator increment in units of 2^-32, ties to even (R272). -/
def accUnits (x : Nat) : Nat :=
  let (n, k) := b64.toDyadic x
  let a := n.natAbs * 2 ^ 32
  let q := a / 2 ^ k
  let r := a % 2 ^ k
  if 2 * r < 2 ^ k then q else if 2 ^ k < 2 * r then q + 1 else q + q % 2

/-- Add to one accumulator. -/
def accAdd (acc : List Nat) (k x : Nat) : List Nat := acc.set k ((acc.getD k 0 + x) % 2 ^ 96)

/-- The energy of one sample of a phase (R272). -/
def accPhase (hist : List BasSample) (fu p : Nat) (acc : List Nat) : List Nat :=
  let nc := (b64.toIntAway (b64.div (b64.ofInt 8000) fu)).toNat
  let l := (hist.take nc).reverse
  let n64 := b64.ofInt nc
  let pa := b64.div (sum64 (l.map fun x => b64.mul (x.v.getD p 0) (x.i.getD p 0))) n64
  let qa := b64.div (sum64 (l.map fun x => b64.mul (x.v90.getD p 0) (x.i.getD p 0))) n64
  let unit x := accUnits (b64.div x (dec 288 10))
  let a1 := if b64.lt 0 pa then accAdd acc (6 * p) (unit pa) else acc
  let a2 := if b64.lt pa 0 then accAdd a1 (6 * p + 1) (unit (b64.neg pa)) else a1
  let quad := if b64.le 0 qa ∧ b64.le 0 pa then 2 else if b64.le 0 qa then 3 else if b64.lt pa 0 then 4 else 5
  accAdd a2 (6 * p + quad) (unit (b64.abs qa))

/-- ires of a sample (R268): phases outside PHASES count as 0. -/
def iresOf (ph : List Nat) (x : BasSample) : Nat :=
  b64.sub (sum64 (ph.map fun p => x.i.getD p 0)) x.n

/-- Root mean square. -/
def rms64 (l : List Nat) : Nat := b64.sqrt (b64.div (sum64 (l.map fun x => b64.mul x x)) (b64.ofInt l.length))

/-- The live phase of lowest number (R267): none of its windows has shown it below DEAD_V since it was last above. -/
def refPhase (s : State) (f : Nat) : Option Nat :=
  let dv := b64.div (b64.ofInt (fld s (Reg.BAS_FDR_CFG_DEAD_V f))) (b64.ofInt 10)
  (phasesOf s f).find? fun p =>
    match (fdrAt s f).vals with
    | none => true
    | some v => b64.le dv (v.ph.get p {}).vrms

/-- A frequency from cycles and an interpolated sample count. -/
def cycleFreq (cycles n : Nat) (f0 f1 : Nat) : Nat :=
  b64.div (b64.ofInt (cycles * 8000)) (b64.add (b64.sub (b64.ofInt n) f0) f1)

/-- A frequency that makes FREQ_VALID 1. -/
def freqOk (x : Nat) : Bool := b64.le (b64.ofInt 45) x && b64.le x (b64.ofInt 65)

/-- End a window of `n` samples after its last crossing or sample count (R267). The count of cycles goes on through windows of 1,600
samples. -/
def endWindow (s : State) (f : Nat) (freq : Option Nat) : State :=
  let x := fdrAt s f
  let w : WinDue := { feeder := f, freq := freq, samples := (x.hist.take x.wN).reverse }
  updFdr (basUpd s fun b => { b with winDue := b.winDue ++ [w] }) f fun x =>
    if x.fixed ∧ freq.isNone then { x with wN := 0, nfreq := none }
    else { x with wN := 0, frac := none, cycles := 0, fixed := freq.isNone, nfreq := none }

/-- A positive-going crossing between the latest two samples of the reference phase. -/
def zeroCross (x : Feeder) (p : Nat) : Option Nat :=
  match x.hist with
  | a :: b :: _ =>
    let v0 := b.v.getD p 0
    let v1 := a.v.getD p 0
    if b64.lt v0 0 ∧ b64.le 0 v1 then some (crossing v0 v1) else none
  | _ => none

/-- The first crossing of a reference phase: cycles, and a window that is not of 1,600 samples, begin with it. -/
def firstCross (y : Feeder) (p fr : Nat) : Feeder :=
  { y with cycN := 0, frac := some fr, crossPh := some p, cycles := 0, lastN := 0, lastFrac := fr, wN := if y.fixed then y.wN else 0 }

/-- Judge cycle and window ends with the sample just taken; a window holds the samples before the crossing that ends it. One whose
frequency is not valid goes on to 1,600 samples, and in a window of 1,600 samples each NCYC cycles give a frequency of their own. -/
def cycleJudge (s : State) (f : Nat) : State :=
  let x := fdrAt s f
  match (refPhase s f).bind fun p => (zeroCross x p).map fun fr => (p, fr) with
  | none => s
  | some (p, fr) =>
    if x.crossPh ≠ some p then updFdr s f fun y => firstCross y p fr
    else
      let cyc := (x.hist.drop 1).take x.cycN
      let s1 :=
        if x.cycN = 0 then s
        else basUpd s fun b => { b with cycDue := b.cycDue ++ [(f, rms64 (cyc.reverse.map (iresOf (phasesOf s f))))] }
      match x.frac with
      | none => updFdr s1 f fun y => firstCross y p fr
      | some f0 =>
        let n := if x.fixed then x.lastN + x.cycN else x.wN
        let k := x.cycles + 1
        let s2 := updFdr s1 f fun y => { y with cycN := 0, cycles := k, lastN := n, lastFrac := fr }
        let q := cycleFreq k n f0 fr
        if k < fld s (Reg.BAS_FDR_CFG_NCYC f) then s2
        else if x.fixed ∨ !freqOk q then updFdr s2 f fun y => { y with fixed := true, nfreq := some q, frac := some fr, cycles := 0, lastN := 0 }
        else
          let s3 := endWindow (updFdr s2 f fun y => { y with hist := y.hist.drop 1 }) f (some q)
          updFdr s3 f fun y => { y with hist := x.hist, frac := some fr, lastFrac := fr, lastN := 0 }

/-- Count the sample into the window. It is one of 1,600 samples when no phase is live, and when at 1,600 samples its cycles are too
few for 45 Hz; its frequency is then that of the latest NCYC cycles that ended in it, where that is valid (R267, log entry 67). -/
def windowCount (s : State) (f : Nat) : State :=
  let s1 := updFdr s f fun y => { y with wN := y.wN + 1, cycN := y.cycN + 1 }
  let x := fdrAt s1 f
  let dead := (refPhase s f).isNone
  if x.wN < 1600 then (if dead then updFdr s1 f fun y => { y with fixed := true, crossPh := none } else s1)
  else if x.fixed ∨ dead ∨ (x.cycles + 1) * 8000 < 45 * x.wN then
    endWindow (updFdr s1 f fun y => { y with wN := 1600 }) f (if dead then none else x.nfreq.filter freqOk)
  else s1

/-- A feeder's delayed values of the sample enter its history. -/
def feederHist (s : State) (f : Nat) : State :=
  let v := (List.range 3).map fun p => chanVal s (7 * f + 2 * p)
  let i := (List.range 3).map fun p => chanVal s (7 * f + 2 * p + 1)
  let x := fdrAt s f
  let d90 := (b64.toIntAway (b64.mul (b64.div (b64.ofInt 2000) (fUsed s f)) (b64.ofInt 64))).toNat
  let v90 := (List.range 3).map fun p => delayed d90 (v.getD p 0 :: x.hist.map fun y => y.v.getD p 0)
  updFdr s f fun y => { y with hist := ({ v := v, v90 := v90, i := i, n := chanVal s (7 * f + 6) } :: y.hist).take 4096 }

/-- A metered feeder takes a sample: its energy, its cycles and its window. -/
def feederSample (s : State) (f : Nat) : State :=
  let s1 := feederHist s f
  let x := fdrAt s1 f
  let acc := if role s = 3 then x.acc else (phasesOf s f).foldl (fun a p => accPhase x.hist (fUsed s f) p a) x.acc
  windowCount (cycleJudge (updFdr s1 f fun y => { y with acc := acc }) f) f

/-- A feeder that is not metered takes a sample: metering, when it begins, begins with a window of its own. -/
def feederIdle (s : State) (f : Nat) : State :=
  updFdr (feederHist s f) f fun x => { x with
    whole := false, wN := 0, cycN := 0, frac := none, crossPh := none, cycles := 0, fixed := false
    interval := x.interval.map fun i => { i with gap := true } }

/-- Open an interval (R277). -/
def openIntv (s : State) (f start : Nat) (step gap : Bool) : State :=
  let stuck := (List.range 7).any fun j => flag s (Reg.BAS_CH_CFG_FAULT (7 * f + j))
  updFdr s f fun x => { x with interval := some { start := start, minutes := [1, 5, 15, 60].getD (fld s Reg.BAS_INTERVAL_LEN) 15,
                                                  base := x.acc, step := step, gap := gap,
                                                  dead := flag s (Reg.BAS_FDR_STAT_DEAD f), chf := stuck } }

/-- A sample of all channels (R262). -/
def execBasinSample (chans : List ChanIn) (s : State) : Host.Outcome State Fault Refusal :=
  let k := s.el * 8000 / 65536 + 1
  .next (
    if s.bas.sampleIdx = k ∨ domState s 10 ≠ 2 then s
    else
      let s1 := (List.range 42).foldl (fun s n => chanSample s n (chans.getD n ⟨.code 0, .code 0⟩)) (basUpd s fun b => { b with sampleIdx := k })
      (List.range 6).foldl (fun s f =>
        if metered s f then
          let s2 := if (fdrAt s f).interval.isNone then openIntv s f s.dt false true else s
          feederSample s2 f
        else feederIdle s f) s1)

/-! ### Residual alarm (R270) -/

/-- Residual current in mA as a record carries it. -/
def iresMa (x : Nat) : Nat := min (b64.toIntAway (b64.mul x (b64.ofInt 1000))).toNat (2 ^ 32 - 1)

/-- Raise or clear the alarm. -/
def rcAlarm (s : State) (f x : Nat) (on : Bool) : State :=
  let ma := iresMa x
  let s1 := setFlag s (Reg.BAS_FDR_STAT_RC_ALARM f) on
  let s2 := if on then setErr (count1 (setFlag s1 (Reg.BAS_FDR_STAT_RC_SEEN f) true) (Reg.BAS_CNT_COUNT 6)) Reg.BAS_ERR_RC_ALARM else s1
  faultAt (emit s2 0x0800 (leBytes 1 f ++ leBytes 1 (b2n on) ++ [0, 0] ++ leBytes 4 ma)) s.dt 0x08 0x8801 (!on) 0x3FFFF f ma 1 0

/-- A cycle of a feeder has ended: its residual-current RMS is compared. -/
def execCycleEnd (s : State) : Host.Outcome State Fault Refusal :=
  .next (
    match (if domState s 10 = 2 then s.bas.cycDue else []) with
    | [] => s
    | (f, x) :: r =>
      let thr := fld s (Reg.BAS_FDR_RC_RC_THR f)
      let ma := b64.mul x (b64.ofInt 1000)
      let exceeds := decide (thr ≠ 0) && b64.le (b64.ofInt thr) ma
      let under := decide (thr = 0) || b64.lt ma (b64.mul (dec 8 10) (b64.ofInt thr))
      let y := fdrAt s f
      let up := if exceeds then y.rcOver + 1 else 0
      let dn := if under then y.rcUnder + 1 else 0
      let s1 := updFdr (basUpd s fun b => { b with cycDue := r }) f fun y => { y with rcOver := up, rcUnder := dn }
      let on := flag s (Reg.BAS_FDR_STAT_RC_ALARM f)
      if !on ∧ exceeds ∧ fld s (Reg.BAS_FDR_CFG_RC_CYCLES f) ≤ up then rcAlarm s1 f x true
      else if on ∧ (thr = 0 ∨ 50 ≤ dn) then rcAlarm s1 f x false
      else s1)

/-! ### Windows (R267, R268, R271) -/

/-- The magnitude of harmonic h from a DFT over a window. -/
def harmonic (l : List Nat) (fu h : Nat) : Nat :=
  let w := b64.div (b64.mul (b64.mul (b64.mul (b64.ofInt 2) pi64) (b64.ofInt h)) fu) (b64.ofInt 8000)
  let re := sum64 (l.zipIdx.map fun (x, k) => b64.mul x (b64.cos (b64.mul w (b64.ofInt k))))
  let im := sum64 (l.zipIdx.map fun (x, k) => b64.mul x (b64.sin (b64.mul w (b64.ofInt k))))
  b64.sqrt (b64.add (b64.mul re re) (b64.mul im im))

def thd (l : List Nat) (fu : Nat) : Nat :=
  b64.div (b64.sqrt (sum64 ((List.range 14).map fun i => let x := harmonic l fu (i + 2); b64.mul x x))) (harmonic l fu 1)

/-- The quantities of a phase. -/
def phaseVals (l : List BasSample) (fu p : Nat) : PhaseVals :=
  let v := l.map fun x => x.v.getD p 0
  let i := l.map fun x => x.i.getD p 0
  let n := b64.ofInt l.length
  let vr := rms64 v
  let ir := rms64 i
  let pw := b64.div (sum64 (l.map fun x => b64.mul (x.v.getD p 0) (x.i.getD p 0))) n
  let q := b64.div (sum64 (l.map fun x => b64.mul (x.v90.getD p 0) (x.i.getD p 0))) n
  let sv := b64.mul vr ir
  { vrms := vr, irms := ir, p := pw, q := q, s := sv, pf := if b64.le sv 0 then 0 else b64.div pw sv, thdV := thd v fu, thdI := thd i fu }

/-- A feeder becomes dead or live (R271). -/
def feederState (s : State) (f : Nat) (dead : Bool) : State :=
  let s1 := setFlag s (Reg.BAS_FDR_STAT_DEAD f) dead
  let s2 := if dead then updIntv (setErr s1 Reg.BAS_ERR_FEEDER_DEAD) f fun i => { i with dead := true } else s1
  foldCause (emit s2 0x0801 (leBytes 1 f ++ leBytes 1 (b2n dead))) f 1 dead

/-- The oldest window that has ended is computed. -/
def execWindowEnd (s : State) : Host.Outcome State Fault Refusal :=
  .next (
    match (if domState s 10 = 2 then s.bas.winDue else []) with
    | [] => s
    | w :: r =>
      let f := w.feeder
      let s0 := basUpd s fun b => { b with winDue := r }
      let fu := w.freq.getD (fNom s)
      let ph := phasesOf s f
      let vals := ph.map fun p => (p, phaseVals w.samples fu p)
      let free := Config.free s.freeN % 2 ^ 64
      let fv : FeederVals :=
        { ph := vals, freq := w.freq.getD free, inRms := rms64 (w.samples.map fun x => x.n),
          ires := rms64 (w.samples.map (iresOf ph)), pSum := sum64 (vals.map fun x => x.2.p), qSum := sum64 (vals.map fun x => x.2.q),
          sec := dtSec s.dt % 2 ^ 32 }
      let s1 := updFdr (if w.freq.isSome then s0 else drawFree s0) f fun x => { x with vals := some fv, fUsed := fu }
      let mhz := min (b64.toIntAway (b64.mul fv.freq (b64.ofInt 1000))).toNat (2 ^ 20 - 1)
      let s2 := setFld (setFlag s1 (Reg.BAS_FDR_STAT_FREQ_VALID f) w.freq.isSome) (Reg.BAS_FDR_STAT_FREQ f) mhz
      let s3 := if w.freq.isSome then s2 else setErr s2 Reg.BAS_ERR_FREQ_INVALID
      let dv := b64.div (b64.ofInt (fld s (Reg.BAS_FDR_CFG_DEAD_V f))) (b64.ofInt 10)
      let dead := flag s (Reg.BAS_FDR_STAT_DEAD f)
      if !dead ∧ vals.all fun x => b64.lt x.2.vrms dv then feederState s3 f true
      else if dead ∧ vals.any fun x => b64.le (b64.mul (dec 125 100) dv) x.2.vrms then feederState s3 f false
      else s3)

/-! ### Temperature (R264-R266) -/

/-- Interpolation in a table (R265). -/
def interpTable (y : TempPoint → Int) (t : Int) : List TempPoint → Int
  | [] => 0
  | [a] => y a
  | a :: b :: r =>
    if t ≤ a.t then y a
    else if t < b.t then y a + ((y b - y a) * (t - a.t)).tdiv (b.t - a.t)
    else interpTable y t (b :: r)

/-- A temperature in 0.01 °C from a binary64 value in °C, saturated; `none` when it is not a number (R266). -/
def centi (x : Nat) : Option Int :=
  if b64.isNan x then none
  else if b64.isFinite x then some (max (-32768) (min 32767 (b64.toIntAway (b64.mul x (b64.ofInt 100)))))
  else some (if b64.lt x 0 then -32768 else 32767)

/-- A Span value that is not stale (R242, R266), binary32. -/
def spanValue (s : State) (i : Nat) : Option Nat :=
  match s.fed.values.get i none with
  | some (v, t) => if passedSec s t (fld s Reg.WEI_CFG_SPAN_STALE) then none else some v
  | none => none

/-- The sensor temperature of R266, `none` while its source is invalid. -/
def basTemp (s : State) : Option Int :=
  let i := fld s Reg.BAS_TEMP_CFG_INDEX
  match fld s Reg.BAS_TEMP_CFG_SRC with
  | 1 =>
    if i < 8 then
      let v := b32.to b64 (ain s i)
      centi (b64.add (b64.mul v (b32.to b64 (fld s Reg.BAS_TEMP_SCALE_VALUE))) (b32.to b64 (fld s Reg.BAS_TEMP_OFS_VALUE)))
    else none
  | 2 => (spanValue s i).bind fun v => centi (b32.to b64 v)
  | _ => some (sfld s Reg.BAS_TEMP_CFG_T_FIXED)

/-- D of a channel (R263), and whether it was clamped. -/
def chanDelay (s : State) (n : Nat) : Nat × Bool :=
  let ph := (chanAt s n).phase
  let x := b64.div (b64.mul (b64.ofInt ph) (dec 1 1000000)) (b64.mul (b64.mul (b64.ofInt 2) pi64) (fUsed s (n / 7)))
  let d := (fld s (Reg.BAS_CH_CFG_DELAY n) : Int) + b64.toIntAway (b64.mul (b64.mul x (b64.ofInt 8000)) (b64.ofInt 64))
  ((max 0 (min 1023 d)).toNat, decide (d < 0 ∨ 1023 < d))

/-- Once per DT second: the temperature in use, each channel's corrections and its delay. -/
def execTempUpdate (conv : List Word) (s : State) : Host.Outcome State Fault Refusal :=
  let k := dtSec s.dt + 1
  .next (
    if s.bas.tempSec = k ∨ domState s 10 ≠ 2 then s
    else
      let s0 := basUpd (setAin s conv) fun b => { b with tempSec := k }
      let (t, ok) := match basTemp s0 with
        | some t => (t, true)
        | none => (sfld s Reg.BAS_TEMP_CFG_T_FIXED, false)
      let s1 := setFlag (setFld s0 Reg.BAS_TEMP_NOW_T (ofSigned 16 t)) Reg.BAS_TEMP_NOW_FALLBACK (!ok)
      let s2 := if ok then s1 else setErr s1 Reg.BAS_ERR_TEMP_SRC
      (List.range 42).foldl (fun s n =>
        let s3 := updChan s n fun c => { c with gppm := interpTable TempPoint.gain t c.table, phase := interpTable TempPoint.phase t c.table }
        let (d, cl) := chanDelay s3 n
        let s4 := updChan s3 n fun c => { c with delay := d }
        if cl then setErr s4 Reg.BAS_ERR_DELAY_CLAMP else s4) s2)

/-! ### Seconds, intervals and FRAM (R274-R278) -/

/-- The DT second that has ended counts into the open intervals (R277). -/
def rollClose (s : State) : State :=
  if s.bas.rollSec = dtSec s.dt + 1 then s
  else
    (List.range 6).foldl (fun s f => updFdr s f fun x =>
      { x with whole := metered s f, interval := x.interval.map fun i => if x.whole then { i with secs := i.secs + 1 } else i })
      s

/-- LEVEL_CMD at the start of the DT second counts into the open intervals (R281). -/
def rollOpen (s : State) : State :=
  if s.bas.rollSec = dtSec s.dt + 1 then s
  else
    let add (m : SMap Nat) := s.mac.fold.foldl (fun m x => if x.2.type = 0 ∧ x.2.levelCmd ≠ 0 then m.upd x.1 0 (· + x.2.levelCmd) else m) m
    (List.range 6).foldl (fun s f => updIntv s f fun i => { i with levels := add i.levels })
      (basUpd s fun b => { b with rollSec := dtSec s.dt + 1 })

/-- The payload of an interval record (R277). -/
def intervalPayload (f : Nat) (i : OpenInterval) (acc : List Nat) : List Byte :=
  let d (k : Nat) : Nat := (acc.getD k 0 / 2 ^ 32 + 2 ^ 64 - i.base.getD k 0 / 2 ^ 32) % 2 ^ 64
  let rev := (List.range 3).foldl (fun a p =>
    if acc.getD (6 * p) 0 ≠ i.base.getD (6 * p) 0 ∧ acc.getD (6 * p + 1) 0 ≠ i.base.getD (6 * p + 1) 0 then a + 2 ^ p else a) 0
  leBytes 8 i.start ++ leBytes 2 i.minutes ++ leBytes 1 f ++
    leBytes 1 (b2n i.gap + 2 * b2n i.step + 4 * b2n i.dead + 8 * b2n i.chf + 16 * rev + 128 * b2n i.cal) ++ leBytes 4 i.secs ++
    (List.range 18).flatMap (fun k => leBytes 8 (d k)) ++ leBytes 4 0

/-- What the reconciliation of an interval that ends at a DT will need (R281). -/
def reconWait (s : State) (f at' : Nat) (i : OpenInterval) (acc : List Nat) : ReconWait :=
  let m := ((List.range 3).map fun p => (acc.getD (6 * p) 0 / 2 ^ 32 + 2 ^ 64 - i.base.getD (6 * p) 0 / 2 ^ 32) % 2 ^ 64).sum
  { feeder := f, start := i.start, endSec := dtSec at' % 2 ^ 32, minutes := i.minutes, secs := i.secs, step := i.step, m := m
    levels := i.levels, at' := s.el }

/-- A closed interval awaits its reconciliation, once. -/
def addWait (s : State) (w : ReconWait) : State :=
  basUpd s fun b => { b with waits := b.waits.filter (fun x => decide (x.feeder ≠ w.feeder ∨ x.start ≠ w.start)) ++ [w] }

/-- Close a feeder's interval at a DT, and open the next one (R277, R278). A STANDBY module writes no record of it: it keeps what the
reconciliation needs, should it become active before that starts (R281, R447; log entry 163). -/
def closeIntv (s : State) (f at' : Nat) (step : Bool) : State :=
  let x := fdrAt s f
  match x.interval with
  | none => s
  | some i0 =>
    if !flag s (Reg.BAS_FDR_CFG_EN f) then updFdr s f fun x => { x with interval := none }
    else
      let i := { i0 with step := i0.step || step }
      let s1 := if role s = 3 then s else record s 2 8 0x08 (intervalPayload f i x.acc)
      addWait s1 (reconWait s f at' i x.acc)

/-- Close every open interval at a DT and open the next ones at `start`; a STANDBY module may already hold the next one. -/
def closeAll (s : State) (at' start : Nat) (step : Bool) : State :=
  let e := dtSec at' % 2 ^ 32
  let s1 := basUpd s fun b => if b.ends.contains e then b else
    let ends := (e :: b.ends).take 8
    { b with ends := ends
             energy := b.energy.filterMap fun x => match x.2.filter fun y => ends.contains y.1 with | [] => none | l => some (x.1, l) }
  (List.range 6).foldl (fun s f =>
    if role s = 3 ∧ (fdrAt s f).interval.any fun i => decide (at' ≤ i.start) then s else
    let s2 := closeIntv s f at' step
    if (fdrAt s2 f).interval.isSome then openIntv s2 f start step (!metered s2 f) else s2) s1

/-- Length of an interval in seconds. -/
def intvSecs (s : State) : Nat := [60, 300, 900, 3600].getD (fld s Reg.BAS_INTERVAL_LEN) 900

/-- An interval end has come (R277). -/
def execIntervalEnd (s : State) : Host.Outcome State Fault Refusal :=
  let k := dtSec s.dt / intvSecs s
  .next (
    if s.bas.endIdx = k + 1 ∨ domState s 10 ≠ 2 then s
    else
      let b := k * intvSecs s * 65536
      rollOpen (closeAll (rollClose (basUpd s fun x => { x with endIdx := k + 1 })) b b false))

/-- Basin's share of a DT step: the open intervals close at the step (R278). -/
def basinStep (s : State) (old : Nat) : State :=
  let s1 := if role s = 3 then s else closeAll s old s.dt true
  basUpd s1 fun b => { b with endIdx := dtSec s.dt / intvSecs s + 1, rollSec := dtSec s.dt + 1,
                              feeders := b.feeders.filterMap fun x => let y := { x.2 with whole := false }; if y = {} then none else some (x.1, y) }

/-- A host write to BAS_INTERVAL; a change of LEN closes the open intervals at the write (R278). -/
def intervalWrite (s : State) (v : Nat) : State :=
  let locked := flag s Reg.BAS_CTRL_LOCK
  let len := if locked then fld s Reg.BAS_INTERVAL_LEN else bits v 1 0
  let secs := [60, 300, 900, 3600].getD len 900
  let rd := if 7 * secs ≤ bits v 31 20 then 7 * secs - 1 else bits v 31 20
  let mg := max 60 (bits v 19 8)
  let put s := setReg s Reg.BAS_INTERVAL_LEN.off (BitVec.ofNat 32 (rd * 2 ^ 20 + mg * 256 + len))
  if len = fld s Reg.BAS_INTERVAL_LEN then put s
  else
    let mark (s : State) := (List.range 6).foldl (fun s f => updIntv s f fun i => { i with cal := true }) s
    basUpd (closeAll (put (mark s)) s.dt s.dt false) fun b => { b with endIdx := dtSec s.dt / secs + 1 }

/-- A snapshot goes to the slot of lower SEQ (R274). -/
def commitBasin (s : State) : State :=
  let l := s.bas.slots
  let hi := l.foldl (fun a x => max a x.seq) 0
  let lo := l.foldl (fun a x => min a x.seq) hi
  let new : BasSlot := { seq := hi + 1, dt := s.dt, feeders := (List.range 6).map fun f => let x := fdrAt s f; (x.acc, x.interval) }
  count1 (basUpd s fun b => { b with slots := b.slots.map fun x => if x.seq = lo then new else x }) (Reg.BAS_CNT_COUNT 7)

/-- Once per DT second: the second rolls over and the FRAM snapshot is written. -/
def execBasinCommit (s : State) : Host.Outcome State Fault Refusal :=
  let k := dtSec s.dt + 1
  .next (
    if s.bas.commitSec = k ∨ domState s 10 ≠ 2 then s
    else commitBasin (rollOpen (rollClose (basUpd s fun b => { b with commitSec := k }))))

/-- Restore the accumulators and open intervals from FRAM at start-up (R275). -/
def restoreBasin (s : State) : State :=
  let l := s.bas.slots.sortBy fun a b => decide (b.seq ≤ a.seq)
  let best := l.find? fun x => x.ok
  let res := match l, best with
    | _, none => 2
    | x :: _, some _ => if x.ok then 0 else 1
    | [], some _ => 2
  let put (s : State) (x : BasSlot) := x.feeders.zipIdx.foldl (fun s (y, f) => updFdr s f fun z =>
    { z with acc := y.1, interval := y.2.map fun i => { i with gap := true } }) s
  let s1 := match best with | some x => put s x | none => s
  let s2 := setFld s1 Reg.BAS_STAT_RESTORE res
  let s3 := if res = 1 then setErr s2 Reg.BAS_ERR_ACC_FALLBACK
    else if res = 2 then record (setErr s2 Reg.BAS_ERR_ACC_LOST) 3 11 0x08 (leBytes 1 2 ++ List.replicate 19 0) else s2
  let seq : Nat := match best with | some x => x.seq | none => 0
  emit s3 0x0803 (leBytes 8 res ++ leBytes 8 seq)

/-- Basin at a MOD reset, or at a reset of MET: tables and lanterns are configuration (log entry 40), FRAM stays. -/
def basinReset (s : State) : State :=
  basUpd s fun b => { chans := b.chans.filterMap fun x => let y : BasChan := { table := x.2.table }; if y = {} then none else some (x.1, y)
                      slots := b.slots, lanterns := b.lanterns, reported := b.reported }

/-! ### Reconciliation (R279-R284) -/

/-- An accepted report of a lantern: its energy at the interval ends that it spans (R280). -/
def basinReport (s : State) (n e1 t1 e2 t2 : Nat) : State :=
  let s0 := basUpd s fun b => { b with reported := b.reported.set n true false }
  if !s.bas.reported.get n false then s0
  else
    let d := (t2 + 2 ^ 32 - t1 % 2 ^ 32) % 2 ^ 32
    let gap := fld s Reg.BAS_INTERVAL_MAX_GAP < d
    let s1 := if gap then count1 s0 (Reg.BAS_CNT_COUNT 3) else s0
    let s2 := if d ≠ 0 ∧ e2 < e1 then count1 s1 (Reg.BAS_CNT_COUNT 2) else s1
    if d = 0 ∨ gap ∨ e2 < e1 then s2
    else
      let new := s.bas.ends.filterMap fun b =>
        let x := (b + 2 ^ 32 - t1 % 2 ^ 32) % 2 ^ 32
        if 0 < x ∧ x ≤ d then some (b, e1 + (e2 - e1) * x / d) else none
      basUpd s2 fun b => { b with energy := b.energy.upd n [] fun l => new ++ l.filter fun y => !new.any fun z => decide (z.1 = y.1) }

/-- A lantern of a feeder (R279). -/
def onFeeder (e : FoldEntry) (f : Nat) : Bool := decide (e.type = 0 ∧ e.feeder = f ∧ 2 ≤ e.state ∧ e.state ≤ 6)

/-- One lantern's part in an allocation: EPH, ESTIMATED, base and weight. -/
structure AllocRow where
  eph : Nat
  est : Bool
  base : Nat
  weight : Nat

/-- The base of a lantern (R281). -/
def allocRow (s : State) (w : ReconWait) (n : Nat) : AllocRow :=
  let t := s.bas.lanterns.get n {}
  let l := s.bas.energy.get n []
  let e (b : Nat) := (l.find? fun x => decide (x.1 = b)).map Prod.snd
  match (if w.step then none else e (dtSec w.start % 2 ^ 32)), e w.endSec with
  | some a, some b => { eph := n, est := false, base := b - a, weight := t.weight }
  | _, _ => { eph := n, est := true, weight := t.weight,
              base := w.levels.get n 0 * t.rated * t.cal * 100000 / (65535 * 32768 * 3600) }

/-- The allocation of R282: NEG, R, and BASE with ALLOC of each row. -/
def allocate (t : Nat) (rows : List AllocRow) : Bool × Nat × List (Nat × Nat) :=
  let sm := (rows.map fun r => r.base).sum
  let neg := decide (t < sm)
  let r := if neg then t else t - sm
  let w0 := if neg then rows.map fun x => x.base else rows.map fun x => x.weight
  let w := if !neg ∧ w0.sum = 0 then rows.map fun _ => 1 else w0
  let base := if neg then rows.map fun _ => 0 else rows.map fun x => x.base
  let tot := w.sum
  let q := w.map fun x => r * x / tot
  let rem := w.map fun x => r * x % tot
  let left := r - q.sum
  let order := (rem.zipIdx.sortBy fun a b => decide (b.1 < a.1 ∨ (a.1 = b.1 ∧ a.2 ≤ b.2))).take left
  (neg, r, (base.zip q).zipIdx.map fun (x, i) => (x.1, x.1 + x.2 + b2n (order.any fun y => decide (y.2 = i))))

/-- Reconcile a closed interval (R281-R284). -/
def reconcile (s : State) (w : ReconWait) : Recon :=
  let rows := s.mac.fold.filterMap fun x => if onFeeder x.2 w.feeder then some (allocRow s w x.1) else none
  let o := fld s (Reg.BAS_FDR_OTHER_OTHER_MW w.feeder) * w.secs * 5 / 18
  let exceeds := decide (w.m < o)
  let t := w.m - o
  let (neg, r, al) := allocate t rows
  let est := (rows.filter fun x => x.est).length
  let flags := b2n w.step + 2 * b2n neg + 4 * b2n exceeds + 8 * b2n rows.isEmpty
  let vec := (rows.zip al).map fun (x, a) => leBytes 3 x.eph ++ leBytes 1 (b2n x.est) ++ leBytes 6 a.1 ++ leBytes 6 a.2
  { feeder := w.feeder, vec := vec, flags := flags, estimated := est, start := w.start
    payload := leBytes 8 w.start ++ leBytes 2 w.minutes ++ leBytes 1 w.feeder ++ leBytes 1 flags ++ leBytes 4 rows.length ++
      leBytes 4 est ++ leBytes 8 w.m ++ leBytes 8 o ++ leBytes 8 (rows.map fun x => x.base).sum ++ leBytes 8 r ++
      leBytes 4 (crc32c vec.flatten) ++ List.replicate 12 0 }

/-- RECON_DELAY s after an interval's end its reconciliation starts, at the module that acts. -/
def execReconciliationStart (s : State) : Host.Outcome State Fault Refusal :=
  .next (
    match s.bas.waits with
    | [] => s
    | w :: r =>
      if role s = 3 then
        basUpd s fun b => { b with waits := if passedSec s w.at' (fld s Reg.BAS_INTERVAL_RECON_DELAY) then r else b.waits }
      else if passedSec s w.at' (fld s Reg.BAS_INTERVAL_RECON_DELAY) then
        setFlag (basUpd s fun b => { b with waits := r, running := b.running ++ [reconcile s w] }) Reg.BAS_STAT_RECON_BUSY true
      else s)

/-- A reconciliation finishes: its record and event (R284). -/
def execReconDone (s : State) : Host.Outcome State Fault Refusal :=
  .next (
    match (if domState s 10 = 2 then s.bas.running else []) with
    | [] => s
    | x :: r =>
      let s1 := basUpd s fun b => { b with running := r, done := b.done.upd x.feeder [] fun l => (x :: l).take 8 }
      let s2 := countBy (count1 (setFlag s1 Reg.BAS_STAT_RECON_BUSY (!r.isEmpty)) (Reg.BAS_CNT_COUNT 5)) (Reg.BAS_CNT_COUNT 4) x.estimated
      emit (record s2 2 9 0x08 x.payload) 0x0802
        (leBytes 1 x.feeder ++ leBytes 1 x.flags ++ [0, 0] ++ leBytes 4 x.vec.length ++ leBytes 8 x.start))

/-! ### Opcodes (R285) -/

/-- A table point of a buffer. -/
def tempPoint (b : List Byte) (o : Nat) : TempPoint :=
  { t := toSigned 16 (fieldLE b o 2), gain := toSigned 32 (fieldLE b (o + 4) 4), phase := toSigned 32 (fieldLE b (o + 8) 4) }

/-- Checks of a table (R264). -/
def tempChks (b : List Byte) (n : Nat) : List Chk :=
  (match firstNonZero b 1 7 with | some o => [rangeChk true o] | none => []) ++
  (List.range n).flatMap fun i =>
    let o := 8 + 12 * i
    let p := tempPoint b o
    [rangeChk (decide (0 < i) && decide (p.t ≤ (tempPoint b (o - 12)).t)) o,
     rangeChk (decide (fieldLE b (o + 2) 1 ≠ 0)) (o + 2), rangeChk (decide (fieldLE b (o + 3) 1 ≠ 0)) (o + 3),
     rangeChk (decide (100000 < p.gain.natAbs)) (o + 4), rangeChk (decide (100000 < p.phase.natAbs)) (o + 8)]

def bodyBasTempTableLoad (s : State) (c : Cmd) : Work := do
  let n := c.op 16 1
  checkOps (opChks c [(16, 1)] [(0, 8)] ++ [rangeChk (decide (41 < n)) 16])
  let b ← readBuf s c 0
  let k := fieldLE b 0 1
  checkBuf 0 [rangeChk (decide (k < 1 ∨ 16 < k)) 0]
  checkOps [⟨decide (c.bufLen 0 < 8 + 12 * k), 40, 0x04⟩]
  checkBuf 0 (tempChks b k)
  stopIf (flag s Reg.BAS_CTRL_LOCK) (ansBadState 0x0001)
  let t := (List.range k).map fun i => tempPoint b (8 + 12 * i)
  pure (updIntv (updChan s n fun x => { x with table := t }) (n / 7) fun i => { i with cal := true }, some ansDone)

def execBasTempTableLoad (sq : Fin 16) (s : State) : Host.Outcome State Fault Refusal := .next (runRing s sq 0x0800 bodyBasTempTableLoad)

/-- A FEEDER operand. -/
def feederChk (c : Cmd) (o : Nat) : Chk := rangeChk (decide (5 < c.op o 1)) o

/-- A binary64 number as binary32 bytes. -/
def f32Bytes (x : Nat) : List Byte := leBytes 4 (b64.to b32 x)

/-- The 128 bytes of BAS_VALUES_READ. -/
def valuesPage (s : State) (f : Nat) : List Byte :=
  let v := (fdrAt s f).vals.getD {}
  let ph p := let x := v.ph.get p {}; [x.vrms, x.irms, x.p, x.q, x.s, x.pf, x.thdV, x.thdI].flatMap f32Bytes
  let fl := b2n (flag s (Reg.BAS_FDR_STAT_DEAD f)) + 2 * b2n (flag s (Reg.BAS_FDR_STAT_RC_ALARM f)) +
    4 * b2n (flag s (Reg.BAS_FDR_STAT_FREQ_VALID f))
  padTo 128 ((List.range 3).flatMap ph ++ [v.freq, v.inRms, v.ires, v.pSum, v.qSum].flatMap f32Bytes ++ leBytes 4 v.sec ++ leBytes 1 fl)

def bodyBasValuesRead (s : State) (c : Cmd) : Work := do
  let f := c.op 16 1
  checkOps (opChks c [(16, 1)] [(1, 128)] ++ [feederChk c 16])
  stopIf (!flag s (Reg.BAS_FDR_CFG_EN f)) (ansBadState 0x0002)
  let s1 ← writeBuf s c 0 (valuesPage s f)
  pure (s1, some (ansDone 128))

def execBasValuesRead (sq : Fin 16) (s : State) : Host.Outcome State Fault Refusal := .next (runRing s sq 0x0801 bodyBasValuesRead)

def bodyBasEnergyRead (s : State) (c : Cmd) : Work := do
  checkOps (opChks c [(16, 1)] [(1, 152)] ++ [feederChk c 16])
  let s1 ← writeBuf s c 0 (leBytes 8 s.dt ++ (fdrAt s (c.op 16 1)).acc.flatMap fun a => leBytes 8 (a / 2 ^ 32))
  pure (s1, some (ansDone 152))

def execBasEnergyRead (sq : Fin 16) (s : State) : Host.Outcome State Fault Refusal := .next (runRing s sq 0x0802 bodyBasEnergyRead)

def bodyBasLanternSet (s : State) (c : Cmd) : Work := do
  let n := c.op 16 3
  let k := c.op 20 4
  checkOps (opChks c [(16, 3), (20, 4)] [(0, 8 * min k 65536)] ++
    [ephChk c 16, rangeChk (decide (k < 1 ∨ 65536 < k)) 20, rangeChk (decide (n < foldSize ∧ foldSize < n + k)) 20])
  let b ← readBuf s c 0
  checkBuf 0 ((List.range k).flatMap fun i => (match firstNonZero b (8 * i + 6) 2 with | some o => [rsvChk true o] | none => []))
  let m := (List.range k).foldl (fun (m : SMap BasLantern) i =>
    m.set (n + i) { rated := fieldLE b (8 * i) 2, cal := fieldLE b (8 * i + 2) 2, weight := fieldLE b (8 * i + 4) 2 } {}) s.bas.lanterns
  pure (basUpd s fun x => { x with lanterns := m }, some (ansDone k))

def execBasLanternSet (sq : Fin 16) (s : State) : Host.Outcome State Fault Refusal := .next (runRing s sq 0x0803 bodyBasLanternSet)

def bodyBasAllocRead (s : State) (c : Cmd) : Work := do
  let k := c.op 24 4
  checkOps (opChks c [(16, 2), (20, 8)] [(1, 16 * min k 65536)] ++
    [feederChk c 16, rangeChk (decide (7 < c.op 17 1)) 17, rangeChk (decide (k < 1 ∨ 65536 < k)) 24])
  match (s.bas.done.get (c.op 16 1) [])[c.op 17 1]? with
  | none => .error (.ans (ansBadState 0x0003))
  | some x =>
    let l := (x.vec.drop (c.op 20 4)).take k
    let s1 ← writeBuf s c 0 l.flatten
    pure (s1, some (ansDone l.length))

def execBasAllocRead (sq : Fin 16) (s : State) : Host.Outcome State Fault Refusal := .next (runRing s sq 0x0804 bodyBasAllocRead)

def bodyBasReconRead (s : State) (c : Cmd) : Work := do
  checkOps (opChks c [(16, 2)] [(1, 68)] ++ [feederChk c 16, rangeChk (decide (7 < c.op 17 1)) 17])
  match (s.bas.done.get (c.op 16 1) [])[c.op 17 1]? with
  | none => .error (.ans (ansBadState 0x0003))
  | some x =>
    let s1 ← writeBuf s c 0 x.payload
    pure (s1, some (ansDone 68))

def execBasReconRead (sq : Fin 16) (s : State) : Host.Outcome State Fault Refusal := .next (runRing s sq 0x0805 bodyBasReconRead)

end Sys2Proof.Machine
end

