-- ==== Sys2Proof/Machine/Cascade.lean ====
section
/-! DEFINITION. Cascade: the street graph, presence intake, the tick of R215, borders and the Cascade opcodes (chapter 07). -/

namespace Sys2Proof.Machine

def casUpd (s : State) (f : CasSt → CasSt) : State := { s with cas := f s.cas }

/-- Vertices and edges of the graph. -/
def numVtx : Nat := 327680
def numEdge : Nat := 1048576

/-! ### Tick indices (R209) -/

def tickOf (dt : Nat) : Nat := (dtSec dt * 20 + dtFrac dt * 20 / 65536) % 2 ^ 32

/-- `b - a` as a signed 32-bit value. -/
def tickDiff (b a : Nat) : Int := toSigned 32 (b + 2 ^ 32 - a % 2 ^ 32)

/-- `a ≤ b` of two tick indices. -/
def tickLe (a b : Nat) : Bool := decide ((b + 2 ^ 32 - a % 2 ^ 32) % 2 ^ 32 < 2 ^ 31)

def tickAdd (a : Nat) (k : Int) : Nat := (((a : Int) + k) % 2 ^ 32).toNat

/-! ### Records (R210, R211) -/

def vtxAt (g : Graph) (v : Nat) : Vtx := g.vtx.get v {}

/-- A vertex record with a DEMAND and a LAST. -/
def Vtx.bytes (v : Vtx) (demand last : Nat) : List Byte :=
  leBytes 2 demand ++ leBytes 2 v.decay ++ leBytes 4 last ++ leBytes 3 v.first ++ leBytes 1 v.nedge ++ leBytes 2 v.link ++
    leBytes 1 (b2n v.en + 2 * b2n v.border) ++ [0]

def Vtx.ofBytes (l : List Byte) : Vtx :=
  { decay := fieldLE l 2 2, first := fieldLE l 8 3 % 2 ^ 20, nedge := fieldLE l 11 1, link := fieldLE l 12 2 % 4096,
    en := bit (fieldLE l 14 1) 0, border := bit (fieldLE l 14 1) 1 }

/-- Checks of a loaded vertex record at buffer offset `o` (R210, R231). -/
def vtxChks (l : List Byte) (o : Nat) : List Chk :=
  (match firstNonZero l o 2 with | some k => [rsvChk true k] | none => []) ++
  (match firstNonZero l (o + 4) 4 with | some k => [rsvChk true k] | none => []) ++
  [rsvChk (decide (16 ≤ fieldLE l (o + 10) 1)) (o + 10), rsvChk (decide (16 ≤ fieldLE l (o + 13) 1)) (o + 13),
   ⟨!bit (fieldLE l (o + 14) 1) 1 && decide (fieldLE l (o + 12) 2 % 4096 ≠ 0), o + 12, 0x03⟩,
   rsvChk (decide (4 ≤ fieldLE l (o + 14) 1)) (o + 14), rsvChk (decide (fieldLE l (o + 15) 1 ≠ 0)) (o + 15)]

/-- Fields of an edge word (R211). -/
def edgeTarget (w : Nat) : Nat := bits w 18 0
def edgeTravel (w : Nat) : Nat := bits w 30 19
def edgeAtten (w : Nat) : Nat := bits w 38 31
def edgeMask (w : Nat) : Nat := bits w 41 39

/-- Checks of a loaded edge record. -/
def edgeChks (l : List Byte) (o : Nat) : List Chk :=
  [rangeChk (decide (numVtx ≤ edgeTarget (fieldLE l o 8))) o, rsvChk (decide (4 ≤ fieldLE l (o + 5) 1)) (o + 5),
   rsvChk (decide (fieldLE l (o + 6) 1 ≠ 0)) (o + 6), rsvChk (decide (fieldLE l (o + 7) 1 ≠ 0)) (o + 7)]

/-! ### Intake (R212-R214) -/

/-- Place an event into the intake queue; a full queue overwrites its oldest entry (R212). -/
def intakePut (s : State) (e : PresEvent) : State :=
  if s.cas.intake.length < 4096 then casUpd s fun c => { c with intake := c.intake ++ [e] }
  else
    setErr (count1 (casUpd s fun c => { c with intake := c.intake.drop 1 ++ [e] }) (Reg.CAS_CNT_COUNT 10)) Reg.CAS_ERR_INTAKE_LOST

/-- The tick index of a DT less AGE × 10 ms (R209, R214). -/
def eventTick (dt age : Nat) : Nat := (floorDiv ((dt : Int) * 100 - age * 65536) (5 * 65536) % 2 ^ 32).toNat

/-- The tick index of an SFD end, in units of 2.5 µs, less AGE × 10 ms. -/
def radioTick (t25 age : Nat) : Nat := (floorDiv ((t25 : Int) - age * 4000) 20000 % 2 ^ 32).toNat

/-! ### Propagation (R215) -/

/-- The greatest of the CAS_CLASSn fields of the classes in a mask. -/
def classMax (s : State) (f : Nat → RF) (m : Nat) : Nat :=
  (List.range 3).foldl (fun a c => if bit m c then max a (fld s (f c)) else a) 0

/-- Demand after `e` tick indices of decay. -/
def decayBy (r : Nat) : Nat → Nat → Nat
  | 0, d => d
  | e + 1, d => if d = 0 then 0 else decayBy r e (d * r / 65536)

/-- value(v, t) of R215. -/
def vtxValue (s : State) (v t : Nat) : Nat :=
  let d := s.cas.demand.get v 0
  let l := s.cas.last.get v 0
  if d = 0 then 0 else if tickLe t l then d else decayBy (vtxAt s.cas.active v).decay (tickDiff t l).toNat d

/-- The order in which items are removed: FIRE, ETA, DEMAND descending, VERTEX, SEQ, the times as distances from `t`. -/
def itemBefore (t : Nat) (a b : Item) : Bool :=
  let fa := tickDiff a.fire t
  let fb := tickDiff b.fire t
  let ea := tickDiff a.eta t
  let eb := tickDiff b.eta t
  if fa ≠ fb then decide (fa < fb) else if ea ≠ eb then decide (ea < eb)
  else if a.demand ≠ b.demand then decide (b.demand < a.demand)
  else if a.vertex ≠ b.vertex then decide (a.vertex < b.vertex) else decide (a.seq < b.seq)

/-- The first of a list by an order. -/
def firstBy {α : Type} (lt : α → α → Bool) : List α → Option α
  | [] => none
  | a :: r =>
    match firstBy lt r with
    | none => some a
    | some b => if lt b a then some b else some a

/-- Hold an item; while 65,536 are held the one of lowest DEMAND, then lowest SEQ, is lost (R220). -/
def holdItem (s : State) (it : Item) : State :=
  let items := s.cas.items ++ [it]
  if s.cas.items.length < 65536 then
    let s1 := casUpd s fun c => { c with items := items }
    if fld s1 Reg.CAS_PEAK_PEAK < items.length then setFld s1 Reg.CAS_PEAK_PEAK items.length else s1
  else
    match firstBy (fun a b => decide (a.demand < b.demand ∨ (a.demand = b.demand ∧ a.seq < b.seq))) items with
    | none => s
    | some x =>
      setErr (count1 (casUpd s fun c => { c with items := removeFirst x items
                                                 lost := c.lost + 1
                                                 lostHigh := max c.lostHigh x.demand })
        (Reg.CAS_CNT_COUNT 3)) Reg.CAS_ERR_ITEMS_LOST
where
  removeFirst (x : Item) : List Item → List Item
    | [] => []
    | y :: r => if y = x then r else y :: removeFirst x r

/-- make of R215. -/
def makeItem (s : State) (v d eta t0 m : Nat) : State :=
  let n := (s.cas.seq + 1) % 2 ^ 32
  holdItem (count1 (casUpd s fun c => { c with seq := n }) (Reg.CAS_CNT_COUNT 2))
    { vertex := v, demand := d, eta := eta, t0 := t0, classes := m,
      fire := tickAdd eta (-(classMax s Reg.CAS_CLASS_HORIZON m : Int)), seq := n }

/-- The items of one edge after another of a vertex that an item has reached. -/
def spread (s : State) (it : Item) (first nedge : Nat) : State :=
  (List.range nedge).foldl (fun s i =>
    let w := s.cas.active.edges.get (first + i) 0
    let m := Nat.land it.classes (edgeMask w)
    let d := it.demand * (edgeAtten w + 1) / 256
    let eta := tickAdd it.eta (edgeTravel w)
    if m ≠ 0 ∧ fld s Reg.CAS_CFG_MIN_DEMAND ≤ d ∧ tickDiff eta it.t0 ≤ (fld s Reg.CAS_CFG_REACH * 20 : Nat) then
      makeItem s (edgeTarget w) d eta it.t0 m
    else s) s

/-- A running tick: the machine, the arrivals of each lane, and the items for border links. -/
structure CasRun where
  s : State
  used : SMap Nat := []
  out : List (BorderLink × Item) := []

/-- Border items are sent (R225, R229). -/
def borderOn (s : State) : Bool := flag s Reg.CAS_CTRL_BORDER_EN && spanMine s

/-- arrive of R215. -/
def arrive (r : CasRun) (it : Item) : CasRun :=
  let s := r.s
  let v := it.vertex
  let x := vtxAt s.cas.active v
  let cur := vtxValue s v it.eta
  let l := s.cas.last.get v 0
  if !x.en ∨ it.demand < cur ∨ (it.demand = cur ∧ tickLe it.eta l) then r
  else
    let l' := if s.cas.demand.get v 0 = 0 then it.eta else if tickLe it.eta l then l else it.eta
    let s1 := casUpd s fun c => { c with last := c.last.set v l' 0, demand := c.demand.set v it.demand 0 }
    let b := s.cas.borders.get x.link {}
    let out := if x.border ∧ borderOn s ∧ b.en ∧ !b.isIn then r.out ++ [(b, it)] else r.out
    { r with s := spread s1 it x.first x.nedge, out := out }

/-- Working lanes, and the lane of a vertex (R217, R219). -/
def lanes (s : State) : List Nat := (List.range 8).filter fun n => !s.cas.deadLanes.contains n
def laneOf (s : State) (v : Nat) : Nat :=
  let l := lanes s
  if l.contains (v % 8) then v % 8 else l.getD (v / 8 % l.length) 0

/-- Remove and process due items in order, until none is due or a lane's budget is spent (R215, R217). -/
def drainItems (t budget : Nat) : Nat → CasRun → CasRun
  | 0, r => r
  | fuel + 1, r =>
    match firstBy (itemBefore t) (r.s.cas.items.filter fun i => tickLe i.fire t) with
    | none => r
    | some it =>
      let n := laneOf r.s it.vertex
      let u := r.used.get n 0
      if budget ≤ u ∨ (lanes r.s).isEmpty then r
      else
        let s1 := count1 (casUpd r.s fun c => { c with items := holdItem.removeFirst it c.items }) (Reg.CAS_CNT_COUNT 4)
        drainItems t budget fuel (arrive { r with s := s1, used := r.used.set n (u + 1) 0 } it)

/-- Take an event of the intake (R213-R215). -/
def takeEvent (s : State) (e : PresEvent) : State :=
  if numVtx ≤ e.vertex ∨ !(vtxAt s.cas.active e.vertex).en ∨ e.classes % 8 = 0 then
    setErr (count1 s (Reg.CAS_CNT_COUNT 1)) Reg.CAS_ERR_BAD_EVENT
  else
    let d := e.strength * 257 * classMax s Reg.CAS_CLASS_GAIN e.classes / 256
    let s1 := count1 s (Reg.CAS_CNT_COUNT 0)
    if fld s Reg.CAS_CFG_MIN_DEMAND ≤ d then makeItem s1 e.vertex d e.e e.e e.classes else s1

/-- A received border item enters the tick (R227). -/
def takeBorder (first : Nat) (s : State) (b : BorderItem) : State :=
  let s1 :=
    if tickLe first (b.sent + 1) then s else setErr (count1 s (Reg.CAS_CNT_COUNT 8)) Reg.CAS_ERR_BORDER_LATE
  makeItem s1 b.vertex b.demand b.eta b.t0 b.classes

/-- The items of one BORDER_DEMAND payload (R226). -/
def borderBody (t : Nat) (l : List (BorderLink × Item)) : List Byte :=
  beBytes 4 t ++ beBytes 1 l.length ++ [0, 0, 0] ++ l.flatMap fun (b, i) =>
    beBytes 3 (b.remVertex + i.classes * 2 ^ 19) ++ [0] ++ beBytes 2 i.demand ++ [0, 0] ++ beBytes 4 i.eta ++ beBytes 4 i.t0

/-- Send the border items of a tick, at most 64 to a message (R225). -/
def sendBorders (s : State) (t : Nat) (out : List (BorderLink × Item)) : State :=
  let mods := ((out.map fun x => x.1.remMod).sortBy fun a b => decide (a ≤ b)).eraseReps
  mods.foldl (fun s m =>
    let l := out.filter fun x => decide (x.1.remMod = m)
    (List.range ((l.length + 63) / 64)).foldl (fun s i =>
      let part := (l.drop (64 * i)).take 64
      countBy (spanSend s m 2 (borderBody t part)) (Reg.CAS_CNT_COUNT 6) part.length) s) s

/-- Every held item is discarded and every DEMAND is 0 (R221, R231). -/
def casWipe (s : State) : State := casUpd s fun c => { c with items := [], demand := [] }

/-- Edges that enabled vertices reference. -/
def edgesUsed (g : Graph) : Nat :=
  let l := (g.vtx.filterMap fun x => if x.2.en ∧ 0 < x.2.nedge then some (x.2.first, x.2.first + x.2.nedge) else none).sortBy
    fun a b => decide (a.1 ≤ b.1)
  (l.foldl (fun (a : Nat × Nat) x => (a.1 + (x.2 - max x.1 a.2), max a.2 x.2)) (0, 0)).1

/-- ACT_PEND ends with the completion of CAS_GRAPH_ACTIVATE, also with one that a fault brings (R224; log entry 156). -/
def actSettle (s : State) : State :=
  if (s.cas.activate.bind (cmdBySeq s)).isSome then s
  else setFlag (casUpd s fun c => { c with activate := none, taken := false }) Reg.CAS_STAT_ACT_PEND false

/-- The staging graph becomes active (R223). -/
def activateGraph (s : State) (seq : Nat) : State :=
  let g := s.cas.staging
  let gen := (fld s Reg.CAS_STAT_GEN + 1) % 65536
  let s1 := casUpd s fun c => { c with
    active := g
    demand := c.demand.filter fun x => (vtxAt g x.1).en
    taken := true }
  let s2 := actSettle (completeConfigSeq (setFld s1 Reg.CAS_STAT_GEN gen) seq (ansDone gen))
  emitBy (ckWrite s2) 0x0600 (leBytes 2 gen ++ [0, 0] ++ leBytes 3 (g.vtx.filter fun x => x.2.en).length ++ [0] ++ leBytes 3 (edgesUsed g)) seq

/-- The records of a DT second that is over (R220, R232). -/
def casSecond (s : State) : State :=
  let c := s.cas
  if c.second = dtSec s.dt then s
  else
    let s1 := if 0 < c.lost then emit s 0x0601 (leBytes 4 c.lost ++ leBytes 2 c.lostHigh) else s
    let s2 := if 0 < c.carried then emit s1 0x0602 (leBytes 4 c.carried) else s1
    casUpd s2 fun x => { x with second := dtSec s.dt, lost := 0, lostHigh := 0, carried := 0 }

/-- A tick begins: the second that is over is recorded, a waiting activation and waiting CLEARs take effect (R223, R231). -/
def casBegin (s : State) : State :=
  let s1 := match s.cas.activate with | some q => if s.cas.taken then s else activateGraph s q | none => s
  if s1.cas.clears.isEmpty then s1
  else s1.cas.clears.foldl (fun s q => completeSeq s q ansDone) (casUpd (casWipe s1) fun c => { c with clears := [] })

/-- Border items and the intake enter the tick (R213, R227). -/
def casTake (s : State) (first : Nat) : State :=
  let s1 := s.cas.borderIn.foldl (takeBorder first) (casUpd s fun c => { c with borderIn := [] })
  (s1.cas.intake.take 4096).foldl takeEvent (casUpd s1 fun c => { c with intake := c.intake.drop 4096 })

/-- Items that are due and were not processed are carried (R217). -/
def casCarry (s : State) (t : Nat) : State :=
  let late := (s.cas.items.filter fun i => tickLe i.fire t).length
  if late = 0 then s
  else setErr (countBy (casUpd s fun c => { c with carried := c.carried + late }) (Reg.CAS_CNT_COUNT 5) late) Reg.CAS_ERR_OVERRUN

/-- OUT of every vertex at the end of a tick (R216). -/
def casShow (s : State) (t : Nat) : State :=
  let out := s.cas.demand.filterMap fun x => let v := vtxValue s x.1 t; if v = 0 then none else some (x.1, v)
  casUpd s fun c => { c with out := out, demand := c.demand.filter fun x => out.any fun y => decide (y.1 = x.1) }

/-- The tick's own work: items are drained, carried, shown and sent. -/
def casWork (s : State) (first t span : Nat) : State :=
  let r := drainItems t (16384 * span) (131072 * span + 1) { s := casTake s first }
  let s1 := casShow (casCarry r.s t) t
  let n := s1.cas.items.length
  let s2 := if fld s1 Reg.CAS_PEAK_PEAK < n then setFld s1 Reg.CAS_PEAK_PEAK n else s1
  sendBorders (setFld s2 Reg.CAS_PEND_ITEMS n) t r.out

/-- One tick of Cascade: `first` is its first tick index, `t` its last, `span` the number of tick indices (R215, R222). -/
def cascadeTick (s : State) (first t span : Nat) : State :=
  if domState s 9 ≠ 2 then s else
  let s0 := if s.cas.fell then casUpd (casWipe s) fun c => { c with fell := false } else s
  let s1 := casBegin (casSecond s0)
  if flag s1 Reg.CAS_CTRL_EN then casWork s1 first t span
  else setFld (casUpd (casWipe s1) fun c => { c with intake := [], borderIn := [], out := [] }) Reg.CAS_PEND_ITEMS 0

/-- Cascade's share of a DT step of `d` units (R228). -/
def cascadeStep (s : State) (d : Int) : State :=
  let k := roundAway (d * 20) 65536
  casUpd s fun c => { c with
    last := c.demand.foldl (fun m x => m.set x.1 (tickAdd (c.last.get x.1 0) k) 0) c.last
    items := c.items.map fun i => { i with eta := tickAdd i.eta k, t0 := tickAdd i.t0 k, fire := tickAdd i.fire k }
    intake := c.intake.map fun e => { e with e := tickAdd e.e k } }

/-! ### Borders between modules (R227) -/

/-- The items of a BORDER_DEMAND body. -/
def borderItems (l : List Byte) : List BorderItem :=
  (List.range (fieldBE l 4 1)).filterMap fun i =>
    let o := 8 + 16 * i
    if o + 16 ≤ l.length then
      let w := fieldBE l o 3
      some { vertex := w % 2 ^ 19, classes := bits w 21 19, demand := fieldBE l (o + 4) 2, eta := fieldBE l (o + 8) 4,
             t0 := fieldBE l (o + 12) 4, sent := fieldBE l 0 4 }
    else none

/-- Accept or reject one item from a module. -/
def acceptBorder (src : Nat) (s : State) (b : BorderItem) : State :=
  if flag s Reg.CAS_CTRL_BORDER_EN ∧ s.cas.borders.any fun x => x.2.en && x.2.isIn && x.2.remMod = src && x.2.loc = b.vertex then
    casUpd (count1 s (Reg.CAS_CNT_COUNT 7)) fun c => { c with borderIn := c.borderIn ++ [b] }
  else setErr (count1 s (Reg.CAS_CNT_COUNT 9)) Reg.CAS_ERR_BORDER_REJECT

/-- What a BORDER_DEMAND message does. -/
def borderDemand (s : State) (m : SpanMsg) : State := (borderItems m.body).foldl (acceptBorder m.src) s

def execBorderDemand (p : Fin 4) (l : List Byte) (s : State) : Host.Outcome State Fault Refusal :=
  .next (
    if spanKind l ≠ 2 then s
    else
      match spanRx s p.val l with
      | (s1, some m) => borderDemand s1 m
      | (s1, none) => s1)

/-! ### Opcodes (R231) -/

/-- First index and COUNT of a range of `limit` records, the first index in `n` bytes at `o`. -/
def spanChks (c : Cmd) (o n limit most : Nat) : List Chk :=
  let f := c.op o n
  let k := c.op 20 4
  [rangeChk (decide (limit ≤ f)) o, rangeChk (decide (k < 1 ∨ most < k)) 20, rangeChk (decide (f < limit ∧ limit < f + k)) 20]

/-- Write `k` records from buffer bytes into a sparse table. -/
def loadFrom {α : Type} [DecidableEq α] (m : SMap α) (first : Nat) (d : α) (l : List α) : SMap α :=
  l.zipIdx.foldl (fun m (x, i) => m.set (first + i) x d) m

def bodyCasVertexLoad (s : State) (c : Cmd) : Work := do
  let k := c.op 20 4
  checkOps (opChks c [(16, 3), (20, 4)] [(0, 16 * min k 65536)] ++ spanChks c 16 3 numVtx 65536)
  let b ← readBuf s c 0
  checkBuf 0 ((List.range k).flatMap fun i => vtxChks b (16 * i))
  stopIf s.cas.activate.isSome (ansBadState 0x0001)
  let l := (List.range k).map fun i => Vtx.ofBytes (b.drop (16 * i))
  pure (casUpd s fun x => { x with staging := { x.staging with vtx := loadFrom x.staging.vtx (c.op 16 3) {} l } }, some (ansDone k))

def execCasVertexLoad (sq : Fin 16) (s : State) : Host.Outcome State Fault Refusal := .next (runRing s sq 0x0600 bodyCasVertexLoad)

def bodyCasEdgeLoad (s : State) (c : Cmd) : Work := do
  let k := c.op 20 4
  checkOps (opChks c [(16, 3), (20, 4)] [(0, 8 * min k 131072)] ++ spanChks c 16 3 numEdge 131072)
  let b ← readBuf s c 0
  checkBuf 0 ((List.range k).flatMap fun i => edgeChks b (8 * i))
  stopIf s.cas.activate.isSome (ansBadState 0x0001)
  let l := (List.range k).map fun i => fieldLE b (8 * i) 8
  pure (casUpd s fun x => { x with staging := { x.staging with edges := loadFrom x.staging.edges (c.op 16 3) 0 l } }, some (ansDone k))

def execCasEdgeLoad (sq : Fin 16) (s : State) : Host.Outcome State Fault Refusal := .next (runRing s sq 0x0601 bodyCasEdgeLoad)

def bodyCasStageSync (s : State) (c : Cmd) : Work := do
  checkOps (opChks c [] [])
  stopIf s.cas.activate.isSome (ansBadState 0x0001)
  pure (casUpd s fun x => { x with staging := x.active }, some ansDone)

def execCasStageSync (sq : Fin 16) (s : State) : Host.Outcome State Fault Refusal := .next (runRing s sq 0x0602 bodyCasStageSync)

/-- The lowest staged vertex that refuses the activation, with its reason (R223). -/
def stageRefusal (s : State) : Option (Nat × Nat) :=
  s.cas.staging.vtx.findSome? fun (v, x) =>
    let b := s.cas.borders.get x.link {}
    if !x.en then none
    else if numEdge < x.first + x.nedge then some (1, v)
    else if x.border && (!b.en || b.isIn || b.loc ≠ v) then some (2, v)
    else none

def bodyCasGraphActivate (s : State) (c : Cmd) : Work := do
  checkOps (opChks c [] [])
  stopIf s.cas.activate.isSome (ansBadState 0x0001)
  match stageRefusal s with
  | some (r, v) =>
    .error (.ansIn (setFld (setFld (setFld s Reg.CAS_GRAPH_ERR_REASON r) Reg.CAS_GRAPH_ERR_KIND 1) Reg.CAS_GRAPH_ERR_INDEX v)
      (ansBadState 0x0002))
  | none => pure (setFlag (casUpd s fun x => { x with activate := some c.seq }) Reg.CAS_STAT_ACT_PEND true, none)

def execCasGraphActivate (sq : Fin 16) (s : State) : Host.Outcome State Fault Refusal := .next (runRing s sq 0x0603 bodyCasGraphActivate)

/-- An enabled CLASS 1 vertex of either copy names a border link. -/
def borderNamed (s : State) (i : Nat) : Bool :=
  let names (g : Graph) := g.vtx.any fun x => x.2.en && x.2.border && x.2.link = i
  names s.cas.active || names s.cas.staging

def bodyCasBorderSet (s : State) (c : Cmd) : Work := do
  let i := c.op 16 2
  let f := c.op 18 1
  let b : BorderLink := { en := bit f 0, isIn := bit f 1, loc := c.op 20 3 % 2 ^ 19, remMod := c.op 24 2 % 4096,
                          remVertex := c.op 28 3 % 2 ^ 19 }
  checkOps (opChks c [(16, 3), (20, 3), (24, 2), (28, 3)] [] ++
    [rangeChk (decide (4096 ≤ i)) 16, rsvChk (decide (4 ≤ f)) 18, rangeChk (decide (numVtx ≤ b.loc)) 20,
     rsvChk (decide (2 ^ 19 ≤ c.op 20 3)) 22, rsvChk (decide (4096 ≤ c.op 24 2)) 25, rangeChk (decide (numVtx ≤ b.remVertex)) 28,
     rsvChk (decide (2 ^ 19 ≤ c.op 28 3)) 30])
  let o := s.cas.borders.get i {}
  stopIf (((o.en && !b.en) || b.isIn ≠ o.isIn || b.loc ≠ o.loc) && borderNamed s i) (ansBadState 0x0003)
  pure (casUpd s fun x => { x with borders := x.borders.set i b {} }, some ansDone)

def execCasBorderSet (sq : Fin 16) (s : State) : Host.Outcome State Fault Refusal := .next (runRing s sq 0x0604 bodyCasBorderSet)

def bodyCasInject (s : State) (c : Cmd) : Work := do
  let w := c.op 16 3
  checkOps (opChks c [(16, 5)] [] ++
    [rangeChk (decide (numVtx ≤ w % 2 ^ 19)) 16, rangeChk (decide (bits w 21 19 = 0)) 18, rsvChk (decide (2 ^ 22 ≤ w)) 18])
  stopIf (!flag s Reg.CAS_CTRL_EN) (ansBadState 0x0004)
  stopIf (decide (4096 ≤ s.cas.intake.length)) (ansRetry 1)
  pure (intakePut s { vertex := w % 2 ^ 19, classes := bits w 21 19, strength := c.op 19 1, e := eventTick s.dt (c.op 20 1) },
    some ansDone)

def execCasInject (sq : Fin 16) (s : State) : Host.Outcome State Fault Refusal := .next (runRing s sq 0x0605 bodyCasInject)

/-- OUT of a vertex as it may be read: 0 while EN is 0 (R221). -/
def casOut (s : State) (v : Nat) : Nat := if flag s Reg.CAS_CTRL_EN then s.cas.out.get v 0 else 0

def bodyCasDemandRead (s : State) (c : Cmd) : Work := do
  let k := c.op 20 4
  checkOps (opChks c [(16, 3), (20, 4)] [(1, 8 * min k 65536)] ++ spanChks c 16 3 numVtx 65536)
  let s1 ← writeBuf s c 0 ((List.range k).flatMap fun i =>
    let v := c.op 16 3 + i
    leBytes 2 (casOut s v) ++ [0, 0] ++ leBytes 4 (s.cas.last.get v 0))
  pure (s1, some (ansDone k))

def execCasDemandRead (sq : Fin 16) (s : State) : Host.Outcome State Fault Refusal := .next (runRing s sq 0x0606 bodyCasDemandRead)

def bodyCasGraphRead (s : State) (c : Cmd) : Work := do
  let kind := c.op 16 1
  let f := c.op 17 3
  let k := c.op 20 4
  let vert := decide (kind % 2 = 0)
  checkOps (opChks c [(16, 8)] [(1, if vert then 16 * min k 65536 else 8 * min k 131072)] ++ [rangeChk (decide (3 < kind)) 16] ++
    (if vert then spanChks c 17 3 numVtx 65536 else spanChks c 17 3 numEdge 131072))
  let g := if kind < 2 then s.cas.active else s.cas.staging
  let s1 ← writeBuf s c 0 ((List.range k).flatMap fun i =>
    if vert then
      (if kind = 0 then (vtxAt g (f + i)).bytes (s.cas.demand.get (f + i) 0) (s.cas.last.get (f + i) 0)
       else (vtxAt g (f + i)).bytes 0 0)
    else leBytes 8 (g.edges.get (f + i) 0))
  pure (s1, some (ansDone k))

def execCasGraphRead (sq : Fin 16) (s : State) : Host.Outcome State Fault Refusal := .next (runRing s sq 0x0607 bodyCasGraphRead)

def bodyCasClear (s : State) (c : Cmd) : Work := do
  checkOps (opChks c [] [])
  pure (casUpd s fun x => { x with clears := x.clears ++ [c.seq] }, none)

def execCasClear (sq : Fin 16) (s : State) : Host.Outcome State Fault Refusal := .next (runRing s sq 0x0608 bodyCasClear)

end Sys2Proof.Machine
end

