-- ==== Sys2Proof/Machine/Lanes.lean ====
section
/-! DEFINITION. Lanes and their spares: retirement and the start-up self-test (R34, R122, R219, R250, R473, R475, R479). -/

namespace Sys2Proof.Machine

def bstUpd (s : State) (f : BstSt → BstSt) : State := { s with bst := f s.bst }

/-- Target codes (R478): the arrays and the analogue targets. -/
def isDemod (t : Nat) : Bool := decide (t < 68)
def isCasLane (t : Nat) : Bool := decide (0x48 ≤ t ∧ t ≤ 0x50)
def isWeiLane (t : Nat) : Bool := decide (0x58 ≤ t ∧ t ≤ 0x60)
def isLane (t : Nat) : Bool := isDemod t || isCasLane t || isWeiLane t
def isTarget (t : Nat) : Bool := isLane t || decide (0x68 ≤ t ∧ t ≤ 0x6D)

/-- The domain of a target's block. -/
def targetDomain (t : Nat) : Nat :=
  if isDemod t then 8 else if isLane t then 9 else
    match t with | 0x68 => 5 | 0x69 => 6 | 0x6A => 8 | 0x6D => 10 | _ => 11

/-- Demodulators that have failed. -/
def badDemods (s : State) : Nat := (s.bst.lanes.filter isDemod).length

/-- The array of a lane has a spare that works and stands in for none. -/
def spareFree (s : State) (t : Nat) : Bool :=
  if isDemod t then decide (badDemods s < 4)
  else if isCasLane t then flag s Reg.CAS_STAT_SPARE
  else flag s Reg.WEI_STAT_SPARE

/-- DEMODS and SPARES (R122). -/
def showDemods (s : State) : State :=
  let n := 68 - badDemods s
  setFld (setFld s Reg.RAD_STAT_DEMODS (min 64 n)) Reg.RAD_STAT_SPARES (n - 64)

/-- A lane of Cascade fails for good, its place being `t`, 8 for the spare: the spare steps in, or a lane is lost (R219). -/
def loseCas (s : State) (t : Nat) : State :=
  if flag s Reg.CAS_STAT_SPARE then
    setFld (if t = 8 then s else bstUpd s fun b => { b with casSub := some t }) Reg.CAS_STAT_SPARE 0
  else
    let lane := if t = 8 then s.bst.casSub else some t
    match lane with
    | none => s
    | some n =>
      let s1 := casUpd s fun c => { c with deadLanes := c.deadLanes ++ [n] }
      let s2 := bstUpd s1 fun b => { b with casSub := if t = 8 then none else b.casSub }
      setErr (setFld s2 Reg.CAS_STAT_LANES (8 - s2.cas.deadLanes.length)) Reg.CAS_ERR_LANE_SHORT

/-- The same for a lane of Weir (R250). -/
def loseWei (s : State) (t : Nat) : State :=
  if flag s Reg.WEI_STAT_SPARE then
    setFld (if t = 8 then s else bstUpd s fun b => { b with weiSub := some t }) Reg.WEI_STAT_SPARE 0
  else if t = 8 ∧ s.bst.weiSub.isNone then s
  else
    let s1 := bstUpd s fun b => { b with weiSub := if t = 8 then none else b.weiSub }
    setErr (setFld s1 Reg.WEI_STAT_LANES (fld s1 Reg.WEI_STAT_LANES - 1)) Reg.WEI_ERR_LANE_SHORT

/-- Retire a lane (R473): LANE_RETIRED carries the target, and bit 8 when no spare is left. -/
def retireLane (s : State) (t : Nat) : State :=
  if s.bst.lanes.contains t then s
  else
    let s1 := bstUpd s fun b => { b with lanes := b.lanes ++ [t] }
    let s2 := if isDemod t then showDemods s1 else if isCasLane t then loseCas s1 (t - 0x48) else loseWei s1 (t - 0x58)
    fault (setErr s2 Reg.BST_ERR_RETIRED) 0x0F 0x8F01 false (t + 256 * b2n (!spareFree s2 t))

/-- A reference check that failed twice (R474): signed deviation in 0.01 %. -/
def refFail (s : State) (t : Nat) (dev : Int) : State :=
  fault (setErr s Reg.BST_ERR_REF) 0x0F 0x8F04 false (t + 65536 * ofSigned 16 dev)

/-- Every block works at full rated capacity (R475). -/
def fullCapacity (s : State) : Bool :=
  decide (fld s Reg.RAD_STAT_DEMODS = 64 ∧ fld s Reg.CAS_STAT_LANES = 8 ∧ fld s Reg.WEI_STAT_LANES = 8)

/-- The start-up self-test: failing lanes are retired, and START says PASS or FAIL (R475). -/
def selfTest (s : State) (failed : List (Nat × Int)) : State :=
  let bad := failed.filter fun x => isTarget x.1
  let s1 := bad.foldl (fun s x => if isLane x.1 then retireLane s x.1 else refFail s x.1 x.2) s
  setFld s1 Reg.BST_STAT_START (if fullCapacity s1 ∧ bad.all fun x => isLane x.1 then 1 else 2)

end Sys2Proof.Machine
end

