-- ==== Sys2Proof/Machine/Ckpt.lean ====
section
/-! DEFINITION. The registers that the configuration checkpoint holds, and their loading at the radio step and at a DOM reset (R140,
R185, R208, R233, R255, R287, R313, R338, R366, R405, R465, R481, R483, R523, R526; log entry 100). -/

namespace Sys2Proof.Machine

/-- The RW and RWL fields of a card, as a mask. -/
def hostMask (c : Card) : Nat :=
  (c.fields.map fun f => if f.acc = .rw ∨ f.acc = .rwl then 2 ^ (f.hi + 1) - 2 ^ f.lo else 0).sum

/-- Bits of a card's registers that the checkpoint holds. -/
def savedMask (c : Card) : Nat :=
  let a := c.base
  if a = 0x4000 then 0x1D
  else if a = 0x6000 then 0x3F
  else if a = 0x7000 then 0x1
  else if a = 0x8000 then 0x5
  else if a = 0x9000 then 0x3
  else if [0x6008, 0x600C, 0x6010, 0x7008, 0x700C, 0x8008, 0x8010, 0xB000, 0xB008, 0xB00C, 0xB010, 0xE000, 0x16008, 0x1600C, 0x16010].contains a ∨
      0xA000 ≤ a ∧ a < 0xB000 ∨ 0xC000 ≤ a ∧ a < 0xE000 ∧ a ≠ 0xD104 ∨ 0x12000 ≤ a ∧ a < 0x15000 then hostMask c
  else 0

/-- The bits of `v` under a mask, with the other bits of `w`. -/
def mergeWord (mask : Nat) (v w : Word) : Word := (v &&& BitVec.ofNat 32 mask) ||| (w &&& ~~~BitVec.ofNat 32 mask)

/-- The saved bits of a register at an offset. -/
def savedBits (off : Nat) : Nat := match cardAt off with | some (c, _) => savedMask c | none => 0

/-- The checkpoint takes the present value of a register. -/
def ckSave (s : State) (off : Nat) : State :=
  let r := resetVal off
  { s with pwr := { s.pwr with ckRegs := s.pwr.ckRegs.set off (mergeWord (savedBits off) (reg s off) r) r, ckHas := true } }

/-- Set the saved fields of the cards that satisfy a predicate from the checkpoint. -/
def ckLoad (s : State) (p : Card → Bool) : State :=
  s.pwr.ckRegs.foldl (fun s x => match cardAt x.1 with
    | some (c, _) => if p c then setReg s x.1 (mergeWord (savedMask c) x.2 (reg s x.1)) else s
    | none => s) s

end Sys2Proof.Machine
end

