-- ==== Sys2Proof/Machine/Keys.lean ====
section
/-! DEFINITION. Coop's commands: key updates, the life cycle, uses by the host, and clearing of security records
(R310, R413-R429). -/

namespace Sys2Proof.Machine

/-! ### Life cycle (R420-R424) -/

/-- LC_ADVANCE targets (R421). -/
def mayAdvance (old n : Nat) : Bool :=
  decide ((old = 1 ∧ n = 2) ∨ (old = 2 ∧ n = 3) ∨ ((old = 2 ∨ old = 3) ∧ n = 4) ∨ (1 ≤ old ∧ old ≤ 4 ∧ n = 5))

/-- A write of KEY_CTRL.PUF_CLEAR (R424). -/
def pufClear (s : State) : State :=
  if (lifeCycle s = 1 ∨ lifeCycle s = 4) ∧ (List.range 64).all fun n => decide ((slotAt s n).attr = 0) then
    setFlag (setFld (keyUpd s fun k => { k with root := none }) Reg.KEY_STAT_ROOT 3) Reg.KEY_STAT_SCAN_OK true
  else setErr s Reg.KEY_ERR_CFG

def execPufClear (s : State) : Host.Outcome State Fault Refusal := .next (if domState s 1 = 2 then pufClear s else pdAccess s true 0x10000)

/-! ### Key updates (R415-R419) -/

/-- A key-update message's fields. -/
structure KeyMsg where
  op : Nat
  target : Nat
  gen : Nat
  uid : List Byte
  counter : Nat
  attr : Nat
  len : Nat
  pub : List Byte
  body : List Byte
  sig : List Byte
  signed : List Byte

def KeyMsg.ofBytes (b : List Byte) : KeyMsg :=
  let n := fieldLE b 32 2
  { op := fieldLE b 5 1, target := fieldLE b 6 1, gen := fieldLE b 7 1, uid := sliceB b 8 16, counter := fieldLE b 24 4,
    attr := fieldLE b 28 4, len := n, pub := sliceB b 64 96, body := sliceB b 160 n, sig := sliceB b (160 + n) 96,
    signed := b.take (160 + n) }

/-- BODY_LEN by OP. -/
def bodyLen (op type : Nat) : Nat :=
  match op with
  | 0 => keyLen type + 8
  | 2 => 48
  | 4 => 512
  | _ => 0

/-- Layout checks of a message (R416); the record of OTP_CONFIG has its zero bytes too (R16, R426). -/
def keyMsgChks (s : State) (b : List Byte) : List Chk :=
  let m := KeyMsg.ofBytes b
  let a := m.attr
  let ty := bits a 22 20
  let w := decide (m.op = 0)
  let zero (o n : Nat) : List Chk := match firstNonZero b o n with | some x => [rsvChk true x] | none => []
  [rangeChk (decide (fieldLE b 0 4 ≠ 0x554B5244)) 0, rangeChk (decide (fieldLE b 4 1 ≠ 1)) 4, rangeChk (decide (4 < m.op)) 5,
   rangeChk (decide (m.op ≤ 1 ∧ 63 < m.target)) 6, rangeChk (decide (3 < m.gen)) 7] ++
  (if w then
    [rsvChk (bit a 7) 28, rsvChk (decide (bits a 15 13 ≠ 0)) 29, rsvChk (decide (bits a 19 18 ≠ 0) || bit a 23) 30,
     rangeChk (decide (ty < 1 ∨ 5 < ty)) 30, rsvChk (bit a 31) 31, rangeChk (!bit a (24 + lifeCycle s)) 31]
   else zero 28 4) ++
  [rangeChk (decide (m.op ≤ 4 ∧ m.len ≠ bodyLen m.op ty)) 32] ++ zero 34 30 ++
  (if m.op = 4 then zero 165 3 ++ [rsvChk (decide (1 < fieldLE b 172 1)) 172, rsvChk (decide (1 < fieldLE b 173 1)) 173] ++ zero 174 494
   else [])

/-- The checks after the layout, in the order of R416. -/
def keyMsgJudge (s : State) (m : KeyMsg) : Option Answer :=
  let lc := lifeCycle s
  let k := slotAt s m.target
  let stored := fld s Reg.KEY_COUNTER_COUNT
  let allowed := decide ((m.op ≤ 1 ∧ 1 ≤ lc ∧ lc ≤ 3) ∨ (2 ≤ m.op ∧ 1 ≤ lc ∧ lc ≤ 4))
  if authGen s ≠ some m.gen then some (ansBadSig 0x0001)
  else if sha384 m.pub ≠ authHash s m.gen then some (ansBadSig 0x0002)
  else if !ecdsaVerify m.pub (sha384 m.signed) m.sig then some (ansBadSig 0x0003)
  else if m.uid ≠ Config.uid then some (ansBadSig 0x0004)
  else if m.counter ≤ stored then some { ansStale 0x0001 with result := stored }
  else if stored + 1 < m.counter then some { ansStale 0x0002 with result := stored }
  else if !allowed then some (ansDenied 0x0003)
  else if m.op ≤ 1 ∧ k.attr ≠ 0 ∧ bit k.attr 30 then some (ansBadState 0x0001)
  else if m.op = 1 ∧ k.attr = 0 then some (ansBadState 0x0002)
  else if m.op = 2 ∧ (m.target ≠ m.gen + 1 ∨ 3 < m.target ∨ (authWritten s m.target ∧ authHash s m.target ≠ m.body)) then
    some (ansBadState 0x0003)
  else if m.op = 4 ∧ (List.range 4).find? (fun g => !cfgWritten s g) ≠ some m.target then some (ansBadState 0x0004)
  else if m.op = 3 ∧ !mayAdvance lc m.target then some (ansBadState 0x0005)
  else if m.op = 0 ∧ keyUnwrap (transportKey s) m.body = none then some (ansIntegrity 0x0001)
  else none

/-- Accepting a message burns OTP. -/
def keyMsgBurns (s : State) (m : KeyMsg) : Bool :=
  decide (2 ≤ m.op) || (decide (m.counter % 4096 = 0) && decide (floorBits s < 8192))

/-- What an accepted message still has to do after step 1 of R417. -/
def keyStages (op : Nat) : List KeyStage :=
  match op with
  | 0 | 1 => [.store, .record, .crc, .done]
  | 2 => [.hash, .revoke, .record, .crc, .done]
  | 3 => [.pend, .burn, .zeroise, .lcRecord, .lcEvent, .record, .crc, .done]
  | 4 => [.config, .record, .crc, .done]
  | _ => [.pend, .burn, .zeroise, .lcRecord, .lcEvent, .done]

/-- An accepted message: step 1 burns the next floor bit at a multiple of 4,096, and the other steps follow, each in a unit of time (R417,
R419, R422; log entry 97). -/
def keyMsgStart (s : State) (m : KeyMsg) (seq : Nat) : State :=
  let fb := floorBits s
  let s1 := if m.counter % 4096 = 0 ∧ fb < 8192 then otpBurn s (0x180 + fb / 8) [BitVec.ofNat 8 (2 ^ (fb % 8))] else s
  let body := if m.op = 0 then (keyUnwrap (transportKey s) m.body).getD [] else m.body
  keyUpd s1 fun k => { k with job := some {
    op := m.op, target := m.target, gen := m.gen, counter := m.counter, attr := m.attr, body := body, old := lifeCycle s, seq := seq,
    left := keyStages m.op } }

/-- The end of a key update or of KEY_SCRAP: its events and record, and its completion. -/
def keyDone (s0 : State) (j : KeyJob) : State :=
  let s := otpShow s0
  if 4 < j.op then completeSeq (keyAudit s 6 5 0 0) j.seq ansDone
  else
    let s1 := count1 s (Reg.KEY_CNT_COUNT 0)
    let s2 :=
      if j.op = 2 then emitBy s1 0x0D02 (leBytes 1 ((authGen s1).getD 0)) j.seq
      else if j.op = 4 then emitBy s1 0x0D03 (leBytes 1 j.target) j.seq
      else s1
    let s3 := emitBy s2 0x0D00 (leBytes 1 j.op ++ leBytes 1 j.target ++ [0, 0] ++ leBytes 4 j.counter) j.seq
    completeSeq (keyAudit s3 j.op j.target 0 j.counter) j.seq (ansDone j.counter)

/-- One step of a key update or a transition (R417, R419, R422). -/
def keyStage (s : State) (j : KeyJob) : KeyStage → State
  | .store => let s1 := if j.op = 0 then setSlot s j.target j.attr j.body else setSlot s j.target 0 []; storeWrite s1 s1.key.lcRec.salt
  | .hash => if authWritten s j.target then s else otpBurn s (0x80 + 48 * j.target) j.body
  | .revoke => otpBurn s 0x140 [BitVec.ofNat 8 (2 ^ j.gen)]
  | .config => otpBurn s (0x580 + 512 * j.target) j.body
  | .pend => lcBegin s j.target j.op j.counter
  | .burn => lcBurn s j.target
  | .zeroise =>
    let n := (doomed s j.target).length
    match s.key.lcPend with
    | some p => keyUpd (lcZeroise s p) fun k => { k with job := k.job.map fun x => { x with gone := n } }
    | none => s
  | .lcRecord => match s.key.lcPend with | some p => lcRecord s p | none => s
  | .lcEvent => emitBy s 0x0D01 (leBytes 1 j.old ++ leBytes 1 j.target ++ leBytes 1 j.gone) j.seq
  | .record => recWrite s j.counter
  | .crc => recClose s
  | .done => keyDone s j

/-- The next step of what Coop commits. -/
def keyStep (s : State) : State :=
  match s.key.job with
  | none => s
  | some j =>
    match j.left with
    | [] => s
    | g :: r =>
      let s1 := keyStage s j g
      keyUpd s1 fun k => { k with job := if r.isEmpty then none else k.job.map fun x => { x with left := r } }

/-- A refused message: counted, and recorded with its outcome (R416). -/
def keyMsgFail (s : State) (m : KeyMsg) (a : Answer) : State :=
  keyAudit (setErr (count1 s (Reg.KEY_CNT_COUNT 1)) Reg.KEY_ERR_UPDATE_FAIL) m.op m.target a.status m.counter

/-- KEY_UPDATE; `burnOk` says that OTP burns of this command succeed (R418). -/
def bodyKeyUpdate (burnOk : Bool) (s : State) (c : Cmd) : Work := do
  checkOps (opChks c [] [(0, 256)])
  let b ← readBuf s c 0
  let m := KeyMsg.ofBytes b
  checkOps [⟨decide (c.bufLen 0 < 256 + m.len), 40, 0x04⟩]
  let fail (a : Answer) : Work := .error (.ansIn (keyMsgFail s m a) a)
  match worst (keyMsgChks s b) with
  | some k => fail (ansBadBuf 0 k.reason k.off)
  | none => match keyMsgJudge s m with
    | some a => fail a
    | none =>
      if keyMsgBurns s m && !burnOk then
        .error (.ansIn (setErr (keyMsgFail s m (ansHwFault 0x0D02)) Reg.KEY_ERR_OTP_WRITE) (ansHwFault 0x0D02))
      else pure (keyMsgStart s m c.seq, none)

def execKeyUpdate (sq : Fin 16) (burnOk : Bool) (s : State) : Host.Outcome State Fault Refusal :=
  .next (runRing s sq 0x0D00 (bodyKeyUpdate burnOk))

/-! ### Uses by the host (R412, R427) -/

/-- SLOT names no slot, or one whose TYPE does not suit the operation. -/
def slotChks (s : State) (c : Cmd) (types : List Nat) : List Chk :=
  let n := c.op 16 1
  let k := slotAt s n
  [rangeChk (decide (63 < n)) 16, ⟨decide (n ≤ 63 ∧ k.attr ≠ 0) && !types.contains k.type, 16, 0x03⟩]

/-- SQn acts in the secure world (R412, R426). -/
def secureSq (s : State) (sq : Nat) : Bool :=
  bit (fld s Reg.KEY_SQ_WORLD_SECURE) sq && decide (cfgField s 13 1 0 % 2 = 0)

/-- The state, with the slot's mask renewed, and the key of an allowed use by the host. -/
def hostUse (s : State) (c : Cmd) (usage : Nat) : Except Stop (State × List Byte) :=
  let k := slotAt s (c.op 16 1)
  if k.attr = 0 then .error (.ans (ansBadState 0x0008))
  else match useRefusal s k usage 12 (secureSq s c.sq) with
    | some d => .error (.ans (ansDenied d))
    | none => .ok (remask (count1 s (Reg.KEY_CNT_COUNT 3)) (c.op 16 1), k.value)

def bodyKeyInfo (s : State) (c : Cmd) : Work := do
  checkOps (opChks c [(16, 1)] [(1, 16)] ++ [rangeChk (decide (63 < c.op 16 1)) 16])
  let k := slotAt s (c.op 16 1)
  let kcv := if k.attr = 0 then List.replicate 8 0 else (kdfN k.value (ascii "COOP-KCV") [] 32).take 8
  let pub := if k.type = 4 ∧ 112 ≤ c.bufLen 0 then k.value else []
  let l := leBytes 4 k.attr ++ kcv ++ [0, 0, 0, 0] ++ pub
  let s1 ← writeBuf s c 0 l
  pure (s1, some (ansDone l.length))

def execKeyInfo (sq : Fin 16) (s : State) : Host.Outcome State Fault Refusal := .next (runRing s sq 0x0D01 bodyKeyInfo)

def bodyKeyCipher (s : State) (c : Cmd) : Work := do
  let dec := bit (c.op 17 1) 0
  let aad := c.op 18 2
  let overhead := 12 + aad + (if dec then 16 else 0)
  let n := c.bufLen 0 - overhead
  let out := n + (if dec then 0 else 16)
  checkOps (opChks c [(16, 4)] [(0, overhead + 1), (1, out)] ++ slotChks s c [1, 2] ++
    [rsvChk (decide (2 ≤ c.op 17 1)) 17, rangeChk (decide (1024 < aad)) 18, rangeChk (decide (65536 < n)) 48])
  let b ← readBuf s c 0
  let (s1, key) ← hostUse s c (if dec then 1 else 0)
  let iv := b.take 12
  let ad := (b.drop 12).take aad
  let d := b.drop (12 + aad)
  if dec then
    match gcmOpen key iv ad d with
    | none => .error (.ansIn s1 (ansIntegrity 0x0001))
    | some l =>
      let s2 ← writeBuf s1 c 1 (l.take n)
      pure (s2, some (ansDone n))
  else
    let s2 ← writeBuf s1 c 1 ((gcmSeal key iv ad d).take out)
    pure (s2, some (ansDone out))

def execKeyCipher (sq : Fin 16) (s : State) : Host.Outcome State Fault Refusal := .next (runRing s sq 0x0D02 bodyKeyCipher)

def bodyKeyMac (s : State) (c : Cmd) : Work := do
  let alg := c.op 17 1
  checkOps (opChks c [(16, 2)] [(0, 1), (1, 32)] ++ slotChks s c (if alg = 0 then [3] else [1, 2]) ++
    [rangeChk (decide (1 < alg)) 17, rangeChk (decide (65536 < c.bufLen 0)) 48])
  let b ← readBuf s c 0
  let (s1, key) ← hostUse s c 2
  let l := if alg = 0 then (hmacSha256 key b).take 32 else (aesCmac key b).take 16
  let s2 ← writeBuf s1 c 1 l
  pure (s2, some (ansDone (if alg = 0 then 32 else 16)))

def execKeyMac (sq : Fin 16) (s : State) : Host.Outcome State Fault Refusal := .next (runRing s sq 0x0D03 bodyKeyMac)

def bodyKeySign (s : State) (c : Cmd) : Work := do
  checkOps (opChks c [(16, 1)] [(0, 48), (1, 96)] ++ slotChks s c [5])
  let b ← readBuf s c 0
  let (s1, key) ← hostUse s c 3
  let (k, s2) := random s1 48
  let s3 ← writeBuf s2 c 1 ((ecdsaSign key (b.take 48) (leNat k)).take 96)
  pure (s3, some (ansDone 96))

def execKeySign (sq : Fin 16) (s : State) : Host.Outcome State Fault Refusal := .next (runRing s sq 0x0D04 bodyKeySign)

def bodyKeyVerify (s : State) (c : Cmd) : Work := do
  checkOps (opChks c [(16, 1)] [(0, 144)] ++ slotChks s c [4])
  let b ← readBuf s c 0
  let (s1, key) ← hostUse s c 4
  if ecdsaVerify key (b.take 48) ((b.drop 48).take 96) then pure (s1, some ansDone)
  else .error (.ansIn s1 (ansBadSig 0x0001))

def execKeyVerify (sq : Fin 16) (s : State) : Host.Outcome State Fault Refusal := .next (runRing s sq 0x0D05 bodyKeyVerify)

def bodyKeyDerive (s : State) (c : Cmd) : Work := do
  let n := c.op 17 1
  checkOps (opChks c [(16, 2)] [(0, 2), (1, n)] ++ slotChks s c [3] ++
    [rangeChk (decide (n < 16 ∨ 64 < n)) 17, rangeChk (decide (256 < c.bufLen 0)) 48])
  let b ← readBuf s c 0
  let (s1, key) ← hostUse s c 5
  let l := ((List.range ((n + 31) / 32)).flatMap fun i => hmacSha256 key (beBytes 4 (i + 1) ++ b ++ beBytes 4 (8 * n))).take n
  let s2 ← writeBuf s1 c 1 l
  pure (s2, some (ansDone n))

def execKeyDerive (sq : Fin 16) (s : State) : Host.Outcome State Fault Refusal := .next (runRing s sq 0x0D06 bodyKeyDerive)

def bodyKeyRandom (s : State) (c : Cmd) : Work := do
  let n := c.bufLen 0
  checkOps (opChks c [] [(1, 1)] ++ [rangeChk (decide (4096 < n)) 48])
  let (b, s1) := random (count1 s (Reg.KEY_CNT_COUNT 3)) n
  let s2 ← writeBuf s1 c 0 b
  pure (s2, some (ansDone n))

def execKeyRandom (sq : Fin 16) (s : State) : Host.Outcome State Fault Refusal := .next (runRing s sq 0x0D07 bodyKeyRandom)

/-- The 64 bytes of KEY_IDENTITY. -/
def identityPage (s : State) : List Byte :=
  padTo 64 (Config.uid ++ leBytes 8 Config.moduleEui ++ leBytes 1 (lifeCycle s) ++ leBytes 1 (fld s Reg.KEY_STAT_ROOT) ++
    leBytes 1 (fld s Reg.KEY_STAT_AUTH_GEN) ++ leBytes 1 ((cfgNewest s).getD 0xFF) ++ leBytes 4 (fld s Reg.KEY_COUNTER_COUNT) ++
    leBytes 2 (floorBits s) ++ leBytes 1 (fld s Reg.KEY_STAT_PUF_MAX_ERR) ++ leBytes 1 (fld s Reg.KEY_STAT_SLOTS))

def bodyKeyIdentity (s : State) (c : Cmd) : Work := do
  checkOps (opChks c [] [(1, 64)])
  let s1 ← writeBuf s c 0 (identityPage s)
  pure (s1, some (ansDone 64))

def execKeyIdentity (sq : Fin 16) (s : State) : Host.Outcome State Fault Refusal := .next (runRing s sq 0x0D08 bodyKeyIdentity)

/-- KEY_TK_EXPORT; its audit record stands when the write of the buffer fails (R533). -/
def bodyKeyTkExport (s : State) (c : Cmd) : Work := do
  checkOps (opChks c [] [(1, 32)])
  stopIf (flag s Reg.KEY_CTRL_TK_EXPORT_DIS) (ansBadState 0x0007)
  stopIf (decide (lifeCycle s ≠ 1)) (ansDenied 0x0003)
  let s1 ← writeBuf (keyAudit s 5 0 0 0) c 0 (transportKey s)
  pure (s1, some (ansDone 32))

def execKeyTkExport (sq : Fin 16) (s : State) : Host.Outcome State Fault Refusal := .next (runRing s sq 0x0D09 bodyKeyTkExport)

/-- KEY_SCRAP; `burnOk` as for KEY_UPDATE. -/
def bodyKeyScrap (burnOk : Bool) (s : State) (c : Cmd) : Work := do
  checkOps (opChks c [(16, 4)] [] ++ [rangeChk (decide (c.op 16 4 ≠ 0x0D2640FF)) 16])
  stopIf (decide (lifeCycle s = 5)) (ansBadState 0x0009)
  stopIf (!mayAdvance (lifeCycle s) 5) (ansDenied 0x0003)
  if burnOk then
    pure (keyUpd s fun k => { k with job := some { op := 6, target := 5, old := lifeCycle s, seq := c.seq, left := keyStages 6 } }, none)
  else .error (.ansIn (setErr s Reg.KEY_ERR_OTP_WRITE) (ansHwFault 0x0D02))

def execKeyScrap (sq : Fin 16) (burnOk : Bool) (s : State) : Host.Outcome State Fault Refusal :=
  .next (runRing s sq 0x0D0A (bodyKeyScrap burnOk))

/-- A byte of OTP as a host may read it: helper data and CHECK read 0. -/
def otpVisible (s : State) (a : Nat) : Byte := if 0xD80 ≤ a ∧ a < 0x1DA0 then 0 else otpByte s a

def bodyOtpRead (s : State) (c : Cmd) : Work := do
  let o := c.op 16 2
  let n := c.op 20 2
  checkOps (opChks c [(16, 2), (20, 2)] [(1, min n 8192)] ++
    [rangeChk (decide (o % 4 ≠ 0 ∨ 8192 ≤ o)) 16, rangeChk (decide (n < 4 ∨ 8192 < n ∨ 8192 < o + n)) 20])
  let s1 ← writeBuf s c 0 ((List.range n).map fun i => otpVisible s (o + i))
  pure (s1, some (ansDone n))

def execOtpRead (sq : Fin 16) (s : State) : Host.Outcome State Fault Refusal := .next (runRing s sq 0x0D0B bodyOtpRead)

/-! ### Clearing security records (R310) -/

/-- A class 3 record up to a SEQ is cleared: its header stays. -/
def clearRec (upTo : Nat) (r : CisRec) : CisRec :=
  if r.cls = 3 ∧ r.seq ≤ upTo then { r with payload := List.replicate r.payload.length 0, mark := 0x5A } else r

def bodyCisSecClear (s : State) (c : Cmd) : Work := do
  let upTo := c.op 24 6
  checkOps (opChks c [(24, 6)] [(0, 40)] ++ [rangeChk (decide (s.cis.nseq1 ≤ upTo)) 24])
  let b ← readBuf s c 0
  let valid (x : Nat × Nat) : Bool := !passedSec s x.2 300 && decide (x.1 = fieldLE b 0 8)
  stopIf (!s.cis.nonce.any valid) (ansBadState 0x0006)
  let hit (r : CisRec) : Bool := decide (r.cls = 3 ∧ r.seq ≤ upTo)
  stopIf ((List.range 4).any fun n =>
    let p := s.cis.snaps.get n {}
    flag s (Reg.CIS_SNAP_PINNED n) && bit (reg s (Reg.CIS_SNAP_PINNED n).off).toNat 3 &&
      (auditAll s).any fun r => hit r && decide (p.first ≤ r.seq ∧ r.seq ≤ p.last)) (ansBadState 0x0007)
  let n := fld s Reg.CIS_CTRL_CLEAR_SLOT
  let k := slotAt s n
  match internalUse s n 3 2 8 with
  | none =>
    .error (.ansIn (useRefused s) (ansDenied ((useRefusal s k 2 8 true).getD 1)))
  | some key =>
    let tag := hmacSha256 key (ascii "CISTERN-CLEAR" ++ beBytes 8 Config.moduleEui ++ beBytes 8 (fieldLE b 0 8) ++ beBytes 6 upTo)
    if tag ≠ (b.drop 8).take 32 then .error (.ans (ansBadSig 0x0001))
    else
      let cnt := ((auditAll s).filter hit).length
      let s1 := cisUpd s fun x => { x with
        nonce := none, arch1 := x.arch1.map (clearRec upTo), fram1 := x.fram1.map (clearRec upTo),
        framOld := x.framOld.map (clearRec upTo), pend1 := x.pend1.map (clearRec upTo) }
      pure (record (remask s1 n) 3 4 0x09 (leBytes 6 upTo ++ [0, 0] ++ leBytes 4 cnt ++ List.replicate 8 0), some (ansDone cnt))

def execCisSecClear (sq : Fin 16) (s : State) : Host.Outcome State Fault Refusal := .next (runRing s sq 0x0906 bodyCisSecClear)

end Sys2Proof.Machine
end

