-- ==== Sys2Proof/Machine/Sources.lean ====
section
/-! DEFINITION. The sources that Weir's loops read, and the contactors that Ox holds open (R242, R341, R374). -/

namespace Sys2Proof.Machine

/-- Ox holds the contactor of feeder f open (R374): byte 70 of the active bank is CONT_REPORT. -/
def contactorOpen (s : State) (f : Nat) : Bool :=
  let b := s.ox.banks.get (fld s Reg.OX_STAT_BANK) {}
  s.ox.hasProg && bit (fieldLE b.bytes 70 1) f && !bit (s.ox.com.get 0x8340 0) f

/-- Fountain's outputs are enabled (R362). -/
def ftnOutputs (s : State) : Bool :=
  flag s Reg.FTN_CTRL_EN && !flag s Reg.PWR_STAT_PF && !(flag s Reg.PWR_STAT_MODE && flag s Reg.FTN_CTRL_QUIET_OFF) && decide (role s = 0 ∨ role s = 2) &&
    decide (domState s 11 = 2)

/-- Duty code of an output channel in force since the last superframe boundary: external 0–65,535, sink k 65,536 + k (R344). -/
def codeLatched (s : State) (ch : Nat) : Nat := (s.ftn.latched.get ch (0, 0, 0)).1

/-- A fault other than SHORT is latched on a sink (R341, R346). -/
def sinkDown (s : State) (k : Nat) : Bool :=
  flag s (Reg.FTN_SINK_STAT_OPEN k) || flag s (Reg.FTN_SINK_STAT_OT k) || flag s (Reg.FTN_SINK_STAT_PIN k)

/-- A sink is active (R341). -/
def sinkActive (s : State) (k : Nat) : Bool :=
  flag s (Reg.FTN_SINK_CFG_EN k) && !sinkDown s k && decide (0 < codeLatched s (65536 + k)) && ftnOutputs s && s.ftn.outputsOn &&
    !outOfService s 0x6C

/-- The lowest headroom in mV over the active sinks. -/
def lowestHeadroom (s : State) : Option Nat :=
  (((List.range 16).filter (sinkActive s)).map fun k => s.ftn.headroom.get k 0).foldl
    (fun (a : Option Nat) x => some (match a with | some y => min x y | none => x)) none

/-- A source of Basin (R242): feeder, phase and quantity of INDEX; `none` while the feeder is dead. -/
def basinSource (s : State) (i : Nat) : Option Nat :=
  let f := i % 8
  let p := bits i 4 3
  let v := (fdrAt s f).vals.getD {}
  let ph (k : Nat) : PhaseVals := v.ph.get k {}
  let per (q : Nat) (g : PhaseVals → Nat) : Nat :=
    if p < 3 then g (ph p) else Config.threePhase q (g (ph 0)) (g (ph 1)) (g (ph 2)) % 2 ^ 64
  let least := match phasesOf s f with
    | [] => 0
    | a :: r => r.foldl (fun m k => b64.min m (ph k).vrms) (ph a).vrms
  if flag s (Reg.BAS_FDR_STAT_DEAD f) then none
  else
    some (b64.to b32 (match bits i 7 5 with
      | 0 => if p < 3 then (ph p).p else v.pSum
      | 1 => per 1 PhaseVals.vrms
      | 2 => per 2 PhaseVals.irms
      | 3 => v.ires
      | 4 => v.freq
      | _ => least))

/-- The last AMBIENT report of an endpoint in lx, while it is fresh and the entry is ACTIVE (R242). -/
def ambientSource (s : State) (n : Nat) : Option Nat :=
  match s.mac.ambient.get n none with
  | some (lux, t) =>
    if passedSec s t (fld s Reg.WEI_CFG_AMB_STALE) ∨ (entAt s n).state ≠ 3 then none else some (b32.ratio false lux 100)
  | none => none

/-- A loop. -/
def loopAt (s : State) (n : Nat) : Loop := s.weir.loops.get n {}

/-- The value of a source word in binary32, `none` while it is invalid (R242). -/
def srcValue (s : State) (spConst w : Nat) : Option Nat :=
  let i := w % 2 ^ 24
  match w / 2 ^ 24 with
  | 0 => some spConst
  | 1 => basinSource s i
  | 2 => some (ain s i)
  | 3 => ambientSource s i
  | 4 => let l := loopAt s i; if l.en && !l.held then some l.y else none
  | 5 => if fld s Reg.OX_STAT_STATE = 2 then some (s.ox.com.get (0x8200 + i) 0) else none
  | 6 => spanValue s i
  | 7 => let t := sfld s Reg.PWR_TEMP_LID; some (b32.ratio (decide (t < 0)) t.natAbs 100)
  | 8 => (lowestHeadroom s).map fun h => b32.ratio false h 1000
  | _ => some (b32.ratio false s.ftn.vout 100)

end Sys2Proof.Machine
end

