-- ==== Sys2Proof/Machine/Weir.lean ====
section
/-! DEFINITION. Weir: the sample, regions, competition, injection, capture and its opcodes (chapter 08). -/

namespace Sys2Proof.Machine

def weirUpd (s : State) (f : WeirSt → WeirSt) : State := { s with weir := f s.weir }
def setLoop (s : State) (n : Nat) (l : Loop) : State := weirUpd s fun w => { w with loops := w.loops.set n l {} }
def updLoop (s : State) (n : Nat) (f : Loop → Loop) : State := setLoop s n (f (loopAt s n))
def numLoops : Nat := 4112
def fast0 : Nat := 4096
def isFast (n : Nat) : Bool := decide (fast0 ≤ n)

/-- lvl of R244. -/
def lvl (y : Nat) : Nat :=
  if b32.le y 0 then 0 else if b32.le (b32.ofInt 65535) y then 65535 else (b32.toIntEven y).toNat

/-! ### Destinations (R244-R246) -/

/-- The enabled loops that drive a destination. -/
def drivers (s : State) (dest i : Nat) : List (Nat × Loop) :=
  s.weir.loops.filter fun x => x.2.en && match x.2.desc with
    | some d => decide (d.dest = dest ∧ d.destIndex = i)
    | none => false

/-- The lowest Y in force of the enabled loops that drive a destination: one whose INIT waits has none yet (R240). -/
def destY (s : State) (dest i : Nat) : Option Nat :=
  match (drivers s dest i).filter fun x => x.2.init.isNone with
  | [] => none
  | x :: r => some (r.foldl (fun m y => b32.min m y.2.y) x.2.y)

/-- Z of a zone (R245): the zone of a loop is its number. -/
def zoneLevel (s : State) (z : Nat) : Nat :=
  let l := loopAt s z
  match l.desc with
  | some d => if l.en ∧ d.dest = 1 ∧ l.init.isNone then lvl l.y else 0
  | none => 0

/-- C_feeder of a feeder. -/
def ceilLevel (s : State) (f : Nat) : Nat := match destY s 2 f with | some y => lvl y | none => 65535

/-- The duty of PWMn in 1/4,096: Weir's while an enabled loop drives it, else that of Ox's output image (R372, R516). -/
def pwmDuty (s : State) (k : Nat) : Nat :=
  let y := match destY s 3 k with | some y => y | none => s.ox.com.get (0x8101 + k) 0
  (b32.toIntEven (b32.mul (b32.min (b32.max y 0) (b32.ofInt 1)) (b32.ofInt 4096))).toNat

/-- Drive the PWM pads. -/
def drivePwm (s : State) : State :=
  drivePad (drivePad (drivePad s (.pwm 0) (pwmDuty s 0)) (.pwm 1) (pwmDuty s 1)) (.pwm 2) (pwmDuty s 2)

/-- The duty command of the boost converter, binary32. -/
def boostDuty (s : State) : Nat := (destY s 4 0).getD 0

/-- A fast loop's output register. -/
def showFast (s : State) (n : Nat) : State :=
  if isFast n then setFld s (Reg.WEI_FAST_OUT_Y (n - fast0)) (loopAt s n).y else s

/-- Apply the outputs of loops to registers, pads and Ox (R244). -/
def applyDests (s : State) (due : List Nat) : State :=
  let s1 := due.foldl (fun s n =>
    let s := showFast s n
    match (loopAt s n).desc with
    | some d =>
      if d.dest = 5 then
        match destY s 5 d.destIndex with
        | some y => weirUpd s fun w => { w with oxw := w.oxw.set d.destIndex (some y) none }
        | none => s
      else s
    | none => s) s
  drivePwm s1

/-- WEI_COUNT. -/
def countLoops (s : State) : State :=
  let on := s.weir.loops.filter fun x => x.2.en
  setFld (setFld s Reg.WEI_COUNT_FAST (on.filter fun x => isFast x.1).length) Reg.WEI_COUNT_SLOW
    (on.filter fun x => !isFast x.1).length

/-! ### Groups (R247) -/

/-- A group as configured: with the change that awaits its members' next sample. -/
def groupCfg (s : State) (g : Nat) : CompGroup := (s.weir.groupNext.get g none).getD (s.weir.groups.get g {})

/-- The configured group of a loop. -/
def groupOf (s : State) (n : Nat) : Option Nat :=
  ((s.weir.groups.keys ++ s.weir.groupNext.keys).find? fun g => (groupCfg s g).members.contains n)

/-- A change of a group takes effect. -/
def groupApply (s : State) (g : Nat) : State :=
  let old := s.weir.groups.get g {}
  let s1 := old.members.foldl (fun s n => updLoop s n fun l => { l with loser := false }) s
  weirUpd s1 fun w => { w with groups := w.groups.set g (groupCfg s g) {}, groupNext := w.groupNext.del g }

/-- Changes of groups with a member among the loops that sample, or with no enabled member, take effect (R256). -/
def groupsDue (s : State) (due : List Nat) : State :=
  s.weir.groupNext.keys.foldl (fun s g =>
    let m := (groupCfg s g).members ++ (s.weir.groups.get g {}).members
    if m.any due.contains || !m.any (fun n => (loopAt s n).en) then groupApply s g else s) s

/-! ### Sections and regions (R238, R239, R248) -/

/-- The coefficients in force. -/
def coefNow (l : Loop) : List Coef := match l.desc with | some d => d.coefs.getD l.reg [] | none => []

/-- A section at rest (R239). -/
def secRest (c : Coef) (x : SecSt) : SecSt :=
  { x with s1 := b32.sub x.yp (b32.mul c.b0 x.xp), s2 := b32.sub (b32.mul c.b2 x.xp) (b32.mul c.a2 x.yp) }

/-- reinit of R239. -/
def reinit (l : Loop) : Loop := { l with secs := ((coefNow l).zip l.secs).map fun x => secRest x.1 x.2 }

/-- The region of a scheduling value without hysteresis. -/
def regionOf (d : LoopDesc) (sv : Nat) : Nat := ((d.bounds.take (d.coefs.length - 1)).filter fun b => b32.le b sv).length

/-- region of R248. -/
def regionNext (d : LoopDesc) (sv r : Nat) : Nat :=
  let t := regionOf d sv
  if r < t ∧ b32.le (b32.add (d.bounds.getD r 0) d.hys) sv then t
  else if t < r ∧ b32.lt sv (b32.sub (d.bounds.getD (r - 1) 0) d.hys) then t
  else r

/-- Section inputs and outputs Yc, or the section whose value is not finite (R241). -/
def secRun : List (Coef × SecSt) → Nat → Nat → Except Nat (List (Nat × Nat))
  | [], _, _ => .ok []
  | (c, x) :: r, i, v =>
    let y := b32.add (b32.mul c.b0 v) x.s1
    if b32.isFinite y then
      match secRun r (i + 1) y with
      | .ok l => .ok ((v, y) :: l)
      | .error e => .error e
    else .error i

/-- The next states of a section. -/
def secNext (c : Coef) (x : SecSt) (v yi : Nat) : SecSt :=
  { s1 := b32.add (b32.sub (b32.mul c.b1 v) (b32.mul c.a1 yi)) x.s2, s2 := b32.sub (b32.mul c.b2 v) (b32.mul c.a2 yi), xp := v, yp := yi }

/-- A region or value event names its loop (R257). -/
def weirEvent (s : State) (code n : Nat) (tail : List Byte) : State := emit s code (leBytes 2 n ++ tail)

/-! ### Injection (R252, R253) -/

/-- Taps of the shift register. -/
def prbsTaps (n : Nat) : List Nat :=
  [[7, 6], [8, 6, 5, 4], [9, 5], [10, 7], [11, 9], [12, 11, 10, 4], [13, 12, 11, 8], [14, 13, 12, 2], [15, 14]].getD (n - 7) []

/-- The register after a chip: s[j] is bit j − 1. -/
def prbsNext (n x : Nat) : Nat :=
  (x * 2 + b2n (((prbsTaps n).filter fun t => bit x (t - 1)).length % 2 = 1)) % 2 ^ n

/-- The sample period of a loop in s, as a fraction. -/
def samplePeriod (n rate : Nat) : Nat × Nat := if isFast n then (rate, 19200000) else (1, rate)

/-- A value near an exact one in fixed point: the error stays within 3/4 of the bound `amp` × 2^-22, which leaves room for
the rounding to binary32. -/
def nearTone (n k : Nat) (exact amp : Int) : Nat :=
  let lim := 3 * amp / 2 ^ 24
  b32.ofFix (exact + max (-lim) (min lim (Config.toneError n k)))

/-- The argument of the sine of CHIRP at sample k. -/
def chirpArg (q : Inject) (rate k : Nat) : Int :=
  let (f0, e0) := b32.toDyadic q.f0
  let (f1, e1) := b32.toDyadic q.f1
  let l := fixLn f1.toNat e1 - fixLn f0.toNat e0
  let (tn, td) := samplePeriod q.loop rate
  let x := fixExp (l * k / q.duration) - fixOne
  2 * fixPi * x * f0 * (q.duration * tn : Nat) / (l * (2 ^ e0 * td : Nat))

/-- The injection value at the present sample (R252), binary32. -/
def injValue (q : Inject) (rate : Nat) : Nat :=
  match q.kind with
  | 0 => q.a
  | 1 => if bit q.shift (q.n - 1) then q.a else b32.neg q.a
  | 2 =>
    let a := b32.toFix q.a
    nearTone q.loop q.k (a * fixSin (chirpArg q rate q.k) / fixOne) (if a < 0 then -a else a)
  | _ =>
    let term (c : Nat × Nat × Nat) : Int :=
      b32.toFix c.2.1 * fixSin (2 * fixPi * (c.1 * q.k : Nat) / (2 ^ q.chip : Nat) + b32.toFix c.2.2) / fixOne
    nearTone q.loop q.k ((q.comps.map term).sum) ((q.comps.map fun c => b32.toFix (b32.abs c.2.1)).sum)

/-- The injection ends (R253). -/
def injEnd (s : State) (reason : Nat) : State :=
  match s.weir.inject with
  | none => s
  | some q =>
    emitOutcome (setFlag (weirUpd s fun w => { w with inject := none }) Reg.WEI_STAT_INJ false) 0x0700
      (leBytes 2 q.loop ++ leBytes 1 reason ++ leBytes 1 (min q.changes 255) ++ leBytes 4 q.k) q.ref 0

/-- The injection on a loop. -/
def injOn (s : State) (n : Nat) : Option Inject := s.weir.inject.filter fun q => decide (q.loop = n)

/-- One sample has been injected. -/
def injStep (s : State) (n : Nat) : State :=
  match injOn s n with
  | none => s
  | some q =>
    let k := q.k + 1
    let s1 := weirUpd s fun w => { w with inject := some { q with
      k := k, shift := if q.kind = 1 ∧ k % q.chip = 0 then prbsNext q.n q.shift else q.shift } }
    if q.duration ≤ k then injEnd s1 0 else s1

/-! ### Enable, disable and fault (R240, R241, R249) -/

/-- Coefficient sets that wait are taken; the flag says that the region in force changed. -/
def takeCoefs (l : Loop) : Loop × Bool :=
  match l.desc with
  | none => (l, false)
  | some d =>
    ({ l with desc := some { d with coefs := l.coefNext.foldl (fun c x => c.set x.1 x.2) d.coefs }, coefNext := [] },
      l.coefNext.any fun x => decide (x.1 = l.reg))

/-- A loop is disabled. -/
def disableLoop (s : State) (n : Nat) : State :=
  if (loopAt s n).en then
    let s1 := updLoop s n fun l => { (takeCoefs l).1 with en := false, loser := false, init := none }
    let s2 := if (injOn s1 n).isSome then injEnd s1 3 else s1
    applyDests (countLoops s2) [n]
  else s

/-- A value is not finite (R241): `sec` is the section, 0xFF the output stage. -/
def loopFault (s : State) (n sec : Nat) : State :=
  let s1 := ckTables (updLoop s n fun l => { l with fault := true, cfgEn := false })
  disableLoop (weirEvent (count1 (setErr s1 Reg.WEI_ERR_NONFINITE) (Reg.WEI_CNT_COUNT 5)) 0x0703 n (leBytes 1 sec)) n

/-- Index of the last sample instant: of DT for a slow loop, of reference cycles for a fast one (R235). -/
def instant (s : State) (n rate : Nat) : Nat :=
  if isFast n then (s.el - s.weir.fastStart) * 19200000 / 65536 / rate else s.dt * rate / 65536

/-- Sample instants are counted from now on (R235, R237). -/
def syncSlow (s : State) : State :=
  s.weir.loops.foldl (fun s x => match x.2.desc with
    | some d => if isFast x.1 then s else updLoop s x.1 fun l => { l with seen := instant s x.1 d.rate }
    | none => s) s

/-- FAST_EN goes from 0 to 1. -/
def startFast (s : State) : State :=
  let s1 := weirUpd s fun w => { w with fastStart := s.el }
  s1.weir.loops.foldl (fun s x => if isFast x.1 then updLoop s x.1 fun l => { l with seen := 0 } else s) s1

/-- The set-up that waited for a sample (R240). -/
def takeInit (l : Loop) : Loop :=
  match l.init, l.desc with
  | some v, some d => reinit { l with
      init := none, y := v, secs := (List.range d.nsec).map fun i => { yp := if i + 1 = d.nsec then v else 0 : SecSt } }
  | _, _ => l

/-- A loop is enabled from disabled; its sections and Y are set up at its next sample (R240, R248). -/
def startLoop (s : State) (n : Nat) (manual : Bool) (init : Nat) : State :=
  let l := loopAt s n
  match l.desc with
  | none => s
  | some d =>
    let sv := if d.sv / 2 ^ 24 = 0 then none else srcValue s d.spConst d.sv
    let l1 : Loop := { l with en := true, manual := manual, man := if manual then init else l.man, manNext := none, init := some init
                              reg := (match sv with | some v => regionOf d v | none => 0), held := false, fault := false,
                              clamped := false, loser := false, samples := 0, seen := instant s n d.rate }
    countLoops (setLoop s n l1)

/-- A change of mode of an enabled loop (R240). -/
def changeMode (l : Loop) (manual : Bool) (init : Nat) : Loop :=
  if manual then
    (if l.manual then { l with manNext := some init } else { l with manual := true, man := init, manNext := none })
  else if l.manual then { reinit l with manual := false, manNext := none }
  else l

/-! ### HELD (R243) -/

/-- Feeders that a loop is bound to. -/
def boundFeeders (d : LoopDesc) : List Nat :=
  (if d.dest = 2 then [d.destIndex] else []) ++ [d.pv, d.sp].filterMap fun w => if w / 2 ^ 24 = 1 then some (w % 8) else none

/-- Why a loop is held: the causes of R257. -/
def heldCause (s : State) (d : LoopDesc) : Option Nat :=
  if (srcValue s d.spConst d.pv).isNone then some 0
  else if (srcValue s d.spConst d.sp).isNone then some 1
  else if (boundFeeders d).any (contactorOpen s) then some 2
  else if (boundFeeders d).any fun f => flag s (Reg.BAS_FDR_STAT_DEAD f) then some 3
  else none

/-- A loop becomes or stays HELD. -/
def holdLoop (s : State) (n cause : Nat) : State :=
  let s1 :=
    if (loopAt s n).held then s
    else
      let s0 := updLoop s n fun l => { l with held := true, heldCause := cause }
      weirEvent (count1 (setErr s0 Reg.WEI_ERR_HELD) (Reg.WEI_CNT_COUNT 1)) 0x0704 n [BitVec.ofNat 8 cause, 1]
  if (injOn s1 n).isSome then injEnd s1 2 else s1

/-! ### The sample (R238) -/

/-- What one loop computed before the competition: inputs and outputs of its sections, and its signals. -/
structure Pass where
  n : Nat
  runs : List (Nat × Nat)
  v : Nat
  u : Nat
  sp : Nat
  pv : Nat
  e : Nat
  ex : Nat
  sv : Option Nat
  inj : Nat
  injK : Option Nat
  changed : Bool
  clamped : Bool

/-- The region step of a sample: the loop's state, and whether the region changed. -/
def regionStep (s : State) (n : Nat) (d : LoopDesc) (sv : Option Nat) : State × Bool :=
  let l := loopAt s n
  match sv with
  | none => (s, false)
  | some v =>
    let r := if (injOn s n).any Inject.hold then l.reg else regionNext d v l.reg
    if r = l.reg then (s, false)
    else
      let s1 := setLoop (count1 s (Reg.WEI_CNT_COUNT 0)) n (reinit { l with reg := r })
      let s2 := weirUpd s1 fun w => { w with inject := w.inject.map fun q => if q.loop = n then { q with changes := q.changes + 1 } else q }
      (if d.regionEvt then weirEvent s2 0x0702 n (leBytes 1 l.reg ++ leBytes 1 r ++ leBytes 4 v) else s2, true)

/-- The computation of a sample up to v, or the part whose value is not finite. -/
def computePass (src : State) (l : Loop) (d : LoopDesc) (n : Nat) (q : Option Inject) (sv : Option Nat) (changed : Bool) :
    Except Nat Pass :=
  let iv := match q with | some q => injValue q d.rate | none => 0
  let point (p : Nat) : Nat := match q with | some q => if q.point = p then iv else 0 | none => 0
  let sp := b32.add ((srcValue src d.spConst d.sp).getD 0) (point 0)
  let pv := (srcValue src d.spConst d.pv).getD 0
  let e := if d.sign then b32.sub pv sp else b32.sub sp pv
  let x := b32.add e (point 1)
  if !([iv, sp, pv, e, x].all b32.isFinite) then .error 0xFF
  else
    match secRun ((coefNow l).zip l.secs) 0 x with
    | .error i => .error i
    | .ok runs =>
      let last := match runs.getLast? with | some r => r.2 | none => x
      let u := b32.add (if l.manual then l.man else last) (point 2)
      let lo := b32.sub l.y d.slew
      let hi := b32.add l.y d.slew
      let slewed := b32.lt 0 d.slew
      if !b32.isFinite u ∨ (slewed ∧ !(b32.isFinite lo && b32.isFinite hi)) then .error 0xFF
      else
        let v1 := b32.min (b32.max u d.outMin) d.outMax
        let v2 := if slewed then b32.min (b32.max v1 lo) hi else v1
        let v3 := if d.dest = 3 then b32.min (b32.max v2 0) (b32.ofInt 1)
          else if d.dest = 4 then b32.min (b32.max v2 0) (b32.ratio false (fld src Reg.FTN_BOOST_LIM_DMAX) 1024)
          else v2
        .ok { n := n, runs := runs, v := v3, u := u, sp := sp, pv := pv, e := e, ex := x, sv := sv, inj := iv,
              injK := q.map Inject.k, changed := changed, clamped := b32.lt u d.outMin || b32.lt d.outMax u }

/-- The part of a loop's sample before the competition. The inputs are those of `src`, the state at the instant. -/
def passOne (src s : State) (n : Nat) : State × Option Pass :=
  let (l, re) := takeCoefs (loopAt s n)
  let l0 := takeInit l
  match l0.desc with
  | none => (s, none)
  | some d =>
    let l1 := match l0.manNext with | some m => { l0 with man := m, manNext := none } | none => l0
    match heldCause src d with
    | some c => (holdLoop (setLoop s n l1) n c, none)
    | none =>
      let s1 := setLoop s n (if re || l1.held then reinit { l1 with held := false } else l1)
      let s2 := if l1.held then weirEvent s1 0x0704 n [BitVec.ofNat 8 l1.heldCause, 0] else s1
      let sv := if d.sv / 2 ^ 24 = 0 then none else srcValue src d.spConst d.sv
      if sv.any fun v => !b32.isFinite v then (loopFault s2 n 0xFF, none)
      else
        let (s3, ch) := regionStep s2 n d sv
        match computePass src (loopAt s3 n) d n (injOn s3 n) sv ch with
        | .error i => (loopFault s3 n i, none)
        | .ok p => (s3, some p)

/-- The lowest v, then the lowest number. -/
def winnerOf : List (Nat × Nat) → Option (Nat × Nat)
  | [] => none
  | x :: r =>
    match winnerOf r with
    | none => some x
    | some y => if b32.lt y.2 x.2 ∨ (!b32.lt x.2 y.2 ∧ y.1 < x.1) then some y else some x

/-- Competition of one group (R247): the state with its winner and losers, and V_USED of the losers that sample. -/
def competeIn (ps : List Pass) (a : State × List (Nat × Nat)) (g : Nat) : State × List (Nat × Nat) :=
  let s := a.1
  let gr := s.weir.groups.get g {}
  let parts := gr.members.filterMap fun m =>
    let l := loopAt s m
    if !l.en || l.init.isSome then none
    else match ps.find? fun p => p.n = m with
      | some p => some (m, p.v)
      | none => some (m, l.y)
  match winnerOf parts with
  | none => a
  | some (w, vw) =>
    let s1 := if gr.winner.any fun x => x ≠ w then count1 s (Reg.WEI_CNT_COUNT 2) else s
    let s2 := gr.members.foldl (fun s m => updLoop s m fun l => { l with loser := decide (m ≠ w) && l.en }) s1
    (weirUpd s2 fun x => { x with groups := x.groups.set g { gr with winner := some w } {} },
      a.2 ++ ps.filterMap fun p => if p.n ≠ w ∧ gr.members.contains p.n then some (p.n, b32.min p.v (b32.add vw gr.margin)) else none)

/-- The part of a loop's sample after the competition. -/
def passTwo (used : List (Nat × Nat)) (s : State) (p : Pass) : State :=
  let l := loopAt s p.n
  match l.desc with
  | none => s
  | some d =>
    let y := ((used.find? fun x => x.1 = p.n).map Prod.snd).getD p.v
    let yi (i yc : Nat) : Nat := if i + 1 = d.nsec ∧ (d.track || l.manual) then y else yc
    let secs := (((coefNow l).zip l.secs).zip p.runs).zipIdx.map fun x => secNext x.1.1.1 x.1.1.2 x.1.2.1 (yi x.2 x.1.2.2)
    match secs.findIdx? fun x => !(b32.isFinite x.s1 && b32.isFinite x.s2) with
    | some i => loopFault (updLoop s p.n fun l => { l with y := y }) p.n i
    | none =>
      let s1 := setLoop s p.n { l with
        secs := secs, y := y, clamped := p.clamped, samples := (l.samples + 1) % 2 ^ 32
        sp := p.sp, pv := p.pv, e := p.e, ex := p.ex, u := p.u, inj := p.inj, sv := p.sv.getD l.sv }
      if p.clamped then count1 s1 (Reg.WEI_CNT_COUNT 6) else s1

/-! ### Capture (R254) -/

/-- The value of a signal. -/
def signalOf (l : Loop) (k : Nat) : Nat := [l.sp, l.pv, l.ex, l.u, l.y, l.inj, l.sv].getD k 0

/-- A stored sample: `rep` repeats the loop's last values with HELD set. -/
def capSample (s : State) (c : CapChan) (rep inj : Bool) : List Byte :=
  let l := loopAt s c.loop
  leBytes 4 (signalOf l c.signal) ++
    [BitVec.ofNat 8 (l.reg % 8 + 8 * b2n l.clamped + 16 * b2n l.loser + 32 * b2n rep + 64 * b2n inj), 0, 0, 0]

/-- Fewest samples of a channel in use. -/
def capWritten (s : State) : Nat :=
  match s.weir.caps.map fun x => x.2.data.length / 8 with
  | [] => 0
  | a :: r => r.foldl min a

/-- The capture ends. -/
def capEnd (s : State) (stopped : Nat) : State :=
  emitOutcome (setFld (weirUpd s fun w => { w with capRef := none }) Reg.WEI_STAT_CAP_STATE 3) 0x0701
    (leBytes 4 (capWritten s) ++ leBytes 1 stopped) s.weir.capRef 0

/-- A capture is armed or running. -/
def capOn (s : State) : Bool := let c := fld s Reg.WEI_STAT_CAP_STATE; c = 1 || c = 2

/-- Capture at the samples of loops: those that computed, and those that repeat. -/
def capture (s : State) (ps : List Pass) (rep : List Nat) : State :=
  if !capOn s then s
  else
    let start := ps.any fun p => p.injK = some 0 && (injOn s p.n).any Inject.capture
    let step (c : CapChan) : CapChan :=
      let p := ps.find? fun p => p.n = c.loop
      let run := c.running || (c.trig = 1 && start) || (c.trig = 2 && p.any Pass.changed)
      if run ∧ (p.isSome ∨ rep.contains c.loop) ∧ c.data.length < 8 * 65536 then
        { c with running := true, seen := c.seen + 1
                 data := if c.seen % c.decim = 0 then
                     c.data ++ capSample s c p.isNone (match p with | some p => p.injK.isSome | none => (injOn s c.loop).isSome)
                   else c.data }
      else { c with running := run }
    let s1 := weirUpd s fun w => { w with caps := w.caps.map fun x => (x.1, step x.2) }
    let s2 := if s1.weir.caps.any fun x => x.2.running then setFld s1 Reg.WEI_STAT_CAP_STATE 2 else s1
    let s3 := setFld s2 Reg.WEI_CAP_WRITTEN_SAMPLES (capWritten s2)
    if 65536 ≤ capWritten s3 then capEnd s3 0 else s3

/-! ### The instants (R235-R237, R242) -/

/-- Flags of WEI_LOOP_READ. -/
def loopFlags (l : Loop) : Nat :=
  b2n l.en + 2 * b2n l.manual + 4 * b2n l.held + 8 * b2n l.clamped + 16 * b2n l.loser + 32 * b2n l.fault

/-- One loop of a WEI_SLOW message (R446). -/
def slowBody (s : State) (n : Nat) : List Byte :=
  let l := loopAt s n
  beBytes 2 n ++ beBytes 1 l.reg ++ beBytes 1 (loopFlags l) ++ beBytes 4 l.y ++
    l.secs.flatMap fun x => beBytes 4 x.xp ++ beBytes 4 x.yp ++ beBytes 4 x.s1 ++ beBytes 4 x.s2

/-- Mirror the slow loops that have sampled, 32 to a message (R255). -/
def mirrorSlow (s : State) (l : List Nat) : State :=
  (List.range ((l.length + 31) / 32)).foldl (fun s i =>
    let part := (l.drop (32 * i)).take 32
    mirror s 0x44 (beBytes 1 part.length ++ [0, 0, 0] ++ part.flatMap (slowBody s))) s

/-- The samples of loops that are due at one instant; the computation of `late` loops has not finished (R236). -/
def weirBatch (s : State) (due late : List Nat) : State :=
  let s0 := groupsDue s due
  let skip := due.filter late.contains
  let s1 := skip.foldl (fun s n => setErr (count1 s (Reg.WEI_CNT_COUNT (if isFast n then 4 else 3))) Reg.WEI_ERR_OVERRUN) s0
  let (s2, ps) := (due.filter fun n => !skip.contains n).foldl (fun (a : State × List Pass) n =>
    let (s', p) := passOne s0 a.1 n
    (s', a.2 ++ p.toList)) (s1, [])
  let gs := s2.weir.groups.keys.filter fun g => (s2.weir.groups.get g {}).members.any due.contains
  let (s3, used) := gs.foldl (competeIn ps) (s2, [])
  let s4 := ps.foldl (passTwo used) s3
  let ok := ps.filter fun p => (loopAt s4 p.n).en
  let rep := due.filter fun n => (loopAt s4 n).en && !ok.any fun p => p.n = n
  let s5 := capture s4 ok rep
  let s6 := ok.foldl (fun s p => injStep s p.n) s5
  mirrorSlow (applyDests s6 due) (due.filter fun n => !isFast n && !skip.contains n)

/-- Weir may sample: CW is on, the module acts, and a lane works (R434, R475). -/
def weirRuns (s : State) : Bool :=
  decide (domState s 9 = 2) && decide (role s = 0 ∨ role s = 2) && decide (fld s Reg.WEI_STAT_LANES ≠ 0)

/-- The enabled slow loops with an instant not yet sampled, each with that instant. -/
def slowDue (s : State) : List (Nat × Nat) :=
  s.weir.loops.filterMap fun x => match x.2.desc with
    | some d => if x.2.en && !isFast x.1 && decide (x.2.seen ≠ instant s x.1 d.rate) then some (x.1, instant s x.1 d.rate) else none
    | none => none

/-- The enabled fast loops, each with its next instant in 1/19,200,000 s since the fast clock's start. -/
def fastNext (s : State) : List (Nat × Nat) :=
  s.weir.loops.filterMap fun y => match y.2.desc with
    | some d => if y.2.en && isFast y.1 then some (y.1, (y.2.seen + 1) * d.rate) else none
    | none => none

/-- Slow sample instants have come: conversions of AIN, and the loops whose computation has not finished. -/
def execSlowSample (conv : List Word) (late : List (Fin 4096)) (s : State) : Host.Outcome State Fault Refusal :=
  .next (
    if !(weirRuns s && flag s Reg.WEI_CTRL_SLOW_EN) then s
    else
      let due := slowDue s
      if due.isEmpty then s
      else
        let s1 := due.foldl (fun s x => updLoop s x.1 fun l => { l with seen := x.2 }) (setAin s conv)
        weirBatch s1 (due.map Prod.fst) (late.map fun n => n.val))

/-- The next fast instant has come (R235): the inputs at it, and the loops whose computation has not finished. -/
def execFastSample (x : FastIn) (late : List (Fin 16)) (s : State) : Host.Outcome State Fault Refusal :=
  .next (
    if !(weirRuns s && flag s Reg.WEI_CTRL_FAST_EN) then s
    else
      match fastNext s with
      | [] => s
      | a :: r =>
        let c := r.foldl (fun m y => min m y.2) a.2
        if (s.el + 1 - s.weir.fastStart) * 19200000 < c * 65536 then s
        else
          let due := ((fastNext s).filter fun y => y.2 = c).map Prod.fst
          let s1 := due.foldl (fun s n => updLoop s n fun l => { l with seen := l.seen + 1 }) (setAin s x.conv)
          let s2 := { setFld s1 Reg.FTN_BOOST_STAT_VOUT (min x.vout 8191) with ftn := { s1.ftn with
            vout := min x.vout 8191
            headroom := x.pins.foldl (fun m p => if sinkActive s p.1.val then m.set p.1.val (min p.2 48000) 0 else m) s1.ftn.headroom } }
          weirBatch s2 due (late.map fun n => fast0 + n.val))

/-! ### Start, take-over and reset (R255) -/

/-- Configured loops start, with INIT = OUT_MIN. -/
def weirStart (s : State) : State :=
  s.weir.loops.foldl (fun s x => match x.2.desc with
    | some d => if x.2.cfgEn then startLoop s x.1 x.2.cfgMan d.outMin else s
    | none => s) s

/-- The module becomes active: fast loops start from their last Y, slow loops go on from their mirrored state at their next instant;
one enabled since its last sample starts as at a start-up, one disabled since is disabled (log entry 60). -/
def weirTakeover (s : State) : State :=
  syncSlow (s.weir.loops.foldl (fun s x =>
    match x.2.desc with
    | none => s
    | some d =>
      if !x.2.cfgEn then disableLoop s x.1
      else if isFast x.1 then startLoop s x.1 x.2.cfgMan x.2.y
      else if x.2.en then s
      else startLoop s x.1 x.2.cfgMan d.outMin) s)

/-- A MOD reset: descriptors, groups and configured states stay. -/
def weirReset (s : State) : State :=
  let s1 := s.weir.groupNext.keys.foldl groupApply s
  weirUpd s1 fun w => {
    loops := w.loops.filterMap fun x =>
      let l : Loop := { desc := (takeCoefs x.2).1.desc, cfgEn := x.2.cfgEn, cfgMan := x.2.cfgMan }
      if l = {} then none else some (x.1, l)
    groups := w.groups.map fun x => (x.1, { x.2 with winner := none }) }

/-! ### Opcodes (R251-R256) -/

/-- The LOOP operand. -/
def loopChks (c : Cmd) : List Chk :=
  [rsvChk (decide (2 ^ 13 ≤ c.op 16 2)) 17, rangeChk (decide (c.op 16 2 < 2 ^ 13 ∧ numLoops ≤ c.op 16 2)) 16]

/-- The index of a source word is in range for its kind (R242). -/
def srcInRange (kind i : Nat) : Bool :=
  match kind with
  | 0 => decide (i = 0)
  | 1 => decide (i < 256 ∧ i % 8 ≤ 5 ∧ bits i 7 5 ≤ 5)
  | 2 => decide (i ≤ 7)
  | 3 => decide (i < foldSize)
  | 4 => decide (i < numLoops)
  | 5 => decide (i ≤ 255)
  | 6 => decide (i ≤ 63)
  | 7 => decide (i = 0)
  | 8 => decide (i = 0)
  | 9 => decide (i = 0)
  | _ => false

/-- Why a loop may not use a KIND (R242): the reason. `pv` for the PV source. -/
def kindRefusal (k : Nat) (pv fast : Bool) : Option Nat :=
  if fast then (if [2, 4, 7, 8, 9].contains k || (k = 0 && !pv) then none else some 0x03)
  else if k = 8 ∨ k = 9 then some 0x03
  else if 9 < k ∨ (k = 0 ∧ pv) then some 0x01
  else none

/-- A source word of a descriptor (R242): KIND is its byte 3, INDEX the others. -/
def srcChk (w : Nat) (pv fast : Bool) (o : Nat) : Chk :=
  let i := w % 2 ^ 24
  let k := w / 2 ^ 24
  match kindRefusal k pv fast with
  | some r => ⟨true, o + 3, r⟩
  | none => if fast && k = 4 && i < fast0 then ⟨true, o, 0x03⟩ else ⟨!srcInRange k i, o, 0x01⟩

/-- A DEST that the loop may not have, or an index outside its range (R244). -/
def destChks (n dest i o : Nat) : List Chk :=
  let ok := if isFast n then decide (dest = 0 ∨ dest = 3 ∨ dest = 4 ∨ dest = 5) else decide (dest ≤ 2 ∨ dest = 5)
  let top := [0, 0, 5, 2, 0, 255].getD dest 0
  [rangeChk (!ok) o, rangeChk (ok && decide (top < i)) (o + 1)]

/-- A binary32 that must be finite. -/
def finiteChk (b : List Byte) (o : Nat) : Chk := rangeChk (!b32.isFinite (fieldLE b o 4)) o

/-- Coefficients of a section at an offset. -/
def Coef.ofBytes (b : List Byte) (o : Nat) : Coef :=
  { b0 := fieldLE b o 4, b1 := fieldLE b (o + 4) 4, b2 := fieldLE b (o + 8) 4, a1 := fieldLE b (o + 12) 4, a2 := fieldLE b (o + 16) 4 }

/-- Sections from an offset on. -/
def coefsOf (b : List Byte) (o k : Nat) : List Coef := (List.range k).map fun i => Coef.ofBytes b (o + 20 * i)

/-- Checks of NSEC and NREG, on which the length depends. -/
def shapeChks (b : List Byte) (n : Nat) : List Chk :=
  let ns := fieldLE b 0 1
  let nr := fieldLE b 1 1
  [rangeChk (decide (ns < 1 ∨ (if isFast n then 8 else 4) < ns)) 0, rangeChk (decide (nr < 1 ∨ 8 < nr)) 1]

def slowRates : List Nat := [1, 2, 4, 5, 10, 20, 25, 50, 100]

/-- Checks of a descriptor (R251). -/
def descChks (b : List Byte) (n : Nat) : List Chk :=
  let nr := fieldLE b 1 1
  let rate := fieldLE b 4 2
  let fl (o : Nat) : Nat := fieldLE b o 4
  shapeChks b n ++ [rsvChk (decide (8 ≤ fieldLE b 2 1)) 2, rsvChk (decide (fieldLE b 3 1 ≠ 0)) 3,
    rangeChk (if isFast n then decide (rate < 96 ∨ 19200 < rate) else !slowRates.contains rate) 4] ++
  destChks n (fieldLE b 6 1) (fieldLE b 7 1) 6 ++
  [srcChk (fl 8) true (isFast n) 8, srcChk (fl 12) false (isFast n) 12, srcChk (fl 16) false (isFast n) 16] ++
  [20, 24, 28, 32, 36].map (finiteChk b) ++
  [rangeChk (b32.lt (fl 28) (fl 24)) 28, rangeChk (b32.lt (fl 32) 0) 32, rangeChk (b32.lt (fl 36) 0) 36] ++
  ((List.range (nr - 1)).flatMap fun j =>
    let o := 40 + 4 * j
    [finiteChk b o, rangeChk (decide (0 < j) && b32.le (fl o) (fl (o - 4))) o]) ++
  (match firstNonZero b (36 + 4 * nr) (44 - 4 * nr) with | some o => [rsvChk true o] | none => []) ++
  (List.range (5 * nr * fieldLE b 0 1)).map fun i => finiteChk b (80 + 4 * i)

/-- The descriptor of a buffer. -/
def LoopDesc.ofBytes (b : List Byte) : LoopDesc :=
  let ns := fieldLE b 0 1
  let nr := fieldLE b 1 1
  { nsec := ns, sign := bit (fieldLE b 2 1) 0, track := bit (fieldLE b 2 1) 1, regionEvt := bit (fieldLE b 2 1) 2,
    rate := fieldLE b 4 2, dest := fieldLE b 6 1, destIndex := fieldLE b 7 1, pv := fieldLE b 8 4, sp := fieldLE b 12 4,
    sv := fieldLE b 16 4, spConst := fieldLE b 20 4, outMin := fieldLE b 24 4, outMax := fieldLE b 28 4, slew := fieldLE b 32 4,
    hys := fieldLE b 36 4, bounds := (List.range (nr - 1)).map fun j => fieldLE b (40 + 4 * j) 4,
    coefs := (List.range nr).map fun r => coefsOf b (80 + 20 * ns * r) ns }

/-- Two loops may share a group (R247). -/
def groupFits (a b : LoopDesc) : Bool := decide (a.dest = b.dest ∧ a.destIndex = b.destIndex ∧ a.rate = b.rate)

def bodyWeiLoopLoad (s : State) (c : Cmd) : Work := do
  let n := c.op 16 2
  checkOps (opChks c [(16, 2)] [(0, 80)] ++ loopChks c)
  let b ← readBuf s c 0
  checkBuf 0 (shapeChks b n)
  checkOps [⟨decide (c.bufLen 0 < 80 + 20 * fieldLE b 0 1 * fieldLE b 1 1), 40, 0x04⟩]
  let d := LoopDesc.ofBytes b
  let mates := match groupOf s n with
    | some g => (groupCfg s g).members.filterMap fun m => if m = n then none else (loopAt s m).desc
    | none => []
  checkBuf 0 (descChks b n ++ [⟨mates.any fun x => decide (x.rate ≠ d.rate), 4, 0x03⟩, ⟨mates.any fun x => decide (x.dest ≠ d.dest), 6, 0x03⟩,
    ⟨mates.any fun x => decide (x.destIndex ≠ d.destIndex), 7, 0x03⟩])
  stopIf (loopAt s n).en (ansBadState 0x0001)
  pure (updLoop s n fun l => { l with desc := some d, coefNext := [], reg := 0
                                      secs := (l.secs ++ List.replicate d.nsec ({} : SecSt)).take d.nsec }, some ansDone)

def execWeiLoopLoad (sq : Fin 16) (s : State) : Host.Outcome State Fault Refusal := .next (runRing s sq 0x0700 bodyWeiLoopLoad)

/-- Enabling a loop keeps R246. -/
def mayDrive (s : State) (n : Nat) (d : LoopDesc) : Bool :=
  let others := (drivers s d.dest d.destIndex).filter fun x => x.1 ≠ n
  decide (d.dest < 3) || others.isEmpty ||
    (match groupOf s n with
     | some g => others.all fun x => decide (groupOf s x.1 = some g)
     | none => false)

def bodyWeiLoopEnable (s : State) (c : Cmd) : Work := do
  let n := c.op 16 2
  let en := bit (c.op 18 1) 0
  let man := bit (c.op 18 1) 1
  let init := c.op 20 4
  checkOps (opChks c [(16, 3), (20, 4)] [] ++ loopChks c ++
    [rsvChk (decide (4 ≤ c.op 18 1)) 18, rangeChk (!b32.isFinite init) 20])
  match (loopAt s n).desc with
  | none => .error (.ans (ansBadState 0x0002))
  | some d =>
    let l := loopAt s n
    stopIf (en && !l.en && !mayDrive s n d) (ansBadState 0x0004)
    let s1 := updLoop s n fun l => { l with cfgEn := en, cfgMan := man }
    let t := if !en then disableLoop s1 n
      else if l.en then updLoop s1 n fun l => changeMode l man init
      else startLoop s1 n man init
    pure (causedBy s t c.seq, some ansDone)

def execWeiLoopEnable (sq : Fin 16) (s : State) : Host.Outcome State Fault Refusal := .next (runRing s sq 0x0701 bodyWeiLoopEnable)

def bodyWeiCoefSet (s : State) (c : Cmd) : Work := do
  let n := c.op 16 2
  let r := c.op 18 1
  let l := loopAt s n
  let ns := match l.desc with | some d => d.nsec | none => 1
  checkOps (opChks c [(16, 3)] [(0, 20 * ns)] ++ loopChks c ++
    [rangeChk (match l.desc with | some d => decide (d.coefs.length ≤ r) | none => false) 18])
  let b ← readBuf s c 0
  stopIf l.desc.isNone (ansBadState 0x0002)
  checkBuf 0 ((List.range (5 * ns)).map fun i => finiteChk b (4 * i))
  let l1 := { l with coefNext := l.coefNext ++ [(r, coefsOf b 0 ns)] }
  pure (setLoop s n (if l.en then l1 else (takeCoefs l1).1), some ansDone)

def execWeiCoefSet (sq : Fin 16) (s : State) : Host.Outcome State Fault Refusal := .next (runRing s sq 0x0702 bodyWeiCoefSet)

def bodyWeiGroupSet (s : State) (c : Cmd) : Work := do
  let g := c.op 16 2
  let k := c.op 18 1
  let margin := c.op 28 4
  let at4 (i : Nat) : Nat := c.op (20 + 2 * i) 2
  let mem := (List.range (min k 4)).map at4
  let ds := mem.filterMap fun n => (loopAt s n).desc
  let bad := match ds with | [] => false | d :: r => r.any fun x => !groupFits d x
  checkOps (opChks c [(16, 3), (20, 12)] [] ++
    [rangeChk (decide (1023 < g)) 16, rangeChk (decide (k = 1 ∨ 4 < k)) 18] ++
    ((List.range 4).flatMap fun i =>
      [rangeChk (decide (i < k ∧ numLoops ≤ at4 i)) (20 + 2 * i), rsvChk (decide (k ≤ i ∧ at4 i ≠ 0)) (20 + 2 * i),
       ⟨decide (i < k) && (mem.take i).contains (at4 i), 20 + 2 * i, 0x03⟩]) ++
    [⟨bad || (mem.any isFast && mem.any fun n => !isFast n), 20, 0x03⟩,
     ⟨!b32.isFinite margin, 28, 0x03⟩, rangeChk (b32.lt margin 0) 28])
  stopIf (mem.any fun n => (loopAt s n).desc.isNone) (ansBadState 0x0002)
  stopIf (mem.any fun n => match groupOf s n with | some x => decide (x ≠ g) | none => false) (ansBadState 0x0003)
  let s1 := weirUpd s fun w => { w with groupNext := w.groupNext.set g (some { members := mem, margin := if k = 0 then 0 else margin }) none }
  pure (groupsDue s1 [], some ansDone)

def execWeiGroupSet (sq : Fin 16) (s : State) : Host.Outcome State Fault Refusal := .next (runRing s sq 0x0703 bodyWeiGroupSet)

/-- F1 lies above 1/(2·Ts). -/
def overNyquist (n rate f1 : Nat) : Bool :=
  let (tn, td) := samplePeriod n rate
  let (x, k) := b32.toDyadic f1
  decide (((td * 2 ^ k : Nat) : Int) < 2 * x * tn)

/-- Checks of an injection header (R252). -/
def injChks (b : List Byte) (n : Nat) (rate : Option Nat) : List Chk :=
  let kind := fieldLE b 0 1
  let k := fieldLE b 3 1
  let chip := fieldLE b 12 1
  let f0 := fieldLE b 16 4
  let f1 := fieldLE b 20 4
  [rangeChk (decide (3 < kind)) 0, rangeChk (decide (2 < fieldLE b 1 1)) 1, rsvChk (decide (4 ≤ fieldLE b 2 1)) 2,
   rangeChk (decide ((kind = 1 ∧ (k < 7 ∨ 15 < k)) ∨ (kind = 3 ∧ (k < 1 ∨ 16 < k)))) 3, finiteChk b 4,
   rangeChk (decide (fieldLE b 8 4 < 1 ∨ 16777215 < fieldLE b 8 4)) 8,
   rangeChk (decide ((kind = 1 ∧ chip = 0) ∨ (kind = 3 ∧ (chip < 8 ∨ 16 < chip)))) 12,
   rangeChk (decide (kind = 2) && !(b32.isFinite f0 && b32.lt 0 f0)) 16,
   rangeChk (decide (kind = 2) && !(b32.isFinite f1 && b32.lt f0 f1 && !(rate.any fun r => overNyquist n r f1))) 20] ++
  (match firstNonZero b 13 3 with | some o => [rsvChk true o] | none => []) ++
  (match firstNonZero b 24 8 with | some o => [rsvChk true o] | none => [])

/-- Checks of the components of a multisine. -/
def compChks (b : List Byte) : List Chk :=
  if fieldLE b 0 1 = 3 then
    (List.range (min (fieldLE b 3 1) 16)).flatMap fun i =>
      let o := 32 + 12 * i
      let h := fieldLE b o 4
      [rangeChk (decide (h < 1 ∨ 2 ^ fieldLE b 12 1 / 2 - 1 < h)) o, finiteChk b (o + 4), finiteChk b (o + 8)]
  else []

def bodyWeiInject (s : State) (c : Cmd) : Work := do
  let n := c.op 16 2
  let l := loopAt s n
  checkOps (opChks c [(16, 2)] [(0, 32)] ++ loopChks c)
  let b ← readBuf s c 0
  let hd := injChks b n (l.desc.map LoopDesc.rate)
  checkOps [⟨!(hd.any Chk.bad) && decide (fieldLE b 0 1 = 3 ∧ c.bufLen 0 < 32 + 12 * fieldLE b 3 1), 40, 0x04⟩]
  checkBuf 0 (hd ++ compChks b)
  stopIf s.weir.inject.isSome (ansBadState 0x0005)
  stopIf (!l.en || l.held) (ansBadState 0x0006)
  let k := fieldLE b 3 1
  let q : Inject := {
    loop := n, kind := fieldLE b 0 1, point := fieldLE b 1 1, hold := bit (fieldLE b 2 1) 0, capture := bit (fieldLE b 2 1) 1
    n := k, a := fieldLE b 4 4, duration := fieldLE b 8 4, chip := fieldLE b 12 1, f0 := fieldLE b 16 4, f1 := fieldLE b 20 4
    comps := if fieldLE b 0 1 = 3 then (List.range k).map fun i =>
      (fieldLE b (32 + 12 * i) 4, fieldLE b (36 + 12 * i) 4, fieldLE b (40 + 12 * i) 4) else []
    shift := 2 ^ k - 1, ref := some c.ref }
  pure (setFld (setFlag (weirUpd s fun w => { w with inject := some q }) Reg.WEI_STAT_INJ true) Reg.WEI_STAT_INJ_LOOP n, some ansQueued)

def execWeiInject (sq : Fin 16) (s : State) : Host.Outcome State Fault Refusal := .next (runRing s sq 0x0704 bodyWeiInject)

def bodyWeiInjectStop (s : State) (c : Cmd) : Work := do
  checkOps (opChks c [] [])
  stopIf s.weir.inject.isNone (ansBadState 0x0007)
  pure (causedBy s (injEnd s 1) c.seq, some ansDone)

def execWeiInjectStop (sq : Fin 16) (s : State) : Host.Outcome State Fault Refusal := .next (runRing s sq 0x0705 bodyWeiInjectStop)

/-- Checks of a channel entry. -/
def capChks (b : List Byte) (o : Nat) : List Chk :=
  let k := fieldLE b (o + 4) 4
  let zero : List Chk := match firstNonZero b (o + 8) 4 with | some x => [rsvChk true x] | none => []
  if fieldLE b (o + 3) 1 = 0xFF then zero
  else
    [rangeChk (decide (numLoops ≤ fieldLE b o 2)) o, rangeChk (decide (6 < fieldLE b (o + 2) 1)) (o + 2),
     rangeChk (decide (2 < fieldLE b (o + 3) 1)) (o + 3), rangeChk (decide (k < 1 ∨ 65535 < k)) (o + 4)] ++ zero

def bodyWeiCaptureSet (s : State) (c : Cmd) : Work := do
  checkOps (opChks c [] [(0, 48)])
  let b ← readBuf s c 0
  let used := (List.range 4).filter fun i => fieldLE b (12 * i + 3) 1 ≠ 0xFF
  checkBuf 0 (((List.range 4).flatMap fun i => capChks b (12 * i)) ++ [⟨used.isEmpty, 3, 0x03⟩])
  stopIf (capOn s) (ansBadState 0x0008)
  let ch (i : Nat) : CapChan :=
    let o := 12 * i
    { loop := fieldLE b o 2, signal := fieldLE b (o + 2) 1, trig := fieldLE b (o + 3) 1, decim := fieldLE b (o + 4) 4,
      running := decide (fieldLE b (o + 3) 1 = 0) }
  let s1 := weirUpd s fun w => { w with caps := used.foldl (fun m i => m.set i (ch i) {}) [], capRef := some c.ref }
  let st := if s1.weir.caps.any fun x => x.2.running then 2 else 1
  pure (setFld (setFld s1 Reg.WEI_STAT_CAP_STATE st) Reg.WEI_CAP_WRITTEN_SAMPLES 0, some ansQueued)

def execWeiCaptureSet (sq : Fin 16) (s : State) : Host.Outcome State Fault Refusal := .next (runRing s sq 0x0706 bodyWeiCaptureSet)

def bodyWeiCaptureRead (s : State) (c : Cmd) : Work := do
  let k := c.op 24 4
  let f := c.op 20 4
  checkOps (opChks c [(16, 1), (20, 8)] [(1, 8 * min k 65536)] ++
    [rangeChk (decide (3 < c.op 16 1)) 16, rangeChk (decide (k < 1 ∨ 65536 < k)) 24])
  let d := (s.weir.caps.get (c.op 16 1) {}).data
  stopIf (decide (d.length < 8 * (f + k))) (ansBadState 0x0009)
  let s1 ← writeBuf s c 0 ((d.drop (8 * f)).take (8 * k))
  pure (s1, some (ansDone k))

def execWeiCaptureRead (sq : Fin 16) (s : State) : Host.Outcome State Fault Refusal := .next (runRing s sq 0x0707 bodyWeiCaptureRead)

/-- The 128 bytes of WEI_LOOP_READ. -/
def loopPage (l : Loop) : List Byte :=
  padTo 128 ([l.sp, l.pv, l.e, l.u, l.y, l.sv].flatMap (leBytes 4) ++ leBytes 1 l.reg ++ leBytes 1 (loopFlags l) ++ [0, 0] ++
    leBytes 4 l.samples ++ l.secs.flatMap fun x => leBytes 4 x.s1 ++ leBytes 4 x.s2)

def bodyWeiLoopRead (s : State) (c : Cmd) : Work := do
  checkOps (opChks c [(16, 2)] [(1, 128)] ++ loopChks c)
  let s1 ← writeBuf s c 0 (loopPage (loopAt s (c.op 16 2)))
  pure (s1, some (ansDone 128))

def execWeiLoopRead (sq : Fin 16) (s : State) : Host.Outcome State Fault Refusal := .next (runRing s sq 0x0708 bodyWeiLoopRead)

def bodyWeiCaptureStop (s : State) (c : Cmd) : Work := do
  checkOps (opChks c [] [])
  stopIf (!capOn s) (ansBadState 0x000A)
  pure (causedBy s (capEnd s 1) c.seq, some ansDone)

def execWeiCaptureStop (sq : Fin 16) (s : State) : Host.Outcome State Fault Refusal := .next (runRing s sq 0x0709 bodyWeiCaptureStop)

end Sys2Proof.Machine
end

