-- ==== Sys2Proof/Machine/Fountain.lean ====
section
/-! DEFINITION. Fountain: sinks, boost converter, fixtures, jets and the feature bus (chapter 12). -/

namespace Sys2Proof.Machine

def ftnUpd (s : State) (f : FtnSt → FtnSt) : State := { s with ftn := f s.ftn }
def jetAt (s : State) (j : Nat) : Jet := s.ftn.jets.get j {}
def fixAt (s : State) (n : Nat) : Option Fixture := s.ftn.fixtures.get n none
/-- Output channel of sink k. -/
def sinkChan (k : Nat) : Nat := 65536 + k

/-- A jet with its register (R366). -/
def setJet (s : State) (j : Nat) (x : Jet) : State :=
  let s1 := ftnUpd s fun f => { f with jets := f.jets.set j x {} }
  setFld (setFld (setFld s1 (Reg.FTN_JET_STAT_STATE j) x.state) (Reg.FTN_JET_STAT_FLAGS j) x.flags) (Reg.FTN_JET_STAT_PC j) x.pc

/-! ### Sources of a channel (R339) -/

/-- N of a jet target (R353). -/
def JetProg.n (p : JetProg) : Nat :=
  match p.tkind with
  | 0 => ((List.range 16).filter (bit p.first)).length
  | 3 => 1
  | _ => p.count + 1

/-- The position of a channel in a jet target. -/
def JetProg.chanPos (p : JetProg) (ch : Nat) : Option Nat :=
  match p.tkind with
  | 0 => if 65536 ≤ ch ∧ bit p.first (ch - 65536) then some ((List.range (ch - 65536)).filter (bit p.first)).length else none
  | 1 => if p.first ≤ ch ∧ ch < p.first + p.n then some (ch - p.first) else none
  | _ => none

/-- A fixture is in a jet target. -/
def JetProg.hasFix (p : JetProg) (n : Nat) : Bool := decide (p.tkind = 2 ∧ p.first ≤ n ∧ n < p.first + p.n)

/-- The level that a running jet gives a channel. -/
def jetCode (s : State) (ch : Nat) : Option Nat :=
  s.ftn.jets.findSome? fun x =>
    if x.2.state = 2 then (x.2.prog.bind fun p => p.chanPos ch).map fun i => x.2.v.get i 0 else none

/-- A running jet drives a fixture. -/
def jetFix (s : State) (n : Nat) : Bool := s.ftn.jets.any fun x => decide (x.2.state = 2) && x.2.prog.any fun p => p.hasFix n

/-- The solver output of the fixture that maps a channel, once there is one. -/
def fixCode (s : State) (ch : Nat) : Option Nat :=
  s.ftn.fixtures.findSome? fun x => x.2.bind fun f =>
    (f.chans.findIdx? fun c => decide (c.out = ch)).bind fun i => f.codes[i]?

/-- The code of a channel, from the first of its three sources (R339). -/
def codeNow (s : State) (ch : Nat) : Nat :=
  match jetCode s ch with
  | some v => v
  | none => match fixCode s ch with
    | some v => v
    | none => s.ftn.reg.get ch 0

/-- FTN_SINKn_DUTY.SRC. -/
def codeSrc (s : State) (ch : Nat) : Nat := if (jetCode s ch).isSome then 2 else if (fixCode s ch).isSome then 1 else 0

/-! ### Sinks (R341, R344) -/

def bitrev (v w : Nat) : Nat := ((List.range w).map fun i => b2n (bit v (w - 1 - i)) * 2 ^ i).sum

/-- block_on of R344. -/
def blockOn (code phase f j : Nat) : Bool :=
  let n := code / 8 + b2n (decide (bitrev f 3 < code % 8))
  decide (bitrev ((j + 8192 - phase % 8192) % 8192) 13 < n)

/-- Drive the sinks: a sink that draws current shows PHASE, I_SET and duty code, as latched; one that is off shows 0. -/
def driveSinks (s : State) : State :=
  (List.range 16).foldl (fun s k =>
    let (c, i, p) := s.ftn.latched.get (sinkChan k) (0, 0, 0)
    drivePad s (.sink k) (if sinkActive s k then (p * 1024 + i) * 65536 + c else 0)) s

/-- Outputs that are disabled stop at once, with FTN_GATE low, and stay off until a superframe boundary finds them enabled (R362). -/
def outputsCheck (s : State) : State :=
  if ftnOutputs s then driveSinks s else driveSinks (drivePad (ftnUpd s fun f => { f with outputsOn := false }) .ftnGate 0)

/-- Pin voltages in mV that were sampled: those of active sinks are kept (R341). -/
def takePins (s : State) (pins : List (Fin 16 × Nat)) : State :=
  ftnUpd s fun f => { f with
    headroom := pins.foldl (fun m p => if sinkActive s p.1.val then m.set p.1.val (min p.2 48000) 0 else m) f.headroom }

/-- FTN_STAT.ACTIVE. -/
def activeMask (s : State) : Nat := (((List.range 16).filter (sinkActive s)).map fun k => 2 ^ k).sum

/-- A sink fault is latched and recorded (R345-R349). -/
def latchSink (s : State) (k fcode detail : Nat) (fs : List RF) : State :=
  driveSinks (fault (setErr (fs.foldl (fun s f => setFlag s f true) s) Reg.FTN_ERR_SINK) 0x0B fcode false (k + detail))

def execOpenString (n : Fin 16) (s : State) : Host.Outcome State Fault Refusal :=
  .next (
    if sinkActive s n.val ∧ !flag s (Reg.FTN_SINK_STAT_OPEN n.val) then
      latchSink s n.val 0x8B01 0 [Reg.FTN_SINK_STAT_OPEN n.val]
    else s)

/-- The headroom of a sink has exceeded the lowest by SHORT_MV for 64 frames. -/
def execLedShort (n : Fin 16) (s : State) : Host.Outcome State Fault Refusal :=
  let extra := s.ftn.headroom.get n.val 0 - (lowestHeadroom s).getD 0
  .next (
    if sinkActive s n.val ∧ !flag s (Reg.FTN_SINK_STAT_SHORT n.val) ∧ fld s Reg.FTN_PINTEST_SHORT_MV ≤ extra then
      latchSink s n.val 0x8B02 (extra % 65536 * 65536) [Reg.FTN_SINK_STAT_SHORT n.val]
    else s)

/-- The sensor of sinks 4·g to 4·g + 3 reads t °C (R347). -/
def execOvertemp (g : Fin 4) (t : Int) (s : State) : Host.Outcome State Fault Refusal :=
  let ks := (List.range 4).map fun i => 4 * g.val + i
  let det (k : Nat) : Nat := k + ofSigned 8 t * 256
  .next (
    if domState s 11 ≠ 2 then s
    else if 125 ≤ t then
      ks.foldl (fun s k =>
        if flag s (Reg.FTN_SINK_STAT_OT k) then s else latchSink s k 0x8B03 (ofSigned 8 t * 256) [Reg.FTN_SINK_STAT_OT k]) s
    else if t < 110 then
      driveSinks (ks.foldl (fun s k =>
        if flag s (Reg.FTN_SINK_STAT_OT k) then fault (setFlag s (Reg.FTN_SINK_STAT_OT k) false) 0x0B 0x8B03 true (det k) else s) s)
    else s)

/-- A pair of neighbouring sinks may be tested (R348). -/
def pairTestable (s : State) (k : Nat) : Bool :=
  let ok (i : Nat) : Bool := flag s (Reg.FTN_SINK_CFG_EN i) && !flag s (Reg.FTN_SINK_STAT_PIN i)
  ok k && ok (k + 1)

/-- Drive a sink's pad outside its frame: off, or 1 mA without a break. -/
def driveTest (s : State) (k : Nat) (on : Bool) : State := drivePad s (.sink k) (if on then 5 * 65536 + 65535 else 0)

/-- The drive of a pair's test frame: both sinks off, sink k draws 1 mA while sink k + 1 is off, then the other way round, and each goes
on with its frame (R348). -/
def pinTestDrive (s : State) (k : Nat) : State :=
  let s1 := driveTest (driveTest (driveTest s k false) (k + 1) false) k true
  driveSinks (driveTest (driveTest s1 k false) (k + 1) true)

/-- The next pair of a round is tested; `low` says that an off pin read below 1.0 V. -/
def execPinTest (low : Bool) (s : State) : Host.Outcome State Fault Refusal :=
  let per := fld s Reg.FTN_PINTEST_PERIOD
  .next (
    if per = 0 ∨ !ftnOutputs s then s
    else
      let begins := decide (15 ≤ s.ftn.pinNext) && passedSec s (s.ftn.pinAt - 1) per
      if 15 ≤ s.ftn.pinNext ∧ !begins then s
      else
        let s1 := if begins then ftnUpd s fun f => { f with pinAt := s.el + 1, pinNext := 0 } else s
        match (List.range 15).find? fun k => s1.ftn.pinNext ≤ k && pairTestable s1 k with
        | none => ftnUpd s1 fun f => { f with pinNext := 15 }
        | some k =>
          let s2 := pinTestDrive (ftnUpd s1 fun f => { f with pinNext := k + 1 }) k
          if low then latchSink s2 k 0x8B04 0 [Reg.FTN_SINK_STAT_PIN k, Reg.FTN_SINK_STAT_PIN (k + 1)] else s2)

/-! ### Boost converter (R342, R343) -/

/-- One switching period: VSENSE at its start in 10 mV, and the parts of the period, in 1/65,536, after which FTN_CS reaches
ILIM_MV and VSENSE reaches VMAX, where they do. -/
def execBoostPeriod (vsense : Nat) (csCut vmaxCut : Option (BitVec 16)) (s : State) : Host.Outcome State Fault Refusal :=
  .next (
    if domState s 11 ≠ 2 then s
    else
      let s0 := setFld (ftnUpd s fun f => { f with vout := min vsense 8191 }) Reg.FTN_BOOST_STAT_VOUT (min vsense 8191)
      let en := flag s0 Reg.FTN_CTRL_BOOST_EN
      let overVolt := en && decide (fld s0 Reg.FTN_BOOST_VMAX * 10 ≤ vsense)
      let on := en && !overVolt && ftnOutputs s0 && decide (activeMask s0 ≠ 0)
      let dmax := b32.ratio false (fld s0 Reg.FTN_BOOST_LIM_DMAX) 1024
      let d := (b32.toIntFloor (b32.mul (b32.min (boostDuty s0) dmax) (b32.ofInt 65536))).toNat
      let cs := csCut.map BitVec.toNat
      let vm := vmaxCut.map BitVec.toNat
      let t := if on then min d (min (cs.getD d) (vm.getD d)) else 0
      let ilim := on && decide (t < d) && decide (cs = some t)
      let ovp := overVolt || (on && decide (t < d) && decide (vm = some t))
      let s1 := setFlag (setFlag s0 Reg.FTN_BOOST_STAT_ILIM ilim) Reg.FTN_BOOST_STAT_OVP ovp
      let s2 := if ilim then count1 s1 (Reg.FTN_CNT_COUNT 1) else s1
      drivePad (if ovp then count1 s2 (Reg.FTN_CNT_COUNT 0) else s2) .ftnGate t)

/-! ### The colour solver (R350-R352) -/

/-- The sum, difference, product and quotient that the solver's lines are written in. -/
def fa (x y : Nat) : Nat := b32.add x y
def fs (x y : Nat) : Nat := b32.sub x y
def fm (x y : Nat) : Nat := b32.mul x y
def fd (x y : Nat) : Nat := b32.div x y
def fi (v : Int) : Nat := b32.ofInt v
def ppm : Nat := b32.ratio false 1 1000000

/-- X, Y and Z. -/
abbrev XYZ := Nat × Nat × Nat

/-- The tristimulus values of a chromaticity and a flux. -/
def xyzOf (x y f : Nat) : XYZ := (fm (fd x y) f, f, fm (fd (fs (fs (fi 1) x) y) y) f)

/-- A channel at a temperature difference. -/
def chanXyz (dT : Nat) (c : FixChan) : XYZ :=
  let f := fm (fd (fi c.flux) (fi 10)) (fa (fi 1) (fm (fm (fi c.kf) ppm) dT))
  let x := fa (fd (fi c.x) (fi 65536)) (fm (fm (fi c.kx) ppm) dT)
  let y := fa (fd (fi c.y) (fi 65536)) (fm (fm (fi c.ky) ppm) dT)
  xyzOf x y f

/-- det3 of R351. -/
def det3 (a b c : XYZ) : Nat :=
  fa (fs (fm a.1 (fs (fm b.2.1 c.2.2) (fm b.2.2 c.2.1))) (fm b.1 (fs (fm a.2.1 c.2.2) (fm a.2.2 c.2.1))))
    (fm c.1 (fs (fm a.2.1 b.2.2) (fm a.2.2 b.2.1)))

/-- D and the duties of three channels. -/
def solve3 (a b c t : XYZ) : Nat × List Nat :=
  let d := det3 a b c
  (d, [fd (det3 t b c) d, fd (det3 a t c) d, fd (det3 a b t) d])

def isZero32 (x : Nat) : Bool := b32.le x 0 && b32.le 0 x

/-- The duties of a target, `none` when a solution is missing or D is 0. -/
def solveDuties (l : List XYZ) (t : XYZ) : Option (List Nat) :=
  match l with
  | [a] => some [fd t.2.1 a.2.1]
  | [a, b] =>
    let d := fs (fm a.1 b.2.1) (fm b.1 a.2.1)
    if isZero32 d then none
    else some [fd (fs (fm t.1 b.2.1) (fm b.1 t.2.1)) d, fd (fs (fm a.1 t.2.1) (fm t.1 a.2.1)) d]
  | [a, b, c] => let (d, x) := solve3 a b c t; if isZero32 d then none else some x
  | _ =>
    let kept := (List.range 4).filterMap fun k =>
      match l.eraseIdx k with
      | [a, b, c] =>
        let (d, x) := solve3 a b c t
        if !isZero32 d && x.all (fun v => b32.le 0 v) then some (x.take k ++ [0] ++ x.drop k) else none
      | _ => none
    match kept with
    | [] => none
    | x :: r => some ((r.foldl (fun a y => (a.zip y).map fun z => fa z.1 z.2) x).map fun v => fd v (fi (r.length + 1)))

/-- Temperature of a fixture in 0.01 °C (R350). -/
def fixTemp (s : State) (f : Fixture) : Int :=
  match f.tsrc with
  | 1 => sfld s Reg.PWR_TEMP_LID
  | 2 => (((spanValue s f.tindex).map (b32.to b64)).bind centi).getD f.tFixed
  | _ => f.tFixed

/-- The solver runs for a fixture and a target (R351, R352): flags OUT_OF_GAMUT and FLUX_LIMITED. Duties that are not numbers,
which the manual does not state, give free codes. -/
def solveFix (s : State) (n : Nat) (f : Fixture) (t : Nat × Nat × Nat) : State × Nat :=
  let dT := fd (fi (fixTemp s f - f.tRef)) (fi 100)
  let txyz := xyzOf (fd (fi t.1) (fi 65536)) (fd (fi t.2.1) (fi 65536)) (fd (fi t.2.2) (fi 10))
  let s1 := count1 s (Reg.FTN_CNT_COUNT 2)
  let put (s : State) (codes : List Nat) : State :=
    ftnUpd s fun x => { x with fixtures := x.fixtures.set n (some { f with target := some t, codes := codes }) none }
  match solveDuties (f.chans.map (chanXyz dT)) txyz with
  | some d =>
    if d.any fun v => b32.lt v 0 then (setErr (count1 (put s1 f.codes) (Reg.FTN_CNT_COUNT 3)) Reg.FTN_ERR_GAMUT, 1)
    else
      let m := d.foldl b32.max 0
      let lim := b32.lt (fi 1) m
      let e := if lim then d.map fun v => fd v m else d
      if e.all b32.isFinite then
        (put s1 (e.map fun v => (min 65535 (b32.toIntEven (fm v (fi 65536)))).toNat), 2 * b2n lim)
      else
        let free (i : Nat) : Nat := Config.free (s.freeN + i) % 65536
        ({ put s1 ((List.range e.length).map free) with freeN := s.freeN + 5 }, 2 * (free 4 % 2))
  | none => (setErr (count1 (put s1 f.codes) (Reg.FTN_CNT_COUNT 3)) Reg.FTN_ERR_GAMUT, 1)

/-- Once per DT second every fixture with a target is solved again for its temperature. -/
def execFixtureTempUpdate (s : State) : Host.Outcome State Fault Refusal :=
  let k := dtSec s.dt + 1
  .next (
    if s.ftn.tempSec = k ∨ domState s 11 ≠ 2 then s
    else
      s.ftn.fixtures.foldl (fun s x => match x.2 with
        | some f => match f.target with
          | some t => (solveFix s x.1 f t).1
          | none => s
        | none => s) (ftnUpd s fun f => { f with tempSec := k }))

/-! ### Jets (R353-R357) -/

/-- Whole ms between two superframe counts. -/
def sfMs (a b : Nat) : Nat := (b - a) * 512 / 75

/-- The RAMP curves. -/
def rampCurve (k p : Nat) : Nat :=
  match k with
  | 1 => p * p / 65536
  | 2 => 65536 - (65536 - p) * (65536 - p) / 65536
  | 3 => if p < 32768 then p * p / 32768 else 65536 - (65536 - p) * (65536 - p) / 32768
  | _ => p

/-- Positions that a step acts on. -/
def selOf (p : JetProg) (st : JStep) : List Nat :=
  let n := p.n
  let k := if st.selCount = 0 then n - st.selFirst else min st.selCount (n - st.selFirst)
  (List.range k).map fun i => st.selFirst + i

/-- What evaluation of a step leads to. -/
inductive JetGo where
  | next | jump (pc : Nat) | stay | halt (cause : Nat)

/-- The first evaluation of a RAMP, HOLD or WAIT_SYNC. -/
def jetEnter (x : Jet) (st : JStep) (t dt : Nat) : Jet :=
  if (st.op = 1 ∨ st.op = 2 ∨ st.op = 5) ∧ !x.entered then
    { x with entered := true, t0 := t, r0 := x.v, w := if st.op = 5 then (dt * 1000 / (65536 * st.arg) + 1) * st.arg else 0 }
  else x

/-- A sparse table rotated by a signed number of positions modulo n. -/
def rotate (m : SMap Nat) (k : Int) (n : Nat) : SMap Nat :=
  m.foldl (fun r x => r.set (((x.1 : Int) + k) % n).toNat x.2 0) []

/-- One step of evaluate (R354). -/
def jetStep (p : JetProg) (x : Jet) (st : JStep) (t dt : Nat) : Jet × JetGo :=
  let sel := selOf p st
  let setV (x : Jet) : Jet := { x with v := sel.foldl (fun m i => m.set i st.level 0) x.v }
  match st.op with
  | 0 =>
    let x1 := setV x
    (if p.tkind = 2 ∧ st.color ≠ 0xFF then { x1 with c := sel.foldl (fun m i => m.set i (st.color + 1) 0) x1.c } else x1, .next)
  | 1 =>
    let e := sfMs x.t0 t
    if st.arg ≤ e then (setV x, .next)
    else
      let k := rampCurve st.curve (e * 65536 / st.arg)
      let val (i : Nat) : Nat := let r : Int := x.r0.get i 0; (r + (((st.level : Int) - r) * k).tdiv 65536).toNat
      ({ x with v := sel.foldl (fun m i => m.set i (val i) 0) x.v }, .stay)
  | 2 => (x, if st.arg ≤ sfMs x.t0 t then .next else .stay)
  | 3 =>
    let lim := bits st.arg 31 16
    let c := x.cnt.get x.pc 0
    if lim = 0 ∨ c < lim then ({ x with cnt := x.cnt.set x.pc (c + b2n (decide (lim ≠ 0))) 0 }, .jump (st.arg % 256))
    else ({ x with cnt := x.cnt.set x.pc 0 0 }, .next)
  | 4 =>
    let k := toSigned 32 st.arg
    ({ x with v := rotate x.v k p.n, c := rotate x.c k p.n }, .next)
  | 5 => (x, if x.w * 65536 ≤ dt * 1000 then .next else .stay)
  | 6 =>
    let f := st.arg % 8
    if bit x.flags f then ({ x with flags := putBits x.flags f f 0 }, .jump (bits st.arg 15 8)) else (x, .next)
  | _ => (x, .halt 0)

/-- evaluate of R354: the zero-time limit stops the jet after 64 steps, unless the step past them is at NSTEPS. -/
def jetEval (p : JetProg) (t dt : Nat) : Nat → Jet → Jet × Option Nat
  | 0, x => (x, some (if p.steps.length ≤ x.pc then 0 else 2))
  | fuel + 1, x =>
    match p.steps[x.pc]? with
    | none => (x, some 0)
    | some st =>
      let (x1, go) := jetStep p (jetEnter x st t dt) st t dt
      match go with
      | .stay => (x1, none)
      | .halt c => (x1, some c)
      | .next => jetEval p t dt fuel { x1 with pc := x1.pc + 1, entered := false }
      | .jump k => jetEval p t dt fuel { x1 with pc := k, entered := false }

/-- A jet stops, with its event (R356). -/
def stopJet (s : State) (j cause : Nat) : State :=
  let x := jetAt s j
  emit (setJet s j { x with state := 0 }) 0x0B00 (leBytes 1 j ++ leBytes 1 cause ++ leBytes 1 x.pc)

/-- The solver for the fixtures that a jet drives. -/
def jetFixtures (s : State) (p : JetProg) (x : Jet) : State :=
  if p.tkind ≠ 2 then s
  else
    (List.range p.n).foldl (fun s i =>
      match fixAt s (p.first + i) with
      | none => s
      | some f =>
        let flux := x.v.get i 0 * f.fluxFs / 65535
        let free := (Config.free s.freeN % 65536, Config.free (s.freeN + 1) % 65536)
        let (xy, s1) := match x.c.get i 0 with
          | 0 => match f.target with
            | some t => ((t.1, t.2.1), s)
            | none => (free, { s with freeN := s.freeN + 2 })
          | c + 1 => (s.ftn.colors.get c (0, 0), s)
        (solveFix s1 (p.first + i) f (xy.1, xy.2, flux)).1) s

/-- A running jet is evaluated at a superframe boundary. -/
def runJet (s : State) (j : Nat) : State :=
  let x := jetAt s j
  match x.prog with
  | none => s
  | some p =>
    if x.state ≠ 2 then s
    else
      let (y, stop) := jetEval p s.ftn.count s.dt 65 x
      let s1 := setJet s j y
      match stop with
      | some c => stopJet s1 j c
      | none => jetFixtures s1 p y

/-- A waiting jet whose START_DT has come starts (R356). -/
def beginJet (s : State) (j : Nat) : State :=
  let x := jetAt s j
  if x.state = 1 ∧ x.startDt ≤ s.dt then setJet s j { prog := x.prog, state := 2, startDt := x.startDt } else s

/-- V[0] of running GROUP jets, plus 1, by group (R355). -/
def jetGroups (s : State) : SMap Nat :=
  s.ftn.jets.foldl (fun m x => match x.2.prog with
    | some p => if x.2.state = 2 ∧ p.tkind = 3 then m.set p.first (x.2.v.get 0 0 + 1) 0 else m
    | none => m) []

/-! ### The feature bus (R358-R361) -/

/-- The 16 codes of a driver. -/
def driverCodes (s : State) (d : Nat) : List Nat := (List.range 16).map fun c => codeNow s (16 * d + c)

/-- A chain frame: farthest driver first, channel 15 first, most significant bit first. -/
def chainFrame (s : State) (p : Nat) : List Byte :=
  let b := fld s (Reg.FTN_FLB_CFG_BASE p)
  (List.range (fld s (Reg.FTN_FLB_CFG_DRIVERS p))).reverse.flatMap fun k => (driverCodes s (b + k)).reverse.flatMap (beBytes 2)

/-- An addressed frame (R360). -/
def flbFrame (addr cmd : Nat) (payload : List Byte) : List Byte :=
  let h := [0xD5] ++ leBytes 2 (addr + cmd * 4096) ++ leBytes 1 payload.length ++ payload
  h ++ leBytes 2 (crc16 h)

def flbAt (s : State) (p : Nat) : FlbSt := s.ftn.flb.get p {}
def updFlb (s : State) (p : Nat) (f : FlbSt → FlbSt) : State := ftnUpd s fun x => { x with flb := x.flb.upd p {} f }

/-- A driver fault is latched (R361). -/
def busFault (s : State) (p a status : Nat) : State :=
  if (flbAt s p).faults.get a false then s
  else
    fault (setErr (updFlb s p fun f => { f with faults := f.faults.set a true false }) Reg.FTN_ERR_BUS) 0x0B 0x8B05 false
      (a + 4096 * p + 65536 * status)

/-- A request had no valid answer. -/
def busMiss (s : State) (p a : Nat) : State :=
  let m := (flbAt s p).misses.get a 0 + 1
  let s1 := updFlb s p fun f => { f with asked := none, misses := f.misses.set a m 0 }
  if 3 ≤ m then busFault s1 p a 0 else s1

/-- A request without an answer in its time (R360). -/
def busTimeout (s : State) (p : Nat) : State :=
  match (flbAt s p).asked with
  | some a => busMiss (count1 s (Reg.FTN_CNT_COUNT 5)) p a
  | none => s

/-- The answer of the driver whose STATUS is awaited, `none` when its time has passed. -/
def execStatus (p : Fin 2) (frame : Option (List Byte)) (s : State) : Host.Outcome State Fault Refusal :=
  .next (
    match (if domState s 11 = 2 then (flbAt s p.val).asked else none), frame with
    | none, _ => s
    | some _, none => busTimeout s p.val
    | some a, some l =>
      let n := l.length - 2
      let crcOk := decide (2 ≤ l.length) && decide (fieldLE l n 2 = crc16 (l.take n))
      if !crcOk then busMiss (count1 s (Reg.FTN_CNT_COUNT 4)) p.val a
      else if l.length = 8 ∧ fieldLE l 0 1 = 0xD5 ∧ fieldLE l 1 2 = a + 3 * 4096 ∧ fieldLE l 3 1 = 2 then
        let s1 := updFlb s p.val fun f => { f with asked := none, misses := f.misses.set a 0 0 }
        if fieldLE l 4 1 = 0 then s1 else busFault s1 p.val a (fieldLE l 4 1)
      else busMiss s p.val a)

/-- A frame of a feature bus port. -/
def sendFlb (s : State) (p : Nat) (b : List Byte) : State := sendLine s (flbIdle s p) (.flb p b)

/-- Write one driver's codes. -/
def sendDriver (p : Nat) (s : State) (d : Nat) : State :=
  let l := driverCodes s d
  sendFlb (ftnUpd s fun f => { f with sentCodes := l.zipIdx.foldl (fun m x => m.set (16 * d + x.2) x.1 0) f.sentCodes }) p
    (flbFrame d 0 ([0, 0] ++ l.flatMap (leBytes 2)))

/-- The addressed port's superframe (R361): a WRITE of 16 codes takes 100/3 µs, and none starts after 6.0 ms. -/
def addressedFrame (s0 : State) (p : Nat) : State :=
  let s := busTimeout s0 p
  let b := fld s (Reg.FTN_FLB_CFG_BASE p)
  let n := fld s (Reg.FTN_FLB_CFG_DRIVERS p)
  let changed := ((List.range n).map (b + ·)).filter fun d =>
    (driverCodes s d).zipIdx.any fun x => decide (s.ftn.sentCodes.get (16 * d + x.2) 0 ≠ x.1)
  let x := flbAt s p
  let due := (changed ++ [b + x.rrWrite % n]).zipIdx.filterMap fun y => if y.2 * 100 < 18000 then some y.1 else none
  let s1 := sendFlb (due.foldl (sendDriver p) s) p (flbFrame 0xFFF 1 [])
  let a := b + x.rrStatus % n
  updFlb (sendFlb s1 p (flbFrame a 2 [])) p fun f => { f with
    rrWrite := if changed.length * 100 < 18000 then (x.rrWrite + 1) % n else x.rrWrite
    rrStatus := (x.rrStatus + 1) % n, asked := some a }

/-- What a port sends in a superframe. -/
def portFrame (s : State) (p : Nat) : State :=
  if !flag s (Reg.FTN_FLB_CFG_EN p) ∨ fld s (Reg.FTN_FLB_CFG_DRIVERS p) = 0 then s
  else if flag s (Reg.FTN_FLB_CFG_MODE p) then addressedFrame s p
  else sendFlb s p (chainFrame s p)

/-- Latch the sinks' codes, I_SET and PHASE (R344). -/
def latchSinks (s : State) : State :=
  ftnUpd s fun f => { f with latched := (List.range 16).foldl (fun m k =>
    m.set (sinkChan k) (codeNow s (sinkChan k), fld s (Reg.FTN_SINK_CFG_I_SET k), fld s (Reg.FTN_SINK_CFG_PHASE k)) (0, 0, 0)) [] }

/-- A superframe boundary has come: 131,072 cycles of 19.2 MHz. Codes are latched, bus frames sent, and jets started and
evaluated; what they give is latched at the next boundary. `pins` are the sinks' pin voltages sampled since. -/
def execSuperframe (pins : List (Fin 16 × Nat)) (s : State) : Host.Outcome State Fault Refusal :=
  let k := s.el * 9375 / (64 * 65536) + 1
  .next (
    if s.ftn.boundary = k ∨ domState s 11 ≠ 2 then s
    else
      let s1 := latchSinks (takePins (ftnUpd s fun f => { f with boundary := k, count := f.count + 1 }) pins)
      let s2 := driveSinks (ftnUpd s1 fun f => { f with outputsOn := ftnOutputs s1 })
      let s3 := if s2.ftn.outputsOn then portFrame (portFrame s2 0) 1 else s2
      let s4 := (List.range 16).foldl beginJet s3
      (List.range 16).foldl runJet s4)

/-! ### Resets and the pair (R362, R363) -/

/-- Two jet targets share an output channel, fixture or group (R356). -/
def overlap (a b : JetProg) : Bool :=
  decide (a.tkind = b.tkind) && (match a.tkind with
    | 0 => (List.range 16).any fun i => bit a.first i && bit b.first i
    | 3 => decide (a.first = b.first)
    | _ => decide (a.first < b.first + b.n ∧ b.first < a.first + a.n))

/-- Another jet that runs or waits has a part of the target. -/
def targetTaken (s : State) (j : Nat) (p : JetProg) : Bool :=
  s.ftn.jets.any fun x => decide (x.1 ≠ j ∧ x.2.state ≠ 0) && x.2.prog.any (overlap p)

/-- AUTOSTART jets wait for the next superframe boundary. -/
def autostart (s : State) : State :=
  (List.range 16).foldl (fun s j =>
    match (jetAt s j).prog with
    | some p => if p.auto ∧ !targetTaken s j p then setJet s j { prog := some p, state := 1 } else s
    | none => s) s

/-- Fountain as a MOD reset, or becoming the active member, leaves it: configuration stays, and faults but OT are cleared. -/
def ftnReset (s : State) : State :=
  let s1 := ftnUpd s fun f => {
    fixtures := f.fixtures.filterMap fun x => x.2.map fun y => (x.1, some { y with target := none, codes := [] })
    colors := f.colors
    jets := f.jets.filterMap fun x => x.2.prog.map fun p => (x.1, { prog := some p })
    vout := f.vout }
  let s2 := (List.range 16).foldl (fun s k =>
    [Reg.FTN_SINK_STAT_OPEN k, Reg.FTN_SINK_STAT_SHORT k, Reg.FTN_SINK_STAT_PIN k].foldl (fun s f => setFlag s f false) s) s1
  driveSinks ((List.range 16).foldl (fun s j => setJet s j (jetAt s j)) s2)

/-! ### Opcodes (R364) -/

/-- First fixture or channel and COUNT. -/
def ftnRange (c : Cmd) (o k limit most : Nat) : List Chk :=
  let f := c.op o 2
  [rangeChk (decide (limit ≤ f)) o, rangeChk (decide (k < 1 ∨ most < k)) 20, rangeChk (decide (f < limit ∧ limit < f + k)) 20]

/-- Checks of a fixture record at an offset (R350). -/
def fixtureChks (b : List Byte) (o : Nat) : List Chk :=
  let n := fieldLE b o 1
  let zero (a k : Nat) : List Chk := match firstNonZero b a k with | some x => [rangeChk true x] | none => []
  [rangeChk (decide (n < 1 ∨ 4 < n)) o, rangeChk (decide (3 ≤ fieldLE b (o + 1) 1)) (o + 1),
   rangeChk (decide (64 ≤ fieldLE b (o + 2) 1)) (o + 2)] ++ zero (o + 3) 1 ++ zero (o + 10) 6 ++
  (List.range 4).flatMap fun i =>
    let q := o + 16 + 16 * i
    if i < n then
      [rangeChk (decide (65552 ≤ fieldLE b q 3)) q, rangeChk (decide (fieldLE b (q + 6) 2 = 0)) (q + 6)] ++ zero (q + 3) 1
    else zero q 16

/-- A fixture record. -/
def Fixture.ofBytes (b : List Byte) (o : Nat) : Fixture :=
  let sg (a n : Nat) : Int := toSigned (8 * n) (fieldLE b a n)
  { tsrc := fieldLE b (o + 1) 1, tindex := fieldLE b (o + 2) 1, tRef := sg (o + 4) 2, tFixed := sg (o + 6) 2, fluxFs := fieldLE b (o + 8) 2
    chans := (List.range (fieldLE b o 1)).map fun i =>
      let q := o + 16 + 16 * i
      { out := fieldLE b q 3, x := fieldLE b (q + 4) 2, y := fieldLE b (q + 6) 2, flux := fieldLE b (q + 8) 2,
        kf := sg (q + 10) 2, kx := sg (q + 12) 2, ky := sg (q + 14) 2 } }

/-- Channels that fixtures map. -/
def mapped (m : SMap (Option Fixture)) : List Nat :=
  m.flatMap fun x => match x.2 with | some f => f.chans.map FixChan.out | none => []

/-- Some number occurs twice. -/
def hasRepeat (l : List Nat) : Bool :=
  let m := l.sortBy fun a b => decide (a ≤ b)
  (m.zip (m.drop 1)).any fun x => decide (x.1 = x.2)

def bodyFtnFixtureLoad (s : State) (c : Cmd) : Work := do
  let k := c.op 20 2
  let f := c.op 16 2
  checkOps (opChks c [(16, 2), (20, 2)] [(0, 80 * min k 16384)] ++ ftnRange c 16 k 16384 16384)
  let b ← readBuf s c 0
  checkBuf 0 ((List.range k).flatMap fun i => fixtureChks b (80 * i))
  let m := (List.range k).foldl (fun (m : SMap (Option Fixture)) i => m.set (f + i) (some (Fixture.ofBytes b (80 * i))) none) s.ftn.fixtures
  stopIf (hasRepeat (mapped m)) (ansBadState 0x0001)
  stopIf ((List.range k).any fun i => jetFix s (f + i)) (ansBadState 0x0002)
  pure (ftnUpd s fun x => { x with fixtures := m }, some (ansDone k))

def execFtnFixtureLoad (sq : Fin 16) (s : State) : Host.Outcome State Fault Refusal := .next (runRing s sq 0x0B00 bodyFtnFixtureLoad)

def bodyFtnFixtureSet (s : State) (c : Cmd) : Work := do
  let n := c.op 16 2
  checkOps (opChks c [(16, 8)] [] ++ [rangeChk (decide (16384 ≤ n)) 16])
  stopIf (jetFix s n) (ansBadState 0x0004)
  match fixAt s n with
  | none => .error (.ans (ansBadState 0x0005))
  | some f =>
    let (s1, r) := solveFix s n f (c.op 18 2, c.op 20 2, c.op 22 2)
    pure (s1, some (ansDone r))

def execFtnFixtureSet (sq : Fin 16) (s : State) : Host.Outcome State Fault Refusal := .next (runRing s sq 0x0B01 bodyFtnFixtureSet)

def bodyFtnChanSet (s : State) (c : Cmd) : Work := do
  let kind := c.op 16 1
  let f := c.op 18 2
  let k := c.op 20 1
  checkOps (opChks c [(16, 1), (18, 3), (24, 2 * min k 16)] [] ++ [rangeChk (decide (1 < kind)) 16] ++
    (let lim := if kind = 0 then 16 else 65536
     [rangeChk (decide (lim ≤ f)) 18, rangeChk (decide (k < 1 ∨ 16 < k)) 20, rangeChk (decide (f < lim ∧ lim < f + k)) 20]))
  let ch (i : Nat) : Nat := if kind = 0 then sinkChan (f + i) else f + i
  stopIf ((List.range k).any fun i => decide (codeSrc s (ch i) ≠ 0)) (ansBadState 0x0006)
  pure (ftnUpd s fun x => { x with reg := (List.range k).foldl (fun m i => m.set (ch i) (c.op (24 + 2 * i) 2) 0) x.reg }, some ansDone)

def execFtnChanSet (sq : Fin 16) (s : State) : Host.Outcome State Fault Refusal := .next (runRing s sq 0x0B02 bodyFtnChanSet)

def bodyFtnColorSet (s : State) (c : Cmd) : Work := do
  checkOps (opChks c [(16, 1), (18, 4)] [] ++ [rangeChk (decide (254 < c.op 16 1)) 16, rangeChk (decide (c.op 20 2 = 0)) 20])
  pure (ftnUpd s fun x => { x with colors := x.colors.set (c.op 16 1) (c.op 18 2, c.op 20 2) (0, 0) }, some ansDone)

def execFtnColorSet (sq : Fin 16) (s : State) : Host.Outcome State Fault Refusal := .next (runRing s sq 0x0B03 bodyFtnColorSet)

/-- A step of a program at an offset. -/
def JStep.ofBytes (b : List Byte) (o : Nat) : JStep :=
  let w := fieldLE b o 1
  { op := w % 16, curve := bits w 5 4, color := fieldLE b (o + 1) 1, level := fieldLE b (o + 2) 2, selFirst := fieldLE b (o + 4) 2,
    selCount := fieldLE b (o + 6) 2, arg := fieldLE b (o + 8) 4 }

/-- A jet program. -/
def JetProg.ofBytes (b : List Byte) : JetProg :=
  { tkind := fieldLE b 2 1, first := fieldLE b 4 2, count := fieldLE b 6 2, auto := bit (fieldLE b 8 1) 0,
    steps := (List.range (fieldLE b 0 2)).map fun i => JStep.ofBytes b (16 + 12 * i) }

/-- Checks of one step (R353, R355). -/
def jstepChks (b : List Byte) (p : JetProg) (i : Nat) : List Chk :=
  let o := 16 + 12 * i
  let st := JStep.ofBytes b o
  let timed := decide (st.op = 1 ∨ st.op = 2 ∨ st.op = 5)
  [rsvChk (decide (64 ≤ fieldLE b o 1)) o, rangeChk (decide (7 < st.op)) o,
   rangeChk (decide (st.op ≤ 1 ∧ p.n ≤ st.selFirst)) (o + 4),
   rangeChk (decide (st.op = 5 ∧ (st.arg < 1 ∨ 86400000 < st.arg))) (o + 8),
   rangeChk (timed && decide (p.tkind = 3 ∧ st.arg % 1000 ≠ 0)) (o + 8),
   rangeChk (decide (st.op = 3 ∧ p.steps.length ≤ st.arg % 256)) (o + 8), rsvChk (decide (st.op = 3 ∧ bits st.arg 15 8 ≠ 0)) (o + 9),
   rsvChk (decide (st.op = 6 ∧ 8 ≤ st.arg % 256)) (o + 8), rangeChk (decide (st.op = 6 ∧ p.steps.length ≤ bits st.arg 15 8)) (o + 9)] ++
  (if st.op = 6 then (match firstNonZero b (o + 10) 2 with | some x => [rsvChk true x] | none => []) else [])

/-- Checks of a program. -/
def progChks (b : List Byte) (p : JetProg) : List Chk :=
  let lim := if p.tkind = 1 then 65536 else 16384
  let ranged := decide (p.tkind = 1 ∨ p.tkind = 2)
  [rangeChk (decide (p.steps.length < 1 ∨ 256 < p.steps.length)) 0, rangeChk (decide (3 < p.tkind)) 2,
   rsvChk (decide (fieldLE b 3 1 ≠ 0)) 3, rangeChk (decide (p.tkind = 0 ∧ p.first = 0)) 4,
   rangeChk (ranged && decide (lim ≤ p.first)) 4, rangeChk (ranged && decide (p.first < lim ∧ lim < p.first + p.n)) 6,
   rsvChk (!ranged && decide (fieldLE b 6 1 ≠ 0)) 6, rsvChk (!ranged && decide (fieldLE b 7 1 ≠ 0)) 7,
   rsvChk (decide (2 ≤ fieldLE b 8 1)) 8] ++
  (match firstNonZero b 9 7 with | some x => [rsvChk true x] | none => []) ++
  (List.range p.steps.length).flatMap (jstepChks b p)

def jetChk (c : Cmd) : Chk := rangeChk (decide (15 < c.op 16 1)) 16

def bodyFtnJetLoad (s : State) (c : Cmd) : Work := do
  let j := c.op 16 1
  checkOps (opChks c [(16, 1)] [(0, 28)] ++ [jetChk c])
  let b ← readBuf s c 0
  let n := fieldLE b 0 2
  checkBuf 0 [rangeChk (decide (n < 1 ∨ 256 < n)) 0]
  checkOps [⟨decide (c.bufLen 0 < 16 + 12 * n), 40, 0x04⟩]
  let p := JetProg.ofBytes b
  checkBuf 0 (progChks b p)
  stopIf (decide ((jetAt s j).state ≠ 0)) (ansBadState 0x0007)
  pure (setJet s j { prog := some p }, some ansDone)

def execFtnJetLoad (sq : Fin 16) (s : State) : Host.Outcome State Fault Refusal := .next (runRing s sq 0x0B04 bodyFtnJetLoad)

def bodyFtnJetStart (s : State) (c : Cmd) : Work := do
  let j := c.op 16 1
  checkOps (opChks c [(16, 1), (24, 8)] [] ++ [jetChk c, dtChk c 24])
  match (jetAt s j).prog with
  | none => .error (.ans (ansBadState 0x0008))
  | some p =>
    stopIf (decide ((jetAt s j).state ≠ 0)) (ansBadState 0x0009)
    stopIf (targetTaken s j p) (ansBadState 0x0003)
    pure (setJet s j { prog := some p, state := 1, startDt := c.op 24 8 }, some ansDone)

def execFtnJetStart (sq : Fin 16) (s : State) : Host.Outcome State Fault Refusal := .next (runRing s sq 0x0B05 bodyFtnJetStart)

def bodyFtnJetStop (s : State) (c : Cmd) : Work := do
  let j := c.op 16 1
  checkOps (opChks c [(16, 1)] [] ++ [jetChk c])
  stopIf (decide ((jetAt s j).state = 0)) (ansBadState 0x000A)
  let x := jetAt s j
  pure (emitBy (setJet s j { x with state := 0 }) 0x0B00 (leBytes 1 j ++ leBytes 1 1 ++ leBytes 1 x.pc) c.seq, some ansDone)

def execFtnJetStop (sq : Fin 16) (s : State) : Host.Outcome State Fault Refusal := .next (runRing s sq 0x0B06 bodyFtnJetStop)

def bodyFtnJetEvent (s : State) (c : Cmd) : Work := do
  let j := c.op 16 1
  let f := c.op 17 1
  checkOps (opChks c [(16, 2)] [] ++ [jetChk c, rangeChk (decide (7 < f)) 17])
  let x := jetAt s j
  stopIf (decide (x.state = 0)) (ansBadState 0x000A)
  pure (setJet s j { x with flags := putBits x.flags f f 1 }, some ansDone)

def execFtnJetEvent (sq : Fin 16) (s : State) : Host.Outcome State Fault Refusal := .next (runRing s sq 0x0B07 bodyFtnJetEvent)

def bodyFtnFaultClear (s : State) (c : Cmd) : Work := do
  let kind := c.op 16 1
  let v := c.op 18 2
  checkOps (opChks c [(16, 1), (18, 2)] [] ++ [rangeChk (decide (1 < kind)) 16, rangeChk (decide (kind = 0 ∧ 15 < v)) 18,
    rsvChk (decide (kind = 1 ∧ 8192 ≤ v)) 19])
  if kind = 0 then
    let fs := [Reg.FTN_SINK_STAT_OPEN v, Reg.FTN_SINK_STAT_SHORT v, Reg.FTN_SINK_STAT_PIN v]
    stopIf (!fs.any (flag s)) (ansBadState 0x000B)
    pure (driveSinks (fs.foldl (fun s f => setFlag s f false) s), some ansDone)
  else
    let p := v / 4096
    let a := v % 4096
    stopIf (!(flbAt s p).faults.get a false) (ansBadState 0x000B)
    pure (updFlb s p fun f => { f with faults := f.faults.set a false false, misses := f.misses.set a 0 0 }, some ansDone)

def execFtnFaultClear (sq : Fin 16) (s : State) : Host.Outcome State Fault Refusal := .next (runRing s sq 0x0B08 bodyFtnFaultClear)

end Sys2Proof.Machine
end

