-- ==== Sys2Proof/Machine/Street.lean ====
section
/-! DEFINITION. Street control but for the composer: groups, memberships, schedules, solar events, scenes, commits and level
vectors (chapter 06). -/

namespace Sys2Proof.Machine

def memberOf (s : State) (n : Nat) : Option Member := s.street.members.get n none
def groupAt (s : State) (g : Nat) : Group := s.street.groups.get g {}
def schedAt (s : State) (p : Nat) : Option Sched := s.street.profiles.get p none
/-- The delivery group and position of an entry (R188). -/
def delivery (s : State) (n : Nat) : Option (Nat × Nat) := (memberOf s n).bind fun m => m.groups.head?

/-- Endpoints that a commit addresses: those of GROUP, or every one when ALL (R200). -/
def addressed (s : State) (g : Nat) (all : Bool) : List Nat :=
  (s.mac.fold.filter fun x => decide (x.2.state ≠ 0 ∧ x.2.state ≠ 7) &&
    (all || ((memberOf s x.1).any fun m => m.groups.any fun y => decide (y.1 = g)))).map Prod.fst

/-! ### Local dates and solar events (R195, R196, R198) -/

/-- The UTC second of a local second: the first occurrence in a repeated hour, the transition instant in a skipped one. -/
def localToUtc (s : State) (x : Int) : Int :=
  let ofs := sfld s Reg.TIM_UTC_OFS_OFS_MIN
  let sh : Int := fld s Reg.TIM_UTC_OFS_DST_SHIFT
  let a := x - (ofs + sh) * 60
  let b := x - ofs * 60
  if localSecs s a = x then a
  else if localSecs s b = x then b
  else lastTransition (dstRule (reg s Reg.TIM_DST_START_EN.off).toNat) ofs b

/-- The local day number of a UTC second. -/
def localDay (s : State) (t : Int) : Int := (localSecs s t).fdiv 86400

/-- The exception entry of a date. -/
def excOf (s : State) (day : Int) : Option ExcDate :=
  s.street.exceptions.findSome? fun x => x.2.bind fun e => if daysBefore e.year e.month e.day = day then some e else none

/-- The class of a local date (R195). -/
def dateClass (s : State) (day : Int) : Nat :=
  match excOf s day with
  | some e => e.cls
  | none => ((day + 6) % 7).toNat

/-- Minutes of a solar event after UTC midnight, from the latitude and longitude registers, day of year and event (R198). -/
def solarMinutes (lat lon : Int) (doy ev : Nat) : Option Int :=
  let add := b64.add
  let sub := b64.sub
  let mul := b64.mul
  let div := b64.div
  let int (k : Int) := b64.ofInt k
  let rad (x : Nat) := div (mul x pi64) (int 180)
  let h0 := if ev < 2 then dec (-833) 1000 else if ev < 4 then int (-6) else if ev < 6 then int (-12) else int (-18)
  let phi := rad (mul (int lat) (dec 1 10000000))
  let lam := mul (int lon) (dec 1 10000000)
  let noon := sub (int 720) (mul (int 4) lam)
  let pass (minutes : Nat) : Option Nat :=
    let g := mul (div (mul (int 2) pi64) (int 365)) (add (int (doy - 1)) (div (sub (div minutes (int 60)) (int 12)) (int 24)))
    let g2 := mul (int 2) g
    let g3 := mul (int 3) g
    let eot := mul (dec 22918 100) (sub (sub (sub (add (dec 75 1000000) (mul (dec 1868 1000000) (b64.cos g)))
      (mul (dec 32077 1000000) (b64.sin g))) (mul (dec 14615 1000000) (b64.cos g2))) (mul (dec 40849 1000000) (b64.sin g2)))
    let d0 := sub (dec 6918 1000000) (mul (dec 399912 1000000) (b64.cos g))
    let d1 := sub (add d0 (mul (dec 70257 1000000) (b64.sin g))) (mul (dec 6758 1000000) (b64.cos g2))
    let d2 := sub (add d1 (mul (dec 907 1000000) (b64.sin g2))) (mul (dec 2697 1000000) (b64.cos g3))
    let d := add d2 (mul (dec 148 100000) (b64.sin g3))
    let c := div (sub (b64.sin (rad h0)) (mul (b64.sin phi) (b64.sin d))) (mul (b64.cos phi) (b64.cos d))
    if b64.lt (int 1) c || b64.lt c (int (-1)) then none
    else
      let h := div (mul (b64.acos c) (int 180)) pi64
      some (add (sub noon eot) (mul (int (if ev % 2 = 0 then -4 else 4)) h))
  ((pass noon).bind pass).map b64.toIntAway

/-- UTC second of a solar event of the UTC date with this day number (R198). -/
def solarUtc (s : State) (day : Int) (ev : Nat) : Option Int :=
  let doy := (day - daysToYear (yearOf day) + 1).toNat
  (solarMinutes (sfld s Reg.STR_POS_LAT_DEG) (sfld s Reg.STR_POS_LON_DEG) doy ev).map fun m => day * 86400 + m * 60

/-- The solar event of a local date: that of the UTC date at its local noon. -/
def solarLocal (s : State) (day : Int) (ev : Nat) : Option Int :=
  solarUtc s ((localToUtc s (day * 86400 + 43200)).fdiv 86400) ev

/-! ### Schedules (R194-R197) -/

/-- The trigger of a step on a local date as a UTC second; of an ambient step, its fallback instant. -/
def trigger (s : State) (st : SStep) (day : Int) : Option Int :=
  if bit st.days (dateClass s day) then
    if st.kind = 0 then some (localToUtc s (day * 86400 + st.time * 60))
    else (solarLocal s day st.event).map fun t => t + st.time * 60
  else none

/-- Loaded profiles with their steps: profile, step number, step. -/
def allSteps (s : State) : List (Nat × Nat × SStep) :=
  s.street.profiles.flatMap fun x =>
    match x.2 with
    | some p => p.steps.zipIdx.map fun (st, i) => (x.1, i, st)
    | none => []

/-- A trigger that has come: its UTC second, profile and step. -/
structure Fired where
  t : Int
  prof : Nat
  idx : Nat
  deriving DecidableEq, Repr

/-- Local days that may hold a trigger between two UTC seconds. -/
def dayRange (s : State) (a b : Int) : List Int :=
  let d := localDay s a - 1
  (List.range (localDay s b + 2 - d).toNat).map fun (i : Nat) => d + (i : Int)

/-- Triggers of the steps that satisfy `p`, in (a, b] of DT, in order of time. -/
def triggersIn (s : State) (p : SStep → Bool) (a b : Nat) : List Fired :=
  let days := dayRange s (a / 65536 : Nat) (b / 65536 : Nat)
  let l := (allSteps s).flatMap fun (pr, i, st) =>
    if p st then days.filterMap fun d => (trigger s st d).bind fun t =>
      if (a : Int) < t * 65536 ∧ t * 65536 ≤ (b : Int) then some { t := t, prof := pr, idx := i : Fired } else none
    else []
  l.sortBy fun x y => decide (x.t ≤ y.t)

/-- A step comes into force: the scene entries of its groups end, and STEP_FIRED is written (R196, R199, R207). -/
def fireStep (s : State) (f : Fired) (cause dt : Nat) : State :=
  let s1 := streetUpd s fun x => { x with
    force := x.force.set f.prof (some (f.idx, dt)) none
    sceneForce := x.sceneForce.filter fun e => decide ((x.groups.get e.1 {}).profile ≠ f.prof) }
  emit s1 0x0500 (leBytes 2 f.prof ++ leBytes 1 f.idx ++ leBytes 1 cause ++ List.replicate 4 0 ++ leBytes 8 dt)

/-- Every trigger instant and fallback up to now has been judged. -/
def stepsSeen (s : State) : State := streetUpd s fun x => { x with stepSeen := s.dt, ambSeen := s.dt }

/-- An ambient step fires, at most once per local date; a fallback firing sets AMB_FALLBACK (R197). -/
def fireAmbient (s : State) (f : Fired) (cause dt : Nat) : State :=
  let k := 16 * f.prof + f.idx
  let day := localDay s (dt / 65536 : Nat) + 1
  if s.street.ambFired.get k 0 = day then s
  else
    let s1 := streetUpd s fun x => { x with ambFired := x.ambFired.set k day 0 }
    fireStep (if cause = 1 then setErr s1 Reg.STR_ERR_AMB_FALLBACK else s1) f cause dt

/-- Ambient steps whose threshold has held for AMB_HOLD s, before their fallback instant. -/
def ambientHeld (s : State) : List Fired :=
  let day := localDay s (dtSec s.dt)
  (allSteps s).filterMap fun (pr, i, st) =>
    match s.street.ambSince.get (16 * pr + i) none, schedAt s pr with
    | some t0, some p =>
      let beforeFallback : Bool := match trigger s st day with
        | some t => decide ((s.dt : Int) < t * 65536)
        | none => true
      if st.kind = 2 ∧ bit st.days (dateClass s day) ∧ passedSec s t0 p.ambHold ∧ beforeFallback then
        some { t := dtSec s.dt, prof := pr, idx := i }
      else none
    | _, _ => none

/-- The steps whose trigger instant, and the ambient steps whose fallback instant, has been crossed come into force in order of time, so
that the last one crossed stays in force (R196, R197). -/
def fireCrossed (s : State) (cause : Nat) : State :=
  let steps := (triggersIn s (fun st => decide (st.kind < 2)) s.street.stepSeen s.dt).map fun f => (f, false)
  let falls := (triggersIn s (fun st => decide (st.kind = 2)) s.street.ambSeen s.dt).map fun f => (f, true)
  ((steps ++ falls).sortBy fun a b => decide (a.1.t ≤ b.1.t)).foldl (fun s x =>
    let t := (x.1.t * 65536).toNat
    if x.2 then fireAmbient s x.1 1 t else fireStep s x.1 cause t) (stepsSeen s)

def fireSteps (s : State) : State := fireCrossed s 0

/-- A clock or solar step's trigger instant has been crossed (R196). -/
def execStepFired (s : State) : Host.Outcome State Fault Refusal :=
  .next (if onAir s then fireSteps s else stepsSeen s)

/-- An ambient step's threshold has held for its time, or its fallback instant has been crossed (R197). -/
def execAmbientStepFire (s : State) : Host.Outcome State Fault Refusal :=
  .next (if onAir s then (ambientHeld s).foldl (fun s f => fireAmbient s f 0 s.dt) (fireSteps s) else stepsSeen s)

/-- An AMBIENT report: the threshold conditions of the profiles that its sensor drives (R197). -/
def ambientReport (s : State) (n lux : Nat) : State :=
  let s1 := macUpd s fun m => { m with ambient := m.ambient.set n (some (lux, s.el)) none }
  (allSteps s).foldl (fun s (pr, i, st) =>
    if st.kind = 2 ∧ (schedAt s pr).any fun p => decide (p.ambEph = n) then
      let ok := if st.rise then decide (st.thr ≤ lux) else decide (lux < st.thr)
      let k := 16 * pr + i
      let old := s.street.ambSince.get k none
      streetUpd s fun x => { x with ambSince := x.ambSince.set k (if ok then some (old.getD s.el) else none) none }
    else s) s1

/-- The step of a profile that would have fired last within the 8 preceding days (R196). -/
def lastStep (s : State) (pr : Nat) : Option (Nat × Nat) :=
  match schedAt s pr with
  | none => none
  | some p =>
    let now : Int := dtSec s.dt
    let days := dayRange s (now - 8 * 86400) now
    let l := p.steps.zipIdx.flatMap fun (st, i) => days.filterMap fun d => (trigger s st d).bind fun t =>
      if now - 8 * 86400 ≤ t ∧ t * 65536 ≤ s.dt then some (i, t) else none
    (l.foldl (fun (a : Option (Nat × Int)) x => match a with
      | some y => if y.2 ≤ x.2 then some x else a
      | none => some x) none).map fun x => (x.1, (x.2 * 65536).toNat)

/-- Take the step in force of a profile anew, at start-up or when it is loaded (R196). -/
def takeForce (s : State) (pr : Nat) : State := streetUpd s fun x => { x with force := x.force.set pr (lastStep s pr) none }

/-! ### Commits (R200-R203) -/

/-- The COMMIT payload (R167). -/
def CommitEnt.payload (c : CommitEnt) : List Byte :=
  leBytes 4 c.id ++ leBytes 8 c.actDt ++ leBytes 1 (c.policy + 2 * b2n c.all) ++ leBytes 1 c.kind ++ leBytes 2 c.group ++
    leBytes 1 c.body.length ++ c.body

/-- The COMMIT_READ output (R206). -/
def CommitEnt.page (c : CommitEnt) : List Byte :=
  leBytes 4 c.id ++ leBytes 1 c.kind ++ leBytes 1 c.state ++ leBytes 2 c.group ++ leBytes 8 c.actDt ++ leBytes 3 c.addressed ++
    [0] ++ leBytes 2 c.late ++ leBytes 2 c.ignored ++ leBytes 2 c.refused ++ leBytes 2 c.missed ++ leBytes 1 c.sent ++ [0, 0, 0]

/-- Change the entry of a commit, mirroring it (R442). -/
def updCommit (s : State) (id : Nat) (f : CommitEnt → CommitEnt) : State :=
  let s1 := streetUpd s fun x => { x with commits := x.commits.map fun c => if c.id = id then f c else c }
  match s1.street.commits.find? fun c => c.id = id with
  | some c => mirror s1 0x47 (c.page ++ c.payload)
  | none => s1

/-- Window instants of a commit accepted at `acc`, as DT (R201). -/
def windowDts (s : State) (acc actDt : Nat) : List Nat :=
  let r := fld s Reg.STR_COMMIT_REPEATS
  let lead := fld s Reg.STR_COMMIT_LEAD
  (List.range r).map fun i =>
    if acc + (lead + 8) * 65536 ≤ actDt then actDt - lead * 65536 * (r - i) / r
    else acc + 65536 + (actDt - (acc + 65536)) * i / r

/-- In-band transmit channels that are not paired; the least recently used is taken for a window. -/
def windowChannel (s : State) : Nat :=
  let ok := (List.range 80).filter fun c => inBand s c false && maskBit s Reg.RAD_TXMASK_MASK c && !paired s c
  match ok with
  | [] => 0
  | c :: r => r.foldl (fun a b => if s.street.chanUse.get b 0 < s.street.chanUse.get a 0 then b else a) c

/-- The first slot period that starts at or after a DT on a channel of phase group g. -/
def slotAfter (t g : Nat) : Nat := (t * 50 - g * 5120 + 40959) / 40960

/-- Plan a commit window. -/
def planWindow (s : State) (c : CommitEnt) (t : Nat) : State :=
  let ch := windowChannel s
  let sp := slotAfter t (ch % 8)
  let s1 := streetUpd s fun x => { x with chanUse := x.chanUse.set ch sp 0 }
  macUpd s1 fun m => { m with wins := m.wins ++ [{ tag := c.id, sp := sp, ch := ch, mode := 1, kind := 1, count := 1, id := c.group }] }

/-- An ACTIVE T1 or T2 endpoint is queued the COMMIT element of a pending commit that addresses it (R201). -/
def queueCommit (s : State) (c : CommitEnt) (n : Nat) : State :=
  if (entAt s n).state = 3 ∧ (entAt s n).gen ≠ 3 ∧ !(epAt s n).dlq.any fun i => i.kind = .commit c.id then
    queueDl s n { type := 0x16, val := c.payload, kind := .commit c.id }
  else s

/-- An endpoint is queued the COMMIT elements of the pending commits, of those that `p` selects, that address it before their ACT_DT
(R201). -/
def oweCommits (s : State) (n : Nat) (p : CommitEnt → Bool) : State :=
  (s.street.commits.filter fun c => decide (c.state = 0 ∧ s.dt < c.actDt) && p c && (addressed s c.group c.all).contains n).foldl
    (fun s c => queueCommit s c n) s

/-- The pending commits that address an endpoint which has become ACTIVE. -/
def owedCommits (s : State) (n : Nat) : State := oweCommits s n fun _ => true

/-- Pending commits go on: the windows that still lie ahead are planned, and T1 and T2 endpoints are queued what they are owed (R201,
R204). -/
def planCommits (s : State) : State :=
  (s.street.commits.filter fun c => decide (c.state = 0 ∧ s.dt < c.actDt)).foldl (fun s c =>
    let s1 := ((windowDts s c.accDt c.actDt).filter fun t => decide (s.dt < t)).foldl (fun s t => planWindow s c t) s
    (addressed s1 c.group c.all).foldl (fun s n => queueCommit s c n) s1)
    (macUpd s fun m => { m with wins := m.wins.filter fun w => decide (w.kind ≠ 1) })

/-- There is room for `k` more commit entries. -/
def commitRoom (s : State) (k : Nat) : Bool := decide (s.street.commits.length + k ≤ 1024)

/-- The next COMMIT_ID (R203). -/
def nextId (s : State) : Nat := (s.street.lastId.get + 1) % 2 ^ 32

/-- A COMMIT_ID is issued. -/
def issueId (s : State) : State := streetUpd s fun x => { x with lastId := x.lastId.put (nextId s) }

/-- Accept a commit: its number, audit record, windows, and COMMIT elements for T1 and T2 endpoints (R201, R203). -/
def acceptCommit (s : State) (kind group policy actDt : Nat) (all : Bool) (body : List Byte) (ref : Option CmdRef) : State × Nat :=
  let id := nextId s
  let who := addressed s group all
  let c : CommitEnt := { id := id, kind := kind, group := group, all := all, policy := policy, body := body, actDt := actDt, accDt := s.dt,
                         addressed := who.length, ref := ref }
  let s1 := streetUpd (issueId s) fun x => { x with commits := x.commits ++ [c] }
  let pl := c.payload
  let s2 := mirror (record s1 2 10 0x05 (padTo (8 * ((37 + body.length + 7) / 8) - 20) pl)) 0x47 (c.page ++ pl)
  let s3 := (windowDts s c.accDt actDt).foldl (fun s t => planWindow s c t) s2
  (who.foldl (fun s n => queueCommit s c n) s3, id)

/-- A COMMIT goes out in one of its windows; a CANCEL that is sent frees the entry it names (R201, R203). -/
def execCommit (s : State) : Host.Outcome State Fault Refusal :=
  .next (
    match (if chainLeft s 1 then takeWin s 1 fun _ => true else (s, none)) with
    | (s1, none) => s1
    | (s1, some w) =>
      match s1.street.commits.find? fun c => decide (c.id = w.tag ∧ c.state = 0) with
      | none => s1
      | some c =>
        let who := addressed s1 c.group c.all
        let fwd := anyRelayed s1 fun n _ => who.contains n
        let (s2, ok) := if onAir s1 then sendBroadcast s1 9 w.ch w.mode fwd c.payload else (s1, false)
        if ok then
          let s3 := updCommit (count1 s2 (Reg.STR_CNT_COUNT 2)) c.id fun c => { c with sent := c.sent + 1 }
          if c.kind = 1 then
            streetUpd s3 fun x => { x with commits := x.commits.filter fun d => decide (d.id ≠ fieldLE c.body 0 4) }
          else s3
        else s2)

/-- Drop the COMMIT elements of a commit that were not acknowledged. -/
def dropCommitElems (s : State) (id : Nat) : State :=
  (addressed s 0 true).foldl (fun s n =>
    let x := epAt s n
    if x.dlq.any fun i => i.kind = .commit id then setEp s n { x with dlq := x.dlq.filter fun i => i.kind ≠ .commit id } else s) s

/-- A lantern is a Fold entry of TYPE 0. -/
def isLantern (e : FoldEntry) : Bool := decide (e.state ≠ 0 ∧ e.type = 0)

/-- A LEVEL commit at its ACT_DT (R201). -/
def levelDue (s : State) (c : CommitEnt) : State :=
  let level := fieldLE c.body 0 2
  let fade := fieldLE c.body 2 2
  (addressed s c.group c.all).foldl (fun s n =>
    if isLantern (entAt s n) then
      let x := epAt s n
      let s1 := setEp s n { x with dlq := x.dlq.filter fun i => decide (i.type ≠ 0x15) }
      streetUpd (updEnt s1 n fun e => { e with levelCmd := level }) fun x => { x with
        queue := x.queue.del n
        judging := x.judging.set n (some (c.id, c.actDt + fade * 65536 / 10 + 2 * 65536)) none }
    else s) s

/-- A GROUP_TIMING commit at its ACT_DT (R200). -/
def timingDue (s : State) (c : CommitEnt) : State :=
  ckTables (streetUpd s fun x => { x with groups := x.groups.upd c.group {} fun g => { g with
    period := fieldLE c.body 0 2, phase := fieldLE c.body 2 2, channel := fieldLE c.body 4 1 } })

/-- A commit falls due (R201, R202). -/
def commitDue (s : State) (c : CommitEnt) : State :=
  let s1 := updCommit (dropCommitElems s c.id) c.id fun c => { c with state := 1 }
  let s2 := macUpd s1 fun m => { m with wins := m.wins.filter fun w => decide (w.kind ≠ 1 ∨ w.tag ≠ c.id) }
  if c.kind = 0 then levelDue s2 c else if c.kind = 2 then timingDue s2 c else s2

/-- Commits whose ACT_DT the DT has crossed fall due, in order of ACT_DT and then of COMMIT_ID. -/
def dueCommits (s : State) : State :=
  let l := (s.street.commits.filter fun c => decide (c.state = 0 ∧ c.actDt ≤ s.dt)).sortBy fun a b =>
    decide (a.actDt < b.actDt ∨ (a.actDt = b.actDt ∧ a.id ≤ b.id))
  l.foldl commitDue s

def execCommitDue (s : State) : Host.Outcome State Fault Refusal :=
  .next (if onAir s then dueCommits s else s)

/-- Write COMMIT_DONE (R207). -/
def writeDone (s : State) (c : CommitEnt) (cancelled : Bool) : State :=
  let s1 := streetUpd s fun x => { x with commits := x.commits.map fun d => if d.id = c.id then { d with done := true } else d }
  emitOutcome s1 0x0501 (leBytes 4 c.id ++ leBytes 1 (b2n cancelled) ++ [0, 0, 0] ++ leBytes 2 c.late ++ leBytes 2 c.ignored ++
    leBytes 2 c.refused) c.ref 0

/-- At ACT_DT + LATE_WIN COMMIT_DONE is written (R203). -/
def execCommitDone (s : State) : Host.Outcome State Fault Refusal :=
  let w := fld s Reg.STR_COMMIT_LATE_WIN
  .next ((s.street.commits.filter fun c => !c.done && onAir s && decide (c.state = 1 ∧ c.actDt + w * 65536 ≤ s.dt)).foldl
    (fun s c => writeDone s c false) s)

/-- Records of campaigns outlive their entries until their slot has a new offer (R334). -/
def keepFreed (l gone : List CommitEnt) : List CommitEnt :=
  gone.foldl (fun l c =>
    if c.kind < 8 ∨ 10 < c.kind then l
    else (if c.kind = 8 then l.filter fun d => fieldLE d.body 0 1 ≠ fieldLE c.body 0 1 else l) ++ [c]) l

/-- An entry frees 3,600 s after its ACT_DT (R203). -/
def execCommitEntryFree (s : State) : Host.Outcome State Fault Refusal :=
  let held (c : CommitEnt) : Bool := decide (s.dt < c.actDt + 3600 * 65536)
  .next (streetUpd s fun x => { x with
    commits := x.commits.filter held, freed := keepFreed x.freed (x.commits.filter fun c => !held c) })

/-- A lantern needs a repair (R201). -/
def repairLantern (s : State) (n : Nat) : State :=
  if isLantern (entAt s n) then streetUpd s fun x => { x with repair := x.repair.set n true false } else s

/-- A COMMIT_STATUS element: LATE, IGNORED and REFUSED are counted (R200, R201, R203). -/
def commitStatus (s : State) (n id st : Nat) : State :=
  if s.street.commits.any fun c => c.id = id then
    match st with
    | 1 => updCommit (count1 s (Reg.STR_CNT_COUNT 3)) id fun c => { c with late := satInc 16 c.late 1 }
    | 2 => repairLantern (updCommit (count1 s (Reg.STR_CNT_COUNT 4)) id fun c => { c with ignored := satInc 16 c.ignored 1 }) n
    | 3 => updCommit (count1 s (Reg.STR_CNT_COUNT 5)) id fun c => { c with refused := satInc 16 c.refused 1 }
    | _ => s
  else s

/-- A LANTERN_REPORT judges a LEVEL commit once (R201). -/
def judgeReport (s : State) (n level : Nat) : State :=
  match s.street.judging.get n none with
  | some (id, from') =>
    if from' ≤ s.dt then
      let s1 := streetUpd s fun x => { x with judging := x.judging.del n }
      let hyst := match delivery s n with | some (g, _) => (groupAt s g).hyst | none => 1024
      if hyst ≤ ((level : Int) - (entAt s n).levelCmd).natAbs then
        let s2 := setErr (count1 s1 (Reg.STR_CNT_COUNT 6)) Reg.STR_ERR_MISSED
        repairLantern (updCommit s2 id fun c => { c with missed := satInc 16 c.missed 1 }) n
      else s1
    else s
  | none => s

/-! ### Memberships (R188, R190) -/

/-- The record in 48 bytes. -/
def memberOfBytes (b : List Byte) : Member :=
  let z := fieldLE b 0 2
  { zone := bits z 11 0, zoneEn := bit z 15, floor := fieldLE b 2 2, statFloor := fieldLE b 4 2,
    groups := (List.range (min (fieldLE b 6 1) 8)).map fun i => (fieldLE b (8 + 5 * i) 2, fieldLE b (10 + 5 * i) 3) }

def memberChks (b : List Byte) : List Chk :=
  let k := fieldLE b 6 1
  [rsvChk (decide (bits (fieldLE b 0 2) 14 12 ≠ 0)) 1, rangeChk (decide (8 < k)) 6, rsvChk (decide (fieldLE b 7 1 ≠ 0)) 7] ++
  (List.range (min k 8)).map (fun i => rsvChk (decide (4 ≤ fieldLE b (12 + 5 * i) 1)) (12 + 5 * i)) ++
  (if k ≤ 8 then match firstNonZero b (8 + 5 * k) (40 - 5 * k) with | some o => [rsvChk true o] | none => [] else [])

/-- Send a record to an ACTIVE endpoint: the GROUP_SET, then a GROUP_TIMING element for each group with events (R190). -/
def sendMember (s : State) (n : Nat) (m : Member) (ref : Option CmdRef) : State :=
  let v := leBytes 1 m.groups.length ++ m.groups.flatMap fun g => leBytes 2 g.1 ++ leBytes 3 g.2
  let s1 := queueDl s n { type := 0x14, val := v, kind := .member ref }
  m.groups.foldl (fun s g =>
    let c := groupAt s g.1
    if c.period = 0 then s
    else
      let id := nextId s
      let e : CommitEnt := { id := id, kind := 2, group := g.1, all := false, policy := 0, actDt := s.dt, addressed := 1,
                             body := leBytes 2 c.period ++ leBytes 2 c.phase ++ leBytes 1 c.channel ++ [0] }
      queueDl (issueId s) n { type := 0x16, val := e.payload, kind := .plain }) s1

/-- An entry has become ACTIVE: a marked record is delivered (R190). -/
def deliverMarked (s : State) (n : Nat) : State :=
  match memberOf s n with
  | some m =>
    if m.marked then
      sendMember (streetUpd s fun x => { x with members := x.members.set n (some { m with marked := false }) none }) n m none
    else s
  | none => s

def DlItem.isMember (i : DlItem) : Bool := match i.kind with | .member _ => true | _ => false

def bodyMemberSet (s : State) (c : Cmd) : Work := do
  let n := c.op 16 3
  checkOps (opChks c [(16, 3)] [(0, 48)] ++ [ephChk c 16])
  let b ← readBuf s c 0
  checkBuf 0 (memberChks b)
  let m := memberOfBytes b
  stopIf (decide ((entAt s n).state = 0)) (ansBadState 0x0001)
  stopIf ((epAt s n).dlq.any DlItem.isMember) (ansBadState 0x0002)
  stopIf (s.street.members.any fun x => decide (x.1 ≠ n) && x.2.any fun y => y.groups.any fun g => m.groups.contains g)
    (ansBadState 0x0003)
  let active := decide ((entAt s n).state = 3)
  let s1 := streetUpd s fun x => { x with members := x.members.set n (some { m with marked := !active }) none }
  let s2 := updEnt s1 n fun e => { e with groupPtr := n }
  let joined (k : CommitEnt) : Bool := !k.all && !(memberOf s n).any fun o => o.groups.any fun g => decide (g.1 = k.group)
  pure (if active then (oweCommits (sendMember s2 n m (some c.ref)) n joined, some ansQueued) else (s2, some ansDone))

def execMemberSet (sq : Fin 16) (s : State) : Host.Outcome State Fault Refusal := .next (runRing s sq 0x0500 bodyMemberSet)

/-- A timing change of the group is pending. -/
def timingPending (s : State) (g : Nat) : Bool :=
  s.street.commits.any fun c => decide (c.kind = 2 ∧ c.group = g ∧ c.state = 0)

def bodyGroupCfg (s : State) (c : Cmd) : Work := do
  let g := c.op 16 2
  let pr := c.op 18 2
  let per := c.op 22 2
  let ph := c.op 24 2
  let ch := c.op 26 1
  let t := c.op 28 8
  checkOps (opChks c [(16, 11), (28, 8)] [] ++
    [rangeChk (decide (1023 < pr ∧ pr ≠ 0xFFFF)) 18, rangeChk (decide (0 < per ∧ per < 8)) 22,
     rangeChk (decide (max per 1 ≤ ph)) 24, rangeChk (decide (79 < ch) || !inBand s ch false) 26, dtChk c 28])
  let old := groupAt s g
  let changes := decide (old.period ≠ per ∨ old.phase ≠ ph ∨ old.channel ≠ ch)
  stopIf (changes && timingPending s g) (ansBadState 0x0004)
  stopIf (changes && decide (t < s.dt + 2 * 65536)) (ansBadState 0x0008)
  stopIf (changes && !commitRoom s 1) (ansNoSpace 0x0001)
  let s1 := streetUpd s fun x => { x with groups := x.groups.set g { old with profile := pr, hyst := c.op 20 2 } {} }
  if changes then
    let (s2, id) := acceptCommit s1 2 g 0 t false (leBytes 2 per ++ leBytes 2 ph ++ leBytes 1 ch ++ [0]) (some c.ref)
    pure (s2, some (ansQueued 0 id))
  else pure (s1, some ansDone)

def execGroupCfg (sq : Fin 16) (s : State) : Host.Outcome State Fault Refusal := .next (runRing s sq 0x0501 bodyGroupCfg)

/-! ### Schedule opcodes (R194, R195, R206) -/

def sstepOf (b : List Byte) (o : Nat) : SStep :=
  let k := fieldLE b o 1
  { kind := bits k 1 0, event := bits k 4 2, commit := bit k 7, days := fieldLE b (o + 1) 1, time := toSigned 16 (fieldLE b (o + 2) 2),
    cap := fieldLE b (o + 4) 2, floor := fieldLE b (o + 6) 2, fade := fieldLE b (o + 8) 2, thr := bits (fieldLE b (o + 10) 4) 30 0,
    rise := bit (fieldLE b (o + 10) 4) 31, group := fieldLE b (o + 14) 2 }

def sstepChks (b : List Byte) (o : Nat) : List Chk :=
  let k := fieldLE b o 1
  let st := sstepOf b o
  [rangeChk (decide (st.kind = 3 ∨ (st.commit ∧ st.kind = 2))) o, rangeChk (decide (bits k 6 5 ≠ 0)) o,
   rangeChk (if st.kind = 0 then decide (1439 < fieldLE b (o + 2) 2) else decide (st.time < -720 ∨ 720 < st.time)) (o + 2),
   rangeChk (st.commit && decide (st.floor ≠ st.cap)) (o + 6), rangeChk (decide (600 < st.fade)) (o + 8)]

def bodyScheduleProfileLoad (s : State) (c : Cmd) : Work := do
  let pr := c.op 16 2
  checkOps (opChks c [(16, 2)] [(0, 16)] ++ [rangeChk (decide (1023 < pr)) 16])
  let b ← readBuf s c 0
  let n := fieldLE b 0 1
  checkOps [⟨decide (1 ≤ n ∧ n ≤ 16 ∧ c.bufLen 0 < 16 + 16 * n), 40, 0x04⟩]
  let k := min n 16
  let steps := (List.range k).map fun i => sstepOf b (16 * i + 16)
  checkBuf 0 ([rangeChk (decide (n < 1 ∨ 16 < n)) 0, rsvChk (decide (fieldLE b 1 1 ≠ 0)) 1,
     rsvChk (decide (4 ≤ fieldLE b 4 1)) 4, rangeChk (decide (fieldLE b 5 1 = 0)) 5] ++
    (match firstNonZero b 6 10 with | some o => [rsvChk true o] | none => []) ++
    (List.range k).flatMap fun i => sstepChks b (16 * i + 16))
  let p : Sched := { ambEph := fieldLE b 2 3, ambHold := fieldLE b 5 1, steps := steps }
  let s1 := streetUpd s fun x => { x with
    profiles := x.profiles.set pr (some p) none
    ambSince := x.ambSince.filter fun e => decide (e.1 / 16 ≠ pr)
    ambFired := x.ambFired.filter fun e => decide (e.1 / 16 ≠ pr) }
  pure (takeForce s1 pr, some ansDone)

def execScheduleProfileLoad (sq : Fin 16) (s : State) : Host.Outcome State Fault Refusal :=
  .next (runRing s sq 0x0502 bodyScheduleProfileLoad)

/-- Checks of a calendar date in YEAR, MONTH and DAY operands. -/
def dateChks (c : Cmd) (oy om od : Nat) : List Chk :=
  let m := c.op om 1
  let d := c.op od 1
  [rangeChk (decide (m < 1 ∨ 12 < m)) om, rangeChk (decide (d < 1 ∨ daysIn (c.op oy 2) m < d)) od]

def bodyExceptionSet (s : State) (c : Cmd) : Work := do
  let i := c.op 16 1
  let cls := c.op 22 1
  checkOps (opChks c [(16, 1), (18, 5)] [] ++ [rangeChk (decide (7 < cls ∧ cls ≠ 0xFF)) 22] ++
    (if cls = 0xFF then [] else dateChks c 18 20 21))
  let day := daysBefore (c.op 18 2) (c.op 20 1) (c.op 21 1)
  stopIf (decide (cls ≠ 0xFF) && s.street.exceptions.any fun x => decide (x.1 ≠ i) && x.2.any fun e =>
    decide (daysBefore e.year e.month e.day = day)) (ansBadState 0x0005)
  let v : Option ExcDate := if cls = 0xFF then none
    else some { year := c.op 18 2, month := c.op 20 1, day := c.op 21 1, cls := cls }
  pure (streetUpd s fun x => { x with exceptions := x.exceptions.set i v none }, some ansDone)

def execExceptionSet (sq : Fin 16) (s : State) : Host.Outcome State Fault Refusal := .next (runRing s sq 0x0503 bodyExceptionSet)

/-! ### Scenes (R199, R206) -/

def sceneEntOf (b : List Byte) (o : Nat) : SceneEnt :=
  { group := fieldLE b o 2, level := fieldLE b (o + 2) 2, fade := fieldLE b (o + 4) 2, fixed := bit (fieldLE b (o + 6) 1) 0 }

def sceneHeld (s : State) (n : Nat) : Bool := s.street.sceneForce.any fun x => x.2.any fun f => decide (f.scene = n)

def bodySceneStore (s : State) (c : Cmd) : Work := do
  let n := c.op 16 1
  checkOps (opChks c [(16, 1)] [(0, 8)])
  let b ← readBuf s c 0
  let k := fieldLE b 0 1
  checkOps [⟨decide (1 ≤ k ∧ k ≤ 64 ∧ c.bufLen 0 < 8 + 8 * k), 40, 0x04⟩]
  let m := min k 64
  checkBuf 0 ([rangeChk (decide (k < 1 ∨ 64 < k)) 0] ++ (match firstNonZero b 1 7 with | some o => [rangeChk true o] | none => []) ++
    (List.range m).flatMap fun i =>
      let o := 8 * i + 8
      [rangeChk (decide (600 < fieldLE b (o + 4) 2)) (o + 4), rangeChk (decide (1 < fieldLE b (o + 6) 1)) (o + 6),
       rangeChk (decide (fieldLE b (o + 7) 1 ≠ 0)) (o + 7)])
  stopIf (sceneHeld s n) (ansBadState 0x0006)
  pure (streetUpd s fun x => { x with scenes := x.scenes.set n ((List.range m).map fun i => sceneEntOf b (8 * i + 8)) [] },
    some ansDone)

def execSceneStore (sq : Fin 16) (s : State) : Host.Outcome State Fault Refusal := .next (runRing s sq 0x0504 bodySceneStore)

/-- Issue a scene's LEVEL commits in entry order; the last carries the command's outcome. -/
def sceneCommits (s : State) (policy actDt : Nat) (ref : CmdRef) : List SceneEnt → State
  | [] => s
  | e :: r =>
    let (s1, _) := acceptCommit s 0 e.group policy actDt false (leBytes 2 e.level ++ leBytes 2 e.fade)
      (if r.isEmpty then some ref else none)
    sceneCommits s1 policy actDt ref r

/-- Recall a scene, from the host or from Ox (R199): its activation waits for the next tick or for ACT_DT. -/
def recallScene (s : State) (n policy actDt : Nat) (ref : CmdRef) : State × Option Nat :=
  let fixed := (s.street.scenes.get n []).filter SceneEnt.fixed
  let s1 := streetUpd s fun x => { x with scenePend := x.scenePend ++ [(n, actDt)] }
  if actDt = 0 ∨ fixed.isEmpty then (s1, none) else (sceneCommits s1 policy actDt ref fixed, some (nextId s))

def bodySceneRecall (s : State) (c : Cmd) : Work := do
  let n := c.op 16 1
  let t := c.op 24 8
  checkOps (opChks c [(16, 2), (24, 8)] [] ++ [rangeChk (decide (1 < c.op 17 1)) 17, dtChk c 24])
  let ents := s.street.scenes.get n []
  stopIf ents.isEmpty (ansBadState 0x0007)
  stopIf (decide (t ≠ 0 ∧ t < s.dt + 2 * 65536)) (ansBadState 0x0008)
  stopIf (decide (t ≠ 0) && !commitRoom s (ents.filter SceneEnt.fixed).length) (ansNoSpace 0x0001)
  match recallScene s n (c.op 17 1) t c.ref with
  | (s1, some id) => pure (s1, some (ansQueued 0 id))
  | (s1, none) => pure (s1, some ansDone)

def execSceneRecall (sq : Fin 16) (s : State) : Host.Outcome State Fault Refusal := .next (runRing s sq 0x0505 bodySceneRecall)

/-- Release a scene's entries in force. -/
def releaseScene (s : State) (n : Nat) : State :=
  streetUpd s fun x => { x with sceneForce := x.sceneForce.filter fun e => !(e.2.any fun f => decide (f.scene = n)) }

def bodySceneRelease (s : State) (c : Cmd) : Work := do
  let n := c.op 16 1
  checkOps (opChks c [(16, 1)] [])
  stopIf (!sceneHeld s n) (ansBadState 0x0009)
  pure (releaseScene s n, some ansDone)

def execSceneRelease (sq : Fin 16) (s : State) : Host.Outcome State Fault Refusal := .next (runRing s sq 0x0506 bodySceneRelease)

/-! ### Commit opcodes (R206) -/

def bodyCommitLevel (s : State) (c : Cmd) : Work := do
  let f := c.op 18 1
  let t := c.op 24 8
  checkOps (opChks c [(16, 3), (20, 12)] [] ++
    [rsvChk (decide (3 < f)) 18, rangeChk (decide (600 < c.op 22 2)) 22, dtChk c 24])
  stopIf (decide (t < s.dt + 2 * 65536)) (ansBadState 0x0008)
  stopIf (!commitRoom s 1) (ansNoSpace 0x0001)
  let (s1, id) := acceptCommit s 0 (c.op 16 2) (f % 2) t (bit f 1) (leBytes 2 (c.op 20 2) ++ leBytes 2 (c.op 22 2)) (some c.ref)
  pure (s1, some (ansQueued 0 id))

def execCommitLevel (sq : Fin 16) (s : State) : Host.Outcome State Fault Refusal := .next (runRing s sq 0x0507 bodyCommitLevel)

/-- Cancel a pending commit: its COMMIT_DONE carries CANCELLED, and a CANCEL commit is issued for present DT + LEAD. -/
def cancelCommit (s : State) (k : CommitEnt) (ref : Option CmdRef) : State :=
  let s1 := updCommit (dropCommitElems s k.id) k.id fun c => { c with state := 2 }
  let s2 := macUpd s1 fun m => { m with wins := m.wins.filter fun w => decide (w.kind ≠ 1 ∨ w.tag ≠ k.id) }
  (acceptCommit (writeDone s2 k true) 1 k.group k.policy ((s.dt + fld s Reg.STR_COMMIT_LEAD * 65536) % 2 ^ 56) k.all
    (leBytes 4 k.id) ref).1

def bodyCommitCancel (s : State) (c : Cmd) : Work := do
  checkOps (opChks c [(16, 4)] [])
  match s.street.commits.find? fun k => decide (k.id = c.op 16 4 ∧ k.state = 0) with
  | none => .error (.ans (ansBadState 0x000A))
  | some k =>
    stopIf (!commitRoom s 1) (ansNoSpace 0x0001)
    pure (causedBy s (cancelCommit s k (some c.ref)) c.seq, some ansQueued)

def execCommitCancel (sq : Fin 16) (s : State) : Host.Outcome State Fault Refusal := .next (runRing s sq 0x0508 bodyCommitCancel)

def bodyCommitRead (s : State) (c : Cmd) : Work := do
  checkOps (opChks c [(16, 4)] [(1, 32)])
  match s.street.commits.find? fun k => decide (k.id = c.op 16 4) with
  | none => .error (.ans (ansBadState 0x000B))
  | some k =>
    let s1 ← writeBuf s c 0 k.page
    pure (s1, some (ansDone 32))

def execCommitRead (sq : Fin 16) (s : State) : Host.Outcome State Fault Refusal := .next (runRing s sq 0x0509 bodyCommitRead)

/-- COMPOSE_READ's words of one lantern. -/
def composeWords (s : State) (n : Nat) : List Byte :=
  let k := s.street.comp.get n {}
  [k.cFeeder, k.cSched, k.z, k.d, k.f, k.stat, k.l, (entAt s n).levelCmd].flatMap (leBytes 2)

def bodyComposeRead (s : State) (c : Cmd) : Work := do
  let n := c.op 16 3
  let k := c.op 20 4
  checkOps (opChks c [(16, 3), (20, 4)] [(1, 16 * min k 4096)] ++
    [ephChk c 16, rangeChk (decide (foldSize < n + k)) 16, rangeChk (decide (k < 1 ∨ 4096 < k)) 20])
  let s1 ← writeBuf s c 0 ((List.range k).flatMap fun i => composeWords s (n + i))
  pure (s1, some (ansDone k))

def execComposeRead (sq : Fin 16) (s : State) : Host.Outcome State Fault Refusal := .next (runRing s sq 0x050A bodyComposeRead)

def bodySolarRead (s : State) (c : Cmd) : Work := do
  checkOps (opChks c [(16, 4)] [(1, 32)] ++ dateChks c 16 18 19)
  let day := daysBefore (c.op 16 2) (c.op 18 1) (c.op 19 1)
  let s1 ← writeBuf s c 0 ((List.range 8).flatMap fun ev =>
    leBytes 4 (match solarUtc s day ev with | some t => (t % 2 ^ 32).toNat | none => 0xFFFFFFFF))
  pure (s1, some (ansDone 32))

def execSolarRead (sq : Fin 16) (s : State) : Host.Outcome State Fault Refusal := .next (runRing s sq 0x050B bodySolarRead)

/-! ### Level vectors (R192, R193) -/

/-- Queued levels of T3 lanterns of a delivery group: position, EPH and level. -/
def groupQueue (s : State) (g : Nat) : List (Nat × Nat × QLevel) :=
  s.street.queue.filterMap fun x =>
    match x.2, delivery s x.1 with
    | some q, some (h, pos) => if h = g ∧ (entAt s x.1).gen = 3 then some (pos, x.1, q) else none
    | _, _ => none

/-- Groups with queued levels whose event of this slot period has not passed (R145, R189), with the time since which the oldest level
waits, the oldest first. -/
def lvGroups (s : State) : List (Nat × Nat) :=
  let k := curSp s
  let l := s.street.groups.filterMap fun (g, c) =>
    if 0 < c.period ∧ k % c.period = c.phase ∧ s.street.lvSlot.get g 0 ≠ k + 1 ∧ !slotPassed s 3 c.channel k then
      match groupQueue s g with
      | [] => none
      | x :: r => some (g, r.foldl (fun a y => min a y.2.2.since) x.2.2.since)
    else none
  l.sortBy fun a b => decide (a.2 ≤ b.2)

/-- Chains that level vectors have used in this slot period. -/
def lvUsed (s : State) : Nat := if s.street.lvCount.1 = curSp s + 1 then s.street.lvCount.2 else 0

/-- The group whose event starts now: of those of this slot period with the oldest levels, as many as chains are left to them (R193). -/
def lvNow (s : State) : Option Nat :=
  let room := min (fld s Reg.STR_PLAN_LV_CHAINS - lvUsed s) (chainsLeft s 3)
  (((lvGroups s).take room).find? fun x => slotStarts s 3 (groupAt s x.1).channel (curSp s)).map Prod.fst

/-- The levels that one LEVEL_VECTOR carries: at most 40, as far as the frame fits its event (R145, R167). -/
def lvRoom (s : State) : Nat := ((List.range 41).filter fun n => n = 0 || fitsBroadcast s 1 (11 + 2 * n)).length - 1

/-- At a group event one LEVEL_VECTOR goes out (R192). -/
def execLevelVector (s : State) : Host.Outcome State Fault Refusal :=
  let k := curSp s
  .next (
    match lvNow s with
    | none => s
    | some g =>
      if !onAir s then s
      else
        let q := groupQueue s g
        let base := q.foldl (fun a x => min a x.1) ((q.head?.map Prod.fst).getD 0)
        let inV := ((q.filter fun x => decide (x.1 < base + 40)).sortBy fun a b => decide (a.1 ≤ b.1)).take (lvRoom s)
        let mask := (inV.map fun x => 2 ^ (x.1 - base)).sum
        let forced := inV.any fun x => x.2.2.forced
        let fwd := anyRelayed s fun n _ => inV.any fun x => x.2.1 = n
        let s0 := streetUpd s fun x => { x with lvSlot := x.lvSlot.set g (k + 1) 0 }
        let (s1, ok) := sendBroadcast s0 8 (groupAt s g).channel 1 fwd
          (leBytes 2 g ++ leBytes 3 base ++ leBytes 5 mask ++ leBytes 1 (b2n forced) ++ inV.flatMap fun x => leBytes 2 x.2.2.level)
        if ok then
          let s2 := inV.foldl (fun s x => updEnt (streetUpd s fun y => { y with queue := y.queue.del x.2.1 }) x.2.1
            fun e => { e with levelCmd := x.2.2.level }) s1
          countBy (count1 (streetUpd s2 fun x => { x with lvCount := (k + 1, lvUsed s + 1) }) (Reg.STR_CNT_COUNT 0))
            (Reg.STR_CNT_COUNT 1) inV.length
        else s1)

end Sys2Proof.Machine
end

