-- ==== Sys2Proof/Machine/Compose.lean ====
section
/-! DEFINITION. The tick boundary: scenes and steps taken into force, Cascade's tick, and the level composer (R24, R25, R33,
R186, R187, R190, R191, R199, R201, R355). -/

namespace Sys2Proof.Machine

/-! ### Levels in force (R186, R196, R199, R355) -/

/-- CAP and FLOOR of the step in force for a group; 65,535 and 0 without one. -/
def stepLevels (s : State) (g : Nat) : Nat × Nat :=
  let pr := (groupAt s g).profile
  match s.street.force.get pr none, schedAt s pr with
  | some (i, _), some p => match p.steps[i]? with
    | some st => (st.cap, st.floor)
    | none => (65535, 0)
  | _, _ => (65535, 0)

/-- C_sched and F_step of a delivery group: a running GROUP jet stands in for a scene entry, and that for the step. -/
def schedLevels (s : State) (g : Nat) : Nat × Nat :=
  let (cap, floor) := stepLevels s g
  match s.ftn.groupLevel.get g 0 with
  | v + 1 => (v, v)
  | 0 =>
    match s.street.sceneForce.get g none with
    | some f => if f.fixed then (f.level, f.level) else (f.level, floor)
    | none => (cap, floor)

/-- The level of a lantern from its inputs (R186). -/
def levelOf (c : CompIn) (floor : Nat) : Nat :=
  let l := min (min c.cFeeder c.cSched) (max (max c.z c.d) (max floor c.f))
  if 0 < c.stat then max l (min c.stat c.cSched) else l

/-- The inputs of a lantern, latched, with F and L (R24, R186). -/
def latchInputs (s : State) (n : Nat) (m : Member) (g : Nat) : CompIn :=
  let e := entAt s n
  let (cap, fstep) := schedLevels s g
  let c : CompIn := { cFeeder := if e.feeder = 7 then 65535 else ceilLevel s e.feeder
                      cSched := cap
                      z := if m.zoneEn then zoneLevel s m.zone else 0
                      d := casOut s n
                      f := max m.floor fstep
                      stat := m.statFloor }
  { c with l := levelOf c c.f }

/-! ### The composer (R187, R191, R192, R201) -/

/-- The statutory floor raises L above the feeder ceiling: counted and recorded when the condition begins. -/
def floorCheck (s : State) (n : Nat) (c : CompIn) : State :=
  let exceeds := decide (0 < c.stat ∧ c.cFeeder < c.l)
  let s1 := streetUpd s fun x => { x with floorOver := x.floorOver.set n exceeds false }
  if exceeds ∧ !s.street.floorOver.get n false then
    emit (setErr (count1 s1 (Reg.STR_CNT_COUNT 7)) Reg.STR_ERR_FLOOR_OVER) 0x0502
      (leBytes 3 n ++ [0] ++ leBytes 2 c.stat ++ leBytes 2 c.cFeeder)
  else s1

/-- Queue a level; a queued level that has not been sent is replaced, and stays FORCED if it was (R191, R201). -/
def queueLevel (s : State) (n level : Nat) (forced : Bool) : State :=
  let old := s.street.queue.get n none
  let q : QLevel := { level := level, forced := forced || old.any QLevel.forced, since := (old.map QLevel.since).getD s.dt }
  streetUpd s fun x => { x with
    queue := x.queue.set n (some q) none
    repair := x.repair.del n }

/-- Compose one lantern; `forced` are the groups of scenes activated with ACT_DT 0. -/
def composeOne (forced : List Nat) (s : State) (n : Nat) : State :=
  match memberOf s n, delivery s n with
  | some m, some (g, _) =>
    if isLantern (entAt s n) then
      let c := latchInputs s n m g
      let s1 := floorCheck (streetUpd s fun x => { x with comp := x.comp.set n c {} }) n c
      let old := (entAt s1 n).levelCmd
      let rep := s1.street.repair.get n false || forced.contains g
      if flag s1 Reg.STR_CTRL_COMPOSE_EN ∧
          (rep ∨ (groupAt s1 g).hyst ≤ ((c.l : Int) - old).natAbs ∨ (decide (c.l = 0) != decide (old = 0))) then
        queueLevel s1 n c.l rep
      else s1
    else s
  | _, _ => s

/-- Levels of T1 and T2 lanterns, and of those whose delivery group has PERIOD 0, become unicast LEVEL elements (R192). -/
def toUnicast (s : State) : State :=
  s.street.queue.foldl (fun s x =>
    let e := entAt s x.1
    match x.2, delivery s x.1 with
    | some q, some (g, _) =>
      if e.state = 3 ∧ (e.gen ≠ 3 ∨ (groupAt s g).period = 0) then
        let y := epAt s x.1
        let s1 := setEp s x.1 { y with dlq := y.dlq.filter fun i => decide (i.type ≠ 0x15 ∨ 1 ≤ i.attempts) }
        queueDl (streetUpd s1 fun z => { z with queue := z.queue.del x.1 }) x.1
          { type := 0x15, val := leBytes 2 q.level ++ [0, 0], kind := .plain }
      else s
    | _, _ => s) s

/-- The composition of a tick. -/
def compose (s : State) (forced : List Nat) : State :=
  toUnicast ((s.street.members.keys).foldl (composeOne forced) s)

/-! ### Scenes, steps and the local day (R195, R196, R199) -/

/-- A scene comes into force: its entries replace those of the same groups. -/
def activateScene (s : State) (n : Nat) : State :=
  (s.street.scenes.get n []).foldl (fun s e => streetUpd s fun x => { x with
    sceneForce := x.sceneForce.set e.group (some { scene := n, level := e.level, fixed := e.fixed }) none }) s

/-- Scenes that wait for this tick, or whose ACT_DT has come, in the order of their recalls; the groups of those with ACT_DT 0
are sent FORCED levels. -/
def activateScenes (s : State) : State × List Nat :=
  let due := s.street.scenePend.filter fun x => decide (x.2 ≤ s.dt)
  let s1 := streetUpd s fun x => { x with scenePend := x.scenePend.filter fun y => decide (s.dt < y.2) }
  (due.foldl (fun s x => activateScene s x.1) s1,
   (due.filter fun x => x.2 = 0).flatMap fun x => (s.street.scenes.get x.1 []).map SceneEnt.group)

/-- Commits for the steps whose trigger is LEAD + 8 s away or nearer (R194, R201). -/
def planSteps (s : State) : State :=
  let ahead := (fld s Reg.STR_COMMIT_LEAD + 8) * 65536
  (triggersIn s (fun st => st.commit && decide (st.kind < 2)) s.dt (s.dt + ahead)).foldl (fun s f =>
    let key := (f.prof, f.idx, f.t.toNat * 65536)
    match (schedAt s f.prof).bind fun p => p.steps[f.idx]? with
    | some st =>
      if s.street.planned.contains key ∨ !commitRoom s 1 then s
      else
        let (s1, _) := acceptCommit s 0 st.group 0 (f.t.toNat * 65536) false (leBytes 2 st.cap ++ leBytes 2 st.fade) none
        streetUpd s1 fun x => { x with planned := x.planned ++ [key] }
    | none => s)
    (streetUpd s fun x => { x with planned := x.planned.filter fun k => decide (s.dt < k.2.2 + 86400 * 65536) })

/-- A local date begins: POLAR when a solar event that a step needs does not occur on it (R196). -/
def newDay (s : State) : State :=
  let day := localDay s (dtSec s.dt)
  if s.street.day = day + 1 then s
  else
    let s1 := streetUpd s fun x => { x with day := day + 1 }
    if (allSteps s).any fun (_, _, st) => decide (st.kind = 1) && bit st.days (dateClass s day) && (solarLocal s day st.event).isNone then
      setErr s1 Reg.STR_ERR_POLAR
    else s1

/-! ### The boundary (R24, R33) -/

/-- The tick period follows the mode at a DT second boundary, where GROUP jets also give their levels; a group whose jet has
stopped is released (R33, R355). -/
def tickPeriod (s : State) : State :=
  let now := jetGroups s
  if atSecond s then
    let s1 := casUpd s fun c => { c with quiet := flag s Reg.PWR_STAT_MODE }
    { s1 with ftn := { s1.ftn with groupLevel := now } }
  else { s with ftn := { s.ftn with groupLevel := s.ftn.groupLevel.filter fun x => decide (now.get x.1 0 ≠ 0) } }

/-- One tick: what is in force at this DT, the latch and composition in an UNPAIRED or ACTIVE module, and Cascade's tick, whose
demands the next composition latches. -/
def runTick (s : State) (first last span : Nat) : State :=
  let s1 := newDay (if onAir s then fireSteps (dueCommits s) else stepsSeen s)
  let s2 := if onAir s1 then planSteps s1 else s1
  let (s3, forced) := activateScenes s2
  let s4 := if onAir s3 then compose s3 forced else s3
  casUpd (cascadeTick s4 first last span) fun c => { c with tickAt := some (nowAt s) }

/-- The unit at which a tick begins is now, and the tick has not run: every 50 ms in SERVICE and each DT second in QUIET (R24). -/
def tickDue (s : State) : Bool :=
  (if s.cas.quiet then atSecond s else crossedNow s tickOf) && decide (s.cas.tickAt ≠ some (nowAt s))

/-- At a tick boundary. -/
def execTickBoundary (s : State) : Host.Outcome State Fault Refusal :=
  let s1 := tickPeriod s
  .next (
    if !tickDue s1 then s1
    else if s1.cas.quiet then
      let first := dtSec s.dt * 20 % 2 ^ 32
      runTick s1 first ((first + 19) % 2 ^ 32) 20
    else runTick s1 (tickOf s.dt) (tickOf s.dt) 1)

end Sys2Proof.Machine
end

