-- ==== Sys2Proof/Machine/OxProg.lean ====
section
/-! DEFINITION. Ox's program image: its header and sections, validation, and the instructions with the function blocks
(R370, R371, R378-R385). -/

namespace Sys2Proof.Machine

/-! ### The image (R383, R384) -/

def imgCodeOfs (b : List Byte) : Nat := fieldLE b 24 4
def imgCodeWords (b : List Byte) : Nat := fieldLE b 28 4
def imgSigned (b : List Byte) : Bool := bit (fieldLE b 5 1) 0
def imgLen (b : List Byte) : Nat := fieldLE b 76 4
def imgBodyEnd (b : List Byte) : Nat := imgLen b - (if imgSigned b then 96 else 0)
def imgInitWords (b : List Byte) : Nat := fieldLE b 60 4
/-- Instruction i. -/
def imgCode (b : List Byte) (i : Nat) : Nat := fieldLE b (imgCodeOfs b + 4 * i) 4
/-- INIT value of a data word. -/
def imgInit (b : List Byte) (w : Nat) : Nat := if w < imgInitWords b then fieldLE b (fieldLE b 56 4 + 4 * w) 4 else 0

/-- A symbol entry. -/
structure Sym where
  id : Nat
  addr : Nat
  words : Nat
  kind : Nat
  fb : Nat

/-- An RIO entry. -/
structure RioCfg where
  port : Nat
  addr : Nat
  inW : Nat
  outW : Nat
  inO : Nat
  outO : Nat
  deriving DecidableEq

/-- Offsets of the entries of a section: OFS field, count, entry size. -/
def secOfs (b : List Byte) (f n size : Nat) : List Nat := (List.range n).map fun i => fieldLE b f 4 + size * i

def imgSyms (b : List Byte) : List Sym :=
  (secOfs b 32 (fieldLE b 36 2) 12).map fun o =>
    { id := fieldLE b o 4, addr := fieldLE b (o + 4) 2, words := fieldLE b (o + 6) 2, kind := fieldLE b (o + 8) 1,
      fb := fieldLE b (o + 9) 1 }

/-- Safe values: address and value. -/
def imgSafe (b : List Byte) : List (Nat × Nat) :=
  (secOfs b 40 (fieldLE b 44 2) 8).map fun o => (fieldLE b o 2, fieldLE b (o + 4) 4)

/-- Retained ranges: first word and count. -/
def imgRet (b : List Byte) : List (Nat × Nat) :=
  (secOfs b 48 (fieldLE b 52 2) 4).map fun o => (fieldLE b o 2, fieldLE b (o + 2) 2)

def imgRio (b : List Byte) : List RioCfg :=
  (secOfs b 64 (fieldLE b 68 1) 8).map fun o =>
    { port := fieldLE b o 1, addr := fieldLE b (o + 1) 1, inW := fieldLE b (o + 2) 1, outW := fieldLE b (o + 3) 1,
      inO := fieldLE b (o + 4) 1, outO := fieldLE b (o + 5) 1 }

/-! ### The variable space (R371) -/

/-- Area of a word: 0 data memory, 1 input image, 2 output image, 3 mapped variables, 4 system inputs, 5 system outputs,
6 unmapped. -/
def oxArea (a : Nat) : Nat :=
  if a < 0x8000 then 0 else if a < 0x8100 then 1 else if a < 0x8200 then 2 else if a < 0x8300 then 3
  else if a < 0x8330 then 4 else if a < 0x8340 then 6 else if a < 0x8349 then 5 else 6

/-- First word after the area of a word. -/
def oxAreaEnd (a : Nat) : Nat :=
  match oxArea a with | 0 => 0x8000 | 1 => 0x8100 | 2 => 0x8200 | 3 => 0x8300 | 4 => 0x8330 | 5 => 0x8349 | _ => 0

/-- A program may write the word. -/
def oxWritable (a : Nat) : Bool := match oxArea a with | 0 => true | 2 => true | 3 => true | 5 => true | _ => false

/-- The word belongs to what OUTPUT commits (R367). -/
def oxCommitted (a : Nat) : Bool := match oxArea a with | 2 => true | 3 => true | 5 => true | _ => false

/-! ### Validation (R385) -/

/-- First entry that offends by itself or against an entry before it. -/
def firstBad {α : Type} (bad : α → Bool) (clash : α → α → Bool) : List α → Nat → List α → Option Nat
  | _, _, [] => none
  | seen, i, x :: r => if bad x || seen.any (clash x) then some i else firstBad bad clash (x :: seen) (i + 1) r

/-- Two spans of words or bytes overlap: start and length. -/
def overlaps (a b : Nat × Nat) : Bool := decide (0 < a.2 ∧ 0 < b.2 ∧ a.1 < b.1 + b.2 ∧ b.1 < a.1 + a.2)

/-- The sections: header offset, start and length in bytes. -/
def imgSections (b : List Byte) : List (Nat × Nat × Nat) :=
  [(24, fieldLE b 24 4, 4 * imgCodeWords b), (32, fieldLE b 32 4, 12 * fieldLE b 36 2), (40, fieldLE b 40 4, 8 * fieldLE b 44 2),
   (48, fieldLE b 48 4, 4 * fieldLE b 52 2), (56, fieldLE b 56 4, 4 * imgInitWords b), (64, fieldLE b 64 4, 8 * fieldLE b 68 1)]

/-- The lowest header offset that offends (log entry 90). -/
def headerBad (b : List Byte) (activeId : Nat) : Option Nat :=
  let f := fieldLE b
  let zero (o n : Nat) : List (Nat × Bool) := match firstNonZero b o n with | some x => [(x, true)] | none => []
  let secs := imgSections b
  let secBad (x : Nat × Nat × Nat) : Bool :=
    decide (x.2.1 % 4 ≠ 0 ∨ x.2.1 < 128 ∨ imgBodyEnd b < x.2.1 + x.2.2)
  let beyond := (List.range 6).filterMap fun i =>
    let x := secs.getD i (0, 0, 0)
    if secBad x || (secs.take i).any (fun y => overlaps x.2 y.2) then some (x.1, true) else none
  let l : List (Nat × Bool) :=
    [(0, decide (f 0 4 ≠ 0x4750584F)), (4, decide (f 4 1 ≠ 1)), (5, decide (1 < f 5 1)),
     (8, decide (f 8 4 = 0 ∨ f 8 4 = activeId)), (16, decide (f 16 2 < 1 ∨ 100 < f 16 2)), (18, decide (50000 < f 18 2)),
     (20, decide (imgCodeWords b ≤ f 20 2)), (28, decide (imgCodeWords b < 1 ∨ 32000 < imgCodeWords b)),
     (36, decide (4096 < f 36 2)), (44, decide (512 < f 44 2)), (52, decide (64 < f 52 2)), (60, decide (32768 < imgInitWords b)),
     (68, decide (64 < f 68 1)), (70, decide (63 < f 70 1)), (72, decide (3 < f 72 1)), (73, decide (3 < f 73 1)),
     (74, decide (f 74 1 = 0)), (75, decide (f 75 1 = 0))] ++ beyond ++
    zero 6 2 ++ zero 22 2 ++ zero 38 2 ++ zero 46 2 ++ zero 54 2 ++ zero 69 1 ++ zero 71 1 ++ zero 84 44
  (l.filter (fun x => x.2)).foldl (fun m x => match m with | some y => some (min x.1 y) | none => some x.1) none

/-- Fields of an instruction word (R378). -/
def insOp (w : Nat) : Nat := bits w 31 26
def insIx (w : Nat) : Bool := bit w 16
def insAddr (w : Nat) : Nat := w % 65536
def insTarget (w : Nat) : Nat := w % 32768

/-- Format of an opcode: 0 B, 1 W, 2 I, 3 S, 4 J, 5 N, 6 undefined (R379). -/
def insFormat (op : Nat) : Nat :=
  if op = 0 ∨ 0x30 < op then 6
  else if op ≤ 0x0A then 0
  else if op ≤ 0x0C then 5
  else if op ≤ 0x0E then 1
  else if op ≤ 0x10 then 2
  else if op ≤ 0x18 then 1
  else if op = 0x19 then 3
  else if op ≤ 0x1D then 1
  else if op ≤ 0x1F then 5
  else if op ≤ 0x22 then 1
  else if op = 0x23 then 5
  else if op ≤ 0x27 then 4
  else if op ≤ 0x29 then 5
  else 1

/-- The opcode writes its word: STB, SETB, RSTB, ST. -/
def insWrites (op : Nat) : Bool := decide (op = 0x08 ∨ op = 0x09 ∨ op = 0x0A ∨ op = 0x0E)

/-- An instruction is valid by itself (R385). -/
def insOk (w cw : Nat) (syms : List Sym) : Bool :=
  let op := insOp w
  let mapped := insIx w || (decide (oxArea (insAddr w) ≠ 6) && (!insWrites op || oxWritable (insAddr w)))
  match insFormat op with
  | 0 => decide (bits w 20 17 = 0) && mapped
  | 1 =>
    decide (bits w 22 17 = 0) &&
    (if op = 0x20 ∨ op = 0x21 then decide (bits w 25 23 < 6) else decide (bits w 25 23 = 0)) &&
    (if 0x2A ≤ op then
       !insIx w && syms.any fun s => decide (s.kind = 1 ∧ s.addr = insAddr w ∧ s.fb = op - 0x2A)
     else mapped)
  | 2 => decide (bits w 25 16 = 0)
  | 3 => decide (bits w 25 7 = 0)
  | 4 => decide (bits w 25 15 = 0 ∧ insTarget w < cw)
  | 5 => decide (bits w 25 0 = 0)
  | _ => false

/-- A symbol offends by itself. -/
def symBad (b : List Byte) (s : Sym) : Bool :=
  decide (s.id = 0 ∨ 2 < s.kind) || (match s.kind with
    | 0 => decide (0x8000 < s.addr + s.words ∨ s.fb ≠ 0)
    | 1 => decide (0x8000 < s.addr + s.words ∨ s.words ≠ 6 ∨ 6 < s.fb ∨ imgInit b s.addr ≠ s.id ∨
        imgInit b (s.addr + 1) % 256 ≠ s.fb)
    | _ => decide (s.addr < 0x8000 ∨ 65536 < s.addr + s.words ∨ s.fb ≠ 0))

/-- Two symbols clash: one ID, or data words of both. -/
def symClash (x y : Sym) : Bool :=
  decide (x.id = y.id) || (decide (x.kind < 2 ∧ y.kind < 2) && overlaps (x.addr, x.words) (y.addr, y.words))

def safeBad (a : Nat) : Bool := match oxArea a with | 2 => false | 3 => false | 5 => false | _ => true

/-- An RIO entry offends by itself: its fields, the rate of its port. -/
def rioBad (b : List Byte) (e : RioCfg) : Bool :=
  decide (1 < e.port ∨ 31 < e.addr ∨ 32 < e.inW ∨ 32 < e.outW ∨ e.inO < 16 ∨ e.outO < 16 ∨ 256 < e.inO + e.inW ∨
    256 < e.outO + e.outW ∨ fieldLE b (72 + e.port) 1 = 0)

def rioClash (x y : RioCfg) : Bool :=
  decide (x.port = y.port ∧ x.addr = y.addr) || overlaps (x.inO, x.inW) (y.inO, y.inW) || overlaps (x.outO, x.outW) (y.outO, y.outW)

/-- The first entry with reserved bytes that are not zero: section offset field, count, entry size, reserved bytes. -/
def rsvEntry (b : List Byte) (f n size : Nat) (z : List Nat) : Option Nat :=
  ((secOfs b f n size).zipIdx.find? fun x => z.any fun k => b.getD (x.1 + k) 0 ≠ 0).map Prod.snd

/-- The lower of two indexes. -/
def leastIdx : Option Nat → Option Nat → Option Nat
  | some a, some b => some (min a b)
  | some a, none => some a
  | none, b => b

/-- The first retained range at which the total passes 4,096 words. -/
def retTotalBad : List (Nat × Nat) → Nat → Nat → Option Nat
  | [], _, _ => none
  | x :: r, i, n => if 4096 < n + x.2 then some i else retTotalBad r (i + 1) (n + x.2)

/-- The first RIO entry past 32 on its port. -/
def rioCountBad : List RioCfg → Nat → List Nat → Option Nat
  | [], _, _ => none
  | e :: r, i, seen => if 32 ≤ (seen.filter (fun p => p = e.port)).length then some i else rioCountBad r (i + 1) (e.port :: seen)

/-- Where an instruction can go within its routine. -/
def insNext (w i : Nat) : List Nat :=
  match insOp w with
  | 0x24 => [insTarget w]
  | 0x25 => [insTarget w, i + 1]
  | 0x26 => [insTarget w, i + 1]
  | 0x28 => []
  | 0x29 => []
  | _ => [i + 1]

/-- The instructions of a routine: those that are reached without a CALL or a RET. -/
def routine (b : List Byte) : Nat → List Nat → List Nat → List Nat
  | 0, _, seen => seen
  | _ + 1, [], seen => seen
  | k + 1, i :: r, seen =>
    if imgCodeWords b ≤ i ∨ seen.contains i then routine b k r seen
    else routine b k (insNext (imgCode b i) i ++ r) (i :: seen)

/-- The CALL instructions, each with the CALL instructions of the routine it calls. -/
def callGraph (b : List Byte) : List (Nat × List Nat) :=
  let n := imgCodeWords b
  let calls := (List.range n).filter fun i => insOp (imgCode b i) = 0x27
  calls.map fun i =>
    let r := routine b (2 * n + 2) [insTarget (imgCode b i)] []
    (i, calls.filter r.contains)

/-- The CALLs from which a chain of more than k calls starts (a cycle is a chain without end). -/
def callsDeeper (g : List (Nat × List Nat)) : Nat → List Nat
  | 0 => g.map Prod.fst
  | k + 1 => let d := callsDeeper g k; (g.filter fun x => x.2.any d.contains).map Prod.fst

/-- Checks 3 to 9 of R385: DETAIL and RESULT of the first failure. -/
def imgBad (b : List Byte) (activeId : Nat) : Option (Nat × Nat) :=
  let cw := imgCodeWords b
  let syms := imgSyms b
  let pick (d : Nat) (o : Option Nat) : Option (Nat × Nat) := o.map fun x => (d, x)
  (pick 2 (headerBad b activeId)) <|>
  (pick 3 (firstIdx cw fun i => !insOk (imgCode b i) cw syms)) <|>
  (pick 4 (leastIdx (firstBad (symBad b) symClash [] 0 syms) (rsvEntry b 32 (fieldLE b 36 2) 12 [10, 11]))) <|>
  (pick 5 (leastIdx (firstBad (fun x => safeBad x.1) (fun x y => decide (x.1 = y.1)) [] 0 (imgSafe b))
    (rsvEntry b 40 (fieldLE b 44 2) 8 [2, 3]))) <|>
  (pick 6 (leastIdx (firstBad (fun x : Nat × Nat => decide (0x8000 < x.1 + x.2)) overlaps [] 0 (imgRet b)) (retTotalBad (imgRet b) 0 0))) <|>
  (pick 7 (leastIdx (leastIdx (firstBad (rioBad b) rioClash [] 0 (imgRio b)) (rioCountBad (imgRio b) 0 []))
    (rsvEntry b 64 (fieldLE b 68 1) 8 [6, 7]))) <|>
  (pick 8 ((callsDeeper (callGraph b) 8).head?))

/-! ### Function blocks (R381, R382) -/

/-- An instance as the opcodes compute it. -/
structure Fb where
  q : Bool
  run : Bool
  m : Bool
  et : Nat
  start : Nat

def word32 : Nat := 2 ^ 32

/-- elapsed(): START as it leaves it, and e. -/
def fbElapsed (ms start : Nat) : Nat × Nat :=
  let e := (ms + word32 - start % word32) % word32
  if 2 ^ 31 ≤ e then ((ms + word32 - 2 ^ 31 + 1) % word32, 2 ^ 31 - 1) else (start, e)

/-- Start timing unless it runs. -/
def Fb.begin (f : Fb) (ms : Nat) : Fb := if f.run then f else { f with run := true, start := ms }

/-- One call of a function block: type, MS, main input, AUX, ACC. -/
def fbCall (ty ms : Nat) (inp aux : Bool) (acc : Nat) (f : Fb) : Fb :=
  let v := toSigned 32 acc
  let p := v.toNat
  let cv := toSigned 32 f.et
  match ty with
  | 0 =>
    if inp then
      let g := f.begin ms
      let (st, e) := fbElapsed ms g.start
      { g with start := st, et := min p e, q := decide (p ≤ e) }
    else { f with run := false, et := 0, q := false }
  | 1 =>
    if inp then { f with run := false, et := 0, q := true }
    else if f.q then
      let g := f.begin ms
      let (st, e) := fbElapsed ms g.start
      if p ≤ e then { g with start := st, et := min p e, q := false, run := false } else { g with start := st, et := min p e }
    else f
  | 2 =>
    let g := if !f.run && inp && !f.m then { f with run := true, start := ms } else f
    let h :=
      if g.run then
        let (st, e) := fbElapsed ms g.start
        { g with start := st, et := min p e, run := decide (e < p) }
      else g
    { h with q := h.run, et := if !h.run && !inp then 0 else h.et, m := inp }
  | 3 => { f with q := inp && !f.m, m := inp }
  | 4 => { f with q := f.m && !inp, m := inp }
  | 5 =>
    let c : Int := if aux then 0 else if inp && !f.m && decide (cv < 2 ^ 31 - 1) then cv + 1 else cv
    { f with et := ofSigned 32 c, m := inp, q := decide (v ≤ c) }
  | _ =>
    let c : Int := if aux then v else if inp && !f.m && decide (-2 ^ 31 < cv) then cv - 1 else cv
    { f with et := ofSigned 32 c, m := inp, q := decide (c ≤ 0) }

/-! ### Execution (R370, R379, R380) -/

/-- What one EXECUTE sees: the image, MS, the mapped words that Weir drives, and the forced words (address, mask, value). -/
structure OxEnv where
  img : List Byte
  ms : Nat
  driven : List Nat
  forced : List (Nat × Nat × Nat)

/-- The engine while it executes; the last fields count the cycles used, the events of R371, R377 and R380 and the free values
drawn. -/
structure Cpu where
  pc : Nat
  stack : List Nat := []
  acc : Nat
  rlo : Bool
  aux : Bool
  x : Nat
  mem : SMap Nat
  used : Nat := 0
  addrN : Nat := 0
  arithN : Nat := 0
  mapN : Nat := 0
  freeN : Nat
  done : Bool := false

/-- A store into a forced word keeps the forced bits (R396). -/
def forceWord (l : List (Nat × Nat × Nat)) (a v : Nat) : Nat :=
  l.foldl (fun w f => if f.1 = a then w - Nat.land w f.2.1 + Nat.land f.2.2 f.2.1 else w) (v % word32)

def oxStore (l : List (Nat × Nat × Nat)) (m : SMap Nat) (a v : Nat) : SMap Nat := m.set a (forceWord l a v) 0

/-- A read (R371). -/
def Cpu.read (c : Cpu) (a : Nat) : Cpu × Nat :=
  if oxArea a = 6 then ({ c with addrN := c.addrN + 1 }, 0) else (c, c.mem.get a 0)

/-- A write (R371, R377): a mapped word that a Weir loop drives is read-only, and counts in both rules' counters. -/
def Cpu.write (c : Cpu) (e : OxEnv) (a v : Nat) : Cpu :=
  if !oxWritable a then { c with addrN := c.addrN + 1 }
  else if e.driven.contains a then { c with mapN := c.mapN + 1, addrN := c.addrN + 1 }
  else { c with mem := oxStore e.forced c.mem a v }

/-- A write of one bit. -/
def Cpu.writeBit (c : Cpu) (e : OxEnv) (a b : Nat) (v : Bool) : Cpu := c.write e a (putBits (c.mem.get a 0) b b (b2n v))

/-- A comparison by COND, from less and equal. -/
def condTest (cond : Nat) (lt eq : Bool) : Bool :=
  match cond with
  | 0 => eq | 1 => !eq | 2 => lt | 3 => lt || eq | 4 => !lt && !eq | 5 => !lt | _ => false

/-- DIV and REM: the quotient, and whether it counts in ARITH. -/
def oxDiv (a m : Nat) : Nat × Bool :=
  let x := toSigned 32 a
  let y := toSigned 32 m
  if y = 0 then (0, true) else (ofSigned 32 (x.tdiv y), decide (x = -2 ^ 31 ∧ y = -1))

/-- FTOI: the value, and whether it counts in ARITH. -/
def oxFtoi (a : Nat) : Nat × Bool :=
  match b32.decode a with
  | .nan => (0, true)
  | .inf neg => (if neg then 2 ^ 31 else 2 ^ 31 - 1, false)
  | .fin _ _ _ => (ofSigned 32 (max (-2 ^ 31) (min (2 ^ 31 - 1) (b32.toIntTrunc a))), false)

/-- A function-block call on the instance at a word. -/
def Cpu.block (c : Cpu) (e : OxEnv) (ty a : Nat) : Cpu :=
  let w1 := c.mem.get ((a + 1) % 65536) 0
  let f0 : Fb := { q := bit w1 8, run := bit w1 9, m := bit w1 10, et := c.mem.get ((a + 3) % 65536) 0,
                   start := c.mem.get ((a + 4) % 65536) 0 }
  let f := fbCall ty e.ms c.rlo c.aux c.acc f0
  let c1 := c.write e ((a + 1) % 65536) (putBits w1 10 8 (b2n f.q + 2 * b2n f.run + 4 * b2n f.m))
  let c2 := c1.write e ((a + 2) % 65536) c.acc
  let c3 := c2.write e ((a + 3) % 65536) f.et
  let c4 := c3.write e ((a + 4) % 65536) f.start
  { c4 with rlo := f.q, acc := if ty = 3 ∨ ty = 4 then c.acc else f.et % word32 }

/-- IOX cycles of an instruction (R370). -/
def insCost (c : Cpu) (op : Nat) : Nat :=
  if op = 0x13 ∨ op = 0x1E ∨ op = 0x1F ∨ op = 0x24 ∨ op = 0x27 then 2
  else if op = 0x25 then (if c.rlo then 2 else 1)
  else if op = 0x26 then (if c.rlo then 1 else 2)
  else if op = 0x28 then (if c.stack.isEmpty then 1 else 2)
  else if 0x1A ≤ op ∧ op ≤ 0x1C then 3
  else if op = 0x1D then 14
  else if op = 0x14 ∨ op = 0x15 then 34
  else if 0x2A ≤ op ∧ op ≤ 0x30 then 8
  else 1

/-- A word operation on ACC with the word read. -/
def Cpu.withWord (c : Cpu) (a : Nat) (f : Cpu → Nat → Cpu) : Cpu := let r := c.read a; f r.1 r.2

/-- The action of an instruction on everything but its place and its cost (R379, R380). -/
def insAct (e : OxEnv) (c : Cpu) (w : Nat) : Cpu :=
  let a := if insIx w then (insAddr w + c.x) % 65536 else insAddr w
  let b := bits w 25 21
  let onBit (f : Bool → Bool) : Cpu := c.withWord a fun c m => { c with rlo := f (bit m b) }
  let onAcc (f : Nat → Nat → Nat) : Cpu := c.withWord a fun c m => { c with acc := f c.acc m % word32 }
  let cond := bits w 25 23
  match insOp w with
  | 0x01 => onBit fun m => m
  | 0x02 => onBit fun m => !m
  | 0x03 => onBit fun m => c.rlo && m
  | 0x04 => onBit fun m => c.rlo && !m
  | 0x05 => onBit fun m => c.rlo || m
  | 0x06 => onBit fun m => c.rlo || !m
  | 0x07 => onBit fun m => c.rlo != m
  | 0x08 => c.writeBit e a b c.rlo
  | 0x09 => if c.rlo then c.writeBit e a b true else c
  | 0x0A => if c.rlo then c.writeBit e a b false else c
  | 0x0B => { c with rlo := !c.rlo }
  | 0x0C => { c with aux := c.rlo }
  | 0x0D => onAcc fun _ m => m
  | 0x0E => c.write e a c.acc
  | 0x0F => { c with acc := ofSigned 32 (toSigned 16 w) }
  | 0x10 => { c with acc := w % 65536 * 65536 + c.acc % 65536 }
  | 0x11 => onAcc fun x m => x + m
  | 0x12 => onAcc fun x m => x + word32 - m % word32
  | 0x13 => onAcc fun x m => x * m
  | 0x14 => c.withWord a fun c m => let r := oxDiv c.acc m; { c with acc := r.1, arithN := c.arithN + b2n r.2 }
  | 0x15 => c.withWord a fun c m =>
      let r := oxDiv c.acc m
      { c with acc := (c.acc + word32 * word32 - r.1 * (m % word32)) % word32, arithN := c.arithN + b2n r.2 }
  | 0x16 => onAcc Nat.land
  | 0x17 => onAcc Nat.lor
  | 0x18 => onAcc Nat.xor
  | 0x19 =>
    let n := w % 32
    match bits w 6 5 with
    | 0 => { c with acc := c.acc * 2 ^ n % word32 }
    | 1 => { c with acc := c.acc % word32 / 2 ^ n }
    | 2 => { c with acc := ofSigned 32 ((toSigned 32 c.acc).fdiv (2 ^ n)) }
    | _ => { c with acc := Config.free c.freeN % word32, freeN := c.freeN + 1 }
  | 0x1A => onAcc b32.add
  | 0x1B => onAcc b32.sub
  | 0x1C => onAcc b32.mul
  | 0x1D => onAcc b32.div
  | 0x1E => { c with acc := b32.ofInt (toSigned 32 c.acc) }
  | 0x1F => let r := oxFtoi c.acc; { c with acc := r.1, arithN := c.arithN + b2n r.2 }
  | 0x20 => c.withWord a fun c m =>
      { c with rlo := condTest cond (decide (toSigned 32 c.acc < toSigned 32 m)) (decide (toSigned 32 c.acc = toSigned 32 m)) }
  | 0x21 => c.withWord a fun c m =>
      { c with rlo := if b32.isNan c.acc || b32.isNan m then decide (cond = 1)
          else condTest cond (b32.lt c.acc m) (!b32.lt c.acc m && !b32.lt m c.acc) }
  | 0x22 => if c.rlo then onAcc fun _ m => m else c
  | 0x23 => { c with x := c.acc % 65536 }
  | op => if 0x2A ≤ op ∧ op ≤ 0x30 then c.block e (op - 0x2A) a else c

/-- The next place: control flow (R379). -/
def insGo (c : Cpu) (w : Nat) : Cpu :=
  let i := c.pc
  let t := insTarget w
  match insOp w with
  | 0x24 => { c with pc := t }
  | 0x25 => { c with pc := if c.rlo then t else i + 1 }
  | 0x26 => { c with pc := if c.rlo then i + 1 else t }
  | 0x27 => { c with pc := t, stack := (i + 1) :: c.stack }
  | 0x28 => match c.stack with
    | [] => { c with done := true }
    | r :: l => { c with pc := r, stack := l }
  | 0x29 => { c with done := true }
  | _ => { c with pc := i + 1 }

/-- EXECUTE: instructions run until the program ends, or until one would end past the budget of IOX cycles; `done` tells which. -/
def oxExecute (e : OxEnv) (budget : Nat) : Nat → Cpu → Cpu
  | 0, c => c
  | k + 1, c =>
    if c.done = true then c
    else if imgCodeWords e.img ≤ c.pc then { c with done := true }
    else
      let w := imgCode e.img c.pc
      let u := c.used + insCost c (insOp w)
      if budget < u then c else oxExecute e budget k (insGo (insAct e { c with used := u } w) w)

end Sys2Proof.Machine
end

