-- ==== Sys2Proof/Machine/Ox.lean ====
section
/-! DEFINITION. Ox, the cabinet scan engine: cycles, remote I/O, DALI, watchdog, retained data, forces, online change and its
opcodes (chapter 13). -/

namespace Sys2Proof.Machine

def oxUpd (s : State) (f : OxSt → OxSt) : State := { s with ox := f s.ox }

/-- OX_STAT.STATE: 0 NO_PROGRAM, 1 STOPPED, 2 RUNNING, 3 LOCKED, 4 STANDBY. -/
def oxState (s : State) : Nat := fld s Reg.OX_STAT_STATE
def oxBank (s : State) : Nat := fld s Reg.OX_STAT_BANK
def oxIdle (s : State) : OxBank := s.ox.banks.get (1 - oxBank s) {}
/-- The active image; empty while there is none. -/
def oxImg (s : State) : List Byte := if s.ox.hasProg then (s.ox.banks.get (oxBank s) {}).bytes else []
def oxProgId (s : State) : Nat := if s.ox.hasProg then fieldLE (oxImg s) 8 4 else 0
def oxSwitchPending (s : State) : Bool := s.ox.switch.isSome

/-- MS of R369. -/
def oxMs (s : State) : Nat := (s.el - s.ox.msBase) * 1000 / 65536 % 2 ^ 32

/-- An Ox fault and an Ox event (R403, R404). -/
def oxFault (s : State) (code : Nat) (clear : Bool) (detail : Nat) : State := fault s 0x0C code clear detail

/-! ### Forces (R396) -/

/-- The forced words: address, mask, value. While STOPPED or LOCKED, only those of data memory and the input image (R393). -/
def forceList (s : State) : List (Nat × Nat × Nat) :=
  let syms := imgSyms (oxImg s)
  let l := s.ox.forces.filterMap fun x => x.bind fun f => (syms.find? fun y => y.id = f.symbol).map fun y => (y.addr + f.word, f.mask, f.value)
  if oxState s = 2 then l else l.filter fun x => decide (x.1 < 0x8100)

/-- Apply forces to the words they name. -/
def applyForces (s : State) : State :=
  let l := forceList s
  oxUpd s fun o => { o with mem := l.foldl (fun m x => oxStore l m x.1 (m.get x.1 0)) o.mem }

/-- Store words from an address on. -/
def oxStoreAll (l : List (Nat × Nat × Nat)) (m : SMap Nat) (a : Nat) (ws : List Nat) : SMap Nat :=
  ws.zipIdx.foldl (fun m x => oxStore l m (a + x.2) x.1) m

/-- The mapped words that an enabled Weir loop drives (R377). -/
def drivenWords (s : State) : List Nat :=
  s.weir.loops.filterMap fun x =>
    match x.2.desc with
    | some d => if x.2.en ∧ d.dest = 5 then some (0x8200 + d.destIndex) else none
    | none => none

/-! ### What the committed words drive (R368, R374) -/

/-- New committed words or another program: the pads, and the folding of the feeders whose contactor Ox reports open (R27, R296,
R374). -/
def oxDrive (s : State) : State :=
  (List.range 6).foldl (fun t f => foldCause t f 2 (contactorOpen t f)) (drivePwm (drivePad s .dout (s.ox.com.get 0x8100 0 % 65536)))

/-- The words that OUTPUT commits. -/
def oxCommit (s : State) : State := oxUpd s fun o => { o with com := o.mem.filter fun x => oxCommitted x.1 }

/-- Safe values over words: listed words take theirs, other output image words 0, and the rest stays (R392). -/
def safeOver (s : State) (m : SMap Nat) : SMap Nat :=
  (imgSafe (oxImg s)).foldl (fun m x => m.set x.1 x.2 0) (m.filter fun x => decide (oxArea x.1 ≠ 2))

/-- Output words back to their committed values, then safe values (R392, R393). -/
def oxSafe (s : State) : State :=
  let com := safeOver s s.ox.com
  let rest : SMap Nat := s.ox.mem.filter fun x => !oxCommitted x.1
  let mem := com.foldl (fun m x => m.set x.1 x.2 0) rest
  oxDrive (oxUpd s fun o => { o with com := com, mem := mem })

/-! ### Retained data (R394, R395) -/

/-- Words of the retained ranges, in order. -/
def retAddrs (b : List Byte) : List Nat := (imgRet b).flatMap fun r => (List.range r.2).map fun i => r.1 + i

/-- Commit retained words: the slot of the lower SEQ takes them. -/
def retCommit (s : State) (from' : SMap Nat) : State :=
  let words := (retAddrs (oxImg s)).map fun a => from'.get a 0
  let top := s.ox.slots.foldl (fun m x => max m x.seq) 0
  let new : RetSlot := { seq := top + 1, prog := oxProgId s, ok := true, words := words }
  oxUpd s fun o => { o with retAt := s.el, slots := match o.slots with
    | [a, b] => if a.seq ≤ b.seq then [new, b] else [a, new]
    | l => l }

/-- Data memory at its INIT values. -/
def initWords (b : List Byte) : SMap Nat :=
  (List.range (imgInitWords b)).foldl (fun m w => m.set w (imgInit b w) 0) []

/-! ### Remote I/O (R387-R390) -/

def rioEnt (s : State) (i : Nat) : RioEnt := s.ox.rio.get i {}
def rioPort (s : State) (p : Nat) : RioPort := s.ox.ports.get p {}
def setPort (s : State) (p : Nat) (x : RioPort) : State := oxUpd s fun o => { o with ports := o.ports.set p x {} }

/-- Entries of a port, in table order. -/
def rioOf (s : State) (p : Nat) : List Nat :=
  ((imgRio (oxImg s)).zipIdx.filter fun x => x.1.port = p).map Prod.snd

def rioRate (s : State) (p : Nat) : Nat :=
  match fieldLE (oxImg s) (72 + p) 1 with | 1 => 1 | 2 => 4 | 3 => 12 | _ => 0

/-- A port is synchronous (R389): Tb in µs times the rate in Mbit/s. -/
def rioSync (s : State) (p : Nat) : Bool :=
  let es := (imgRio (oxImg s)).filter fun e => e.port = p
  let r := rioRate s p
  s.ox.hasProg && decide (es.length ≤ 16 ∧
    (es.map fun e => 10 * (12 + 4 * (e.inW + e.outW)) + 22 * r).sum ≤ fieldLE (oxImg s) 18 2 * r)

/-- An EXCHANGE frame (R387), with the output words last committed. -/
def exchangeFrame (s : State) (p : Nat) (e : RioCfg) : List Byte :=
  let h : List Byte := leBytes 1 0xA3 ++ leBytes 1 (e.addr % 32) ++ leBytes 1 (1 + 4 * e.outW) ++ leBytes 1 (fieldLE (oxImg s) (74 + p) 1) ++
    (List.range e.outW).flatMap fun i => leBytes 4 (s.ox.com.get (0x8100 + e.outO + i) 0)
  h ++ leBytes 2 (crc16 h)

/-- The next EXCHANGE of a port: of this pass, or the first of a new pass where passes run without pause (R389, R393). -/
def rioNext (s : State) (p : Nat) (start : Bool) : State :=
  let q := rioPort s p
  let endless := oxState s = 1 ∨ oxState s = 3 ∨ (oxState s = 2 ∧ !rioSync s p)
  let todo := if q.left.isEmpty ∧ (start ∨ endless) ∧ rioRate s p ≠ 0 then rioOf s p else q.left
  match todo with
  | [] => setPort s p { asked := none, spoilt := false, left := [] }
  | i :: r =>
    match (imgRio (oxImg s))[i]? with
    | some e => sendLine (setPort s p { asked := some i, spoilt := false, left := r }) (rioIdle p) (.rio p (exchangeFrame s p e))
    | none => setPort s p { asked := none, spoilt := false, left := [] }

/-- Ports on which nothing is asked start a pass: those that run without pause, and the synchronous ones at an OUTPUT. -/
def rioKick (s : State) (output : Bool) : State :=
  (List.range 2).foldl (fun s p =>
    if (rioPort s p).asked = none then rioNext s p (output && rioSync s p) else s) s

/-- OX_RIO_OK and the mode of each port as registers. -/
def rioShow (s : State) : State :=
  let ok (n : Nat) : Nat := ((List.range 32).map fun i => b2n (rioEnt s (32 * n + i)).ok * 2 ^ i).sum
  setFlag (setFlag (setFld (setFld s (Reg.OX_RIO_OK_OK 0) (ok 0)) (Reg.OX_RIO_OK_OK 1) (ok 1)) Reg.OX_STAT_RIO0_SYNC (rioSync s 0))
    Reg.OX_STAT_RIO1_SYNC (rioSync s 1)

/-- The DETAIL of RIO_LOST. -/
def rioDetail (i : Nat) (e : RioCfg) : Nat := i + 64 * e.port + 256 * e.addr

def setRio (s : State) (i : Nat) (x : RioEnt) : State := rioShow (oxUpd s fun o => { o with rio := o.rio.set i x {} })

/-- An exchange is good (R390). -/
def rioGood (s : State) (i : Nat) (e : RioCfg) (words : List Nat) : State :=
  let x := rioEnt s i
  let s1 := setRio s i { bad := 0, ok := true, lost := false, words := words }
  if x.lost then oxFault s1 0x8C04 true (rioDetail i e) else s1

/-- An exchange is not good: the third in a row loses the entry (R390). -/
def rioFail (s : State) (i : Nat) (e : RioCfg) : State :=
  let x := rioEnt s i
  let n := min 3 (x.bad + 1)
  if n = 3 ∧ !x.lost then
    oxFault (setErr (setRio s i { x with bad := n, ok := false, lost := true }) Reg.OX_ERR_RIO_LOST) 0x8C04 false (rioDetail i e)
  else setRio s i { x with bad := n }

/-- A frame is the good ANSWER of an entry: its input words (R387, R388). -/
def answerWords (e : RioCfg) (b : List Byte) : Option (List Nat) :=
  let n := 1 + 4 * e.inW
  if b.length = n + 5 ∧ fieldLE b 0 1 = 0xA3 ∧ fieldLE b 1 1 = e.addr + 32 ∧ fieldLE b 2 1 = n ∧
      fieldLE b (n + 3) 2 = crc16 (b.take (n + 3)) then
    some ((List.range e.inW).map fun i => fieldLE b (4 + 4 * i) 4)
  else none

/-- The entry whose answer a port awaits. -/
def rioAsked (s : State) (p : Nat) : Option (Nat × RioCfg) :=
  (rioPort s p).asked.bind fun i => ((imgRio (oxImg s))[i]?).map fun e => (i, e)

/-- A frame arrives on a port while an ANSWER is awaited; a bad one counts in RIO_CRC (R388). -/
def execAnswer (p : Fin 2) (b : List Byte) (s : State) : Host.Outcome State Fault Refusal :=
  .next (
    if domState s 11 ≠ 2 then s
    else match rioAsked s p with
      | none => s
      | some (i, e) =>
        match answerWords e b with
        | some w => rioNext (rioGood s i e w) p false
        | none => setPort (count1 s (Reg.OX_CNT_COUNT 5)) p { rioPort s p with spoilt := true })

/-- No good ANSWER came in time; a missing one counts in RIO_TIMEOUT (R388). -/
def execRioTimeout (p : Fin 2) (s : State) : Host.Outcome State Fault Refusal :=
  .next (
    if domState s 11 ≠ 2 then s
    else match rioAsked s p with
      | none => s
      | some (i, e) =>
        let s1 := if (rioPort s p).spoilt then s else count1 s (Reg.OX_CNT_COUNT 6)
        rioNext (rioFail s1 i e) p false)

/-! ### DALI (R391) -/

def daliAt (s : State) (p : Nat) : DaliPort := s.ox.dali.get p {}
def setDali (s : State) (p : Nat) (x : DaliPort) : State := oxUpd s fun o => { o with dali := o.dali.set p x {} }

/-- The forward frames of a transmit word, most significant byte first: one of 16 or 24 bits, or two of them (R391, log entry 141). -/
def daliFrames (w : Nat) : List (List Byte) :=
  let f := if bit w 24 then beBytes 3 (w % 2 ^ 24) else beBytes 2 (w % 2 ^ 16)
  if bit w 25 then [f, f] else [f]

/-- The transmit word of a port at an OUTPUT. -/
def daliOutput (s : State) (p : Nat) : State :=
  let w := s.ox.com.get (0x8104 + p) 0
  let d := daliAt s p
  let q := bits w 31 28
  if q = d.seq then s
  else if d.busy.isSome then
    setErr (count1 (setDali s p { d with seq := q }) (Reg.OX_CNT_COUNT 7)) Reg.OX_ERR_DALI
  else (daliFrames w).foldl (fun s f => sendLine s (daliIdle p) (.dali p f)) (setDali s p { seq := q, busy := some w, rx := putBits d.rx 11 11 1 })

/-- A request completes. Without ANSWER no backward frame is expected, and none of ANSWERED and NO_ANSWER is set. -/
def execDaliReceive (p : Fin 2) (r : DaliResult) (s : State) : Host.Outcome State Fault Refusal :=
  let d := daliAt s p
  .next (
    if domState s 11 ≠ 2 then s
    else match d.busy with
      | none => s
      | some w =>
        let v := match r with
          | .answered b => if bit w 26 then b.toNat + 2 ^ 8 else 0
          | .quiet => if bit w 26 then 2 ^ 9 else 0
          | .bad => 2 ^ 10
        setDali s p { d with busy := none, rx := v + bits w 31 28 * 2 ^ 28 })

/-! ### INPUT (R367, R373, R377, R395) -/

/-- FEEDER, P_SUM, VMIN, IRES of a feeder whose EN is 1, and CEIL: system input offset and value. A feeder whose EN is 0 shows DEAD
while it is mapped to a remote one (R456; log entry 159). -/
def feederWords (s : State) (f : Nat) : List (Nat × Nat) :=
  let v := (fdrAt s f).vals.getD {}
  let least := match phasesOf s f with
    | [] => 0
    | a :: r => r.foldl (fun m k => b64.min m (v.ph.get k {}).vrms) (v.ph.get a {}).vrms
  let on := flag s (Reg.BAS_FDR_CFG_EN f)
  let z (x : Nat) : Nat := if on then x else 0
  let dead := b2n (flag s (Reg.BAS_FDR_STAT_DEAD f))
  [(8 + f, if !on then (if (s.fed.feederMap.get f none).isSome then dead else 0) else dead + 2 * b2n (flag s (Reg.BAS_FDR_STAT_RC_ALARM f)) +
      4 * b2n (flag s (Reg.BAS_FDR_STAT_FREQ_VALID f))),
   (16 + f, z (b64.to b32 v.pSum)), (24 + f, z (b64.to b32 least)), (32 + f, z (b64.to b32 v.ires)), (40 + f, ceilLevel s f)]

/-- The system inputs (R373). -/
def sysWords (s : State) : List (Nat × Nat) :=
  let t : Int := dtSec s.dt
  let l := localSecs s t
  [(0, dtSec s.dt % 2 ^ 32), (1, dtFrac s.dt),
   (2, ((l % 86400) / 60).toNat + 65536 * dateClass s (localDay s t)),
   (3, b2n (flag s Reg.PWR_STAT_MODE) + 2 * b2n (decide (role s = 0 ∨ role s = 2)) + 4 * b2n (timeOk s) +
      8 * b2n s.ox.firstCycle + 16 * b2n s.ox.switched),
   (4, oxMs s), (5, s.ox.sceneAck)] ++ (List.range 6).flatMap (feederWords s)

/-- The local inputs and the RIO input words: image word and value. -/
def imageWords (s : State) : List (Nat × Nat) :=
  [(0, fld s Reg.PIN_DIN_LEVEL)] ++ (List.range 8).map (fun i => (1 + i, ain s i)) ++
  [(9, (daliAt s 0).rx), (10, (daliAt s 1).rx), (11, fld s (Reg.OX_RIO_OK_OK 0)), (12, fld s (Reg.OX_RIO_OK_OK 1))] ++
  (imgRio (oxImg s)).zipIdx.flatMap fun x => (rioEnt s x.2).words.zipIdx.map fun w => (x.1.inO + w.2, w.1)

/-- The mapped variables that take a Weir value at this INPUT. -/
def mappedWords (s : State) : List (Nat × Nat) :=
  (s.weir.oxw.filterMap fun x => x.2.map fun y => (0x8200 + x.1, y)) ++
  (drivenWords s).filterMap fun a => (destY s 5 (a - 0x8200)).map fun y => (a, y)

/-- Running timers resume from the ET they last stored. -/
def resumeTimers (s : State) (m : SMap Nat) : SMap Nat :=
  ((imgSyms (oxImg s)).filter fun y => y.kind = 1 ∧ y.fb ≤ 2).foldl (fun m y =>
    if bit (m.get (y.addr + 1) 0) 9 then m.set (y.addr + 4) ((oxMs s + word32 - m.get (y.addr + 3) 0 % word32) % word32) 0 else m) m

/-- INPUT: OX_WRITE data, the latched words, forces. -/
def oxInput (s : State) : State :=
  let l := forceList s
  let put (m : SMap Nat) (base : Nat) (ws : List (Nat × Nat)) : SMap Nat := ws.foldl (fun m x => oxStore l m (base + x.1) x.2) m
  let m1 := s.ox.writes.foldl (fun m w => oxStoreAll l m w.1 w.2) s.ox.mem
  let m2 := put (put (put m1 0x8000 (imageWords s)) 0x8300 (sysWords s)) 0 (mappedWords s)
  let m3 := if s.ox.resume then resumeTimers s m2 else m2
  applyForces (oxUpd (weirUpd s fun w => { w with oxw := [] }) fun o => { o with mem := m3, writes := [], resume := false })

/-! ### EXECUTE (R367, R370, R392) -/

/-- IOX cycles that EXECUTE may take: until WD_MS after INPUT began. -/
def oxBudget (s : State) (inUs : Nat) : Nat := (fieldLE (oxImg s) 16 2 * 1000 - inUs) * 96

/-- Run the program once over the latched words. -/
def oxRun (s : State) (inUs : Nat) : Cpu :=
  let e : OxEnv := { img := oxImg s, ms := oxMs s, driven := drivenWords s, forced := forceList s }
  let o := s.ox
  let n := oxBudget s inUs
  oxExecute e n (n + 1) { pc := fieldLE (oxImg s) 20 2, acc := o.acc, rlo := o.rlo, aux := o.aux, x := o.x, mem := o.mem, freeN := s.freeN }

/-- What an EXECUTE leaves: memory, engine registers, counts and errors. -/
def oxAfter (s : State) (c : Cpu) : State :=
  let s1 := oxUpd { s with freeN := c.freeN } fun o => { o with mem := c.mem, acc := c.acc, rlo := c.rlo, aux := c.aux, x := c.x }
  [(2, c.addrN, Reg.OX_ERR_ADDR), (3, c.arithN, Reg.OX_ERR_ARITH), (4, c.mapN, Reg.OX_ERR_MAP_CONFLICT)].foldl (fun s x =>
    if x.2.1 = 0 then s else setErr (countBy s (Reg.OX_CNT_COUNT x.1) x.2.1) x.2.2) s1

/-- The engine is RUNNING and its WAIT is over. -/
def oxReady (s : State) : Bool :=
  decide (oxState s = 2 ∧ domState s 11 = 2) &&
  (s.ox.inputAt = 0 || passedUs s (s.ox.inputAt - 1) (max (fieldLE (oxImg s) 18 2) s.ox.cycleUs)) &&
  (List.range 2).all fun p => !rioSync s p || ((rioPort s p).asked.isNone && (rioPort s p).left.isEmpty)

/-- INPUT begins. -/
def oxBegin (s : State) (conv : List Word) : State :=
  let s1 := setAin s conv
  oxInput (oxUpd s1 fun o => { o with inputAt := s.el + 1 })

/-! ### The pair (R401) -/

/-- The words that the active module mirrors, as they are now. -/
def mirWords (s : State) : SMap Nat :=
  let dr := drivenWords s
  s.ox.mem.filter fun x => decide (x.1 < 0x8000) || (oxCommitted x.1 && !dr.contains x.1)

/-- Runs of consecutive words: ADDR, COUNT and words, each big-endian. -/
def wordRuns : List (Nat × Nat) → List (Nat × List Nat)
  | [] => []
  | (a, v) :: r =>
    match wordRuns r with
    | (b, l) :: t => if b = a + 1 then (a, v :: l) :: t else (a, [v]) :: (b, l) :: t
    | [] => [(a, [v])]

def runBytes (l : List (Nat × Nat)) : List Byte :=
  ((wordRuns l).flatMap fun x => beBytes 2 x.1 ++ beBytes 2 x.2.length ++ x.2.flatMap (beBytes 4)) ++ beBytes 2 0xFFFF

def forceBytes (s : State) : List Byte :=
  (List.range 64).flatMap fun i =>
    match (s.ox.forces.getD i none) with
    | some f => beBytes 4 f.symbol ++ beBytes 4 f.word ++ beBytes 4 f.mask ++ beBytes 4 f.value
    | none => beBytes 16 0

/-- The body of an OX message with some words (R446). -/
def oxBody (s : State) (words : List (Nat × Nat)) (withForces : Bool) : List Byte :=
  beBytes 1 (oxState s) ++ beBytes 1 (b2n withForces) ++ [0, 0] ++ runBytes words ++ (if withForces then forceBytes s else [])

/-- Addresses of words that differ from what the partner was sent, in order. -/
def oxDiff (s : State) : List Nat :=
  let now := mirWords s
  let keys := (now.keys ++ (s.ox.mirrored.keys.filter fun k => !now.keys.contains k)).sortBy fun a b => decide (a ≤ b)
  keys.filter fun a => now.get a 0 ≠ s.ox.mirrored.get a 0

/-- Send words, and the force table when it has changed. -/
def oxSend (s : State) (sent : List Nat) : State :=
  let now := mirWords s
  oxUpd (mirSend s 0x42 (oxBody s (sent.map fun a => (a, now.get a 0)) s.ox.mirForces)) fun o => { o with
    mirForces := false, mirrored := sent.foldl (fun m a => m.set a (now.get a 0) 0) o.mirrored }

/-- Every word and force that the partner lacks is sent, 8 KiB to a message (R441). -/
def oxFlush (s : State) : State :=
  let diff := oxDiff s
  if diff.isEmpty && !s.ox.mirForces then s
  else (List.range ((diff.length + 2047) / 2048 + b2n diff.isEmpty)).foldl (fun s i => oxSend s ((diff.drop (2048 * i)).take 2048)) s

/-- The mirror delta at OUTPUT, and when the engine stops after it: at most 8 KiB of changed words, in address order (log entry 140). -/
def oxMirror (s : State) : State :=
  if role s ≠ 2 then s
  else
    let diff := oxDiff s
    let late := diff.length - 2048
    let s2 := oxSend s (diff.take 2048)
    if late = 0 then s2 else setErr (countBy s2 (Reg.OX_CNT_COUNT 8) late) Reg.OX_ERR_MIRROR_LAG

/-! ### Stop and lockout (R392-R394, R404) -/

def stoppedPayload (cause index us : Nat) (sw : Bool) : List Byte :=
  leBytes 1 cause ++ leBytes 1 (b2n sw) ++ [0, 0] ++ leBytes 2 index ++ [0, 0] ++ leBytes 4 us

/-- Show the idle bank, the pending switch, the forces and the program. -/
def oxShow (s : State) : State :=
  setFld (setFld (setFlag (setFld s Reg.OX_STAT_IDLE (oxIdle s).status) Reg.OX_STAT_SWITCH_PEND (oxSwitchPending s))
    Reg.OX_FORCES_COUNT (s.ox.forces.filter Option.isSome).length) Reg.OX_PROG_PROG_ID (oxProgId s)

/-- Complete the OX_STOPs that waited. -/
def oxStopsDone (s : State) : State :=
  (s.ox.stops).foldl (fun s q => completeSeq s q ansDone) (oxUpd s fun o => { o with stops := [] })

/-- The engine stops: safe values, retained data, and passes that go on. -/
def oxHalt (s : State) (state : Nat) : State :=
  rioKick (retCommit (oxSafe (setFld s Reg.OX_STAT_STATE state)) s.ox.mem) false

/-- OX_STOP takes effect at the end of OUTPUT, `sw` that of the switch cycle; which instruction its record names is not stated
(log entry 91). -/
def oxStopNow (s : State) (sw : Bool) : State :=
  let s1 := oxMirror (oxHalt s 1)
  oxStopsDone (emit (drawFree s1) 0x0C00 (stoppedPayload 0 (freeVal s1 16) s.ox.cycleUs sw))

/-- The watchdog of R392 and R400: the state is that after INPUT, `c` the aborted EXECUTE. -/
def oxOverrun (s : State) (c : Cpu) : State :=
  let us := fieldLE (oxImg s) 16 2 * 1000
  let sw := s.ox.switchCycle
  let n := min 3 (fld s Reg.OX_STAT_OVERRUNS + 1)
  let s1 := oxMirror (oxHalt (oxAfter s c) (if n = 3 then 3 else 1))
  let s2 := setErr (count1 (setFld s1 Reg.OX_STAT_OVERRUNS n) (Reg.OX_CNT_COUNT 1)) Reg.OX_ERR_OVERRUN
  let s3 := oxFault s2 0x8C01 false (c.pc % 32768 + 65536 * n + 2 ^ 31 * b2n sw)
  let s4 := emit s3 0x0C00 (stoppedPayload 1 c.pc us sw)
  let s5 := if n = 3 then emit (oxFault s4 0x8C02 false 0) 0x0C00 (stoppedPayload 2 c.pc us sw) else s4
  let s6 := oxStopsDone (oxUpd s5 fun o => { o with switchCycle := false, switched := false, switch := none })
  oxShow (match s.ox.switch with | some q => completeSeq s6 q (ansBadState 0x000B) | none => s6)

/-- EXECUTE ran past WD_MS. -/
def execWdogOverrun (conv : List Word) (inUs : Fin 31) (s : State) : Host.Outcome State Fault Refusal :=
  let s1 := oxBegin s conv
  let c := oxRun s1 inUs
  .next (if oxReady s && !c.done then oxOverrun s1 c else s)

/-! ### Online change (R397-R399) -/

/-- Data memory for the new program: its words, and the symbols carried and initialised. -/
def carryOver (old new : List Byte) (mem : SMap Nat) : SMap Nat × Nat × Nat :=
  let olds := imgSyms old
  ((imgSyms new).filter fun y => y.kind < 2).foldl (fun (a : SMap Nat × Nat × Nat) y =>
    match olds.find? fun o => o.id = y.id with
    | some o =>
      if o.kind = y.kind ∧ o.fb = y.fb then
        ((List.range (min o.words y.words)).foldl (fun m i => m.set (y.addr + i) (mem.get (o.addr + i) 0) 0) a.1, a.2.1 + 1, a.2.2)
      else (a.1, a.2.1, a.2.2 + 1)
    | none => (a.1, a.2.1, a.2.2 + 1)) (initWords new, 0, 0)

/-- A force survives the switch. -/
def forceKept (old new : List Byte) (f : Force) : Bool :=
  match (imgSyms old).find? (fun y => y.id = f.symbol), (imgSyms new).find? (fun y => y.id = f.symbol) with
  | some o, some n => decide (o.kind = n.kind ∧ f.word < n.words)
  | _, _ => false

/-- RIO entries with the same PORT, ADDR and word counts keep what they hold. -/
def rioKeep (old new : List Byte) (m : SMap RioEnt) : SMap RioEnt :=
  let olds := (imgRio old).zipIdx
  (imgRio new).zipIdx.foldl (fun r x =>
    match olds.find? fun o => decide (o.1.port = x.1.port ∧ o.1.addr = x.1.addr ∧ o.1.inW = x.1.inW ∧ o.1.outW = x.1.outW) with
    | some o => r.set x.2 (m.get o.2 {}) {}
    | none => r) []

/-- The switch: the state after it, and RESULT. -/
def oxSwitchNow (s : State) : State × Nat :=
  let old := oxImg s
  let bank := 1 - oxBank s
  let new := (s.ox.banks.get bank {}).bytes
  let (data, carried, initd) := carryOver old new s.ox.mem
  let gone := s.ox.forces.filterMap fun x => x.bind fun f => if forceKept old new f then none else some f.symbol
  let rio := rioKeep old new s.ox.rio
  let running := oxState s = 2
  let covered := (imgRio new).zipIdx.flatMap fun x => (rio.get x.2 {}).words.zipIdx.map fun w => (0x8000 + x.1.inO + w.2, w.1)
  let kept := s.ox.mem.filter fun x => decide (0x8000 ≤ x.1) && !(decide (0x8010 ≤ x.1 ∧ x.1 < 0x8100))
  let s1 := oxUpd (setFld s Reg.OX_STAT_BANK bank) fun o => { o with
    hasProg := true
    mem := covered.foldl (fun m x => m.set x.1 x.2 0) (data ++ kept)
    forces := o.forces.map fun x => x.bind fun f => if forceKept old new f then some f else none
    mirForces := true, rio := rio, ports := [], switch := none, firstCycle := true, switched := true, switchCycle := true }
  let s2 := applyForces (if running then s1 else setFld s1 Reg.OX_STAT_STATE 1)
  let safe (o : OxSt) : OxSt := if running then o else { o with com := safeOver s2 o.com, mem := safeOver s2 o.mem }
  let s3 := ckWrite (rioShow (oxDrive (oxUpd s2 fun o => { safe o with kept := some o.mem })))
  let s4 := gone.foldl (fun s y => oxFault s 0x8C03 false y) (oxShow s3)
  let s5 := emit s4 0x0C01 (leBytes 1 bank ++ [0, 0, 0] ++ leBytes 4 (oxProgId s4) ++ leBytes 2 carried ++ leBytes 2 initd ++
    leBytes 1 gone.length)
  (rioKick (if running then s5 else oxMirror s5) running, carried % 65536 + 65536 * (initd % 65536) + 2 ^ 32 * gone.length)

/-! ### OUTPUT (R367, R375, R376) -/

/-- A scene request (R375): resolved at once, its status is shown from the next INPUT on. -/
def sceneOutput (s : State) : State :=
  let w := s.ox.com.get 0x8341 0
  let q := bits w 31 16
  if q = s.ox.sceneSeq then s
  else
    let n := w % 256
    let (s1, st) :=
      if bit w 8 then (if sceneHeld s n then (releaseScene s n, 0x00) else (s, 0x12))
      else if (s.street.scenes.get n []).isEmpty then (s, 0x12)
      else ((recallScene s n 0 0 { seq := 0, sq := 0, tag := 0 }).1, 0x00)
    oxUpd s1 fun o => { o with sceneSeq := q, sceneAck := q * 65536 + st }

/-- OTHER_MW of the feeders whose OTHER_EN is 1 (R376). -/
def otherOutput (s : State) : State :=
  (List.range 6).foldl (fun s f =>
    if bit (s.ox.com.get 0x8348 0) f then setFld s (Reg.BAS_FDR_OTHER_OTHER_MW f) (s.ox.com.get (0x8342 + f) 0) else s) s

/-- OUTPUT, with what waits for its end. -/
def oxOutput (s0 : State) (us : Nat) : State :=
  let s := applyForces s0
  let s1 := oxDrive (oxCommit s)
  let s2 := rioKick (daliOutput (daliOutput s1 0) 1) true
  let s3 := sceneOutput (otherOutput s2)
  let s4 := count1 (setFld s3 Reg.OX_CYCLE_LAST_US us) (Reg.OX_CNT_COUNT 0)
  let s5 := oxMirror (setFld s4 Reg.OX_CYCLE_MAX_US (max us (fld s4 Reg.OX_CYCLE_MAX_US)))
  let due := s.ox.switchCycle || passedMs s s.ox.retAt 100
  let s6 := if due then retCommit s5 s5.ox.mem else s5
  let s7 := oxUpd s6 fun o => { o with snap := o.mem, kept := some o.mem, cycleUs := us, firstCycle := false, switched := false, switchCycle := false }
  let s8 := if s7.ox.stops.isEmpty then s7 else oxStopNow s7 s.ox.switchCycle
  match s8.ox.switch with
  | some q => let (t, r) := oxSwitchNow s8; completeConfigSeq t q (ansDone r)
  | none => s8

/-- One cycle that ends in time. -/
def execOxCycle (conv : List Word) (inUs outUs : Fin 31) (s : State) : Host.Outcome State Fault Refusal :=
  let s1 := oxBegin s conv
  let c := oxRun s1 inUs
  .next (if oxReady s && c.done then oxOutput (oxAfter s1 c) (inUs + outUs + c.used / 96) else s)

/-! ### Start-up and take-over (R393, R395, R401, R405) -/

/-- The engine starts from STOPPED. -/
def oxStart (s : State) : State :=
  oxUpd (setFld s Reg.OX_STAT_STATE 2) fun o => { o with firstCycle := true, inputAt := 0, snap := o.mem }

/-- Restore retained data: RET_RESTORE, the words and SEQ. -/
def retRestore (s : State) : State :=
  let b := oxImg s
  let ok (x : RetSlot) : Bool := x.ok && decide (x.prog = oxProgId s)
  let byAge := s.ox.slots.sortBy fun x y => decide (y.seq ≤ x.seq)
  let (out, slot) := match byAge with
    | n :: r => if ok n then (0, some n) else match r.find? ok with | some o => (1, some o) | none => (2, none)
    | [] => (2, none)
  let mem := match slot with
    | some x => ((retAddrs b).zip x.words).foldl (fun m y => m.set y.1 y.2 0) (initWords b)
    | none => initWords b
  let s1 := oxUpd (setFld s Reg.OX_STAT_RET_RESTORE out) fun o => { o with mem := mem, kept := some mem }
  let s2 := if out = 1 then setErr s1 Reg.OX_ERR_RET_FALLBACK else if out = 2 then setErr s1 Reg.OX_ERR_RET_LOST else s1
  emit s2 0x0C02 (leBytes 1 out ++ [0, 0, 0] ++ leBytes 4 (oxProgId s) ++ leBytes 4 ((slot.map RetSlot.seq).getD 0))

/-- Ox at a MOD reset: banks, the active one and the FRAM slots stay (R405). The CONTACTOR word is 0 until the first OUTPUT unless the safe
table lists it, which the spec leaves open (R27; DESIGN CHOICE, log entry 142). -/
def oxReset (s : State) (bank : Nat) : State :=
  let o := s.ox
  setFld (oxUpd s fun _ => { ({} : OxSt) with banks := o.banks, hasProg := o.hasProg, slots := o.slots, msBase := s.el, retAt := s.el,
                                              resume := true }) Reg.OX_STAT_BANK bank

/-- The radio step of start-up. -/
def oxRestore (s : State) : State :=
  if s.ox.hasProg then
    let s1 := oxSafe (retRestore s)
    let s2 := rioShow (oxShow s1)
    if role s = 0 ∨ role s = 2 then
      rioKick (if flag s Reg.OX_CTRL_AUTOSTART then oxStart s2 else setFld s2 Reg.OX_STAT_STATE 1) false
    else setFld s2 Reg.OX_STAT_STATE 4
  else rioShow (oxShow (if role s = 0 ∨ role s = 2 then s else setFld s Reg.OX_STAT_STATE 4))

/-- On becoming active: the mirrored state, or that of a start-up while nothing was mirrored. The sequence fields that the last OUTPUT
left have been carried out (R375, R391). -/
def oxTakeover (s : State) : State :=
  if oxState s ≠ 4 ∨ domState s 11 ≠ 2 then s
  else if !s.ox.hasProg then setFld s Reg.OX_STAT_STATE 0
  else
    let m := if s.ox.mirState = 1 ∨ s.ox.mirState = 2 ∨ s.ox.mirState = 3 then s.ox.mirState
      else if flag s Reg.OX_CTRL_AUTOSTART then 2 else 1
    let s1 := oxUpd s fun o => { o with
      resume := true, sceneSeq := bits (o.com.get 0x8341 0) 31 16
      dali := (List.range 2).foldl (fun d p => d.upd p {} fun x => { x with seq := bits (o.com.get (0x8104 + p) 0) 31 28 }) o.dali }
    rioKick (oxDrive (rioShow (oxShow (if m = 2 then oxStart s1 else setFld s1 Reg.OX_STAT_STATE m)))) false

/-- A module that becomes STANDBY or FENCED executes nothing; a stop that waits is done, a switch that waits does not happen. -/
def oxDemote (s : State) : State :=
  if domState s 11 ≠ 2 then s
  else
    let s1 := oxStopsDone s
    let s2 := oxUpd (setFld s1 Reg.OX_STAT_STATE 4) fun o => { o with switch := none, mirState := oxState s, ports := [] }
    oxShow (match s.ox.switch with | some q => completeSeq s2 q (ansBadState 0x000B) | none => s2)

/-- IOX is ON again after RET: Ox follows a change of role that came meanwhile (R447, R483). -/
def oxFollowRole (s : State) : State :=
  if role s = 0 ∨ role s = 2 then oxTakeover s else if oxState s = 4 then s else oxDemote s

/-! ### Opcodes (R402) -/

def setBank (s : State) (n : Nat) (b : OxBank) : State := oxShow (oxUpd s fun o => { o with banks := o.banks.set n b {} })

def bodyOxLoad (s : State) (c : Cmd) : Work := do
  let o := c.op 20 4
  let n := c.bufLen 0
  checkOps (opChks c [(20, 4)] [(0, 0)] ++
    [rangeChk (decide (o % 4 ≠ 0 ∨ 131072 < o + n)) 20, rangeChk (decide (n % 4 ≠ 0)) 48])
  let b ← readBuf s c 0
  stopIf (oxSwitchPending s) (ansBadState 0x0001)
  let old := (oxIdle s).bytes
  let head := padTo o old
  pure (setBank s (1 - oxBank s) { bytes := head ++ b ++ old.drop (o + n), status := 1 }, some ansDone)

def execOxLoad (sq : Fin 16) (s : State) : Host.Outcome State Fault Refusal := .next (runRing s sq 0x0C00 bodyOxLoad)

/-- Checks 1 and 2 of R385: the image fits and its CRC holds; its signature. -/
def imgIntact (b : List Byte) : Bool :=
  decide (imgLen b ≤ 131072 ∧ imgLen b ≤ b.length) &&
    decide (fieldLE b 80 4 = crc32c (b.take 80 ++ (b.take (imgBodyEnd b)).drop 84))

def bodyOxValidate (s : State) (c : Cmd) : Work := do
  checkOps (opChks c [] [])
  stopIf (oxSwitchPending s) (ansBadState 0x0001)
  stopIf (decide ((oxIdle s).status = 0)) (ansBadState 0x0003)
  let b := (oxIdle s).bytes
  stopIf (!imgIntact b) (ansIntegrity 0x0001)
  let (s1, ok) :=
    if imgSigned b then
      verifyUnder s (fld s Reg.OX_CTRL_SIG_SLOT) 8 (b.take (imgBodyEnd b)) (sliceB b (imgBodyEnd b) 96)
    else (s, !flag s Reg.OX_CTRL_SIG_REQ)
  if !ok then .error (.ansIn s1 (ansBadSig 0x0001))
  else match imgBad b (oxProgId s) with
    | some (d, r) => .error (.ansIn s1 { ansIntegrity d with result := r })
    | none => pure (setBank s1 (1 - oxBank s) { bytes := b, status := 2 }, some ansDone)

def execOxValidate (sq : Fin 16) (s : State) : Host.Outcome State Fault Refusal := .next (runRing s sq 0x0C01 bodyOxValidate)

def bodyOxSwitch (s : State) (c : Cmd) : Work := do
  checkOps (opChks c [] [])
  stopIf (decide ((oxIdle s).status ≠ 2)) (ansBadState 0x0004)
  stopIf (oxSwitchPending s) (ansBadState 0x0001)
  stopIf (decide (oxState s = 3)) (ansBadState 0x0005)
  if oxState s = 2 then pure (oxShow (oxUpd s fun o => { o with switch := some c.seq }), none)
  else
    let (t, r) := oxSwitchNow s
    pure (causedBy s t c.seq, some (ansDone r))

def execOxSwitch (sq : Fin 16) (s : State) : Host.Outcome State Fault Refusal := .next (runRing s sq 0x0C02 bodyOxSwitch)

def bodyOxStart (s : State) (c : Cmd) : Work := do
  checkOps (opChks c [] [])
  stopIf (decide (oxState s = 2)) (ansBadState 0x0006)
  stopIf (decide (oxState s = 3)) (ansBadState 0x0005)
  stopIf (!s.ox.hasProg) (ansBadState 0x0007)
  pure (oxStart s, some ansDone)

def execOxStart (sq : Fin 16) (s : State) : Host.Outcome State Fault Refusal := .next (runRing s sq 0x0C03 bodyOxStart)

def bodyOxStop (s : State) (c : Cmd) : Work := do
  checkOps (opChks c [] [])
  stopIf (decide (oxState s ≠ 2)) (ansBadState 0x0008)
  pure (oxUpd s fun o => { o with stops := o.stops ++ [c.seq] }, none)

def execOxStop (sq : Fin 16) (s : State) : Host.Outcome State Fault Refusal := .next (runRing s sq 0x0C04 bodyOxStop)

/-- The force table as 64 entries. -/
def forceSlots (s : State) : List (Option Force) := (List.range 64).map fun i => s.ox.forces.getD i none

/-- A force slot holds a force of this symbol and word, or `all` asks for every force. -/
def forceIs (all : Bool) (symbol word : Nat) (x : Option Force) : Bool :=
  match x with
  | some g => all || decide (g.symbol = symbol ∧ g.word = word)
  | none => false

/-- The slot that a new force takes: that of the same word, else the first free one. -/
def forceSlot (l : List (Option Force)) (f : Force) : Option Nat :=
  (l.findIdx? (forceIs false f.symbol f.word)) <|> (l.findIdx? Option.isNone)

def bodyOxForceSet (s : State) (c : Cmd) : Work := do
  let f : Force := { symbol := c.op 16 4, word := c.op 20 2, mask := c.op 24 4, value := c.op 28 4 }
  checkOps (opChks c [(16, 6), (24, 8)] [])
  stopIf (!(imgSyms (oxImg s)).any fun y => decide (y.id = f.symbol ∧ f.word < y.words ∧ y.kind ≠ 1)) (ansBadState 0x0009)
  let l := forceSlots s
  match forceSlot l f with
  | none => .error (.ans (ansNoSpace 0x0001))
  | some i =>
    let s1 := oxShow (oxUpd s fun o => { o with forces := l.set i (some f), mirForces := true })
    pure (if oxState s = 2 then s1 else applyForces s1, some (ansDone i))

def execOxForceSet (sq : Fin 16) (s : State) : Host.Outcome State Fault Refusal := .next (runRing s sq 0x0C05 bodyOxForceSet)

def bodyOxForceClear (s : State) (c : Cmd) : Work := do
  checkOps (opChks c [(16, 7)] [] ++ [rsvChk (decide (1 < c.op 22 1)) 22])
  let all := bit (c.op 22 1) 0
  let hit := forceIs all (c.op 16 4) (c.op 20 2)
  let n := (s.ox.forces.filter hit).length
  stopIf (decide (n = 0) && !all) (ansBadState 0x000A)
  pure (oxShow (oxUpd s fun o => { o with forces := o.forces.map fun x => if hit x then none else x, mirForces := true }),
    some (ansDone n))

def execOxForceClear (sq : Fin 16) (s : State) : Host.Outcome State Fault Refusal := .next (runRing s sq 0x0C06 bodyOxForceClear)

/-- The range of OX_READ and OX_WRITE: its checks. -/
def oxRangeChks (c : Cmd) (write : Bool) : List Chk :=
  let a := c.op 16 2
  let n := c.op 20 2
  opChks c [(16, 2), (20, 2)] [(b2n (!write), 4 * n)] ++
    [rangeChk (decide (oxArea a = 6) || (write && decide (oxArea a = 1 ∨ oxArea a = 4))) 16,
     rangeChk (decide (n < 1 ∨ 16384 < n) || decide (oxArea a ≠ 6 ∧ oxAreaEnd a < a + n)) 20]

def bodyOxRead (s : State) (c : Cmd) : Work := do
  let a := c.op 16 2
  let n := c.op 20 2
  checkOps (oxRangeChks c false)
  let m := if oxState s = 2 then s.ox.snap else s.ox.mem
  let s1 ← writeBuf s c 0 ((List.range n).flatMap fun i => leBytes 4 (m.get (a + i) 0))
  pure (s1, some (ansDone n))

def execOxRead (sq : Fin 16) (s : State) : Host.Outcome State Fault Refusal := .next (runRing s sq 0x0C07 bodyOxRead)

def bodyOxWrite (s : State) (c : Cmd) : Work := do
  let a := c.op 16 2
  let n := c.op 20 2
  checkOps (oxRangeChks c true)
  let b ← readBuf s c 0
  stopIf ((drivenWords s).any fun w => decide (a ≤ w ∧ w < a + n)) (ansBadState 0x000C)
  stopIf (decide (oxArea a = 2 ∧ oxState s ≠ 2)) (ansBadState 0x000D)
  let ws := (List.range n).map fun i => fieldLE b (4 * i) 4
  pure (oxUpd s fun o =>
    if oxState s = 2 then { o with writes := o.writes ++ [(a, ws)] }
    else { o with mem := oxStoreAll (forceList s) o.mem a ws }, some (ansDone n))

def execOxWrite (sq : Fin 16) (s : State) : Host.Outcome State Fault Refusal := .next (runRing s sq 0x0C08 bodyOxWrite)

end Sys2Proof.Machine
end

