-- ==== Sys2Proof/Machine/Updates.lean ====
section
/-! DEFINITION. The update engine: slots, verification, scheduling of an activation, and endpoint campaigns (chapter 11). What a
boot does stands with the resets. -/

namespace Sys2Proof.Machine

def updUpd (s : State) (f : UpdSt → UpdSt) : State := { s with upd := f s.upd }
def slotOf (s : State) (n : Nat) : UpdSlot := s.upd.slots.get n {}
def campAt (s : State) (k : Nat) : Campaign := s.upd.camps.get k {}

/-- Show the slots, the schedule and the boot in the registers (R338). -/
def updShow (s : State) : State :=
  let s1 := (List.range 18).foldl (fun s n =>
    setFld (setFld (setFld s (Reg.UPD_SLOT_STATE n) (slotOf s n).state) (Reg.UPD_SLOT_PIECES n) (slotOf s n).pieces.length)
      (Reg.UPD_SLOT_CSTATE n) (if n < 2 then 0 else (campAt s (n - 2)).state)) s
  let (pend, slot, dt) := match s.upd.act with | some a => (true, a.slot, a.actDt) | none => (false, 0, 0)
  let s2 := setFlag (setFld (setFld (setFld s1 Reg.UPD_ACT_LO_SEC (dtSec dt % 2 ^ 32)) Reg.UPD_ACT_HI_SEC (dtSec dt / 2 ^ 32))
    Reg.UPD_ACT_HI_SLOT slot) Reg.UPD_ACT_HI_PENDING pend
  let s3 := setFlag (setFld (setFld s2 Reg.UPD_SVN_FLOOR s.upd.floor) Reg.UPD_STAT_RUN_SLOT s.upd.runSlot) Reg.UPD_STAT_TRIAL
    (s.upd.boot.any BootRec.booted)
  setFlag (setFlag s3 Reg.UPD_STAT_RESCUE s.upd.rescue) Reg.UPD_STAT_VERIFYING (!s.upd.verifying.isEmpty)

def setUSlot (s : State) (n : Nat) (x : UpdSlot) : State := updShow (updUpd s fun u => { u with slots := u.slots.set n x {} })
def setCamp (s : State) (k : Nat) (c : Campaign) : State := updShow (updUpd s fun u => { u with camps := u.camps.set k c {} })

/-- A SLOT operand names a slot (R314): its number here. -/
def slotNum (v : Nat) : Option Nat := if v < 2 then some v else if 16 ≤ v ∧ v < 32 then some (v - 14) else none
/-- The SLOT value of a slot. -/
def slotVal (n : Nat) : Nat := if n < 2 then n else n + 14
def slotSize (n : Nat) : Nat := if n < 2 then 50331648 else 4194304
def slotChk (c : Cmd) : Chk := rangeChk (slotNum (c.op 16 1)).isNone 16
def epSlotChk (c : Cmd) : Chk := rangeChk (decide (c.op 16 1 < 16 ∨ 31 < c.op 16 1)) 16

/-! ### Images (R315, R316) -/

def UpdSlot.numPieces (x : UpdSlot) : Nat := (x.total + 4095) / 4096
def UpdSlot.bytes (x : UpdSlot) : List Byte := (List.range x.numPieces).flatMap fun i => padTo 4096 (x.pieces.get i [])
def UpdSlot.svn (x : UpdSlot) : Nat := fieldLE x.manifest 16 4
def UpdSlot.imageId (x : UpdSlot) : Nat := if x.delivered then fieldLE x.manifest 8 4 else x.image
def UpdSlot.full (x : UpdSlot) : Bool := decide (0 < x.total ∧ x.pieces.length = x.numPieces)

/-- The first check of R316. -/
def manifestOk (m : List Byte) (n total : Nat) : Bool :=
  let f := fieldLE m
  let body := f 20 4
  let zero (o k : Nat) : Bool := (firstNonZero m o k).isNone
  decide (f 0 4 = 0x464D5244 ∧ f 4 1 = 1 ∧ f 5 1 = (if n < 2 then 0 else 1) ∧ f 8 4 ≠ 0 ∧ 1 ≤ body ∧
    body ≤ (if n < 2 then 50331136 else 4193792) ∧ 512 + body ≤ total) &&
  zero 6 2 && zero 87 1 && zero 88 296 && zero 480 32 &&
  (if n < 2 then decide (f 24 2 = 0x2640) && zero 26 6
   else zero 24 2 && decide (f 26 1 < 16 ∧ f 27 1 % 2 = 0 ∧ f 27 1 < 16))

/-- The key slot of a slot's images. -/
def keySlotOf (s : State) (n : Nat) : Nat := fld s (if n < 2 then Reg.UPD_CFG_MOD_KEY_SLOT else Reg.UPD_CFG_EP_KEY_SLOT)

/-- The key of a slot's images as a verification reads it when it starts (R412, R413). -/
def imageKey (s : State) (n : Nat) : Option (List Byte) := internalUse s (keySlotOf s n) 4 4 11

/-- A verification has used its key, or was refused it. -/
def keyUsed (s : State) (n : Nat) (key : Option (List Byte)) : State := if key.isSome then remask s (keySlotOf s n) else useRefused s

/-- Verify a loaded image by R316: the failure with its outcome code. -/
def checkLoaded (s : State) (n : Nat) (x : UpdSlot) (key : Option (List Byte)) : State × Option (Answer × Nat) :=
  let b := x.bytes
  let m := b.take 512
  if !manifestOk m n x.total then (s, some (ansIntegrity 0x0001, 1))
  else if (b.drop x.total).any (fun y => y ≠ 0) then (s, some (ansIntegrity 0x0003, 1))
  else
    let s1 := keyUsed s n key
    if !key.any fun k => ecdsaVerify k (sha384 (m.take 384)) (sliceB m 384 96) then (s1, some (ansBadSig 0x0001, 3))
    else if sha384 ((b.drop 512).take (fieldLE m 20 4)) ≠ sliceB m 32 48 then (s1, some (ansIntegrity 0x0002, 2))
    else if n < 2 ∧ x.svn < s.upd.floor then (s1, some (ansStale 0x0001, 4))
    else (s1, none)

/-- Verify the image that the part was delivered with (log entry 95); a refused use of the key verifies nothing (R412). -/
def checkDelivered (s : State) (n : Nat) (x : UpdSlot) (key : Option (List Byte)) : State × Option (Answer × Nat) :=
  let s1 := keyUsed s n key
  if !key.any Config.deliveredVerifies then (s1, some (ansBadSig 0x0001, 3))
  else if x.svn < s.upd.floor then (s1, some (ansStale 0x0001, 4))
  else (s1, none)

def checkImage (s : State) (n : Nat) (key : Option (List Byte)) : State × Option (Answer × Nat) :=
  let x := slotOf s n
  if x.delivered then checkDelivered s n x key else checkLoaded s n x key

/-- An UPD_AUDIT record (R337). -/
def updAudit (s : State) (action n : Nat) (counts : List Nat) : State :=
  let x := slotOf s n
  record s 2 16 0x0A (leBytes 1 action ++ leBytes 1 (slotVal n) ++ [0, 0] ++ leBytes 4 x.imageId ++ x.version ++ leBytes 4 x.svn ++
    padTo 12 (counts.flatMap (leBytes 4)))

/-! ### Loading (R317-R320) -/

/-- The campaign of an endpoint slot is SENDING or ACTIVATING. -/
def campBusy (s : State) (n : Nat) : Bool := decide (2 ≤ n ∧ ((campAt s (n - 2)).state = 1 ∨ (campAt s (n - 2)).state = 3))

/-- The slot is ARMED, RUNNING or TRIAL. -/
def slotHeld (s : State) (n : Nat) : Bool := decide (4 ≤ (slotOf s n).state)

def bodyUpdOpen (s : State) (c : Cmd) : Work := do
  let n := (slotNum (c.op 16 1)).getD 0
  let total := c.op 20 4
  let image := c.op 24 4
  checkOps (opChks c [(16, 1), (20, 8)] [] ++
    [slotChk c, rangeChk (decide (total ≤ 512 ∨ slotSize n < total)) 20, rangeChk (decide (image = 0)) 24])
  stopIf (slotHeld s n) (ansBadState 0x0001)
  stopIf (campBusy s n) (ansBadState 0x0002)
  let x := slotOf s n
  if x.state = 1 ∧ x.image = image ∧ x.total = total then pure (s, some (ansDone x.pieces.length))
  else pure (setUSlot s n { state := 1, total := total, image := image }, some ansDone)

def execUpdOpen (sq : Fin 16) (s : State) : Host.Outcome State Fault Refusal := .next (runRing s sq 0x0A00 bodyUpdOpen)

/-- A piece is checked and stored (R318); `ok` tells that the NAND write and its read-back succeed. -/
def storePiece (s : State) (n i crc : Nat) (b : List Byte) (ok : Bool) : State × Answer :=
  let x := slotOf s n
  if crc32c b ≠ crc then (count1 s (Reg.UPD_CNT_COUNT 2), ansIntegrity 0x0003)
  else if x.pieces.get i [] ≠ [] then (count1 s (Reg.UPD_CNT_COUNT 1), ansDone)
  else if !ok then (setErr s Reg.UPD_ERR_NAND, ansHwFault 0x0A01)
  else (setUSlot (count1 s (Reg.UPD_CNT_COUNT 0)) n { x with pieces := x.pieces.set i b [] }, ansDone)

def isVerifying (s : State) (n : Nat) : Bool := s.upd.verifying.any fun x => x.1 = n

def bodyUpdPiece (ok : Bool) (s : State) (c : Cmd) : Work := do
  let n := (slotNum (c.op 16 1)).getD 0
  let i := c.op 20 4
  let x := slotOf s n
  checkOps (opChks c [(16, 1), (20, 8)] [(0, 4096)] ++ [slotChk c, rangeChk (decide (0 < x.total ∧ x.numPieces ≤ i)) 20])
  let b ← readBuf s c 0
  stopIf (decide (x.state ≠ 1)) (ansBadState 0x0003)
  stopIf (isVerifying s n) (ansBadState 0x0005)
  let (s1, a) := storePiece s n i (c.op 24 4) (b.take 4096) ok
  if a.status = 0 then pure (s1, some a) else .error (.ansIn s1 a)

def execUpdPiece (sq : Fin 16) (ok : Bool) (s : State) : Host.Outcome State Fault Refusal := .next (runRing s sq 0x0A01 (bodyUpdPiece ok))

def bodyUpdVerify (s : State) (c : Cmd) : Work := do
  let n := (slotNum (c.op 16 1)).getD 0
  checkOps (opChks c [(16, 1)] [] ++ [slotChk c])
  stopIf (!((slotOf s n).full || (slotOf s n).delivered)) (ansBadState 0x0004)
  stopIf (isVerifying s n) (ansBadState 0x0005)
  pure (updShow (updUpd s fun u => { u with verifying := u.verifying ++ [(n, c.ref, imageKey s n)] }), some ansQueued)

def execUpdVerify (sq : Fin 16) (s : State) : Host.Outcome State Fault Refusal := .next (runRing s sq 0x0A02 bodyUpdVerify)

/-- The oldest verification ends (R316, R320, R336). -/
def execImageVerified (s : State) : Host.Outcome State Fault Refusal :=
  .next (
    match s.upd.verifying with
    | [] => s
    | (n, ref, key) :: r =>
      let s0 := updUpd s fun u => { u with verifying := r }
      let (s1, bad) := checkImage s0 n key
      let x := slotOf s1 n
      let (st, code, s2) := match bad with
        | some (a, k) => (a.status, k, setErr (setUSlot s1 n { x with state := 3 }) Reg.UPD_ERR_VERIFY_FAIL)
        | none => (0, 0, updAudit (setUSlot s1 n { x with state := 2 }) 0 n [])
      emitOutcome s2 0x0A00 (leBytes 1 (slotVal n) ++ leBytes 1 code ++ [0, 0] ++ leBytes 4 x.imageId ++ x.version) (some ref) st)

def bodyUpdErase (s : State) (c : Cmd) : Work := do
  let n := (slotNum (c.op 16 1)).getD 0
  checkOps (opChks c [(16, 1)] [] ++ [slotChk c])
  stopIf (slotHeld s n) (ansBadState 0x0001)
  stopIf (campBusy s n) (ansBadState 0x0002)
  pure (setUSlot s n {}, some ansDone)

def execUpdErase (sq : Fin 16) (s : State) : Host.Outcome State Fault Refusal := .next (runRing s sq 0x0A06 bodyUpdErase)

/-! ### Scheduling an activation (R321, R323) -/

/-- An image is in TRIAL. -/
def inTrial (s : State) : Bool := s.upd.boot.any BootRec.booted

/-- Arm a module slot, from the host or from Span: a refusal, or the state with the slot ARMED. In RESCUE it takes effect at
once (R325). -/
def armSlot (s : State) (n actDt : Nat) : Except Answer State :=
  let x := slotOf s n
  let rescue := s.upd.rescue
  if x.state ≠ 2 ∨ (!rescue ∧ actDt < s.dt + 60 * 65536) then .error (ansBadState 0x0006)
  else if s.upd.act.isSome ∨ inTrial s then .error (ansBadState 0x0007)
  else if x.svn < s.upd.floor then .error (ansStale 0x0001)
  else
    let t := if rescue then s.dt else actDt
    .ok (updAudit (setUSlot (updUpd s fun u => { u with act := some { slot := n, actDt := t, due := rescue } }) n { x with state := 4 }) 1 n [])

def bodyUpdActivate (s : State) (c : Cmd) : Work := do
  let n := c.op 16 1
  checkOps (opChks c [(16, 1), (24, 8)] [] ++ [rangeChk (decide (1 < n)) 16, dtChk c 24])
  match armSlot s n (c.op 24 8) with
  | .ok s1 => pure (s1, some ansDone)
  | .error a => .error (.ans a)

def execUpdActivate (sq : Fin 16) (s : State) : Host.Outcome State Fault Refusal := .next (runRing s sq 0x0A03 bodyUpdActivate)

/-- The activation has fallen due. -/
def actDue (s : State) : Bool := match s.upd.act with | some a => a.due || decide (a.actDt ≤ s.dt) | none => false

/-- A step of DT from `old` to `new`: a crossed ACT_DT falls due, and stays so (R321). -/
def actCross (s : State) (old new : Nat) : State :=
  updUpd s fun u => { u with act := u.act.map fun a => { a with due := a.due || decide (a.actDt ≤ max old new) } }

def bodyUpdCancel (s : State) (c : Cmd) : Work := do
  checkOps (opChks c [] [])
  match s.upd.act with
  | none => .error (.ans (ansBadState 0x0007))
  | some a =>
    stopIf (actDue s) (ansBadState 0x0007)
    pure (setUSlot (updUpd s fun u => { u with act := none }) a.slot { slotOf s a.slot with state := 2 }, some ansDone)

def execUpdCancel (sq : Fin 16) (s : State) : Host.Outcome State Fault Refusal := .next (runRing s sq 0x0A04 bodyUpdCancel)

def bodyUpdConfirm (s : State) (c : Cmd) : Work := do
  checkOps (opChks c [] [])
  stopIf (!inTrial s) (ansBadState 0x0009)
  pure (updUpd s fun u => { u with hostConfirm := true }, some ansDone)

def execUpdConfirm (sq : Fin 16) (s : State) : Host.Outcome State Fault Refusal := .next (runRing s sq 0x0A05 bodyUpdConfirm)

/-- The conditions of R323 hold within the window: the image is confirmed. -/
def execImageConfirmed (s : State) : Host.Outcome State Fault Refusal :=
  .next (
    match s.upd.boot with
    | some b =>
      if b.booted ∧ fld s Reg.PWR_STAT_STEP = 9 ∧ fld s Reg.BST_STAT_START = 1 ∧
          (!flag s Reg.UPD_CTRL_HOST_CONFIRM ∨ s.upd.hostConfirm) ∧ ¬ passedSec s s.upd.trialSince b.win then
        let x := slotOf s b.slot
        let s1 := updUpd s fun u => { u with boot := none, floor := max u.floor x.svn, hostConfirm := false }
        let s2 := updAudit (setUSlot s1 b.slot { x with state := 5 }) 3 b.slot []
        emit s2 0x0A01 (leBytes 1 (slotVal b.slot) ++ [0, 0, 0] ++ leBytes 4 x.imageId ++ leBytes 4 x.svn)
      else s
    | none => s)

/-! ### Campaigns (R326-R333) -/

/-- Fields of a progress summary (R330). -/
def otaSlot (o : Nat) : Nat := o % 16
def otaState (o : Nat) : Nat := o / 16 % 16
def otaImage (o : Nat) : Nat := bits o 47 16
def otaList (o : Nat) : Bool := bit o 8

def imgBlocks (x : UpdSlot) : Nat := (x.total + 95) / 96
def imgSeg (nb : Nat) : Nat := (nb + 63) / 64

/-- An endpoint's latest summary asks for block b (R331). -/
def wantsBlock (nb : Nat) (o b : Nat) : Bool :=
  if otaList o then (List.range 4).any fun i => decide (bits o (79 + 16 * i) (64 + 16 * i) = b ∧ b ≠ 0xFFFF)
  else !bit o (64 + b / imgSeg nb)

/-- The blocks that a later round sends. -/
def roundBlocks (s : State) (k : Nat) (c : Campaign) : List Nat :=
  let x := slotOf s (k + 2)
  let nb := imgBlocks x
  let sums := (c.targets.filter fun n => c.seen.get n false).filterMap fun n =>
    let o := (entAt s n).ota
    if otaState o = 1 ∧ otaImage o = x.image then some o else none
  (List.range nb).filter fun b => sums.any fun o => wantsBlock nb o b

/-- A window of `count` slot periods that starts at a DT second lies in the sending hours (R328). -/
def inHours (s : State) (c : Campaign) (sec count : Nat) : Bool :=
  let day := 86400 * 80
  let span := (c.sendTo + 1440 - c.sendFrom) % 1440 * 4800
  let p := ((localSecs s sec % 86400).toNat * 80 + day - c.sendFrom * 4800) % day
  decide (c.sendFrom = c.sendTo ∨ p + count ≤ span ∧ p < span)

/-- A channel's duty and dwell budgets txAdmit `us` µs (R133, R134). -/
def budgetAdmits (s : State) (ch us : Nat) : Bool :=
  match profile s with
  | none => false
  | some p =>
    match txChannel s p ch false false with
    | none => false
    | some (i, x) =>
      !paired s ch && decide (x.duty = 0xFFFF ∨ (dutyAt s i).used + us ≤ x.duty * 36000) &&
      decide (x.dwellMs = 0 ∨ (passedSec s s.rad.resetAt x.dwellWin ∧ dwellUsed s ch x.dwellWin + us ≤ x.dwellMs * 1000))

/-- The channel of a window: the one used least recently among those that txAdmit all its frames. -/
def imageChannel (s : State) (us : Nat) : Option Nat :=
  match (List.range 80).filter fun c => budgetAdmits s c us with
  | [] => none
  | c :: r => some (r.foldl (fun a b => if s.street.chanUse.get b 0 < s.street.chanUse.get a 0 then b else a) c)

/-- Airtime of a window of n blocks. -/
def windowUs (s : State) (n : Nat) : Nat := n * dlAirtime s 1 117

/-- A window that is announced: the Rooster names it, and its channel is used. -/
def announceWin (s : State) (k sec ch n : Nat) : State :=
  macUpd (streetUpd s fun x => { x with chanUse := x.chanUse.set ch (80 * sec) 0 }) fun m => { m with
    wins := m.wins ++ [{ tag := k, sp := 80 * sec, ch := ch, mode := 1, kind := 3, count := n, id := k }] }

/-- Take the announcements of a campaign's windows off the list. -/
def dropWins (s : State) (k : Nat) (p : Win → Bool) : State :=
  macUpd s fun m => { m with wins := m.wins.filter fun w => decide (w.kind ≠ 3 ∨ w.tag ≠ k) || !p w }

/-- The channel of a window of n blocks at a DT second: the one it was announced on, or one picked now. -/
def winChannel (s : State) (c : Campaign) (sec n : Nat) : Option Nat :=
  match c.ahead.filter fun a => a.1 = sec with
  | some a => some a.2
  | none => if inHours s c sec n then imageChannel s (windowUs s n) else none

/-- Plan the next window of a campaign at a DT second, or defer it by GAP_S (R328). -/
def planImage (s : State) (k sec : Nat) : State :=
  let c := campAt s k
  let blocks := c.todo.take c.burst
  let n := blocks.length
  if n = 0 then s
  else
    match winChannel s c sec n with
    | none => setCamp s k { c with nextWin := sec + c.gap }
    | some ch =>
      let sp := 80 * sec
      setCamp (announceWin (dropWins s k fun w => w.sp = sp) k sec ch n) k { c with
        todo := c.todo.drop c.burst, nextWin := sec + c.gap, nextRound := sec + c.roundGap + (n + 79) / 80, ahead := none,
        wins := c.wins ++ [{ sp := sp, ch := ch, blocks := blocks, next := sp }] }

/-- A second before a later round may be planned, the Rooster announces its first window as the round would be planned now (R328,
R331, log entry 82). -/
def announceAhead (s : State) (k : Nat) : State :=
  let c := campAt s k
  let sec := dtSec s.dt + 1
  let n := min c.burst (roundBlocks s k c).length
  if c.state = 1 ∧ c.todo = [] ∧ 0 < c.rounds ∧ c.rounds < c.maxRounds ∧ c.nextRound = sec ∧ c.ahead.isNone ∧ 0 < n then
    match winChannel s c sec n with
    | some ch => setCamp (announceWin s k sec ch n) k { c with ahead := some (sec, ch) }
    | none => s
  else s

/-- A new DT second begins: windows of the next second are planned, so that its Rooster announces them; those that are over go. -/
def imageTick (s : State) : State :=
  s.upd.camps.keys.foldl (fun s00 k =>
    let s := dropWins s00 k fun w => decide (w.sp + w.count ≤ curSp s00)
    let c := campAt s k
    if c.state = 1 ∧ c.todo ≠ [] ∧ c.nextWin ≤ dtSec s.dt + 1 then planImage s k (dtSec s.dt + 1) else announceAhead s k) s

/-- A target's latest summary says COMPLETE for the campaign's image. -/
def isComplete (s : State) (k n : Nat) : Bool :=
  let o := (entAt s n).ota
  decide (otaState o = 2 ∧ otaImage o = (slotOf s (k + 2)).image)

/-- COMPLETE targets, whenever they reported it. -/
def completeCount (s : State) (k : Nat) (c : Campaign) : Nat := (c.targets.filter (isComplete s k)).length

/-- SILENT targets: no summary for the image since the offer, and not complete before it (log entry 83). -/
def silentCount (s : State) (k : Nat) (c : Campaign) : Nat := (c.targets.filter fun n => !c.seen.get n false && !isComplete s k n).length

/-- The campaign becomes DONE, with the outcome of its offer (R331). -/
def roundsDone (s : State) (k : Nat) : State :=
  let c := campAt s k
  let done := completeCount s k c
  let silent := silentCount s k c
  let s1 := setCamp s k { c with state := 2, todo := [], wins := [], ahead := none, ref := none }
  let s2 := dropWins s1 k fun _ => true
  emitOutcome s2 0x0A03 (leBytes 1 (k + 16) ++ leBytes 1 c.rounds ++ [0, 0] ++ leBytes 3 done ++
    leBytes 3 (c.targets.length - done - silent) ++ leBytes 3 silent) c.ref 0

/-- The DT second in which a round planned now opens its first window: round 0 is planned a second ahead, so that the Rooster
announces the window (R328). -/
def roundSec (s : State) (c : Campaign) : Nat :=
  if curSp s ≤ 80 * dtSec s.dt ∧ (c.rounds ≠ 0 ∨ c.nextRound ≤ dtSec s.dt) then dtSec s.dt else dtSec s.dt + 1

/-- A round of campaign k may be planned, or the last of its MAX_ROUNDS rounds has been sent. -/
def roundDue (s : State) (k : Nat) : Bool :=
  let c := campAt s k
  decide (c.state = 1 ∧ c.todo = [] ∧ (0 < c.rounds ∧ c.maxRounds ≤ c.rounds ∨
    c.nextRound ≤ (if c.rounds = 0 then roundSec s c else dtSec s.dt))) &&
  c.wins.all (fun w => decide (w.sp + w.blocks.length ≤ curSp s)) && (c.rounds ≠ 0 || inHours s c (roundSec s c) 0)

/-- Plan a round (R331). -/
def startRound (s : State) (k : Nat) : State :=
  let c := campAt s k
  let blocks := if c.rounds = 0 then List.range (imgBlocks (slotOf s (k + 2))) else roundBlocks s k c
  if c.rounds ≠ 0 ∧ (blocks = [] ∨ c.maxRounds ≤ c.rounds) then roundsDone s k
  else
    let sec := roundSec s c
    planImage (count1 (setCamp s k { c with todo := blocks, rounds := c.rounds + 1, wins := [], nextWin := sec }) (Reg.UPD_CNT_COUNT 5)) k sec

def execRoundStart (s : State) : Host.Outcome State Fault Refusal :=
  .next (match (List.range 16).find? (roundDue s) with | some k => startRound s k | none => s)

/-- The slot period of a window's channel in which the module is. -/
def winIdx (s : State) (w : ImgWin) : Nat := slotIdx 3 w.ch (dt25 s.dt)

/-- A window in which a block is due now, at the slot start of its channel (R145). -/
def blockDue (s : State) : Option (Nat × ImgWin) :=
  (List.range 16).findSome? fun k =>
    ((campAt s k).wins.find? fun w =>
      let i := winIdx s w
      decide (w.sp ≤ i ∧ i < w.sp + w.blocks.length ∧ w.next ≤ i) && slotStarts s 3 w.ch i).map fun w => (k, w)

/-- The chain of a window: the one that carries it, else the one of a dedicated event now. -/
def winChain (s : State) (w : ImgWin) : Option Nat :=
  match w.chain with
  | some c => if chainFree s c then some c else none
  | none => eventChain s

/-- Send block `b` of a campaign in a window (R328). -/
def sendBlock (s : State) (k b : Nat) (w : ImgWin) : State × Bool :=
  if onAir s then
    let c := campAt s k
    let x := slotOf s (k + 2)
    let data := padTo 96 ((x.bytes.drop (96 * b)).take (min 96 (x.total - 96 * b)))
    sendBroadcastOn s (winChain s w) 10 w.ch 1 (anyRelayed s fun n _ => c.targets.contains n)
      (leBytes 1 k ++ leBytes 4 x.image ++ leBytes 2 b ++ data)
  else (s, false)

/-- The present slot period of a window is used; the window keeps the chain of its first block. -/
def useWindow (s : State) (k : Nat) (w : ImgWin) : State :=
  let c := campAt s k
  setCamp s k { c with
    wins := c.wins.map fun y => if y = w then { y with next := winIdx s w + 1, chain := y.chain.or (winChain s w) } else y }

/-- A block that went out is counted. -/
def noteBlock (p : State × Bool) : State := if p.2 then count1 p.1 (Reg.UPD_CNT_COUNT 4) else p.1

/-- The block of the present slot period goes out in a window (R328). -/
def sendDue (s : State) (k : Nat) (w : ImgWin) : State :=
  noteBlock (sendBlock (useWindow s k w) k (w.blocks.getD (winIdx s w - w.sp) 0) w)

/-- A block that is due goes out (R167), after what R193 puts before it. -/
def execImageBlock (s : State) : Host.Outcome State Fault Refusal :=
  .next (match (if chainLeft s 2 then blockDue s else none) with | none => s | some (k, w) => sendDue s k w)

/-- An IMAGE_STATUS element: the Fold keeps it, and campaigns note who has reported (R330, R331). -/
def imageStatus (s : State) (n : Nat) (v : List Byte) : State :=
  let o := leNat (v.take 16)
  let s1 := count1 (updEnt s n fun e => { e with ota := o }) (Reg.UPD_CNT_COUNT 6)
  updUpd s1 fun u => { u with camps := u.camps.map fun x =>
    if (slotOf s1 (x.1 + 2)).image = otaImage o then (x.1, { x.2 with seen := x.2.seen.set n true false }) else x }

/-- A COMMIT_STATUS for the activation of a campaign: REFUSED or IGNORED (R333). -/
def imageCommitStatus (s : State) (n id st : Nat) : State :=
  if st = 2 ∨ st = 3 then
    let note (x : Nat × Campaign) : Nat × Campaign :=
      if x.2.act.any (fun a => a.id = id) ∧ ¬ x.2.notActed.contains n then (x.1, { x.2 with notActed := x.2.notActed ++ [n] }) else x
    updUpd s fun u => { u with camps := u.camps.map note }
  else s

/-- The tally of an activation (R333). -/
def execEpActivationDone (s : State) : Host.Outcome State Fault Refusal :=
  .next (
    match (List.range 16).find? fun k => (campAt s k).act.any fun a => decide (a.tally ≤ s.dt) with
    | none => s
    | some k =>
      let c := campAt s k
      let is (n st : Nat) : Bool := decide (otaState (entAt s n).ota = st)
      let conf := c.targets.filter fun n => is n 6
      let fell := c.targets.filter fun n => is n 7
      let rest := c.targets.filter fun n => !is n 6 && !is n 7
      let notAct := rest.filter c.notActed.contains
      let silent := rest.length - notAct.length
      let s1 := setCamp s k { c with state := 4, act := none }
      let s2 := updAudit s1 5 (k + 2) [conf.length, fell.length, silent]
      emitOutcome s2 0x0A04 (leBytes 1 (k + 16) ++ [0, 0, 0] ++ leBytes 3 conf.length ++ leBytes 3 fell.length ++ leBytes 3 silent ++
        leBytes 3 notAct.length) (c.act.bind ActPlan.ref) 0)

/-! ### Campaign opcodes (R335) -/

/-- The targets of a campaign (R326). -/
def campTargets (s : State) (x : UpdSlot) (g : Nat) (all : Bool) : List Nat :=
  (addressed s g all).filter fun n =>
    let e := entAt s n
    decide (e.gen = 3 ∧ e.state ≠ 1) && bit (fieldLE x.manifest 26 1) e.type

/-- BODY of IMAGE_OFFER (R327). -/
def offerBody (k : Nat) (x : UpdSlot) : List Byte :=
  leBytes 1 k ++ [0] ++ leBytes 4 x.image ++ leBytes 2 (imgBlocks x) ++ x.version ++ sliceB x.manifest 28 4 ++ sliceB x.manifest 26 1 ++
    [0, 0, 0]

def bodyUpdEpOffer (s : State) (c : Cmd) : Work := do
  let k := c.op 16 1 - 16
  let t := c.op 24 8
  checkOps (opChks c [(16, 17), (34, 4)] [] ++
    [epSlotChk c, rsvChk (decide (1 < c.op 17 1)) 17, rangeChk (decide (c.op 20 1 = 0)) 20, rangeChk (decide (c.op 21 1 = 0)) 21,
     rangeChk (decide (c.op 22 2 < 60)) 22, dtChk c 24, rangeChk (decide (c.op 32 1 = 0)) 32,
     rangeChk (decide (1439 < c.op 34 2)) 34, rangeChk (decide (1439 < c.op 36 2)) 36])
  let x := slotOf s (k + 2)
  stopIf (decide (x.state ≠ 2)) (ansBadState 0x0008)
  stopIf (campBusy s (k + 2)) (ansBadState 0x0002)
  stopIf (!bit (fieldLE x.manifest 27 1) 3) (ansBadState 0x000A)
  stopIf (decide (t < s.dt + 2 * 65536)) (ansBadState 0x000B)
  stopIf (!commitRoom s 1) (ansNoSpace 0x0001)
  let all := bit (c.op 17 1) 0
  let (s1, id) := acceptCommit s 8 (c.op 18 2) 0 t all (offerBody k x) none
  let camp : Campaign := {
    state := 1, targets := campTargets s x (c.op 18 2) all, group := c.op 18 2, all := all, burst := c.op 20 1,
    gap := c.op 21 1, roundGap := c.op 22 2, maxRounds := c.op 32 1, sendFrom := c.op 34 2, sendTo := c.op 36 2, ref := some c.ref,
    nextRound := (t + 65535) / 65536 + 10 }
  pure (setCamp s1 k camp, some (ansQueued 0 id))

def execUpdEpOffer (sq : Fin 16) (s : State) : Host.Outcome State Fault Refusal := .next (runRing s sq 0x0A07 bodyUpdEpOffer)

def bodyUpdEpActivate (s : State) (c : Cmd) : Work := do
  let k := c.op 16 1 - 16
  let t := c.op 24 8
  let win := c.op 18 2
  checkOps (opChks c [(16, 6), (24, 8)] [] ++
    [epSlotChk c, rsvChk (decide (1 < c.op 17 1)) 17, rangeChk (decide (win = 0)) 18, rangeChk (decide (c.op 20 2 < 60)) 20, dtChk c 24])
  let camp := campAt s k
  stopIf (decide (camp.state ≠ 2)) (ansBadState 0x000C)
  stopIf (decide (t < s.dt + 2 * 65536)) (ansBadState 0x000B)
  stopIf (!commitRoom s 1) (ansNoSpace 0x0001)
  let (s1, id) := acceptCommit s 9 camp.group (c.op 17 1) t camp.all
    (leBytes 1 k ++ [0] ++ leBytes 4 (slotOf s (k + 2)).image ++ leBytes 2 win) none
  pure (setCamp s1 k { camp with
    state := 3, notActed := [], act := some { id := id, tally := t + (win + c.op 20 2) * 65536, ref := some c.ref } }, some (ansQueued 0 id))

def execUpdEpActivate (sq : Fin 16) (s : State) : Host.Outcome State Fault Refusal := .next (runRing s sq 0x0A08 bodyUpdEpActivate)

/-- The activation commit of a campaign that is still pending. -/
def pendingAct (s : State) (k : Nat) : Option CommitEnt :=
  (campAt s k).act.bind fun a => s.street.commits.find? fun e => decide (e.id = a.id ∧ e.state = 0)

def bodyUpdEpStop (s : State) (c : Cmd) : Work := do
  let k := c.op 16 1 - 16
  checkOps (opChks c [(16, 2)] [] ++ [epSlotChk c, rsvChk (decide (1 < c.op 17 1)) 17])
  let camp := campAt s k
  stopIf (decide (camp.state = 0 ∨ camp.state = 4)) (ansBadState 0x000D)
  let s1 := if camp.state = 1 then roundsDone s k else setCamp s k { camp with state := 2 }
  if bit (c.op 17 1) 0 then
    let pend := pendingAct s k
    stopIf (!commitRoom s (1 + b2n pend.isSome)) (ansNoSpace 0x0001)
    let s2 := match pend with | some e => cancelCommit s1 e none | none => s1
    let (s3, id) := acceptCommit s2 10 camp.group 0 ((s.dt + fld s Reg.STR_COMMIT_LEAD * 65536) % 2 ^ 56) camp.all
      (leBytes 1 k ++ [0] ++ leBytes 4 (slotOf s (k + 2)).image) (some c.ref)
    pure (causedBy s s3 c.seq, some (ansQueued 0 id))
  else pure (causedBy s s1 c.seq, some ansDone)

def execUpdEpStop (sq : Fin 16) (s : State) : Host.Outcome State Fault Refusal := .next (runRing s sq 0x0A09 bodyUpdEpStop)

def bodyUpdEpStatus (s : State) (c : Cmd) : Work := do
  let k := c.op 16 1 - 16
  checkOps (opChks c [(16, 1)] [(1, 64)] ++ [epSlotChk c])
  let camp := campAt s k
  let count (st : Nat) : Nat := (camp.targets.filter fun n => otaState (entAt s n).ota = st).length
  let s1 ← writeBuf s c 0 (padTo 64 (((List.range 8).flatMap fun st => leBytes 4 (count st)) ++ leBytes 4 (silentCount s k camp) ++
    leBytes 4 camp.targets.length ++ leBytes 1 camp.rounds ++ leBytes 1 camp.state))
  pure (s1, some (ansDone 64))

def execUpdEpStatus (sq : Fin 16) (s : State) : Host.Outcome State Fault Refusal := .next (runRing s sq 0x0A0A bodyUpdEpStatus)

end Sys2Proof.Machine
end

