-- ==== Sys2Proof/Machine/Uplink.lean ====
section
/-! DEFINITION. Uplinks: the checks of a frame, event resolution, acceptance and delivery, joins, relays, and the log of a STANDBY
module (R149, R150, R155-R158, R162, R163, R175, R184, R445). -/

namespace Sys2Proof.Machine

/-! ### Headers (R155 step 1, R161, R162) -/

/-- The header of an uplink and what follows it: payload and MIC. -/
structure UpHead where
  ftype : Nat
  gen : Nat
  kep : Nat
  ackreq : Bool
  evf : Nat
  src : Nat
  fcnt : Nat
  head : List Byte
  rest : List Byte
  deriving DecidableEq, Repr

/-- A valid uplink header (R161, R162). -/
def upHead (b : List Byte) : Option UpHead :=
  let x := fieldLE b 0 1
  let y := fieldLE b 1 1
  if 22 ≤ b.length ∧ bits x 3 0 ≤ 2 ∧ 1 ≤ bits x 5 4 ∧ bit y 6 = false then
    some { ftype := bits x 3 0, gen := bits x 5 4, kep := bits x 6 6, ackreq := bit x 7, evf := bits y 3 0, src := fieldLE b 2 8,
           fcnt := fieldLE b 10 4, head := b.take 14, rest := b.drop 14 }
  else none

/-- The MODE is one that the generation uses (R141). -/
def genMode (g mode : Nat) : Bool := if g = 1 then mode = 3 else if g = 2 then mode = 0 else mode = 1 || mode = 2

/-- Step 1 of R155: the JOIN_REQ has its 17 bytes, the generation is enabled and, for a direct frame, uses the MODE. -/
def headOk (s : State) (h : UpHead) (mode : Option Nat) : Bool :=
  genOn s h.gen && (match mode with | some m => genMode h.gen m | none => true) && decide (h.ftype = 1 → h.rest.length = 25)

def badFrame (s : State) : State := count1 s (Reg.MAC_CNT_COUNT 11)

/-! ### Security and counters (R155 steps 2 to 4, R156, R170, R173) -/

/-- The link key of an epoch, from the cache after its use; `none` where Coop refuses its derivation (R170, R412). -/
def getKey (s : State) (eui ep : Nat) : State × Option (List Byte) :=
  let s1 := useKey s eui ep
  (s1, cachedKey s1 eui ep)

/-- Verify and decrypt a frame of level 6 with the link key of an epoch; a failure counts in MIC_FAIL. -/
def openUp (s : State) (h : UpHead) (ep : Nat) : State × Option (List Byte) :=
  let (s1, key) := getKey s h.src ep
  match key.bind fun k => ccmOpen k (nonce h.src h.fcnt 6) h.head h.rest with
  | some p => (s1, some p)
  | none => (count1 s1 (Reg.MAC_CNT_COUNT 1), none)

/-- What steps 2 to 4 of R155 make of a frame of a known entry. -/
inductive Screen where
  /-- discarded before step 4 -/
  | drop
  /-- discarded by R156; steps 1 to 3 were passed -/
  | replay (n : Nat)
  /-- below CNT_GUARD: answered with CSKIP (R154) -/
  | cskip (n : Nat)
  | again (n : Nat)
  /-- fresh: under the new key of a rekey or not, and its plaintext -/
  | fresh (n : Nat) (newKey : Bool) (payload : List Byte)

/-- Steps 2 to 4 of R155 for a DATA_UP or RELAY_UP. The Fold stays as it is; counters and the key cache change. -/
def screen (s : State) (h : UpHead) : State × Screen :=
  match findEui s h.src with
  | none => (count1 s (Reg.MAC_CNT_COUNT 0), .drop)
  | some n =>
    let e := entAt s n
    if e.state = 7 then (count1 s (Reg.MAC_CNT_COUNT 0), .drop)
    else if e.gen ≠ h.gen then (badFrame s, .drop)
    else
      let old := decide (h.kep = e.keyEpoch % 2)
      if !old && !e.rekeyPend then (count1 s (Reg.MAC_CNT_COUNT 1), .drop)
      else
        let (s1, p) := openUp s h (if old then e.keyEpoch else e.keyEpoch + 1)
        match p with
        | none => (s1, .drop)
        | some pl =>
          if !old then (s1, .fresh n true pl)
          else if e.cntGuard ∧ h.fcnt ≤ e.ulFcnt + 15 then (count1 s1 (Reg.MAC_CNT_COUNT 14), .cskip n)
          else if h.fcnt < e.ulFcnt then (count1 s1 (Reg.MAC_CNT_COUNT 2), .replay n)
          else if h.fcnt = e.ulFcnt then
            if crc32c pl = e.ulHash then (count1 s1 (Reg.MAC_CNT_COUNT 3), .again n)
            else (count1 s1 (Reg.MAC_CNT_COUNT 2), .replay n)
          else (s1, .fresh n false pl)

/-! ### Event resolution (R157) -/

/-- The frame start in 2.5 µs units of DT: the SFD end less the airtime of the preamble and two octets. -/
def frameStart (e : FoldEntry) (mode t25 : Nat) : Nat :=
  if mode = 3 then t25 else t25 - (e.pre + 2) * 8 * 400000 / modeRate mode

/-- Event resolution against a schedule, but for the hop: j, OFS and the new LAST_SP and LAST_EVT; `none` out of window. -/
def resolveEvt (e : FoldEntry) (ch evf start : Nat) : Option (Nat × Int × Nat × Nat) :=
  let p := e.p
  if p = 0 then none
  else
    let rel := sinceLast e (start / 5000) * 5000 + start % 5000
    let k := (2 * rel + p * 5000) / (p * 10000)
    let d0 := ((evf : Int) - (e.lastEvt + k : Nat)) % 16
    let d := if 8 ≤ d0 then d0 - 16 else d0
    let j := (k : Int) + d
    if j ≤ 0 then none
    else
      some (j.toNat, (rel : Int) - j * p * 5000 - slotOfs e.gen ch, (e.lastSp + j.toNat * p) % 2 ^ 32, (e.lastEvt + j.toNat) % 65536)

/-- How an uplink resolved: the entry with its new LAST_SP and LAST_EVT, the slot periods since the last uplink's, OFS, whether the
endpoint used a superseded map, and whether a change of parameters has taken effect (R148, R157, R182). -/
structure Resolved where
  entry : FoldEntry
  span : Nat
  ofs : Int
  stale : Bool
  applied : Bool

/-- Slot periods from the last accepted direct uplink or JOIN_REQ to slot period sp, modulo 2^32 (R157). -/
def upSpan (s : State) (n sp : Nat) : Nat := (sp + 2 ^ 32 - (epAt s n).upSp.getD (entAt s n).lastSp % 2 ^ 32) % 2 ^ 32

/-- Resolve against one view of the entry: the event's channel is that of the map in force in its slot period, or of a superseded map
that is still accepted (R148, R157). -/
def resolveView (s : State) (n : Nat) (e : FoldEntry) (applied : Bool) (ch evf start : Nat) : Option Resolved :=
  (resolveEvt e ch evf start).bind fun (_, ofs, sp, v) =>
    let k := ((start : Int) - ofs).toNat / 5000
    let on (m : Nat) : Bool := decide (hopOn e.access m v = some ch)
    let mk (stale : Bool) : Resolved :=
      { entry := { e with lastSp := sp, lastEvt := v }, span := upSpan s n sp, ofs := ofs, stale := stale, applied := applied }
    if on (mapFor s e.mapIdx k) then some (mk false)
    else if (oldFor s e.mapIdx k).any on then some (mk true)
    else none

/-- Event resolution of a direct T2 or T3 frame: first under a change of parameters whose AT_EVT has come. -/
def resolve (s : State) (n ch evf start : Nat) : Option Resolved :=
  let e := entAt s n
  let e' := schedEnt s n (start / 5000)
  let r := if (connDue s n (start / 5000)).isSome then resolveView s n e' true ch evf start else none
  match r with
  | some x => some x
  | none => resolveView s n e false ch evf start

/-- How a T1 answer resolves: its offset, which R157 does not define, is a free value. -/
def resolveT1 (s : State) (n : Nat) : Resolved :=
  let k := (epAt s n).listenSp
  let e := schedEnt s n k
  { entry := { e with lastSp := k % 2 ^ 32, lastEvt := (eventAt e k).getD (entAt s n).lastEvt }, span := upSpan s n k,
    ofs := toSigned 16 (freeVal s 16), stale := false, applied := (connDue s n k).isSome }

/-- An integer quotient whose rounding the spec does not give. -/
def looseDiv (a : Int) (b : Nat) : Int := floorDiv a b + (if a % b = 0 then 0 else b2n (Config.roundUp a b))

/-- A value saturated to 16 bits. -/
def sat16 (v : Int) : Int := max (-32768) (min 32767 v)

/-- DRIFT after a frame: 1/8 of the difference between the new estimate, the change in OFS over the elapsed time in units of
0.01 ppm, and DRIFT is added (R157); with no time elapsed there is no estimate. -/
def newDrift (e : FoldEntry) (ofs : Int) (span : Nat) : Int :=
  if span = 0 then e.drift else sat16 (e.drift + looseDiv ((ofs - e.ofs) * 20000 - e.drift * span) (8 * span))

/-! ### Answers (R158) -/

/-- Answer a direct frame: `acc` it was accepted, `ack` it is acknowledged. A T3 answer is a RESP 8.5 ms after the slot start, or
after the frame start of a late catch; T2 takes a STATUS element in the next slot period, T1 in the next poll. -/
def answer (s : State) (n : Nat) (f : UpFrame) (start : Nat) (ofs : Int) (acc ack : Bool) : State :=
  let e := entAt s n
  let x := epAt s n
  let tc := decide (fld s Reg.MAC_TIMING_TCORR_THR ≤ ofs.natAbs)
  if ack || x.rejoin || x.cskip || (acc && (tc || e.mapStale || dlWaiting s n)) then
    let slot := ((start : Int) - ofs).toNat
    if e.gen = 3 then
      let late := decide (200 < ofs.natAbs)
      let at25 := (if late then start else slot) + 3400
      let r : RespPend := { eph := n, ch := f.ch, at' := at25, evf := f.evf, ack := ack, fcnt := f.fcnt,
                            tcorr := if tc then some (sat16 (-ofs)) else none }
      macUpd s fun m => { m with resps := m.resps ++ [r] }
    else
      let s1 := setEp s n { x with ack := if ack then some f.fcnt else x.ack, tcorr := if tc then some (sat16 (-ofs)) else x.tcorr }
      if e.gen = 2 then
        let pl : DlPlan := { eph := n, sp := slot / 5000 + 1, ch := f.ch, mode := f.mode }
        if s1.mac.plans.any fun q => decide (q.eph = n ∧ q.sp = pl.sp) then s1
        else macUpd s1 fun m => { m with plans := m.plans ++ [pl] }
      else s1
  else s

/-! ### Elements (R162, R163, R184) -/

/-- The elements of a payload, and whether one overruns it. -/
def elements : Nat → List Byte → List (Nat × List Byte) × Bool
  | 0, _ => ([], false)
  | _, [] => ([], false)
  | _, [_] => ([], true)
  | fuel + 1, t :: l :: r =>
    if r.length < l.toNat then ([], true)
    else
      let (a, b) := elements fuel (r.drop l.toNat)
      ((t.toNat, r.take l.toNat) :: a, b)

/-- The LEN of a known TYPE is the one of R163; unknown TYPEs have any. -/
def lenOk (t len : Nat) : Bool :=
  if t = 1 then len = 14 else if t = 2 then len = 5 else if t = 3 ∨ t = 4 then len = 6 else if t = 5 then len = 16
  else if t = 6 then len = 4 else if t = 0x7F then decide (1 ≤ len ∧ len ≤ 100) else true

/-- The run of an APP element: header and continuation entries (R184). -/
def appRun (n seq : Nat) (v : List Byte) : List Nat :=
  (n + v.length * 2 ^ 18 + seq % 65536 * 2 ^ 32 + 2 ^ 55) ::
    (List.range ((v.length + 5) / 6)).map fun i => fieldLE v (6 * i) (min 6 (v.length - 6 * i)) + (i + 1) * 2 ^ 48

/-- An APP element goes to the host: the APP_UP record and the ports of SRC 0x0401 (R183, R184). -/
def appUp (s : State) (n : Nat) (v : List Byte) : State :=
  let s1 := emit s 0x0408 (leBytes 3 n ++ leBytes 1 v.length ++ padTo 12 v)
  (List.range 8).foldl (fun s p =>
    if flag s (Reg.RIL_HP_CFG_ENABLE p) && decide (fld s (Reg.RIL_HP_CFG_SRC p) = 0x0401) then
      let q := s.mac.portSeq.get p 0
      let s2 := macUpd s fun m => { m with portSeq := m.portSeq.set p (q + 1) 0 }
      (appRun n q v).foldl (fun s w => portWrite s p w .alone) s2
    else s) s1

/-- A PRESENCE element goes to the Cascade intake with its event time (R23, R214). -/
def presence (s : State) (t25 : Nat) (v : List Byte) : State :=
  let w := fieldLE v 0 3
  intakePut s { vertex := bits w 18 0, classes := bits w 21 19, strength := fieldLE v 3 1,
                e := radioTick t25 (fieldLE v 4 1) }

/-- A FAULT element of an endpoint (R293, R294, R296). -/
def endpointFault (s : State) (n code detail : Nat) : State :=
  let e := entAt s n
  let s1 := updEnt s n fun e => { e with faultCode := code }
  if 0x8000 ≤ code then faultAt s1 s.dt 0x04 0x80FF false n e.feeder code 1 0
  else if code = 1 ∧ e.type = 0 ∧ e.feeder < 6 then powerLoss s1 n e.feeder detail
  else faultAt s1 s.dt 0x04 code false n e.feeder detail 1 0

/-- Deliver one element of an accepted frame (R163). -/
def deliverElem (pres : Bool) (n t25 : Nat) (s : State) (x : Nat × List Byte) : State :=
  let v := x.2
  let f (o k : Nat) := fieldLE v o k
  if !lenOk x.1 v.length then s
  else if x.1 = 1 then
    let e := entAt s n
    let sec := t25 / 400000 % 2 ^ 32
    let lvl := f 0 2
    let s1 := updEnt s n fun e =>
      { e with levelRpt := lvl, powerRpt := f 2 2, energyRpt := f 4 6, energySec := sec, faultBits := f 11 2 }
    basinReport (judgeReport s1 n lvl) n e.energyRpt e.energySec (f 4 6) sec
  else if x.1 = 2 then (if pres then presence s t25 v else s)
  else if x.1 = 3 then endpointFault s n (f 0 2) (f 2 4)
  else if x.1 = 4 then imageCommitStatus (commitStatus s n (f 0 4) (f 4 1)) n (f 0 4) (f 4 1)
  else if x.1 = 5 then imageStatus s n v
  else if x.1 = 6 then ambientReport s n (f 0 4)
  else if x.1 = 0x7F then appUp s n v
  else s

/-- Deliver the elements of a DATA_UP payload; a frame with an element that is wrong is counted once (R162). -/
def deliverAll (s : State) (pres : Bool) (n t25 : Nat) (payload : List Byte) : State :=
  let (l, bad) := elements payload.length payload
  let s1 := l.foldl (deliverElem pres n t25) s
  if bad || l.any fun x => !lenOk x.1 x.2.length then badFrame s1 else s1

/-! ### Acceptance (R153, R155 step 6, R173, R182) -/

/-- The rekey of an entry is complete: REKEYED is written (R173, R183). -/
def rekeyDone (s : State) (n : Nat) : State :=
  let x := epAt s n
  let s1 := setEp s n { x with rekeyRef := none, dlq := x.dlq.filter fun i => i.kind ≠ .rekey }
  emitOutcome s1 0x0407 (leBytes 3 n ++ [0] ++ leBytes 2 (entAt s n).keyEpoch ++ [0]) x.rekeyRef 0

/-- An entry has become ACTIVE from `was`: JOINED, also from a join that its relay's loss made ORPHAN, or RETURNED with the end of its fault; repairs, a marked record and
pending commits follow (R153, R159, R190, R201, R294, R296). -/
def becameActive (s : State) (n was : Nat) : State :=
  let e := entAt s n
  if was = 2 ∨ (was = 6 ∧ (s.mac.joins.get n none).isSome) then
    owedCommits (deliverMarked
      (emit (dropJoin s n) 0x0400 (leBytes 3 n ++ List.replicate 5 0 ++ leBytes 8 e.eui)) n) n
  else if was = 4 ∨ was = 6 then
    let s1 :=
      if was = 4 then
        let s0 := emit s 0x0402 (leBytes 3 n)
        if (epAt s0 n).foldedLost then setEp s0 n { epAt s0 n with foldedLost := false }
        else faultAt s0 s0.dt 0x04 0x8401 true n e.feeder e.lastRx 1 0
      else s
    owedCommits (deliverMarked (repairLantern s1 n) n) n
  else s

/-- A frame passes R155: the entry is updated, with what event resolution gave; a new measurement replaces a correction that waits.
`evt` is `none` for a relayed frame. -/
def acceptEntry (s : State) (f : UpFrame) (evt : Option Resolved) : State :=
  let n := f.eph
  let o := entAt s n
  let e0 := match evt with
    | some r => { r.entry with
        drift := if (epAt s n).tcorrSent then o.drift else newDrift o r.ofs r.span
        ofs := sat16 r.ofs
        mapStale := r.stale }
    | none => o
  let e1 := { e0 with
    ulFcnt := f.fcnt
    ulHash := crc32c f.payload
    lastRx := f.t25 / 400000 % 2 ^ 32
    rssi := f.rssi
    ulCount := (o.ulCount + 1) % 2 ^ 32
    cntGuard := false
    parent := f.parent
    relays := f.relays
    mode := if f.relays = 0 then f.mode else o.mode
    state := if o.state = 2 ∨ o.state = 4 ∨ o.state = 6 then 3 else o.state }
  let e2 := if f.newKey then { e1 with keyEpoch := o.keyEpoch + 1, dlFcnt := 0, rekeyPend := false } else e1
  let s1 := setEnt s n e2
  let s2 := match evt with
    | some r => setEp s1 n { epAt s1 n with tcorrSent := false, tcorr := none, upSp := some r.entry.lastSp, cskip := false }
    | none => setEp s1 n { epAt s1 n with cskip := false }
  let s3 := if f.newKey then rekeyDone s2 n else s2
  let s4 := if e2.keyEpoch = o.keyEpoch ∧ 0xFFF00000 ≤ f.fcnt then startRekey s3 n none else s3
  let s5 := becameActive s4 n o.state
  if !f.newKey ∧ f.fcnt = 0xFFFFFFFF then updEnt s5 n fun e => { e with state := 5 } else s5

/-- A pending change of parameters took effect with this uplink: CONN_DONE (R182, R183). -/
def connDone (s : State) (n : Nat) : State :=
  let x := epAt s n
  match x.conn with
  | some c =>
    let s1 := setEp s n { x with conn := none, dlq := x.dlq.filter fun i => i.kind ≠ .conn }
    if c.ref.isSome then emitOutcome s1 0x0404 (leBytes 3 n ++ [0]) c.ref 0 else s1
  | none => s

/-- An uplink after AT_EVT still followed the old schedule: the CONN_UPDATE goes out again, or the change fails with its third. -/
def connAgain (s : State) (n : Nat) : State :=
  let x := epAt s n
  match x.conn with
  | some c =>
    if x.dlq.any fun i => decide (i.kind = .conn) then s
    else
      let c' := { c with at' := none }
      failItems (queueDl (setEp s n { x with conn := some c' }) n { type := 0x11, val := connElem s n c', kind := .conn }) n
  | none => s

/-- An endpoint uses a superseded map: it is sent a CONN_UPDATE that carries the map (R148). -/
def mapUpdate (s : State) (n : Nat) : State :=
  let e := entAt s n
  let x := epAt s n
  if e.mapStale ∧ x.conn.isNone then
    let c : ConnPend := { ref := none, mask := 0, feeder := e.feeder, superv := e.superv, interval := e.interval, mapIdx := e.mapIdx,
                          listen := e.listen }
    queueDl (setEp s n { x with conn := some c }) n { type := 0x11, val := connElem s n c, kind := .conn }
  else s

/-- Step 6 of R155 but for the answer: entry, pending elements and changes, and the payload of a DATA_UP. The first uplink of a relayed
leaf after AT_EVT confirms a change (R182). -/
def accept (s : State) (f : UpFrame) (evt : Option Resolved) (pres : Bool) : State :=
  let n := f.eph
  let k := f.t25 / 5000
  let due := decide (0 < f.relays) && (connDue s n k).isSome
  let s1 := acceptEntry (if due then setEnt s n (schedEnt s n k) else s) f evt
  let s2 := ackItems s1 n
  let s3 := if due || evt.any Resolved.applied then connDone s2 n
    else if evt.isSome && (connDue s n k).isSome then connAgain s2 n else s2
  let s4 := if (epAt s3 n).handTo.isSome then setEp s3 n { epAt s3 n with rejoin := true } else s3
  let s5 := mapUpdate s4 n
  if f.ftype = 0 then deliverAll s5 pres n f.t25 f.payload else s5

/-- CNT_GUARD clears with the first frame above UL_FCNT + 15 (R154); a pending CSKIP is dropped with it (R158). -/
def clearGuard (s : State) (n : Nat) : State :=
  if (entAt s n).cntGuard then
    setEp (updEnt s n fun e => { e with cntGuard := false }) n { epAt s n with cskip := false }
  else s

/-- An out-of-window frame: counted, and the entry becomes REJOIN unless it is ADMITTED (R157). -/
def outOfWindow (s : State) (n : Nat) : State :=
  let s1 := count1 s (Reg.MAC_CNT_COUNT 4)
  if (entAt s1 n).state = 1 then s1
  else updEnt (macUpd s1 fun m => { m with joins := m.joins.del n }) n fun e => { e with state := 5 }

/-! ### Joins (R149, R150) -/

/-- A join is denied (R149). -/
def denyJoin (s : State) (reason eui : Nat) : State :=
  let s1 := setErr (count1 s (Reg.MAC_CNT_COUNT 13)) Reg.MAC_ERR_JOIN_DENIED
  emit s1 0x0403 (leBytes 1 reason ++ List.replicate 7 0 ++ leBytes 8 eui)

/-- Events of other entries in slot period k, of T1 or of T2 and T3 entries that are ACTIVE or JOINING (R150 step 6). -/
def eventLoad (s : State) (n k : Nat) (t1 : Bool) : Nat :=
  (s.mac.fold.filter fun x => decide (x.1 ≠ n ∧ (x.2.state = 2 ∨ x.2.state = 3) ∧ (if t1 then x.2.gen = 1 else 2 ≤ x.2.gen) ∧
    sinceLast x.2 k ≠ 0) && (eventAt x.2 k).isSome).length

/-- The first slot period from `base` on with residue r modulo p. -/
def slotOfRes (base p r : Nat) : Nat := base + (r + p - base % p) % p

/-- The anchor slot period: the candidate residue with the fewest events, ties to the lowest (R150 step 6). -/
def anchorFor (s : State) (n p base : Nat) (t1 : Bool) : Option Nat :=
  let cand := (List.range p).filter fun r => !t1 || t1Candidate s n p r
  let best := cand.foldl (fun b r =>
    let l := eventLoad s n (slotOfRes base p r) t1
    match b with
    | some (_, l') => if l < l' then some (r, l) else b
    | none => some (r, l)) (none : Option (Nat × Nat))
  best.map fun x => slotOfRes base p x.1

/-- The entry that a new EUI-64 gets under JOIN_ANY (R150 step 1). -/
def joinEntry (h : UpHead) (q : List Byte) : FoldEntry :=
  { eui := h.src, type := fieldLE q 6 1 % 4, gen := h.gen, interval := 30000, superv := 1800 }

/-- How a JOIN_REQ came: the parent relay and the number of relays, none for a direct one. -/
abbrev JoinVia := Option (Nat × Nat)

/-- A join that is accepted (R150). The JOIN_ACCEPT of a direct request is planned; that of a relayed one is queued and travels down
the path (R176). -/
def acceptJoin (s : State) (x : RxFrame) (h : UpHead) (q : List Byte) (n : Nat) (o : FoldEntry) (sp anchor : Nat) (ofs : Int)
    (via : JoinVia) : State :=
  let ep := fieldLE q 0 2
  let same := decide (ep = o.keyEpoch ∧ o.eui = h.src ∧ o.state ≠ 0)
  let lastDl := fieldLE q 9 4
  let former := match s.mac.joins.get n none with
    | some j => if o.state = 2 then j.former else o.state
    | none => o.state
  let e : FoldEntry := { o with
    state := 2
    keyEpoch := ep
    caps := bits (fieldLE q 7 1) 2 0
    sca := bits (fieldLE q 7 1) 5 3
    pre := fieldLE q 8 1
    ulFcnt := h.fcnt
    ulHash := crc32c q
    cntGuard := false
    dlFcnt := if same then max o.dlFcnt lastDl else lastDl
    rekeyPend := o.rekeyPend && same
    mapStale := false
    access := freeVal s 32
    mode := if via.isSome then o.mode else x.mode
    rssi := x.rssi
    ofs := if via.isSome ∨ h.gen = 1 then o.ofs else sat16 ofs
    parent := (via.map Prod.fst).getD 0x3FFFF
    relays := (via.map Prod.snd).getD 0
    lastRx := x.t25 / 400000 % 2 ^ 32
    lastSp := (anchor + 2 ^ 32 - o.p) % 2 ^ 32
    lastEvt := 65535 }
  let s1 := setEnt (drawFree s) n e
  let x1 := epAt s1 n
  let s2 := setEp s1 n { x1 with
    rejoin := false, cskip := false, tcorr := none, tcorrSent := false
    upSp := if via.isSome then x1.upSp else some (x.t25 / 5000 % 2 ^ 32)
    dlq := x1.dlq.filter fun i => i.type ≠ 0x10
    conn := x1.conn.map fun c => { c with at' := none } }
  let s3 := if o.rekeyPend ∧ !same then rekeyDone s2 n else s2
  let j : JoinPlan := { sp := sp, ch := x.ch, mode := x.mode, jn := fieldLE q 2 4, anchor := anchor, former := former, sent := via.isSome }
  let s4 := macUpd s3 fun m => { m with joins := m.joins.set n (some j) none }
  if via.isSome then queueDl (useMaster s4) n { type := 0x10, val := joinVal s4 n j, kind := .plain } else s4

/-- A JOIN_REQ with a valid header (R149, R175). -/
def joinReq (s : State) (x : RxFrame) (h : UpHead) (via : JoinVia) : State :=
  let q := h.rest.take 17
  let ep := fieldLE q 0 2
  let known := findEui s h.src
  let e := (known.map (entAt s)).getD (joinEntry h q)
  if known.isSome ∧ e.state = 7 then count1 s (Reg.MAC_CNT_COUNT 0)
  else if known.isSome ∧ e.gen ≠ h.gen then badFrame s
  else if !flag s Reg.MAC_CTRL_JOIN_EN ∨ smallMap (mapAt s 0) then denyJoin s 1 h.src
  else if known.isNone ∧ !flag s Reg.MAC_CTRL_JOIN_ANY then denyJoin s 2 h.src
  else
    let (s1, key) := getKey s h.src ep
    let mic := key.bind fun k => ccmOpen k (nonce h.src h.fcnt 2) (h.head ++ q) (h.rest.drop 17)
    if mic.isNone then count1 s1 (Reg.MAC_CNT_COUNT 1)
    else if known.isSome ∧ ep < e.keyEpoch then denyJoin s1 3 h.src
    else if known.isSome ∧ ep = e.keyEpoch ∧ (h.fcnt ≤ e.ulFcnt ∨ (e.cntGuard ∧ h.fcnt ≤ e.ulFcnt + 15)) then
      count1 s1 (Reg.MAC_CNT_COUNT 2)
    else
      match (match known with | some n => some n | none => freeEph s1) with
      | none => denyJoin (setErr s1 Reg.MAC_ERR_FOLD_FULL) 4 h.src
      | some n =>
        let p := e.p
        let t1 := decide (h.gen = 1)
        let start := frameStart { e with pre := fieldLE q 8 1 } x.mode x.t25
        let near := nearestSlot h.gen x.ch start
        let k := if t1 ∨ via.isSome then start / 5000 else near.1
        let sp := k + 80 * fld s Reg.MAC_TIMING_JOIN_DELAY
        let double := !t1 && decide (12000 < dlAirtime s x.mode 72)
        match (if t1 && !t1Fits s1 n p then none else anchorFor s1 n p (sp + if double then 2 else 1) t1) with
        | none => denyJoin s1 5 h.src
        | some anchor => acceptJoin s1 x h q n e sp anchor near.2 via

/-! ### The frames (R155, R175, R445) -/

/-- A verified frame of a STANDBY module: logged for 4 s, and its PRESENCE goes to the module's own Cascade; the Fold stays
(R445). -/
def hear (s : State) (f : UpFrame) : State :=
  let seen := s.pair.heard.any fun h => decide (h.frame.eph = f.eph ∧ f.fcnt ≤ h.frame.fcnt)
  let s1 := { s with pair := { s.pair with
    heard := (s.pair.heard.filter fun h => !passedSec s h.at' 4) ++
      [{ frame := f, epoch := (entAt s f.eph).keyEpoch + b2n f.newKey, at' := s.el }] } }
  if seen ∨ f.ftype ≠ 0 then s1
  else ((elements f.payload.length f.payload).1.filter fun x => decide (x.1 = 2 ∧ x.2.length = 5)).foldl
    (fun s x => presence s f.t25 x.2) s1

/-- The inner frame of a RELAY_UP: header, security and counters, then acceptance without event resolution or RESP. An ACKREQ is
acknowledged by aggregation. A JOIN_REQ goes through R149. A third relay on the path is counted in RELAY_DEPTH (R175). -/
def relayed : Nat → State → UpFrame → State
  | 0, s, _ => count1 s (Reg.MAC_CNT_COUNT 10)
  | fuel + 1, s, outer =>
    match upHead (outer.payload.drop 1) with
    | none => badFrame s
    | some h =>
      if !headOk s h none then badFrame s
      else if h.ftype = 1 then
        if role s = 3 then s
        else joinReq s { ch := outer.ch, mode := outer.mode, rssi := fieldLE outer.payload 0 1, t25 := outer.t25, ant := 0, fec := none,
                          bytes := outer.payload.drop 1 }
          h (some (outer.eph, outer.relays + 1))
      else
        match screen s h with
        | (s1, .fresh n nk pl) =>
          let f : UpFrame := { eph := n, ftype := h.ftype, gen := h.gen, ackreq := h.ackreq, evf := h.evf, fcnt := h.fcnt,
                               newKey := nk, payload := pl, ch := outer.ch, mode := outer.mode, rssi := fieldLE outer.payload 0 1,
                               t25 := outer.t25, parent := outer.eph, relays := outer.relays + 1 }
          let e := entAt s1 n
          if role s1 = 3 then
            let s2 := hear s1 f
            if f.ftype = 2 then relayed fuel s2 f else s2
          else
            let s2 := clearGuard s1 n
            if e.state = 1 ∨ e.state = 5 then outOfWindow s2 n
            else
              let s3 := accept s2 f none true
              let s4 := if f.ackreq then ackLater s3 n f.fcnt else s3
              if f.ftype = 2 then relayed fuel s4 f else s4
        | (s1, .again n) =>
          if role s1 = 3 then s1
          else
            let s2 := updEnt s1 n fun e => { e with repeats := (e.repeats + 1) % 65536 }
            if h.ackreq then ackLater s2 n h.fcnt else s2
        | (s1, .cskip n) => if role s1 = 3 then s1 else setEp s1 n { epAt s1 n with cskip := true }
        | (s1, _) => s1

/-- Steps 5 and 6 of R155 for a direct frame that passed steps 1 to 4. -/
def resolveAccept (s0 : State) (f : UpFrame) : State :=
  let n := f.eph
  let s := if f.newKey then s0 else clearGuard s0 n
  let e := entAt s n
  let start := frameStart e f.mode f.t25
  let near := (nearestSlot e.gen f.ch start).2
  let oow (ofs : Int) : State :=
    let s1 := outOfWindow s n
    let s2 := if ofs.natAbs ≤ 200 then setEp s1 n { epAt s1 n with rejoin := true } else s1
    answer s2 n f start ofs false false
  if e.state = 1 ∨ e.state = 5 then oow near
  else if e.gen = 1 then
    let r := resolveT1 s n
    answer (accept (drawFree s) f (some r) true) n f start r.ofs true f.ackreq
  else
    match resolve s n f.ch f.evf start with
    | none => oow near
    | some r =>
      let s1 := if 200 < r.ofs.natAbs then count1 s (Reg.MAC_CNT_COUNT 5) else s
      answer (accept s1 f (some r) true) n f start r.ofs true f.ackreq

/-- A direct DATA_UP or RELAY_UP (R155). -/
def directUp (s : State) (x : RxFrame) (h : UpHead) : State :=
  let mk (n : Nat) (nk : Bool) (pl : List Byte) : UpFrame :=
    { eph := n, ftype := h.ftype, gen := h.gen, ackreq := h.ackreq, evf := h.evf, fcnt := h.fcnt, newKey := nk, payload := pl,
      ch := x.ch, mode := x.mode, rssi := x.rssi, t25 := x.t25 }
  let flagged (s : State) (n : Nat) (ack : Bool) : State :=
    let start := frameStart (entAt s n) x.mode x.t25
    answer s n (mk n false []) start (nearestSlot h.gen x.ch start).2 false ack
  match screen s h with
  | (s1, .drop) => s1
  | (s1, .replay n) => if role s1 = 3 then s1 else flagged s1 n false
  | (s1, .cskip n) => if role s1 = 3 then s1 else flagged (setEp s1 n { epAt s1 n with cskip := true }) n false
  | (s1, .again n) =>
    if role s1 = 3 then s1
    else flagged (updEnt s1 n fun e => { e with repeats := (e.repeats + 1) % 65536 }) n h.ackreq
  | (s1, .fresh n nk pl) =>
    let f := mk n nk pl
    if role s1 = 3 then
      let s2 := hear s1 f
      if f.ftype = 2 then relayed 2 s2 f else s2
    else
      let s2 := resolveAccept s1 f
      if f.ftype = 2 ∧ (entAt s2 n).ulFcnt = f.fcnt ∧ (entAt s2 n).ulCount ≠ (entAt s1 n).ulCount then relayed 2 s2 f else s2

/-! ### The commands -/

/-- A module hears the frame: UNPAIRED, ACTIVE or STANDBY (R433, R445). -/
def hears (s : State) : Bool := onAir s || decide (role s = 3)

/-- FTYPE of a received frame. -/
def RxFrame.ftype (x : RxFrame) : Nat := bits (fieldLE x.bytes 0 1) 3 0

/-- Take the oldest delivered frame that satisfies `p`, and work on it. -/
def withFrame (s : State) (p : RxFrame → Bool) (work : State → RxFrame → UpHead → State) : State :=
  match s.rad.rxq.find? p with
  | none => s
  | some x =>
    let s1 := radUpd s fun r => { r with rxq := removeOne x r.rxq }
    if !hears s1 then s1
    else
      match upHead x.bytes with
      | none => badFrame s1
      | some h => if headOk s1 h (some x.mode) then work s1 x h else badFrame s1

/-- A JOIN_REQ; a STANDBY module leaves joins to its partner. -/
def execJoinReq (s : State) : Host.Outcome State Fault Refusal :=
  .next (withFrame s (fun x => x.ftype = 1) fun s x h => if role s = 3 then s else joinReq s x h none)

/-- A DATA_UP; a frame whose FTYPE is no uplink type falls here too, and is counted in BAD_FRAME. -/
def execDataUp (s : State) : Host.Outcome State Fault Refusal :=
  .next (withFrame s (fun x => decide (x.ftype ≠ 1 ∧ x.ftype ≠ 2)) directUp)

def execRelayUp (s : State) : Host.Outcome State Fault Refusal := .next (withFrame s (fun x => x.ftype = 2) directUp)

end Sys2Proof.Machine
end

