-- ==== Sys2Proof/Machine/PairBase.lean ====
section
/-! DEFINITION. The pair's shared operations: roles, ACT and HOLD lines, streams, release and take-over (R433-R447). -/

namespace Sys2Proof.Machine

/-! ### Lines (R434, R436) -/

/-- Drive HOLD_OUT. -/
def holdOut (s : State) (b : Bool) : State := drivePad (setFlag s Reg.PAR_STAT_HOLD b) .holdOut (b2n b)

/-- The gated pads follow the gate (R433); when the module began to drive them as ACTIVE (R434). -/
def gateCheck (s : State) : State :=
  showPads (pairUpd s fun p => { p with driveAt := if gateOpen s ∧ role s = 2 then some (p.driveAt.getD s.el) else none })

/-- ACT_OUT toggles. -/
def toggleAct (s : State) : State :=
  let b := !s.pair.actOut
  let s1 := setFlag (pairUpd s fun p => { p with actOut := b, actOutAt := some s.el }) Reg.PAR_STAT_ACT_OWN true
  gateCheck (drivePad s1 .actOut (b2n b))

/-! ### Streams (R442, R446) -/

/-- A FRAM slot of Basin as numbers: per feeder 18 accumulators, and the open interval. -/
def BasSlot.nums (x : BasSlot) : List Nat :=
  [x.seq, x.dt] ++ x.feeders.flatMap fun f => f.1 ++ (match f.2 with
    | some i => [1, i.start] ++ i.base ++ [i.secs, b2n i.gap + 2 * b2n i.step + 4 * b2n i.dead + 8 * b2n i.chf + 128 * b2n i.cal]
    | none => List.replicate 22 0)

/-- The slot that numbers spell; an interval is of the length now set. -/
def BasSlot.ofNums (l : List Nat) (minutes : Nat) : BasSlot :=
  let at' (i : Nat) : Nat := l.getD i 0
  { seq := at' 0, dt := at' 1, feeders := (List.range 6).map fun f =>
      let o := 2 + 40 * f
      let fl := at' (o + 39)
      ((List.range 18).map fun q => at' (o + q) % 2 ^ 96,
       if at' (o + 18) = 0 then none
       else some { start := at' (o + 19), minutes := minutes, base := (List.range 18).map fun q => at' (o + 20 + q) % 2 ^ 96,
                   secs := at' (o + 38), gap := bit fl 0, step := bit fl 1, dead := bit fl 2, chf := bit fl 3, cal := bit fl 7 }) }

/-- What a commit of Basin would write now. -/
def basSlotNow (s : State) : BasSlot :=
  { seq := s.bas.slots.foldl (fun a x => max a x.seq) 0 + 1, dt := s.dt,
    feeders := (List.range 6).map fun f => let x := fdrAt s f; (x.acc, x.interval) }

def basBody (s : State) : List Byte := Config.basSlotBytes (basSlotNow s).nums
def fastBody (s : State) : List Byte := (List.range 16).flatMap fun k => beBytes 4 (loopAt s (fast0 + k)).y
def foldBody (n : Nat) (e : FoldEntry) : List Byte := beBytes 3 n ++ [0] ++ e.bytes

/-- The whole of a stream's state, as its messages (R443). -/
def bulkBodies (s : State) (msg : Nat) : List (List Byte) :=
  match msg with
  | 0x41 => s.mac.fold.map fun x => foldBody x.1 x.2
  | 0x42 =>
    let l := mirWords s
    (List.range (l.length / 2048 + 1)).map fun i => oxBody s ((l.drop (2048 * i)).take 2048) true
  | 0x43 => [basBody s]
  | 0x44 => ((s.weir.loops.filter fun x => !isFast x.1 && x.2.desc.isSome).map fun x => beBytes 1 1 ++ [0, 0, 0] ++ slowBody s x.1)
  | 0x45 => [fastBody s]
  | 0x46 => ((auditAll s).map fun r => leBytes 8 1 ++ r.bytes) ++ s.cis.live.map fun r => leBytes 8 0 ++ r.body.bytes
  | 0x47 => s.street.commits.map fun c => c.page ++ c.payload
  | 0x48 =>
    (s.pwr.ckRegs.map fun x => cfgBody Config.regItem (Config.regPlace x.1) (beBytes 4 x.2.toNat)) ++
      (let l := cfgImage s.pwr.ckTold; (cfgPieces l.length 0 l).map fun x => cfgBody Config.tableItem x.1 x.2)
  | _ => []

def streams : List Nat := [0x41, 0x42, 0x43, 0x44, 0x45, 0x46, 0x47, 0x48]

/-- Send a bulk copy of a stream. -/
def sendBulk (s0 : State) (msg : Nat) : State :=
  let s := if msg = 0x48 then ckTables s0 else s0
  (bulkBodies s msg).foldl (fun s b => mirSend s msg b) s

/-- A PARTNER event (R464). -/
def partnerEvent (s : State) (k : Nat) : State := emit s 0x0E01 (leBytes 1 k)

/-- SYNCED falls, with its event. -/
def unsync (s : State) : State :=
  if flag s Reg.PAR_STAT_SYNCED then partnerEvent (setFld s Reg.PAR_STAT_SYNCED 0) 3 else s

/-- Request a bulk copy of a stream, or of all with 0 (R443). -/
def requestBulk (s : State) (msg : Nat) : State :=
  let l := if msg = 0 then streams else [msg]
  mirSend (pairUpd (unsync s) fun p => { p with bulk := l.foldl (fun m k => m.set k true false) p.bulk
                                                announced := l.foldl (fun m k => m.del k) p.announced
                                                fresh := p.fresh.filter fun x => !l.contains x.1 }) 0x49 (beBytes 1 msg)

/-- The bits of a LEASE (R446). -/
def leaseBody (s : State) (release : Bool) : List Byte :=
  beBytes 2 (fld s Reg.PAR_STAT_EPOCH) ++
    beBytes 1 (fld s Reg.PAR_STAT_UNIT + 2 * role s + 16 * b2n release + 32 * fld s Reg.PAR_STAT_SYNCED) ++ [0] ++
    streams.flatMap fun k => beBytes 4 (s.pair.mirSeq.get k 0)

/-! ### Leaving and taking the active role -/

/-- Every command fetched and not yet started completes with ABORTED_SWITCHOVER (R75). -/
def abortSwitchover (s : State) : State :=
  completeAll s (sortCmds ((allFetched s).filter fun c => !c.started)) { status := 0x31 }

/-- A change of role with its event (R464). -/
def setRole (s : State) (new cause frames : Nat) : State :=
  let old := role s
  emit (setFld s Reg.PAR_STAT_ROLE new) 0x0E00
    (leBytes 1 old ++ leBytes 1 new ++ leBytes 1 cause ++ [0] ++ leBytes 2 (fld s Reg.PAR_STAT_EPOCH) ++ [0, 0] ++ leBytes 4 frames)

/-- The module no longer acts: Ox stands by, sinks and outputs stop, its windows, planned events and answers go, and frames received from
now on only enter the log. -/
def standDown (s : State) (new cause : Nat) : State :=
  let s1 := macUpd (oxDemote (abortSwitchover s)) fun m => { m with wins := [], plans := [], resps := [] }
  let s2 := setRole s1 new cause 0
  outputsCheck (gateCheck (if new = 3 then s2 else holdOut s2 false))

/-- The release of R441: HOLD_OUT, the streams brought up to date, the LEASE that releases, and no more toggles. The role is left
at once (log entry 101). -/
def releaseRole (s : State) : State :=
  let s1 := oxFlush (pairUpd (holdOut (abortSwitchover s) true) fun p => { p with edgeBack := false, leaseBack := false })
  let s2 := mirSend (mirSend s1 0x43 (basBody s1)) 0x45 (fastBody s1)
  let s3 := mirSend s2 0x40 (leaseBody s2 true)
  standDown (pairUpd s3 fun p => { p with leaseTx := some s.el }) 3 1

/-- Apply the logged frames that the mirrored Fold does not hold, by SFD end; one under a new key is new only while the Fold has the old
one (R445). -/
def applyHeard (s : State) : State × Nat :=
  let l := (s.pair.heard.filter fun h => !passedSec s h.at' 4).sortBy fun a b => decide (a.frame.t25 ≤ b.frame.t25)
  l.foldl (fun (s, k) h =>
    let e := entAt s h.frame.eph
    let f := { h.frame with newKey := h.frame.newKey && decide (e.keyEpoch < h.epoch) }
    if f.fcnt ≤ e.ulFcnt ∧ !f.newKey then (s, k)
    else
      let evt := if f.relays = 0 ∧ f.gen ≠ 1 then resolve s f.eph f.ch f.evf (frameStart e f.mode f.t25) else none
      let s1 := accept s f evt false
      (count1 (if f.ackreq then ackLater s1 f.eph f.fcnt else s1) (Reg.PAR_CNT_COUNT 3), k + 1))
    (pairUpd s fun p => { p with heard := [] }, 0)

/-- Counters leap before the first transmission (R174). -/
def leapCounters (s : State) : State :=
  let s1 := s.mac.fold.foldl (fun s x => if x.2.state = 0 then s else
    updEnt s x.1 fun e => { e with dlFcnt := min (e.dlFcnt + 65536) 0xFFFFFFFF }) s
  let c := (fld s1 Reg.MAC_BCNT_COUNT + 65536) % 2 ^ 32
  jrn (setFld s1 Reg.MAC_BCNT_COUNT c) (.counter 3 0 c)

/-- The steps whose commit is among the pending ones: it is not issued a second time (R194, R204). -/
def plannedFor (s : State) : List (Nat × Nat × Nat) :=
  let ahead := (fld s Reg.STR_COMMIT_LEAD + 8) * 65536
  (triggersIn s (fun st => st.commit && decide (st.kind < 2)) s.dt (s.dt + ahead)).filterMap fun f =>
    let t := (f.t * 65536).toNat
    ((schedAt s f.prof).bind fun p => p.steps[f.idx]?).bind fun st =>
      if s.street.commits.any fun c => decide (c.kind = 0 ∧ c.state = 0 ∧ c.group = st.group ∧ c.actDt = t ∧
          c.body = leBytes 2 st.cap ++ leBytes 2 st.fade) then some (f.prof, f.idx, t) else none

/-- Commits go on: no record of them names a command, those whose COMMIT_DONE fell due while the partner held its lease are done,
new ones are numbered above, and windows that lie ahead are planned (R204). -/
def rebuildCommits (s : State) : State :=
  let held := s.dt - (match s.pair.leaseGrant with | some t => s.el - t | none => 0)
  let w := fld s Reg.STR_COMMIT_LATE_WIN
  let s1 := streetUpd s fun x => { x with
    lastId := (x.mirroredId.map x.lastId.put).getD x.lastId
    mirroredId := none
    commits := x.commits.map fun c => { c with ref := none, done := c.done || decide (c.actDt + w * 65536 ≤ held) } }
  planCommits (streetUpd s1 fun x => { x with planned := plannedFor s1 })

/-- The steps in force at the take-over (R194, R196). -/
def rebuildSteps (s : State) : State :=
  let s1 := stepsSeen s
  s1.street.profiles.keys.foldl takeForce s1

/-- Targets that the mirrored Fold shows to have reported for the image of an endpoint slot. -/
def reported (s : State) (image : Nat) (targets : List Nat) : SMap Bool :=
  (targets.filter fun n => otaImage (entAt s n).ota = image).map fun n => (n, true)

/-- Campaigns are rebuilt from commit records and Fold summaries (R334): an IMAGE_OFFER makes a campaign that is SENDING, before its
round 0 when that has not begun, else with a round planned at once, or one that is DONE when some target has reported and none asks for a
block; an IMAGE_ACTIVATE makes one that is ACTIVATING, or CLOSED past its tally; an IMAGE_CANCEL ends it. The settings that neither
record carries are free values (log entry 102). -/
def rebuildCampaigns (s : State) : State :=
  (s.street.freed ++ s.street.commits).foldl (fun s c =>
    let k := fieldLE c.body 0 1
    let slot := slotOf s (2 + k)
    let fr (i lo hi : Nat) : Nat := lo + Config.free (s.freeN + i) % (hi + 1 - lo)
    let draw (s : State) : State := { s with freeN := s.freeN + 7 }
    if 15 < k ∨ c.kind < 8 ∨ 10 < c.kind ∨ slot.state ≠ 2 then s
    else if c.kind = 8 then
      let targets := campTargets s slot c.group c.all
      let first := (c.actDt + 65535) / 65536 + 10
      let begun := decide (first ≤ dtSec s.dt)
      let camp : Campaign := {
        state := 1, targets := targets, group := c.group, all := c.all, burst := fr 0 1 255, gap := fr 1 1 255,
        roundGap := fr 2 60 65535, maxRounds := fr 3 (fr 6 1 254 + 1) 255
        sendFrom := fr 4 0 1439, sendTo := fr 5 0 1439, rounds := if begun then fr 6 1 254 else 0,
        nextRound := if begun then dtSec s.dt else first, seen := reported s slot.image targets }
      draw (setCamp s k (if begun && camp.seen ≠ [] && (roundBlocks s k camp).isEmpty then { camp with state := 2 } else camp))
    else if c.kind = 9 then
      let tally := c.actDt + (fieldLE c.body 6 2 + fr 0 60 65535) * 65536
      let camp := { campAt s k with targets := campTargets s slot c.group c.all, group := c.group, all := c.all }
      draw (setCamp s k (if tally ≤ s.dt then { camp with state := 4 }
        else { camp with state := 3, act := some { id := c.id, tally := tally, ref := none } }))
    else setCamp s k { campAt s k with state := 2 }) s

/-- Each ring goes on at the highest mirrored SEQ + 1 (R304); what this module recorded from there on as STANDBY would share its SEQ
and goes. -/
def ringsGoOn (s : State) : State :=
  cisUpd s fun c =>
    let n := match c.mirSeq.get 0 none with | some m => m + 1 | none => c.nseq
    let n1 := match c.mirSeq.get 1 none with | some m => m + 1 | none => c.nseq1
    relay { c with
      live := c.live.filter fun x => decide (x.body.seq < n)
      pend1 := c.pend1.filter fun r => decide (r.seq < n1), fram1 := c.fram1.filter fun r => decide (r.seq < n1)
      arch1 := c.arch1.filter fun r => decide (r.seq < n1)
      nseq := n, journal := journalSeq c.journal n, mirSeq := [], nseq1 := n1 }

/-- Become the ACTIVE member (R437, R447). `cause` as in R464. -/
def becomeActive (s00 : State) (cause : Nat) : State :=
  let s0 := ringsGoOn s00
  let s := setFld s0 Reg.PAR_STAT_EPOCH ((max s0.pair.highEpoch (fld s0 Reg.PAR_STAT_EPOCH) + 1) % 65536)
  let s1 := setErr (count1 (setFld (setFld s Reg.PAR_STAT_SYNCED 0) Reg.PAR_STAT_ROLE 2) (Reg.PAR_CNT_COUNT 0)) Reg.PAR_ERR_TAKEOVER
  let (s2, frames) := applyHeard (if cause = 2 then s1 else leapCounters s1)
  let s3 := if cause = 2 then planCommits s2 else rebuildCampaigns (rebuildCommits (rebuildSteps s2))
  let s4 := (List.range 6).foldl (fun s f => updIntv s f fun i => { i with gap := true }) s3
  let s5 := fedUpd (if cause = 2 then weirStart s4 else weirTakeover s4) fun f => { f with
    remote := f.remote.map fun x => (x.1, x.2.map fun y => (y.1, y.2.1, s.el)) }
  let s6 := oxTakeover (autostart (ftnReset (ckLoad s5 fun c => decide (0xD000 ≤ c.base ∧ c.base < 0xE000))))
  let s7 := toggleAct (pairUpd s6 fun p => { p with
    highEpoch := fld s Reg.PAR_STAT_EPOCH, released := false, overdue := none, startAt := none
    bulk := [], announced := [], fresh := [] })
  emit s7 0x0E00 (leBytes 1 (role s0) ++ leBytes 1 2 ++ leBytes 1 cause ++ [0] ++ leBytes 2 (fld s Reg.PAR_STAT_EPOCH) ++ [0, 0] ++
    leBytes 4 frames)

end Sys2Proof.Machine
end

