-- ==== Sys2Proof/Machine/Power.lean ====
section
/-! DEFINITION. Resets and start-up: what each depth of reset clears, the boot ROM, and the steps of R497 (R20, R324, R325,
R363, R407, R408, R496-R499, R504). A start-up is one step of the machine. -/

namespace Sys2Proof.Machine

def pwrUpd (s : State) (f : PwrSt → PwrSt) : State := { s with pwr := f s.pwr }

/-! ### What a reset clears -/

/-- How deep a reset goes (R20). -/
inductive Depth where
  | mod | cold | por
  deriving DecidableEq, Repr

/-- A reset of this depth resets a card (R20). -/
def Depth.resets (d : Depth) (c : Card) : Bool :=
  match c.src with
  | .fixed => false
  | .por => d = .por
  | .cold => d ≠ .mod
  | .mod | .dom | .perst => true

/-- Registers after a reset. GEN is held in the checkpoint; LC, ROOT and PUF_MAX_ERR outlive a MOD reset, as do a latched warning
(R488), what the supply monitors show, and the OT faults (R363). -/
def resetRegs (s : State) (d : Depth) : State :=
  let kept := Reg.CAS_STAT_GEN ::
    (if d = .mod then [Reg.KEY_STAT_LC, Reg.KEY_STAT_ROOT, Reg.KEY_STAT_PUF_MAX_ERR, Reg.PWR_STAT_PF, Reg.PWR_STAT_VIN_OK,
      Reg.PWR_STAT_VBAK_OK] ++
      (List.range 16).map Reg.FTN_SINK_STAT_OT else [])
  kept.foldl (fun t f => setFld t f (fld s f)) (dropRegs s d.resets)

/-- Every pad returns to its state in reset, but for VIO_OUT, which only a loss of VIN turns off (R498, R503, R505, R510). -/
def releasePads (s : State) : State :=
  let s1 := dropDrives s fun p => decide (p ≠ .vioOut)
  { s1 with pin := { s1.pin with ain := [] } }

/-- Time over a reset: staged values, waiting steps and discipline go; a leap second under way goes only with AO. -/
def resetTime (t : TimeSt) (d : Depth) (el sec : Nat) : TimeSt :=
  let z : TimeSt := { rtcValid := t.rtcValid && decide (d ≠ .por), ptpLost := false, ppsLost := false, lastSync := el, ppsLastSec := sec }
  match d with
  | .mod => { z with leftLocked := t.leftLocked, leap := t.leap, leapAcc := t.leapAcc }
  | .cold => { z with leap := t.leap, leapAcc := t.leapAcc }
  | .por => z

/-- The blocks' own state after a reset: what NAND, FRAM and AO hold stays. -/
def resetBlocks (s : State) (d : Depth) : State :=
  let h := s.host
  let r := s.rad
  let m := s.mac
  let x := s.street
  let dt := if d = .por then 0 else s.dt
  { s with
    dt := dt
    host := { mem := h.mem, bad := h.bad, nextSeq := h.nextSeq, readData := h.readData,
              link := { perst := h.link.perst, perstRelease := max h.link.perstRelease s.el } }
    time := { resetTime s.time d s.el (dtSec dt) with since := dt + 1 }
    rad := { custom := r.custom, ckProfile := r.ckProfile, fram := r.fram, resetAt := s.el }
    mac := { ckpt := m.ckpt, ckptBcnt := m.ckptBcnt, ckptOld := m.ckptOld, journal := m.journal, maps := m.maps, oldMaps := m.oldMaps, ckptAt := s.el
             mapPend := m.mapPend.map fun p => { p with ref := none }
             bcast := m.bcast.map fun p => { p with ref := none } }
    street := { members := x.members, groups := x.groups, profiles := x.profiles, exceptions := x.exceptions, scenes := x.scenes
                lastId := x.lastId, mirroredId := x.mirroredId, planned := x.planned, stepSeen := dt, ambSeen := dt
                commits := x.commits.map fun c => { c with ref := none } }
    cas := { active := s.cas.active, staging := s.cas.active, borders := s.cas.borders }
    upd := { s.upd with camps := [], verifying := [], hostConfirm := false,
                         act := s.upd.act.map fun a => { a with since := none } }
    pair := {}
    fed := { routes := s.fed.routes, peers := s.fed.peers, pubs := s.fed.pubs, feederMap := s.fed.feederMap
             remote := s.fed.feederMap.foldl (fun m x => match x.2 with | some y => m.set y.1 (some (0, 0, s.el)) none | none => m) [] }
    key := if d = .mod then { s.key with job := none } else { s.key with root := none, slots := [], job := none, debug := .locked }
    bst := { tiles := s.bst.tiles }
    pwr := { s.pwr with
      changes := [], hot := false
      tamperDue := if d = .por then [] else s.pwr.tamperDue
      tamperDt := if d = .por then 0 else s.pwr.tamperDt } }

/-- A reset of everything that the depth covers. -/
def wipe (s0 : State) (d : Depth) : State :=
  let s := ckFallBack s0
  let lock := qual s
  let s1 := resetBlocks (resetRegs (releasePads s) d) d
  let s2 := oxReset (ftnReset (weirReset (basinReset (cisReset s1)))) (oxBank s)
  if d = .mod ∧ lock = 4 then sourceLost s2 else s2

/-- Jets that ran or waited at a reset stop with cause 3 (R365). -/
def jetStops (s : State) (jets : List (Nat × Nat)) : State :=
  jets.foldl (fun s x => emit s 0x0B00 (leBytes 1 x.1 ++ leBytes 1 3 ++ leBytes 1 x.2)) s

/-- The jets that run or wait, each with its PC. -/
def liveJets (s : State) : List (Nat × Nat) :=
  ((List.range 16).filter fun j => (jetAt s j).state ≠ 0).map fun j => (j, (jetAt s j).pc)

/-- Cistern's rings go on after a reset, from the state before it and after it, and the jets' stop is recorded. -/
def afresh (s0 s : State) : State := jetStops (cisResume s) (liveJets s0)

/-! ### The boot ROM (R322, R324, R325) -/

/-- Change the STATE of a slot. -/
def markSlot (s : State) (n v : Nat) : State := setUSlot s n { slotOf s n with state := v }

/-- The slot that a boot selects, and the fallback it makes, as slot and cause. `again`: a cold start after a warning whose commit
completed; `health`: the health window expired. -/
def selectSlot (s : State) (again health : Bool) : State × Nat × List (Nat × Nat) :=
  match s.upd.boot with
  | none => (s, s.upd.runSlot, [])
  | some b =>
    if !b.booted then
      let s1 := updUpd s fun u => { u with boot := some { b with booted := true }, trialSince := s.el, runSlot := b.slot }
      (markSlot (if (slotOf s b.prev).state = 5 then markSlot s1 b.prev 2 else s1) b.slot 6, b.slot, [])
    else if again ∧ b.tries = 1 then
      (updUpd s fun u => { u with boot := some { b with tries := 2 }, trialSince := s.el }, b.slot, [])
    else
      let s1 := updUpd s fun u => { u with boot := none, runSlot := b.prev }
      (markSlot (markSlot s1 b.slot 3) b.prev 5, b.prev, [(b.slot, if health then 0 else 1)])

/-- A slot that holds an image failed R316: it becomes FAILED, and is armed no more (log entry 80). -/
def slotFailed (s : State) (n : Nat) : State :=
  if (slotOf s n).state < 2 then s
  else updUpd (setErr (markSlot s n 3) Reg.UPD_ERR_VERIFY_FAIL) fun u => { u with
    act := if u.act.any fun a => a.slot = n then none else u.act }

/-- Verify the selected slot, then the other; with neither the module is in RESCUE. -/
def bootRom (s : State) (again health : Bool) : State × List (Nat × Nat) :=
  let (s1, n, fb) := selectSlot s again health
  let (s2, bad) := checkImage s1 n (imageKey s1 n)
  let o := 1 - n
  if bad.isNone then (updShow (updUpd s2 fun u => { u with rescue := false }), fb)
  else
    let (s3, bad2) := checkImage (slotFailed s2 n) o (imageKey s2 o)
    if bad2.isNone then
      (markSlot (updUpd s3 fun u => { u with
        boot := none, runSlot := o, rescue := false
        act := if u.act.any fun a => a.slot = o then none else u.act }) o 5, fb ++ [(n, 2)])
    else (setErr (updShow (updUpd (slotFailed s3 o) fun u => { u with boot := none, rescue := true })) Reg.UPD_ERR_RESCUE, fb)

/-- What a start-up writes of a fallback (R324, R325, R336). -/
def fellBack (s : State) (n cause : Nat) : State :=
  let x := slotOf s n
  let s1 := updAudit (setErr (count1 s (Reg.UPD_CNT_COUNT 7)) Reg.UPD_ERR_FELLBACK) 4 n []
  emit s1 0x0A02 (leBytes 1 (slotVal n) ++ leBytes 1 cause ++ [0, 0] ++ leBytes 4 x.imageId)

/-! ### Start-up (R497-R499) -/

/-- VIO_OUT is on, and step 1 finds the straps, the supplies and the tamper inputs (R497, R502, R504, R523). -/
def takeBoot (s : State) (b : Boot) (cause : Nat) : State :=
  [(Reg.PIN_STRAP_STRAP, b.straps.toNat), (Reg.PAR_STAT_UNIT, b2n (bit b.straps.toNat 3)), (Reg.PWR_VOLT_VIN, min b.vin 65535),
   (Reg.PWR_VOLT_VBAK, min b.vbak 65535), (Reg.PWR_TEMP_LID, ofSigned 16 b.lid), (Reg.PWR_STAT_VBAK_OK, b2n (decide (2000 ≤ b.vbak))),
   (Reg.PWR_RST_CAUSE, cause), (Reg.PIN_TAMPER_LEVEL, b.tamp.toNat)].foldl (fun s x => setFld s x.1 x.2) (drivePad s .vioOut 1)

/-- Steps 1 to 3, which only a cold start has: the power-fail record, QUAL, the latches of DT (R113), OTP and the root. -/
def coldSteps (s : State) (b : Boot) (warned : Bool) : State :=
  let s1 := match s.pwr.pfRec with
    | some r => setFlag (setFld s Reg.PWR_PF_COMMIT_US (min r.us 65535)) Reg.PWR_PF_DONE r.done
    | none => s
  let s2 := if warned then setErr s1 Reg.PWR_ERR_PF else s1
  let s3 := latchCal (latchSec (if s2.time.rtcValid then setQual s2 1 none else s2))
  rootBuild (otpShow s3) b.cells

/-- The role at the radio step: STARTING with pairing on, else UNPAIRED (R432, R439, R506). -/
def startRole (s : State) : State :=
  let wait := (200 + 100 * fld s Reg.PAR_STAT_UNIT) * 65536 / 1000
  if flag s Reg.PAR_CTRL_PAIR_EN then setFld (pairUpd s fun p => { p with startAt := some s.el }) Reg.PAR_STAT_ROLE 1
  else pairUpd s fun p => { p with wireUntil := if s.pwr.ckHas then 0 else s.el + wait }

/-- Supervision counts from the radio step (R499). -/
def stampLastRx (s : State) : State :=
  macUpd s fun m => { m with fold := m.fold.map fun x =>
    if x.2.state = 2 ∨ x.2.state = 3 ∨ x.2.state = 6 then (x.1, { x.2 with lastRx := dtSec s.dt % 2 ^ 32 }) else x }

/-- A register of the radio or of Tamin. -/
def ofRadio (c : Card) : Bool := decide (c.base / 4096 = 4 ∨ c.base / 4096 = 6)

/-- The radio step: each block's registers from the checkpoint, the mode, the profile, and what starts with them (R132, R133,
R201, R325, R363, R405, R422, R485). CUSTOM_VALID follows the stored profile (log entry 150). Without a root the radio and Tamin stay as
the reset left them, and the other blocks start as usual (R408, log entry 153). -/
def radioStep (s : State) (bare : Bool) : State :=
  let s1 := ckLoad s fun c => !bare || !ofRadio c
  let mode := s.pwr.ckMode
  let s2 := setFld (setFld s1 Reg.PWR_STAT_MODE mode) Reg.RAD_CTRL_QUIET mode
  let quietRadio := bare ∨ s.upd.rescue ∨ 4 ≤ lifeCycle s
  let s3 := if quietRadio then s2 else setFld s2 Reg.RAD_STAT_PROFILE s.rad.ckProfile
  let s4 := restoreDuty (setFlag s3 Reg.RAD_STAT_CUSTOM_VALID (decide (s.rad.custom ≠ {})))
  let s5 := startRole (if bare then s4 else stampLastRx s4)
  let s6 := driveClks <| s5.street.profiles.keys.foldl takeForce s5
  let s7 := autostart (if role s6 = 0 then planCommits (weirStart s6) else s6)
  oxRestore (syncSlow (startFast s7))

/-- A TAMPER record (R522). -/
def tamperRecord (s : State) (inputs : Nat) : State :=
  record s 3 19 0x10 (leBytes 1 inputs ++ List.replicate 7 0 ++ leBytes 8 s.pwr.tamperDt ++ List.replicate 4 0)

/-- Step 9: the rings are ready, RESTART is written, and then what start-up found. -/
def hostRings (s : State) (cause : Nat) (fb : List (Nat × Nat)) : State :=
  let s1 := restartRecord (setFld (setFld s Reg.HIF_STAT_READY 1) Reg.PWR_STAT_STEP 9) cause
  let s2 := pwrUpd (s1.pwr.tamperDue.foldl tamperRecord s1) fun p => { p with tamperDue := [] }
  fb.foldl (fun s x => fellBack s x.1 x.2) s2

/-- Mark the slots, copies and records that fail their CRC or cannot be read (R275, R302, R395, R414, R418). -/
def takeBad (s : State) (l : List BadCrc) : State :=
  let s1 := l.foldl (fun s x =>
    match x with
    | .basin n => basUpd s fun b =>
      let top := b.slots.foldl (fun m y => max m y.seq) 0
      { b with slots := b.slots.map fun y => if decide (y.seq = top) = n then { y with ok := false } else y }
    | .retained n => oxUpd s fun o =>
      let top := o.slots.foldl (fun m y => max m y.seq) 0
      { o with slots := o.slots.map fun y => if decide (y.seq = top) = n then { y with ok := false } else y }
    | .coop n => keyUpd s fun k =>
      let top := k.recs.foldl (fun m y => max m y.rank) 0
      { k with recs := k.recs.map fun y => if decide (y.rank = top) = n then { y with ok := false } else y }
    | .store n => keyUpd s fun k => { k with copies := k.copies.map fun y => if decide (y.seq = lastCopy k) = n then { y with ok := false } else y }
    | .record _ _ => s) s
  cisBad s1 (l.filterMap fun x => match x with | .record r n => some (r.val, n) | _ => none)

/-- Steps 1 to 4: straps and supplies, what only a cold start has, and the self-test (R475, R497). -/
def firstSteps (s : State) (b : Boot) (cause : Nat) (warned : Bool) : State :=
  let s1 := takeBoot (takeBad s b.badCrc) b cause
  selfTest (if cause ≤ 3 then coldSteps s1 b warned else s1) b.failed

/-- Coop could not rebuild the root. -/
def noRoot (s : State) : Bool := decide (fld s Reg.KEY_STAT_ROOT = 2)

/-- Steps 5 to 9 from what the boot ROM leaves (R497). -/
def lastSteps (p : State × List (Nat × Nat)) (bare : Bool) (cause : Nat) : State :=
  let s1 := restoreBasin (restoreFold (setFld p.1 Reg.BST_TILES_SPARES (131072 - p.1.bst.tiles.length)))
  hostRings (radioStep s1 bare) cause p.2

/-- A start-up: all of R497 after a cold start, from step 4 on after a MOD reset (R498). -/
def startUp (s : State) (b : Boot) (cause : Nat) (warned again health : Bool) : State :=
  let s1 := firstSteps s b cause warned
  let s2 := if noRoot s1 then setFld s1 Reg.BST_STAT_START 2 else s1
  lastSteps (bootRom (coopRestore (ckLoad s2 fun c => c.base = 0xC008)) again health) (noRoot s1) cause

/-- A MOD reset with its cause (R496). -/
def modReset (s : State) (b : Boot) (cause : Nat) (health : Bool) : State :=
  startUp (afresh s (wipe (count1 s (Reg.PWR_CNT_COUNT 3)) .mod)) b cause false false health

/-- A cold start with its cause; POR when AO was lost (R492, R496). -/
def coldStart (s : State) (b : Boot) (cause : Nat) : State :=
  let warned := decide (s.pwr.pfAt ≠ 0)
  let done := match s.pwr.pfRec with | some r => r.done | none => false
  let s1 := wipe s (if cause = 0 then .por else .cold)
  startUp (pwrUpd (afresh s s1) fun p => { p with phase := .on, pfAt := 0, aoLost := false }) b cause warned (warned && done) false

/-! ### The resets themselves (R324, R449, R477, R492, R495, R496) -/

def running (s : State) : Bool := s.pwr.phase = .on

def execRstN (b : Boot) (s : State) : Host.Outcome State Fault Refusal := .next (if running s then modReset s b 4 false else s)

def execWatchdog (b : Boot) (s : State) : Host.Outcome State Fault Refusal := .next (if running s then modReset s b 6 false else s)

/-- The health window of an unconfirmed trial expires (R324). -/
def execHealthWindowExpiry (b : Boot) (s : State) : Host.Outcome State Fault Refusal :=
  .next (
    match s.upd.boot with
    | some r => if running s ∧ r.booted ∧ passedSec s s.upd.trialSince r.win then modReset s b 6 true else s
    | none => s)

/-- VIN is good: from power-on, or after a brown-out (R492, R497); while the module runs PWR_STAT shows it again (R502). -/
def execVinGood (b : Boot) (s : State) : Host.Outcome State Fault Refusal :=
  .next (
    match s.pwr.phase with
    | .por => coldStart s b 0
    | .holdover => coldStart s b (if s.pwr.aoLost then 0 else 1)
    | .on | .scan => setFld (setFld s Reg.PWR_VOLT_VIN (min b.vin 65535)) Reg.PWR_STAT_VIN_OK 1
    | .clockHeld => s)

/-- VIN has been good for 100 ms after the commit and before any brown-out (R492). -/
def execVinDip (b : Boot) (s : State) : Host.Outcome State Fault Refusal :=
  .next (
    let us := match s.pwr.pfRec with | some r => r.us | none => 0
    if running s ∧ s.pwr.pfAt ≠ 0 ∧ passedUs s (s.pwr.pfAt - 1) (100000 + us) then
      coldStart (count1 s (Reg.PWR_CNT_COUNT 1)) b 2
    else s)

/-- VIN falls below 7.0 V: every domain but AO goes off, and VIO_OUT with them (R488, R492, R510). AO is lost when VBAK is below 2.0 V,
which PWR_STAT shows unless the clock monitor holds it in reset. -/
def execBrownOut (s : State) : Host.Outcome State Fault Refusal :=
  .next (
    match s.pwr.phase with
    | .por | .holdover => s
    | .on | .clockHeld | .scan =>
      let lost := s.pwr.aoLost || (decide (s.pwr.phase ≠ .clockHeld) && !flag s Reg.PWR_STAT_VBAK_OK)
      let s1 := setFld (wipe (count1 s (Reg.PWR_CNT_COUNT 2)) .cold) Reg.PWR_DOMAIN_STATE 2
      pwrUpd (dropDrives (setFld s1 Reg.PWR_STAT_VIN_OK 0) fun _ => true) fun x => { x with phase := .holdover, aoLost := lost })

/-- The TCXO stops or strays: every domain but AO is held in reset (R495). They stay powered, and PWR_DOMAIN keeps showing them ON (log
entry 118). -/
def execClockFault (s : State) : Host.Outcome State Fault Refusal :=
  .next (
    match s.pwr.phase with
    | .por | .holdover | .clockHeld => s
    | .on | .scan => pwrUpd (wipe s .cold) fun x => { x with phase := .clockHeld, aoLost := !flag s Reg.PWR_STAT_VBAK_OK })

def execClockRecover (b : Boot) (s : State) : Host.Outcome State Fault Refusal :=
  .next (if s.pwr.phase = .clockHeld then coldStart s b 3 else s)

/-- TEST_N is asserted (R424, R477): scan mode, or an ignored assertion. -/
def execTestNAssert (s : State) : Host.Outcome State Fault Refusal :=
  .next (
    if !running s then s
    else if flag s Reg.KEY_STAT_SCAN_OK then
      pwrUpd (wipe (count1 s (Reg.PWR_CNT_COUNT 3)) .mod) fun x => { x with phase := .scan }
    else count1 s (Reg.BST_CNT_COUNT 7))

end Sys2Proof.Machine
end

