-- ==== Sys2Proof/Machine/Bst.lean ====
section
/-! DEFINITION. Self-test at work: tiles, SRAM and NAND, lanes and references in service, and the opcodes of group 0x0F
(R466-R480). -/

namespace Sys2Proof.Machine

/-! ### Tiles (R466-R469) -/

def numTiles : Nat := 8388608

/-- A command whose data is lost completes with INTEGRITY_FAIL (R467, R471). -/
def failNeed (s : State) (sq detail : Nat) : State :=
  match (sqAt s sq).fetched.find? fun c => startable s c with
  | some c => complete s c (ansIntegrity detail)
  | none => s

/-- A Fold entry is rebuilt from the last checkpoint and the journal, and treated as restored (R154, R467). -/
def rebuildEntry (s : State) (n : Nat) : State :=
  setEnt s n (restored ((replayAll (s.mac.ckpt, s.mac.ckptBcnt) s.mac.journal).1.get n {}))

/-- A tile of the live ring is zeroed: records that it touches fail R306. -/
def zeroRing (s : State) (o : Nat) : State :=
  cisUpd s fun c => { c with
    ring0 := ringPut c.ring0 o (List.replicate 256 0)
    live := c.live.map fun l =>
      if (o + ring0Size - l.ofs) % ring0Size < l.body.len ∨ (l.ofs + ring0Size - o) % ring0Size < 256 then { l with torn := true } else l }

/-- The content of a retired tile is rebuilt, or lost: the state, and that it is lost. -/
def rebuildTile (s : State) (t : Nat) : State × Bool :=
  if 2 * t < foldSize then (rebuildEntry (rebuildEntry s (2 * t)) (2 * t + 1), false)
  else match Config.tileRegion t with
    | .vertices v =>
      let keep (m : SMap Nat) : SMap Nat := m.filter fun x => decide (x.1 < v ∨ v + 16 ≤ x.1)
      (casUpd s fun c => { c with demand := keep c.demand, last := keep c.last }, false)
    | .edges => (s, false)
    | .liveRing o => (zeroRing s o, true)
    | .image => (s, false)
    | .working => (s, false)
    | .firmware => (s, true)

def isFirmware (t : Nat) : Bool := decide (foldSize ≤ 2 * t ∧ Config.tileRegion t = .firmware)

/-- What follows when a tile's content is lost: the command that needs it fails, and firmware data resets the module (R467). -/
def contentLost (s : State) (t : Nat) (need : Option (Fin 16)) (b : Boot) : State :=
  if isFirmware t then modReset s b 8 false
  else match need with
    | some sq => failNeed s sq.val 0xF001
    | none => s

/-- A failed tile is mapped to the next spare, rebuilt and recorded; without a spare its content is lost at each use, records of the live
ring with it (R467, R468; log entry 157). -/
def retireTile (s : State) (t : Nat) (need : Option (Fin 16)) (b : Boot) : State :=
  if flag s Reg.PWR_STAT_PF then s
  else if 131072 ≤ s.bst.tiles.length then
    let s1 := setErr s Reg.BST_ERR_SPARE_EMPTY
    let s2 := if 2 * t < foldSize then s1 else match Config.tileRegion t with | .liveRing o => zeroRing s1 o | _ => s1
    contentLost s2 t need b
  else
    let s1 := bstUpd s fun x => { x with tiles := x.tiles ++ [t] }
    let left := 131072 - s1.bst.tiles.length
    let s2 := setErr (setFld s1 Reg.BST_TILES_SPARES left) Reg.BST_ERR_RETIRED
    let s3 := if left = 0 then setErr s2 Reg.BST_ERR_SPARE_EMPTY else s2
    let (s4, lost) := rebuildTile s3 t
    let s5 := fault (ckWrite s4) 0x0F 0x8F02 false (t + 2 ^ 31 * b2n lost)
    if lost then contentLost s5 t need b else s5

/-- What a read of a tile leads to. -/
def tileRead (s : State) (t : Nat) (r : TileRead) (need : Option (Fin 16)) (b : Boot) : State :=
  match r with
  | .cached | .good => s
  | .retried => count1 s (Reg.BST_CNT_COUNT 0)
  | .sidecarBit => count1 s (Reg.BST_CNT_COUNT 1)
  | .failed => retireTile s t need b
  | .sidecarBad => retireTile (retireTile s (t / 2 * 2) need b) (t / 2 * 2 + 1) need b

def execTileFill (t : Nat) (r : TileRead) (need : Option (Fin 16)) (b : Boot) (s : State) : Host.Outcome State Fault Refusal :=
  .next (if running s ∧ t < numTiles then tileRead s t r need b else s)

/-- The patrol reads its next tile; a new pass begins PATROL_H hours after the last began. -/
def execPatrolRead (r : TileRead) (b : Boot) (s : State) : Host.Outcome State Fault Refusal :=
  .next (
    let t := s.bst.patrol
    let wait := decide (t = 0 ∧ s.bst.patrolAt ≠ 0) && !passedSec s (s.bst.patrolAt - 1) (3600 * fld s Reg.BST_CFG_PATROL_H)
    if !running s ∨ !flag s Reg.BST_CTRL_PATROL ∨ wait then s
    else
      let s1 := bstUpd s fun x => { x with patrol := (t + 1) % numTiles, patrolAt := if t = 0 then s.el + 1 else x.patrolAt }
      tileRead s1 t r none b)

/-! ### SRAM and NAND (R470, R471) -/

/-- A double-bit error: a clean cache line is refilled; any other is counted and reported by its block, and one in resident firmware
resets the module. -/
def sramFault (b : Boot) (s : State) (f : SramFault) : State :=
  let ue := setErr (count1 s (Reg.BST_CNT_COUNT 2)) Reg.BST_ERR_SRAM_UE
  match f with
  | .cacheLine => s
  | .block g => actSettle <| completeAll ue (sortCmds ((allFetched ue).filter fun c => c.started && decide (c.group = g.val)))
      (ansHwFault (g.val * 256))
  | .firmware => modReset ue b 8 false

/-- SRAM is scrubbed once in 10 min: single-bit errors are corrected. -/
def execSramScrub (ce : Nat) (ue : List SramFault) (b : Boot) (s : State) : Host.Outcome State Fault Refusal :=
  .next (
    if !running s ∨ (s.bst.scrubAt ≠ 0 ∧ ¬ passedSec s (s.bst.scrubAt - 1) 600) then s
    else ue.foldl (sramFault b) (countBy (bstUpd s fun x => { x with scrubAt := s.el + 1 }) (Reg.BST_CNT_COUNT 1) ce))

/-- A NAND read: a block that needs it is rewritten; of an uncorrectable page the other generation serves, or the operation fails,
with a DETAIL that the spec does not state (log entry 139). -/
def execNandRefresh (r : NandRead) (s : State) : Host.Outcome State Fault Refusal :=
  .next (
    if !running s then s
    else match r with
      | .corrected n => if 6 ≤ n.val then count1 s (Reg.BST_CNT_COUNT 3) else s
      | .other k => count1 (match k with | .fold => dropCheckpoint s | .config => ckDrop s | .image => s) (Reg.BST_CNT_COUNT 4)
      | .lost sq => failNeed (drawFree s) sq.val (freeVal s 16))

/-! ### Tests (R472-R476) -/

/-- A measurement outside its target's limit (R474). -/
def refBad (t : Nat) (x : RefTry) : Bool :=
  match t with
  | 0x6A => decide (50 < x.dev.natAbs)
  | 0x6B => decide (20 < x.dev.natAbs)
  | 0x6C => decide (200 < x.dev.natAbs)
  | 0x6D => decide (1 < x.dev.natAbs)
  | _ => !x.ok

/-- A run suits its target. -/
def runFits (t : Nat) : TestRun → Bool
  | .lane _ _ _ _ => isLane t
  | .ref _ _ => isTarget t && !isLane t

/-- A test ends: the state, and its result: 0 pass, 1 retired to the spare, 2 failed without a spare (R473-R476, R480). -/
def judgeRun (s : State) (t : Nat) (r : TestRun) : State × Nat :=
  match r with
  | .lane a b want n =>
    let s1 := countBy s (Reg.BST_CNT_COUNT 5) n
    if a = want then (s1, 0)
    else if b = want then (fault (count1 s1 (Reg.BST_CNT_COUNT 6)) 0x0F 0x8F03 false t, 0)
    else (retireLane s1 t, if spareFree s t = true then 1 else 2)
  | .ref a b =>
    if !refBad t a then (count1 s (Reg.BST_CNT_COUNT 5), 0)
    else
      let s1 := countBy s (Reg.BST_CNT_COUNT 5) 2
      if refBad t b then (refFail s1 t b.dev, 2) else (s1, 0)

/-- A test of a target is running. -/
def testing (s : State) (t : Nat) : Bool := s.bst.tests.any fun x => x.target = t

/-- A target may be tested in service, its last test being `sec` ago. -/
def testDue (s : State) (t sec : Nat) : Bool :=
  running s && flag s Reg.BST_CTRL_EN && decide (domState s (targetDomain t) = 2) && !testing s t && !s.bst.lanes.contains t &&
    (decide (s.bst.tested.get t 0 = 0) || passedSec s (s.bst.tested.get t 0 - 1) sec)

/-- A lane is at work: a self-test swap waits until it is free (R123). -/
def laneBusy (s : State) (t : Nat) : Bool := isDemod t && s.rad.demods.any fun d => decide (d.lane = t)

/-- A lane is due for its test, with a spare to take its work (R473). -/
def laneDue (s : State) (t : Nat) : Bool :=
  isLane t && spareFree s t && testDue s t (fld s Reg.BST_CFG_LANE_PERIOD)

def stampTest (s : State) (t : Nat) : State := bstUpd s fun b => { b with tested := b.tested.set t (s.el + 1) 0 }

/-- A lane is tested in its turn, in ascending target code: the module waits until the lane is free. -/
def execLaneTest (t : Nat) (r : TestRun) (s : State) : Host.Outcome State Fault Refusal :=
  .next (
    if (List.range 0x61).find? (laneDue s) = some t ∧ !laneBusy s t ∧ runFits t r then (judgeRun (stampTest s t) t r).1 else s)

/-- No downlink event, window or answer is planned for the slot period in progress. -/
def slotQuiet (s : State) : Bool :=
  let k := curSp s
  (s.mac.wins.all fun w => decide (k < w.sp ∨ w.sp + w.count ≤ k)) && (s.mac.plans.all fun p => decide (p.sp ≠ k)) && s.mac.resps.isEmpty

/-- Every sink has 20 µs without an on-block in a frame: of 8,192 blocks fewer than 64 are on (R344). -/
def sinksOff (s : State) : Bool := (List.range 16).all fun k => !sinkActive s k || decide (codeLatched s (65536 + k) < 512)

/-- When an analogue target may be checked (R474; log entry 158). -/
def refDue (s : State) (t : Nat) : Bool :=
  isTarget t && !isLane t &&
  (match t with
   | 0x68 => chainFree s 0 && slotQuiet s && testDue s t 0
   | 0x69 => chainFree s 1 && slotQuiet s && testDue s t 0
   | 0x6C => sinksOff s && testDue s t 0
   | 0x6D => decide (fld s Reg.BAS_CLK_EN ≠ 0) && testDue s t 10
   | _ => testDue s t (fld s Reg.BST_CFG_LANE_PERIOD))

def execRefCheck (t : Nat) (r : TestRun) (s : State) : Host.Outcome State Fault Refusal :=
  .next (if refDue s t ∧ runFits t r then (judgeRun (stampTest s t) t r).1 else s)

/-! ### Opcodes (R478) -/

/-- BUSY and TARGET show the tests that run. -/
def showTests (s : State) : State :=
  let s1 := setFlag s Reg.BST_STAT_BUSY (!s.bst.tests.isEmpty)
  match s.bst.tests with
  | x :: _ => setFld s1 Reg.BST_STAT_TARGET x.target
  | [] => s1

def bodyBstTest (again : Bool) (s : State) (c : Cmd) : Work := do
  let t := c.op 16 1
  checkOps (opChks c [(16, 1)] [] ++ [rangeChk (!isTarget t) 16])
  stopIf (s.bst.lanes.contains t) (ansBadState 0x0001)
  stopIf (isLane t && !spareFree s t) (ansBadState 0x0002)
  stopIf (decide (domState s (targetDomain t) = 0)) (ansBadState 0x0003)
  stopIf (testing s t) (ansBadState 0x0004)
  let test : BstTest := { target := t, ref := c.ref, recover := again, since := s.el }
  pure (driveSinks (showTests (bstUpd s fun b => { b with tests := b.tests ++ [test] })), some ansQueued)

def execBstRun (sq : Fin 16) (s : State) : Host.Outcome State Fault Refusal := .next (runRing s sq 0x0F00 (bodyBstTest false))

def execBstRecover (sq : Fin 16) (s : State) : Host.Outcome State Fault Refusal := .next (runRing s sq 0x0F01 (bodyBstTest true))

/-- The oldest test that a command started ends (R480). -/
def execBstResult (r : TestRun) (s : State) : Host.Outcome State Fault Refusal :=
  .next (
    match s.bst.tests with
    | [] => s
    | x :: rest =>
      if !runFits x.target r || laneBusy s x.target then s
      else
        let (s1, v) := judgeRun (driveSinks (showTests (stampTest (bstUpd s fun b => { b with tests := rest }) x.target))) x.target r
        let misr := match r with
          | .lane a b want _ => leBytes 4 (if a = want then a else b).val ++ leBytes 4 want.val
          | .ref _ _ => []
        emitOutcome s1 0x0F00 (leBytes 1 x.target ++ leBytes 1 v ++ [0, 0] ++ misr) (some x.ref) 0)

/-- Retired tiles in the order of their retirement. -/
def bodyBstTileRead (s : State) (c : Cmd) : Work := do
  let first := c.op 20 4
  let n := c.op 24 4
  checkOps (opChks c [(20, 8)] [(1, 4 * n)] ++ [rangeChk (decide (n = 0 ∨ 131072 < n)) 24])
  let l := (s.bst.tiles.drop first).take n
  let s1 ← writeBuf s c 0 (l.flatMap (leBytes 4))
  pure (s1, some (ansDone l.length))

def execBstTileRead (sq : Fin 16) (s : State) : Host.Outcome State Fault Refusal := .next (runRing s sq 0x0F02 bodyBstTileRead)

end Sys2Proof.Machine
end

