-- ==== Sys2Proof/Machine/CfgSpace.lean ====
section
/-! DEFINITION. PCIe configuration space (R35-R37, R39, R40, R529, R534). The spec names its content and leaves the layout of headers
and capabilities to the PCI Express Base Specification, as log entry 125 says. -/

namespace Sys2Proof.Machine

def linkUpd (s : State) (f : LinkSt → LinkSt) : State := hostUpd s fun h => { h with link := f h.link }

/-- Offset of an AER register. -/
def aerReg (o : Nat) : Nat := Config.capBase 3 + o

/-- Device Control bits that the host sets: error reporting, relaxed ordering, payload size, extended tags, no snoop, read request
size (R35, R39). -/
def devCtlMask : Nat := 0x79FF

/-- Message Control of MSI-X: 32 vectors, Function Mask and Enable (R35, R529). -/
def msixControl (m : MsixSt) : Nat := 31 + 2 ^ 14 * b2n m.fmask + 2 ^ 15 * b2n m.enable

/-- Link Capabilities: the rate and the width that the straps allow, ASPM L1 and no L0s (R35, R504). -/
def linkCaps (s : State) : Nat := maxGen s + 16 * maxWidth s + 2 ^ 11

/-- A dword of configuration space. The header is of type 0 with one function, the power management capability has no D1 and no D2, and
Device Capabilities show 512-byte payloads and FLR (R35). -/
def cfgDword (s : State) (off : Nat) : Nat :=
  let l := s.host.link
  let pm := Config.capBase 0
  let pe := Config.capBase 1
  let mx := Config.capBase 2
  if off = 0 then 0x26401FD5
  else if off = 4 then putBits (putBits (Config.cfgSpace 4) 20 20 1) 15 0 l.command
  else if off = 8 then 0x118000B0
  else if off = 0xC then putBits (Config.cfgSpace 0xC) 23 16 0
  else if off = 0x10 then l.bar0 % 2 ^ 32 + 4
  else if off = 0x14 then l.bar0 / 2 ^ 32
  else if off = 0x18 then l.bar2 % 2 ^ 32 + 4
  else if off = 0x1C then l.bar2 / 2 ^ 32
  else if off = 0x20 ∨ off = 0x24 then 0
  else if off = 0x2C then cfgField s 8 2 0x1FD5 + 65536 * cfgField s 10 2 0x2640
  else if off = 0x3C then putBits (Config.cfgSpace 0x3C) 15 8 0
  else if off = pm then putBits (putBits (Config.cfgSpace off) 26 25 0) 7 0 0x01
  else if off = pe then putBits (Config.cfgSpace off) 7 0 0x10
  else if off = pm + 4 then putBits (putBits (Config.cfgSpace off) 3 3 1) 1 0 (if l.d3hot then 3 else 0)
  else if off = pe + 4 then putBits (putBits (Config.cfgSpace off) 28 28 1) 2 0 2
  else if off = pe + 8 then putBits (Config.cfgSpace off) 15 0 l.devCtl
  else if off = pe + 12 then putBits (Config.cfgSpace off) 11 0 (linkCaps s)
  else if off = pe + 16 then
    putBits (putBits (Config.cfgSpace off) 25 20 (fld s Reg.HIF_STAT_WIDTH)) 19 16 (fld s Reg.HIF_STAT_GEN)
  else if off = mx then putBits (putBits (Config.cfgSpace off) 31 16 (msixControl s.host.msix)) 7 0 0x11
  else if off = mx + 4 then 0x802
  else if off = mx + 8 then 0xC02
  else if off = aerReg 0 then putBits (Config.cfgSpace off) 15 0 1
  else if off = aerReg 4 then l.aer.unc
  else if off = aerReg 0xC then l.aer.sev
  else if off = aerReg 0x10 then l.aer.cor
  else if aerReg 0x1C ≤ off ∧ off < aerReg 0x2C then bits l.aer.hdr.toNat (8 * (off - aerReg 0x1C) + 31) (8 * (off - aerReg 0x1C))
  else Config.cfgSpace off

/-- A configuration write (R35, R37, R39, R40, R529, R534). Bits that the spec names no use for keep nothing. -/
def cfgWrite (s : State) (off v : Nat) : State :=
  let l := s.host.link
  let aer (f : AerSt → AerSt) : State := linkUpd s fun l => { l with aer := f l.aer }
  if off = 4 then linkUpd s fun l => { l with command := v % 2048 }
  else if off = 0x10 then linkUpd s fun l => { l with bar0 := putBits l.bar0 31 17 (bits v 31 17) }
  else if off = 0x14 then linkUpd s fun l => { l with bar0 := putBits l.bar0 63 32 v }
  else if off = 0x18 then linkUpd s fun l => { l with bar2 := putBits l.bar2 31 12 (bits v 31 12) }
  else if off = 0x1C then linkUpd s fun l => { l with bar2 := putBits l.bar2 63 32 v }
  else if off = Config.capBase 0 + 4 then
    if v % 4 = 3 ∧ !l.d3hot then enterD3hot s else if v % 4 = 0 then leaveD3hot s else s
  else if off = Config.capBase 1 + 8 then
    if bit v 15 then funcReset s else linkUpd s fun l => { l with devCtl := Nat.land v devCtlMask }
  else if off = Config.capBase 2 then
    flushMsix (hostUpd s fun h => { h with msix := { h.msix with enable := bit v 31, fmask := bit v 30 } })
  else if off = aerReg 4 then aer fun a => { a with unc := a.unc - Nat.land a.unc v }
  else if off = aerReg 0xC then aer fun a => { a with sev := v }
  else if off = aerReg 0x10 then aer fun a => { a with cor := a.cor - Nat.land a.cor v }
  else s

/-- A configuration read or write; each is answered Retry until 100 ms after PERST_N's release (R36). -/
def execConfigRequest (q : CfgReq) (s : State) : Host.Outcome State Fault Refusal :=
  .next (
    if cfgReady s then
      let s1 := hostUpd s fun h => { h with retried := false }
      match q.data with
      | none => hostUpd s1 fun h => { h with readData := cfgDword s q.off }
      | some v => cfgWrite s1 q.off v.toNat
    else hostUpd s fun h => { h with retried := true })

end Sys2Proof.Machine
end

