-- ==== Sys2Proof/Machine/Effects.lean ====
section
/-! DEFINITION. What a new value of a register brings about, whether the host writes it or the pair mirrors it (R93, R125, R221, R240,
R260, R277, R298, R362, R442), and the feeders that follow another module (R456). -/

namespace Sys2Proof.Machine

/-- The remote state that feeder f is mapped to: dead, or its contactor open; live where nothing says otherwise (R456). -/
def remoteDead (s : State) (f : Nat) : Bool :=
  match s.fed.feederMap.get f none with
  | none => false
  | some (m, r) =>
    match s.fed.remote.get m none with
    | some (dead, opened, _) => bit dead r || bit opened r
    | none => false

/-- A feeder whose BAS EN is 0 reports what its mapping says. -/
def mapShow (s : State) (f : Nat) : State :=
  let d := remoteDead s f
  if flag s (Reg.BAS_FDR_CFG_EN f) ∨ flag s (Reg.BAS_FDR_STAT_DEAD f) = d then s
  else foldCause (setFlag s (Reg.BAS_FDR_STAT_DEAD f) d) f 1 d

def mapShowAll (s : State) : State := (List.range 6).foldl mapShow s

/-- The intervals of a feeder carry CAL from now on (R277). -/
def markCal (s : State) (f : Nat) : State := updIntv s f fun i => { i with cal := true }

/-- What a new value of a register brings about, from the state before and after it; PAR_CTRL's part is the pair's. -/
def regEffect (s0 s : State) (base n : Nat) : State :=
  let rose (f : RF) : Bool := !flag s0 f && flag s f
  let fell (f : RF) : Bool := flag s0 f && !flag s f
  let moved (f : RF) : Bool := decide (fld s0 f ≠ fld s f)
  match base with
  | 0x2200 =>
    let s1 := if rose (Reg.RIL_HP_CFG_ENABLE n) then { s with mac := { s.mac with portSeq := s.mac.portSeq.set n 0 0 } } else s
    if moved (Reg.RIL_HP_CFG_DEPTH_LOG2 n) then hostUpd s1 fun h => { h with ports := h.ports.set n {} {} } else s1
  | 0x304C => leapConflict s
  | 0x4000 => if fell Reg.RAD_CTRL_RX_EN then rxOff s else s
  | 0x8000 => if fell Reg.CAS_CTRL_EN then casUpd s fun c => { c with fell := true } else s
  | 0x9000 =>
    let s1 := if rose Reg.WEI_CTRL_SLOW_EN then syncSlow s else s
    if rose Reg.WEI_CTRL_FAST_EN then startFast s1 else s1
  | 0xA008 => driveClks s
  | 0xA00C =>
    if moved Reg.BAS_INTERVAL_LEN then
      basUpd s fun b => { b with endIdx := dtSec s.dt / [60, 300, 900, 3600].getD (fld s Reg.BAS_INTERVAL_LEN) 900 + 1 }
    else s
  | 0xA100 => if moved (Reg.BAS_CH_CFG_DELAY n) then markCal s (n / 7) else s
  | 0xA104 => if moved (Reg.BAS_CH_SCALE_SCALE n) then markCal s (n / 7) else s
  | 0xA300 =>
    let s1 := if moved (Reg.BAS_FDR_CFG_PHASES n) then markCal s n else s
    if rose (Reg.BAS_FDR_CFG_EN n) then (if flag s1 (Reg.BAS_FDR_STAT_DEAD n) then feederState s1 n false else s1)
    else if fell (Reg.BAS_FDR_CFG_EN n) then mapShow s1 n
    else s1
  | 0xB00C => stormSettle s0 s
  | 0xD000 => outputsCheck s
  | 0xD100 => driveSinks s
  | _ => s

end Sys2Proof.Machine
end

