-- ==== Sys2Proof/Machine/Pair.lean ====
section
/-! DEFINITION. The pair at work: heartbeat, lease and lines, taking over and stepping down, and the mirror streams as they arrive
(R432-R446, R448-R450, R506). -/

namespace Sys2Proof.Machine

/-- Pairing is on: the module has a role in a pair. -/
def paired' (s : State) : Bool := decide (role s ≠ 0)

/-! ### Sending (R435, R442, R506) -/

/-- Every 5 ms a paired module sends LEASE, and a module that is ACTIVE or UNPAIRED toggles ACT_OUT. BAS and WEI_FAST follow every
100 ms. -/
def execLeaseSend (s : State) : Host.Outcome State Fault Refusal :=
  let due (t : Option Nat) : Bool := match t with | some t => passedMs s t 5 | none => true
  .next (
    if !running s then s
    else if role s = 0 then (if due s.pair.actOutAt then toggleAct s else s)
    else if !due s.pair.leaseTx then s
    else
      let tenth (t : Nat) : Nat := t * 10 / 65536
      let s1 := mirSend (pairUpd s fun p => { p with leaseTx := some s.el }) 0x40 (leaseBody s false)
      if role s ≠ 2 then s1
      else
        let s2 := toggleAct s1
        if (match s.pair.leaseTx with | some t => tenth t | none => tenth s.el) = tenth s.el then s2
        else mirSend (mirSend s2 0x43 (basBody s2)) 0x45 (fastBody s2))

/-! ### Taking over (R437, R441, R449) -/

/-- A STANDBY module takes over once the conditions hold; unsynced, it notes since when the others do. -/
def takeoverCheck (s : State) : State :=
  if role s ≠ 3 then s
  else
    let free := !flag s Reg.PAR_STAT_ACT_IN
    let synced := flag s Reg.PAR_STAT_SYNCED
    let missing : Bool := match s.pair.leaseRx with | some t => passedMs s t 10 | none => true
    let past : Bool := match s.pair.leaseGrant with | some t => passedMs s t 22 | none => true
    if s.pair.released ∧ free ∧ synced then becomeActive s 1
    else if missing ∧ past ∧ free then
      if synced then becomeActive s 0 else pairUpd s fun p => { p with overdue := some (p.overdue.getD s.el) }
    else pairUpd s fun p => { p with overdue := none }

/-- The module steps down to the partner's epoch (R440). -/
def stepDown (s : State) : State := requestBulk (setErr (standDown s 3 3) Reg.PAR_ERR_DUAL_ACTIVE) 0

/-- Of two modules that are ACTIVE or FENCED this one steps down (R440). -/
def lowerEpoch (s : State) (l : Lease) : Bool :=
  let own := fld s Reg.PAR_STAT_EPOCH
  decide (32768 ≤ (own + 65536 - l.epoch % 65536) % 65536 ∨ (own = l.epoch ∧ fld s Reg.PAR_STAT_UNIT = 1))

/-! ### LEASE (R435, R439-R441, R443, R450) -/

/-- A mirror message of a type that reaches the module: its header is checked as R452 sets out, and its SRC, DST and TTL are those of
R446. Only a LEASE may come from another module ID, which is a mismatch (R450). -/
def mirRx (s : State) (msg : Nat) (l : List Byte) : State × Option SpanMsg :=
  match SpanMsg.parse l with
  | some m => (s, if m.msg = msg ∧ m.dst = m.src ∧ !m.bcast ∧ m.ttl = 1 ∧ (msg = 0x40 ∨ m.src = fld s Reg.FED_ID_ID) then some m else none)
  | none => (setErr (count1 s (Reg.FED_CNT_COUNT 3)) Reg.FED_ERR_BAD_MSG, none)

def Lease.ofBody (b : List Byte) : Lease :=
  let v := fieldBE b 2 1
  { epoch := fieldBE b 0 2, unit := v % 2, role := bits v 3 1, release := bit v 4, synced := bit v 5 }

/-- A stream's last SEQ that a LEASE announces: it is held, or awaited from now on (R443). One below the SEQ held says that the partner
has started its count again. -/
def announce (s : State) (k seq : Nat) : State :=
  pairUpd s fun p0 =>
    let p := { p0 with told := p0.told.set k seq 0, rxSeq := if seq < p0.rxSeq.get k 0 then p0.rxSeq.del k else p0.rxSeq }
    if seq ≤ p.rxSeq.get k 0 ∨ p.bulk.get k false then { p with announced := p.announced.del k }
    else if p.announced.get k (0, 0) = (0, 0) then { p with announced := p.announced.set k (seq, s.el + 1) (0, 0) }
    else p

/-- HOLD_OUT rises, until edges of ACT_IN and LEASEs have come (R434). -/
def holdHigh (s : State) : State := pairUpd (holdOut s true) fun p => { p with edgeBack := false, leaseBack := false }

/-- Edges of ACT_IN and LEASEs are back at a STANDBY module: HOLD_OUT falls. -/
def holdBack (s : State) : State :=
  if role s = 3 ∧ flag s Reg.PAR_STAT_HOLD ∧ s.pair.edgeBack ∧ s.pair.leaseBack then
    pairUpd (holdOut s false) fun p => { p with released := false }
  else s

/-- The partner's SEG_EUI is another one (R450). -/
def segMismatch (s : State) : Bool := s.pair.segDiff.any fun x => reg s x.1 ≠ x.2

/-- The partner is heard again (R450, R464). -/
def partnerPresent (s : State) (mismatch : Bool) : State :=
  let s1 := pairUpd s fun p => { p with mismatch := mismatch }
  if flag s Reg.PAR_STAT_PARTNER then s1
  else
    let s2 := setFld s1 Reg.PAR_STAT_PARTNER 1
    if mismatch then setErr (partnerEvent s2 5) Reg.PAR_ERR_CFG else partnerEvent s2 1

/-- SYNCED rises: PARTNER records are the outcomes of the PAR_RESYNC commands that wait, or one stands alone. -/
def nowSynced (s : State) : State :=
  let s1 := setFld s Reg.PAR_STAT_SYNCED 1
  match s.pair.resync with
  | [] => partnerEvent s1 2
  | l => pairUpd (l.foldl (fun s c => emitOutcome s 0x0E01 (leBytes 1 2) (some c) 0) s1) fun p => { p with resync := [] }

/-- What an ACTIVE module learns of its partner's copy. -/
def partnerSynced (s : State) (b : Bool) : State :=
  if b then if flag s Reg.PAR_STAT_SYNCED ∧ s.pair.resync = [] then s else nowSynced s
  else unsync s

def leaseIn (s0 : State) (m : SpanMsg) : State :=
  let l := Lease.ofBody m.body
  let mismatch := decide (m.src ≠ fld s0 Reg.FED_ID_ID) || segMismatch s0
  let s := pairUpd (partnerPresent s0 mismatch) fun p => { p with
    leaseRx := some s0.el, lease := some l, highEpoch := max p.highEpoch l.epoch, overdue := none
    leaseGrant := if l.role = 2 then some s0.el else p.leaseGrant
    mirDownSaid := p.mirDownSaid && decide (l.role ≠ 2) }
  match role s with
  | 1 =>
    if mismatch ∨ l.role ≠ 2 then s
    else
      let s1 := pairUpd (setFld (setFld s Reg.PAR_STAT_ROLE 3) Reg.PAR_STAT_EPOCH l.epoch) fun p => { p with startAt := none }
      requestBulk s1 0
  | 2 => if (l.role = 2 ∨ l.role = 4) ∧ lowerEpoch s l then stepDown s else partnerSynced s l.synced
  | 4 => if (l.role = 2 ∨ l.role = 4) ∧ lowerEpoch s l then stepDown s else s
  | 3 =>
    let s1 := if l.role = 2 then setFld s Reg.PAR_STAT_EPOCH l.epoch else s
    let s2 := streams.zipIdx.foldl (fun s x => announce s x.1 (fieldBE m.body (4 + 4 * x.2) 4)) s1
    if l.release then takeoverCheck (holdHigh (pairUpd s2 fun p => { p with released := true }))
    else holdBack (pairUpd s2 fun p => { p with leaseBack := true })
  | _ => s

def execLease (l : List Byte) (s : State) : Host.Outcome State Fault Refusal :=
  .next (
    if !running s ∨ !paired' s then s
    else match mirRx s 0x40 l with
      | (s1, some m) => if m.body.length = 36 then leaseIn s1 m else s1
      | (s1, none) => s1)

/-! ### Lines and deadlines (R434-R440) -/

def execActInEdge (s : State) : Host.Outcome State Fault Refusal :=
  .next (
    if !running s then s
    else
      let s1 := pairUpd s fun p => { p with
        actInAt := some s.el, actInSince := some (p.actInSince.getD s.el), overdue := none, edgeBack := true }
      holdBack (gateCheck (setFld s1 Reg.PAR_STAT_ACT_IN 1)))

/-- Time since a moment, if there was one. -/
def since (s : State) (t : Option Nat) (us : Nat) : Bool := match t with | some t => passedUs s t us | none => false

/-- ACT_IN has shown no edge for 6.0 ms, or none since the reset (R434). -/
def execActInSilent (s : State) : Host.Outcome State Fault Refusal :=
  .next (if role s = 3 ∧ (s.pair.actInAt = none ∨ since s s.pair.actInAt 6000) ∧ !flag s Reg.PAR_STAT_HOLD then holdHigh s else s)

def execActOwnLapse (s : State) : Host.Outcome State Fault Refusal :=
  .next (if flag s Reg.PAR_STAT_ACT_OWN ∧ since s s.pair.actOutAt 7500 then gateCheck (setFld s Reg.PAR_STAT_ACT_OWN 0) else s)

def execActInLapse (s : State) : Host.Outcome State Fault Refusal :=
  .next (
    if flag s Reg.PAR_STAT_ACT_IN ∧ since s s.pair.actInAt 7500 then
      takeoverCheck (gateCheck (pairUpd (setFld s Reg.PAR_STAT_ACT_IN 0) fun p => { p with actInSince := none }))
    else s)

/-- No LEASE for 10 ms (R437, R465). -/
def execHeartbeatMissing (s : State) : Host.Outcome State Fault Refusal :=
  .next (
    if paired' s ∧ flag s Reg.PAR_STAT_PARTNER ∧ since s s.pair.leaseRx 10000 then
      let s1 := partnerEvent (setFld s Reg.PAR_STAT_PARTNER 0) 0
      takeoverCheck (if role s = 2 then unsync s1 else s1)
    else s)

/-- The lease expires; while ACT_IN is asserted the standby stays passive (R438). -/
def execLeaseExpiry (s : State) : Host.Outcome State Fault Refusal :=
  .next (
    if role s = 3 ∧ since s s.pair.leaseGrant 20000 ∧ flag s Reg.PAR_STAT_ACT_IN ∧ !s.pair.mirDownSaid then
      partnerEvent (setErr (pairUpd s fun p => { p with mirDownSaid := true }) Reg.PAR_ERR_MIR_DOWN) 4
    else s)

/-- The guard of 2 ms after the lease's end has passed (R437). -/
def execTakeoverGuardEnd (s : State) : Host.Outcome State Fault Refusal :=
  .next (if since s s.pair.leaseGrant 22000 then takeoverCheck s else s)

/-- START_WAIT ends with no LEASE of an ACTIVE partner and no ACT_IN (R439). -/
def execStartWait (s : State) : Host.Outcome State Fault Refusal :=
  .next (
    if role s = 1 ∧ since s s.pair.startAt (200000 + 100000 * fld s Reg.PAR_STAT_UNIT) ∧ !flag s Reg.PAR_STAT_ACT_IN ∧
        !s.pair.mismatch then becomeActive s 2 else s)

/-- ACT_IN has been asserted for 10 ms at an ACTIVE module (R440). -/
def execFenced (s : State) : Host.Outcome State Fault Refusal :=
  .next (
    if role s = 2 ∧ flag s Reg.PAR_STAT_ACT_IN ∧ since s s.pair.actInSince 10000 then
      setErr (standDown s 4 4) Reg.PAR_ERR_FENCED
    else s)

/-- The gated pads have been driven as ACTIVE for 1 ms (R434). -/
def execHoldOutEnd (s : State) : Host.Outcome State Fault Refusal :=
  .next (if role s = 2 ∧ flag s Reg.PAR_STAT_HOLD ∧ since s s.pair.driveAt 1000 then holdOut s false else s)

/-- An unsynced STANDBY whose other conditions have held for 1 s resets (R449); which cause PWR_RST then shows is not stated. -/
def execPartnerLostReset (b : Boot) (s : State) : Host.Outcome State Fault Refusal :=
  .next (
    if role s = 3 ∧ !flag s Reg.PAR_STAT_SYNCED ∧ since s s.pair.overdue 1000000 then
      let cause := 4 + Config.free s.freeN % 5
      modReset (setErr (partnerEvent (drawFree s) 0) Reg.PAR_ERR_PARTNER_LOST) b cause false
    else s)

/-! ### Pairing (R432) -/

/-- Pairing turns on: the module starts as after a reset (R439). -/
def pairOn (s : State) : State :=
  let s1 := oxDemote (abortSwitchover s)
  outputsCheck (gateCheck (pairUpd (setFld s1 Reg.PAR_STAT_ROLE 1) fun p => { p with startAt := some s.el }))

/-- Pairing turns off: an unpaired module acts, and counts as active. -/
def pairOff (s : State) : State :=
  let s0 := holdOut s false
  let s1 := pairUpd (setFld (ringsGoOn s0) Reg.PAR_STAT_ROLE 0) fun p => { p with startAt := none, overdue := none, released := false }
  outputsCheck (gateCheck (oxTakeover (if role s = 2 then s1 else weirTakeover s1)))

/-- What a register write brings about, from the state before and after it. -/
def afterWrite (s0 s : State) (base n : Nat) : State :=
  if base ≠ 0x12000 then regEffect s0 s base n
  else if !flag s0 Reg.PAR_CTRL_PAIR_EN && flag s Reg.PAR_CTRL_PAIR_EN then pairOn s
  else if flag s0 Reg.PAR_CTRL_PAIR_EN && !flag s Reg.PAR_CTRL_PAIR_EN then pairOff s
  else s

/-- The MIR lane gains or loses link. -/
def execMirLink (up : Bool) (s : State) : Host.Outcome State Fault Refusal :=
  .next (
    if !running s then s
    else
      let s1 := setFlag s Reg.PAR_STAT_MIR_UP up
      if up ∧ role s = 0 ∧ !flag s Reg.PAR_CTRL_PAIR_EN ∧ s.el < s.pair.wireUntil then
        pairOn (ckSave (setFld s1 Reg.PAR_CTRL_PAIR_EN 1) Reg.PAR_CTRL_PAIR_EN.off)
      else s1)

/-! ### Streams (R276, R304, R401, R442-R446) -/

/-- A stream has a gap (R443). -/
def gapFound (s : State) (k : Nat) : State :=
  requestBulk (setErr (count1 (unsync s) (Reg.PAR_CNT_COUNT 1)) Reg.PAR_ERR_SYNC_LOST) k

/-- Runs of words, and the rest of the bytes. -/
def wordsIn : Nat → List Byte → List (Nat × Nat) × List Byte
  | 0, b => ([], b)
  | fuel + 1, b =>
    let a := fieldBE b 0 2
    if a = 0xFFFF then ([], b.drop 2)
    else
      let n := fieldBE b 2 2
      let (l, r) := wordsIn fuel (b.drop (4 + 4 * n))
      (((List.range n).map fun i => (a + i, fieldBE b (4 + 4 * i) 4)) ++ l, r)

/-- What a stream message brings anew: entries, words, records, commits and registers, by number (R443). -/
def streamKeys (k : Nat) (b : List Byte) : List Nat :=
  match k with
  | 0x41 => [fieldBE b 0 3 % 2 ^ 18]
  | 0x42 => (wordsIn b.length (b.drop 4)).1.map Prod.fst
  | 0x46 => [2 * fieldLE (b.drop 8) 4 6 + b2n (fieldBE b 0 1 ≠ 0)]
  | 0x47 => [fieldLE b 0 4]
  | 0x48 => if fieldBE b 0 2 = Config.regItem then [Config.regAt (fieldBE b 4 4)] else []
  | _ => []

/-- A stream message: a STANDBY module checks its SEQ and applies it. The first message of a stream sets where its SEQ stands. -/
def streamIn (s : State) (k : Nat) (l : List Byte) (apply : State → List Byte → State) : State :=
  if !running s ∨ role s ≠ 3 then s
  else
    match mirRx s k l with
    | (s1, none) => s1
    | (s1, some m) =>
      let last := s1.pair.rxSeq.get k 0
      if last ≠ 0 ∧ m.seq ≤ last then s1
      else
        let s2 := pairUpd s1 fun p => { p with
          rxSeq := p.rxSeq.set k m.seq 0
          announced := if (p.announced.get k (0, 0)).1 ≤ m.seq then p.announced.del k else p.announced
          fresh := if p.bulk.get k false then p.fresh ++ (streamKeys k m.body).map fun x => (k, x) else p.fresh }
        let s3 := if last ≠ 0 ∧ last + 1 < m.seq then gapFound s2 k else s2
        apply s3 m.body

/-- FOLD replaces an entry. A change of the reported energy is a report that the partner accepted: it sets the energies at the interval
ends that it spans (R280, R442). -/
def applyFold (s : State) (b : List Byte) : State :=
  let n := fieldBE b 0 3 % 2 ^ 18
  let o := entAt s n
  let e := FoldEntry.ofBytes (b.drop 4)
  let s1 := setEnt s n e
  if o.energyRpt = e.energyRpt ∧ o.energySec = e.energySec then s1 else basinReport s1 n o.energyRpt o.energySec e.energyRpt e.energySec

/-- OX: engine state, words, and the force table when it follows (R401). -/
def applyOx (s : State) (b : List Byte) : State :=
  let (l, r) := wordsIn b.length (b.drop 4)
  let forces (i : Nat) : Option Force :=
    let f (o : Nat) : Nat := fieldBE r (16 * i + o) 4
    if f 8 = 0 then none else some { symbol := f 0, word := f 4, mask := f 8, value := f 12 }
  let mem := l.foldl (fun m x => m.set x.1 x.2 0) s.ox.mem
  oxShow <| oxUpd s fun o => { o with
    mirState := fieldBE b 0 1, mem := mem, kept := some mem
    com := l.foldl (fun m x => if oxCommitted x.1 then m.set x.1 x.2 0 else m) o.com
    forces := if bit (fieldBE b 1 1) 0 then (List.range 64).map forces else o.forces }

/-- BAS: accumulators and open intervals (R276); an interval that has given way to the next one awaits its reconciliation (R281). -/
def applyBas (s : State) (b : List Byte) : State :=
  let x := BasSlot.ofNums (Config.basSlotNums b) ([1, 5, 15, 60].getD (fld s Reg.BAS_INTERVAL_LEN) 15)
  x.feeders.zipIdx.foldl (fun s (y, f) =>
    let old := (fdrAt s f).interval
    let next (i : OpenInterval) : Option OpenInterval := old.filter fun j => decide (j.start < i.start)
    let s1 := match y.2.bind fun i => (next i).map fun j => reconWait s f i.start j i.base with
      | some w => addWait s w
      | none => s
    updFdr s1 f fun z => { z with
      acc := y.1
      interval := y.2.map fun i => { i with levels := match old with | some j => if j.start = i.start then j.levels else [] | none => [] } }) s

/-- The loops of a WEI_SLOW message (R255). -/
def slowLoops : Nat → List Byte → State → State
  | 0, _, s => s
  | k + 1, b, s =>
    let n := fieldBE b 0 2
    match (loopAt s n).desc with
    | none => s
    | some d =>
      let fl := fieldBE b 3 1
      let sec (i : Nat) : SecSt :=
        let f (o : Nat) : Nat := fieldBE b (8 + 16 * i + o) 4
        { xp := f 0, yp := f 4, s1 := f 8, s2 := f 12 }
      slowLoops k (b.drop (8 + 16 * d.nsec)) (updLoop s n fun x => { x with
        init := none, manNext := none, coefNext := [], reg := fieldBE b 2 1, en := bit fl 0, manual := bit fl 1
        held := bit fl 2, clamped := bit fl 3, loser := bit fl 4, fault := bit fl 5
        y := fieldBE b 4 4, secs := (List.range d.nsec).map sec })

def applySlow (s : State) (b : List Byte) : State := countLoops (slowLoops (fieldBE b 0 1) (b.drop 4) s)

/-- WEI_FAST: the last Y of each fast loop that is loaded. -/
def applyFast (s : State) (b : List Byte) : State :=
  (List.range 16).foldl (fun s k =>
    if (loopAt s (fast0 + k)).desc.isSome then updLoop s (fast0 + k) fun x => { x with y := fieldBE b (4 * k) 4 } else s) s

/-- The record of R288 that bytes spell; DT takes its high bits from the present. -/
def CisRec.ofBytes (s : State) (b : List Byte) : CisRec :=
  let h := fieldLE b 2 1
  let n := fieldLE b 0 2
  { cls := h % 4, kind := h / 4, source := fieldLE b 3 1, seq := fieldLE b 4 6
    dt := dtOf (dtSec s.dt / 2 ^ 32 * 2 ^ 32 + fieldLE b 12 4) (fieldLE b 10 2)
    payload := (b.drop 16).take (n - 20), mark := fieldLE b (n - 1) 1 }

/-- A ring holds a SEQ that was mirrored. -/
def noteMirrored (s : State) (ring seq : Nat) : State :=
  cisUpd s fun c => { c with mirSeq := c.mirSeq.set ring (some (max seq ((c.mirSeq.get ring none).getD 0))) none }

/-- CIS: a record enters its ring under its own SEQ, in place of one that this module made under it (R304). -/
def applyCis (s : State) (b : List Byte) : State :=
  let r := CisRec.ofBytes s (b.drop 8)
  if fieldBE b 0 1 = 0 then
    let s1 := noteMirrored s 0 r.seq
    if s.cis.live.any fun x => x.body = r then s1
    else
      let n := max s.cis.nseq (r.seq + 1)
      cisUpd (livePut (cisUpd s1 fun c => { c with live := c.live.filter fun x => x.body.seq ≠ r.seq }) r) fun c => relay { c with
        nseq := n, journal := journalSeq c.journal n }
  else
    let s1 := noteMirrored s 1 r.seq
    if (auditAll s).contains r then s1
    else
      cisUpd (auditPut (cisUpd s1 fun c => { c with
        pend1 := c.pend1.filter fun x => x.seq ≠ r.seq, fram1 := c.fram1.filter fun x => x.seq ≠ r.seq
        arch1 := c.arch1.filter fun x => x.seq ≠ r.seq }) r) fun c => { c with nseq1 := max s.cis.nseq1 (r.seq + 1) }

/-- COMMIT: a commit entry with its counts (R204). -/
def applyCommit (s : State) (b : List Byte) : State :=
  let p := b.drop 32
  let fl := fieldLE p 12 1
  let c : CommitEnt := {
    id := fieldLE b 0 4, kind := fieldLE b 4 1, state := fieldLE b 5 1, group := fieldLE b 6 2, all := bit fl 1, policy := fl % 2
    body := (p.drop 17).take (fieldLE p 16 1), actDt := fieldLE b 8 8, addressed := fieldLE b 16 3, late := fieldLE b 20 2
    ignored := fieldLE b 22 2, refused := fieldLE b 24 2, missed := fieldLE b 26 2, sent := fieldLE b 28 1 }
  streetUpd s fun x => { x with
    commits := x.commits.filter (fun d => d.id ≠ c.id) ++ [{ c with
      accDt := ((x.commits.find? fun d => d.id = c.id).map CommitEnt.accDt).getD s.dt }]
    mirroredId := some (max (x.mirroredId.getD 0) c.id) }

/-- The partner's SEG_EUI differs while the module takes its bulk copy: it is refused at pairing and stays STARTING (R450, log
entry 105). -/
def segRefused (s : State) (off : Nat) (v : Word) : State :=
  let s1 := pairUpd (setFld s Reg.PAR_STAT_ROLE 1) fun p => { p with
    segDiff := (off, v) :: p.segDiff.filter fun x => x.1 ≠ off
    mismatch := true
    bulk := [], fresh := [], announced := [] }
  setErr (partnerEvent (holdOut s1 false) 5) Reg.PAR_ERR_CFG

/-- A register takes its mirrored checkpoint value, with what a write of it brings about (R442). -/
def applyReg (s : State) (off : Nat) (v : Word) : State :=
  match cardAt off with
  | none => s
  | some (c, n) =>
    if (off = Reg.MAC_SEG_EUI_LO_EUI.off ∨ off = Reg.MAC_SEG_EUI_HI_EUI.off) ∧ s.pair.bulk.get 0x48 false ∧ reg s off ≠ v then
      segRefused s off v
    else ckSave (afterWrite s (setReg s off (mergeWord (savedMask c) v (reg s off))) c.base n) off

/-- The tables take mirrored ones; RIO and the counts that follow them are shown (R389, R405). -/
def applyTables (s : State) (t : CfgTables) : State :=
  let s1 := setCfgTables { s with pwr := { s.pwr with ckTold := t } } t
  rioShow (oxShow (if t.bank = oxBank s ∧ t.banks = s.ox.banks then s1 else oxUpd s1 fun o => { o with rio := rioKeep (oxImg s) (oxImg s1) o.rio }))

/-- CFG: changed bytes of a checkpoint item; the register takes them, and the tables once the bytes of all their pieces spell some (R442,
log entry 100). -/
def applyCfg (s : State) (b : List Byte) : State :=
  let item := fieldBE b 0 2
  let ofs := fieldBE b 4 4
  let l := b.drop 8
  let s1 := { s with pwr := { s.pwr with ckHas := true } }
  if item = Config.regItem then (if l.length = 4 then applyReg s1 (Config.regAt ofs) (BitVec.ofNat 32 (beNat l)) else s1)
  else if item = Config.tableItem then
    let bytes := cfgOver s.pwr.ckBytes (ofs, l)
    let s2 := { s1 with pwr := { s1.pwr with ckBytes := bytes } }
    match cfgRead bytes with
    | some t => applyTables s2 t
    | none => s2
  else s1

def execFoldStream (l : List Byte) (s : State) : Host.Outcome State Fault Refusal := .next (streamIn s 0x41 l applyFold)
def execOxStream (l : List Byte) (s : State) : Host.Outcome State Fault Refusal := .next (streamIn s 0x42 l applyOx)
def execBasStream (l : List Byte) (s : State) : Host.Outcome State Fault Refusal := .next (streamIn s 0x43 l applyBas)
def execWeiSlowStream (l : List Byte) (s : State) : Host.Outcome State Fault Refusal := .next (streamIn s 0x44 l applySlow)
def execWeiFastStream (l : List Byte) (s : State) : Host.Outcome State Fault Refusal := .next (streamIn s 0x45 l applyFast)
def execCisStream (l : List Byte) (s : State) : Host.Outcome State Fault Refusal := .next (streamIn s 0x46 l applyCis)
def execCommitStream (l : List Byte) (s : State) : Host.Outcome State Fault Refusal := .next (streamIn s 0x47 l applyCommit)

/-- CFG is acknowledged by its SEQ once it is applied (R444). -/
def execCfgStream (l : List Byte) (s : State) : Host.Outcome State Fault Refusal :=
  .next (streamIn s 0x48 l fun s b => mirSend (applyCfg s b) 0x4A (beBytes 4 (fieldBE l 10 4)))

/-- The partner asks for a bulk copy of a stream, or of all (R443). -/
def execSyncReq (l : List Byte) (s : State) : Host.Outcome State Fault Refusal :=
  .next (
    if !running s ∨ role s ≠ 2 then s
    else
      match mirRx s 0x49 l with
      | (s1, some m) =>
        let k := fieldBE m.body 0 1
        let l := if k = 0 then streams else streams.filter fun x => x = k
        let s2 := l.foldl sendBulk s1
        if l.contains 0x42 then oxUpd s2 fun o => { o with mirrored := mirWords s2, mirForces := false } else s2
      | (s1, none) => s1)

/-- End the wait of a configuration command. -/
def endWait (s : State) (w : CfgWait) : State :=
  actSettle (completeSeq (pairUpd s fun p => { p with cfgWait := p.cfgWait.filter fun x => decide (x.seq ≠ w.seq) }) w.seq w.ans)

def execCfgAck (l : List Byte) (s : State) : Host.Outcome State Fault Refusal :=
  .next (
    if !running s then s
    else
      match mirRx s 0x4A l with
      | (s1, some m) => (s1.pair.cfgWait.filter fun w => decide (w.mirSeq = fieldBE m.body 0 4)).foldl endWait s1
      | (s1, none) => s1)

def execCfgAckTimeout (s : State) : Host.Outcome State Fault Refusal :=
  .next ((s.pair.cfgWait.filter fun w => passedMs s w.since 50).foldl (fun s w =>
    endWait (count1 (setErr (unsync s) Reg.PAR_ERR_CFG_ACK) (Reg.PAR_CNT_COUNT 2)) w) s)

/-- The last SEQ that a LEASE announced has not come within 20 ms (R443). -/
def execSyncGapTimeout (s : State) : Host.Outcome State Fault Refusal :=
  .next (
    if role s ≠ 3 then s
    else (s.pair.announced.filter fun x => passedMs s (x.2.2 - 1) 20).foldl (fun s x => gapFound s x.1) s)

/-- What a bulk copy of a stream did not bring is not the partner's, and goes (R440, R443; log entry 161). Of Cistern's records those
older than every one it brought stay. -/
def dropStale (s : State) (k : Nat) : State :=
  let got (n : Nat) : Bool := s.pair.fresh.contains (k, n)
  let old (ring : Nat) (seq : Nat) : Bool :=
    got (2 * seq + ring) || decide (s.pair.fresh ≠ []) && s.pair.fresh.all fun x => decide (x.1 ≠ k ∨ x.2 % 2 ≠ ring ∨ seq < x.2 / 2)
  match k with
  | 0x41 => (s.mac.fold.keys.filter fun n => !got n).foldl freeEnt s
  | 0x42 =>
    let dr := drivenWords s
    let keep (m : SMap Nat) : SMap Nat := m.filter fun x => got x.1 || !(decide (x.1 < 0x8000) || (oxCommitted x.1 && !dr.contains x.1))
    oxUpd s fun o => { o with mem := keep o.mem, com := keep o.com, kept := o.kept.map keep }
  | 0x46 => cisUpd s fun c => relay { c with
      live := c.live.filter fun x => old 0 x.body.seq
      pend1 := c.pend1.filter fun x => old 1 x.seq, fram1 := c.fram1.filter fun x => old 1 x.seq, arch1 := c.arch1.filter fun x => old 1 x.seq }
  | 0x47 => streetUpd s fun x => { x with
      commits := x.commits.filter fun c => got c.id
      freed := keepFreed x.freed (x.commits.filter fun c => !got c.id && decide (c.actDt + 3600 * 65536 ≤ s.dt)) }
  | 0x48 => (s.pwr.ckRegs.keys.filter fun n => !got n).foldl (fun s n => applyReg s n (resetVal n)) s
  | _ => s

/-- The bulk copies that were requested are complete, with every SEQ announced (R443): SYNCED, which can be the last condition of a
take-over. -/
def execBulkCopyDone (s : State) : Host.Outcome State Fault Refusal :=
  .next (
    if role s ≠ 3 ∨ s.pair.bulk = [] ∨ s.pair.announced ≠ [] ∨
        s.pair.bulk.keys.any (fun k => decide (s.pair.rxSeq.get k 0 < s.pair.told.get k 0)) then s
    else
      let s1 := s.pair.bulk.keys.foldl dropStale s
      takeoverCheck (pairUpd (nowSynced s1) fun p => { p with bulk := [], fresh := [] }))

/-! ### Opcodes (R463) -/

def bodyParSwitch (s : State) (c : Cmd) : Work := do
  checkOps (opChks c [] [])
  stopIf (decide (role s < 2)) (ansBadState 0x0001)
  stopIf (!flag s Reg.PAR_STAT_SYNCED || !flag s Reg.PAR_STAT_PARTNER) (ansBadState 0x0002)
  pure (s, some ansDone)

/-- PAR_SWITCH completes, then the module releases and becomes a STANDBY that asks for a bulk copy (R441); the records of this wait for
its entry (R64). -/
def execParSwitch (sq : Fin 16) (s : State) : Host.Outcome State Fault Refusal :=
  .next (
    match pick s sq 0x0E00 with
    | none => s
    | some c =>
      let run := runCmd s c bodyParSwitch
      match judge s c, bodyParSwitch s c with
      | none, .ok _ => causedBy run (requestBulk (releaseRole run) 0) c.seq
      | _, _ => run)

/-- A STANDBY module asks for a bulk copy; an ACTIVE one sends it. -/
def bodyParResync (s : State) (c : Cmd) : Work := do
  checkOps (opChks c [] [])
  stopIf (!flag s Reg.PAR_STAT_PARTNER) (ansBadState 0x0003)
  let s1 := if role s = 2 then streams.foldl sendBulk (unsync s) else requestBulk s 0
  pure (pairUpd (causedBy s s1 c.seq) fun p => { p with resync := p.resync ++ [c.ref] }, some ansQueued)

def execParResync (sq : Fin 16) (s : State) : Host.Outcome State Fault Refusal := .next (runRing s sq 0x0E01 bodyParResync)

end Sys2Proof.Machine
end

