-- ==== Sys2Proof/Machine/Fed.lean ====
section
/-! DEFINITION. Span at work: HELLO, handover, image pieces, activations, feeder state and published values, and the opcodes of
group 0x0E but for the pair's (R451-R463). -/

namespace Sys2Proof.Machine

/-- A message whose body is not the length its type has (R452). -/
def badBody (s : State) : State := setErr (count1 s (Reg.FED_CNT_COUNT 3)) Reg.FED_ERR_BAD_MSG

/-! ### Acting on messages (R456-R459) -/

/-- Fields that an admitted entry takes over from the message's entry (R458); INTERVAL and SUPERVISION are those of a new entry of
R150 (log entry 73). -/
def admitted (e : FoldEntry) : FoldEntry :=
  { interval := 30000, superv := 1800
    eui := e.eui, state := 1, type := e.type, gen := e.gen, caps := e.caps, sca := e.sca, pre := e.pre, keyEpoch := e.keyEpoch
    ulFcnt := e.ulFcnt, dlFcnt := min (e.dlFcnt + 65536) 0xFFFFFFFF }

/-- The reply to a HANDOVER: RESULT, the EPH and the state (R458). -/
def handoverIn (s : State) (b : List Byte) : State × Nat × Nat :=
  let e := FoldEntry.ofBytes (b.drop 4)
  let take (n : Nat) : State × Nat × Nat := (setEnt (freeEnt s n) n (admitted e), 0, n)
  if !flag s Reg.MAC_CTRL_JOIN_EN then (s, 3, 0)
  else
    match findEui s e.eui with
    | some n => if (entAt s n).state = 7 then take n else (s, 2, 0)
    | none => match freeEph s with | some n => take n | none => (s, 1, 0)

def actHandover (s : State) (m : SpanMsg) : State :=
  if m.body.length ≠ 132 then badBody s
  else
    let r := handoverIn s m.body
    spanSend r.1 m.src 4 (m.body.take 3 ++ beBytes 1 r.2.1 ++ beBytes 3 r.2.2)

/-- A handover ends with a RESULT: its command's outcome (R459, R464). -/
def handoverDone (s : State) (h : Handing) (result eph : Nat) : State :=
  emitOutcome (fedUpd s fun f => { f with handing := f.handing.filter fun x => x.eph ≠ h.eph }) 0x0E02
    (leBytes 3 h.eph ++ leBytes 1 result ++ leBytes 2 h.dst ++ [0, 0] ++ leBytes 3 eph) h.ref 0

def actHandoverAck (s : State) (m : SpanMsg) : State :=
  if m.body.length ≠ 7 then badBody s
  else
    let n := fieldBE m.body 0 3
    let r := fieldBE m.body 3 1
    match s.fed.handing.find? fun h => decide (h.eph = n ∧ h.dst = m.src) with
    | none => s
    | some h =>
      let s1 := if r = 0 then setEp s n { epAt s n with handTo := some h.dst, handAt := s.el } else s
      handoverDone s1 h r (fieldBE m.body 4 3)

/-- A piece is offered to the update engine (R319); `ok` tells that the NAND write and its read-back succeed. -/
def offerPiece (s : State) (p : Part) (data : List Byte) (ok : Bool) : State :=
  match (if flag s Reg.UPD_CTRL_SPAN_IN then slotNum p.slot else none) with
  | some n =>
    let x := slotOf s n
    if x.state = 1 ∧ x.image = p.image ∧ p.piece < x.numPieces ∧ !isVerifying s n then
      (storePiece s n p.piece p.crc data ok).1
    else setErr (count1 s (Reg.UPD_CNT_COUNT 3)) Reg.UPD_ERR_SPAN_REJECT
  | none => setErr (count1 s (Reg.UPD_CNT_COUNT 3)) Reg.UPD_ERR_SPAN_REJECT

/-- Parts of the same piece, with one IMAGE_ID and one CRC. -/
def Part.same (p q : Part) : Bool := decide (p.slot = q.slot ∧ p.image = q.image ∧ p.piece = q.piece ∧ p.crc = q.crc)

/-- A part is held for 10 s; with its three fellows it makes a piece (R456). -/
def actPiecePart (s : State) (m : SpanMsg) (ok : Bool) : State :=
  let b := m.body
  let p : Part := { slot := fieldBE b 0 1, part := fieldBE b 1 1, image := fieldBE b 4 4, piece := fieldBE b 8 4, crc := fieldBE b 12 4
                    since := s.el, data := b.drop 16 }
  if b.length ≠ 1040 ∨ 3 < p.part then badBody s
  else
    let held := (s.fed.parts.filter fun q => !passedSec s q.since 10 && !(q.same p && decide (q.part = p.part))) ++ [p]
    let mine := held.filter fun q => q.same p
    if mine.length = 4 then
      let data := (List.range 4).flatMap fun k => ((mine.find? fun q => q.part = k).map Part.data).getD []
      offerPiece (fedUpd s fun f => { f with parts := held.filter fun q => !q.same p }) p data ok
    else fedUpd s fun f => { f with parts := held }

/-- ACTIVATE acts as UPD_ACTIVATE, and counts ACT_REJECT where that would not be DONE (R456). -/
def actActivate (s : State) (m : SpanMsg) : State :=
  let b := m.body
  let n := fieldBE b 0 1
  if b.length ≠ 16 then badBody s
  else if !flag s Reg.FED_CTRL_ACT_EN then s
  else
    let reject := count1 s (Reg.FED_CNT_COUNT 7)
    if 1 < n ∨ 2 ^ 56 ≤ fieldBE b 8 8 ∨ (slotOf s n).imageId ≠ fieldBE b 4 4 then reject
    else match armSlot s n (fieldBE b 8 8) with
      | .ok s1 => s1
      | .error _ => reject

def actFeederState (s : State) (m : SpanMsg) : State :=
  if m.body.length ≠ 4 then badBody s
  else
    mapShowAll (fedUpd s fun f => { f with
      remote := f.remote.set m.src (some (fieldBE m.body 0 1 % 64, fieldBE m.body 1 1 % 64, s.el)) none })

def actValue (s : State) (m : SpanMsg) : State :=
  if m.body.length ≠ 8 then badBody s
  else fedUpd s fun f => { f with values := f.values.set (fieldBE m.body 0 1 % 64) (some (fieldBE m.body 4 4, s.el)) none }

/-- A HELLO with this module's ID comes from the partner: that is ACTIVE with the EPOCH of its LEASE, and this module is not (log
entry 162). -/
def partnerHello (s : State) (m : SpanMsg) : Bool :=
  decide (role s ≠ 0 ∧ role s ≠ 2 ∧ bits (fieldBE m.body 1 1) 3 1 = 2 ∧ fieldBE m.body 2 2 = fld s Reg.PAR_STAT_EPOCH)

/-- The check for a duplicate ID (R457). -/
def dupCheck (s : State) (m : SpanMsg) : State :=
  if bit (fieldBE m.body 1 1) 0 ∧ flag s Reg.FED_ID_VALID ∧ m.src = fld s Reg.FED_ID_ID ∧ !partnerHello s m then
    fedUpd (setErr (count1 s (Reg.FED_CNT_COUNT 8)) Reg.FED_ERR_DUP_ID) fun f => { f with dupId := some s.el }
  else s

/-- A HELLO on a port: the neighbour, and the check for a duplicate ID (R451, R455, R457). -/
def actHello (s : State) (p : Nat) (mac : List Byte) (m : SpanMsg) : State :=
  if m.body.length ≠ 4 then badBody s
  else
    let s1 := fedUpd s fun f => { f with hello := f.hello.set p (s.el + 1) 0, neighMac := f.neighMac.set p mac everyMac }
    dupCheck (setFld (setFld s1 (Reg.FED_PORT_STAT_NEIGH p) 1) (Reg.FED_PORT_STAT_NEIGH_ID p) m.src) m

/-- The module acts on a message that it has consumed (R454, R456). -/
def spanAct (s : State) (m : SpanMsg) (ok : Bool) : State :=
  if !spanActs s m.msg then s
  else match m.msg with
    | 1 => if m.body.length ≠ 4 then badBody s else dupCheck s m
    | 2 => borderDemand s m
    | 3 => actHandover s m
    | 4 => actHandoverAck s m
    | 5 => actPiecePart s m ok
    | 6 => actActivate s m
    | 7 => actFeederState s m
    | 8 => actValue s m
    | _ => s

/-- A message of one type that reaches a Span port. -/
def spanIn (msg : Nat) (p : Nat) (l : List Byte) (ok : Bool) (s : State) : State :=
  if spanKind l ≠ msg then s
  else
    match spanRx s p l with
    | (s1, some m) => spanAct s1 m ok
    | (s1, none) => s1

def execHandover (p : Fin 4) (l : List Byte) (s : State) : Host.Outcome State Fault Refusal := .next (spanIn 3 p.val l true s)
def execHandoverAck (p : Fin 4) (l : List Byte) (s : State) : Host.Outcome State Fault Refusal := .next (spanIn 4 p.val l true s)
def execPiecePart (p : Fin 4) (l : List Byte) (ok : Bool) (s : State) : Host.Outcome State Fault Refusal := .next (spanIn 5 p.val l ok s)
def execActivate (p : Fin 4) (l : List Byte) (s : State) : Host.Outcome State Fault Refusal := .next (spanIn 6 p.val l true s)
def execFeederStateMsg (p : Fin 4) (l : List Byte) (s : State) : Host.Outcome State Fault Refusal := .next (spanIn 7 p.val l true s)
def execValue (p : Fin 4) (l : List Byte) (s : State) : Host.Outcome State Fault Refusal := .next (spanIn 8 p.val l true s)

def execHello (p : Fin 4) (l : HelloFrame) (s : State) : Host.Outcome State Fault Refusal :=
  .next (
    if spanKind l.bytes ≠ 1 then s
    else
      match spanRx s p.val l.bytes with
      | (s1, some m) => actHello s1 p.val (beBytes 6 l.mac.toNat) m
      | (s1, none) => s1)

/-- A message for another module is forwarded or discarded, and one of no listed type, for this module or all, is consumed (R453,
R454). -/
def execSpanForward (p : Fin 4) (l : List Byte) (s : State) : Host.Outcome State Fault Refusal :=
  .next (
    match SpanMsg.ofBytes l with
    | some m =>
      let here := m.bcast || (decide (m.dst = fld s Reg.FED_ID_ID) && flag s Reg.FED_ID_VALID)
      if here ∧ 1 ≤ m.msg ∧ m.msg ≤ 8 then s else (spanRx s p.val l).1
    | none => (spanRx s p.val l).1)

/-- The partner hands over a message that it consumed (R454). -/
def execSpanCopy (l : List Byte) (ok : Bool) (s : State) : Host.Outcome State Fault Refusal :=
  .next (
    if !running s ∨ role s = 0 ∨ !fedOn s then s
    else
      match mirRx s 0x4B l with
      | (s1, none) => s1
      | (s1, some c) =>
        match SpanMsg.ofBytes c.body with
        | none => badBody s1
        | some m =>
          let s2 := count1 s1 (Reg.PAR_CNT_COUNT 4)
          let (again, w) := dupStep (s2.fed.dup.get m.src (0, 0)) m.seq
          if again = true ∨ (!m.bcast ∧ idConflict s) then s2 else spanAct (fedUpd s2 fun f => { f with dup := f.dup.set m.src w (0, 0) }) m ok)

/-! ### Sending at its time (R455, R456, R459, R463) -/

/-- Every second a HELLO leaves on each port, with TTL 1. -/
def execHelloSend (s : State) : Host.Outcome State Fault Refusal :=
  .next (
    if !running s ∨ !spanMine s ∨ (match s.fed.helloAt with | some t => !passedSec s t 1 | none => false) = true then s
    else
      (List.range 4).foldl (fun s p =>
        let n := (s.fed.seq + 1) % 2 ^ 32
        portSend (count1 (fedUpd s fun f => { f with seq := n }) (Reg.FED_CNT_COUNT 1)) p everyMac
          { msg := 1, src := fld s Reg.FED_ID_ID, dst := 0, bcast := true, ttl := 1, seq := n
            body := beBytes 1 p ++ beBytes 1 (fld s Reg.FED_ID_VALID + 2 * role s) ++ beBytes 2 (fld s Reg.PAR_STAT_EPOCH) })
        (fedUpd s fun f => { f with helloAt := some s.el }))

/-- No HANDOVER_ACK came within 2 s. -/
def execHandoverTimeout (s : State) : Host.Outcome State Fault Refusal :=
  .next ((s.fed.handing.filter fun h => passedSec s h.since 2).foldl (fun s h => handoverDone s h 4 0) s)

/-- No frame of a handed-over endpoint came within half its supervision time. -/
def handSilent (s : State) (n : Nat) : Bool :=
  (epAt s n).handTo.isSome && decide (2 * (epAt s n).handAt + (entAt s n).superv * 65536 ≤ 2 * s.el)

def execHandoverSupervisionEnd (s : State) : Host.Outcome State Fault Refusal :=
  .next ((s.mac.ep.keys.filter (handSilent s)).foldl (fun s n =>
    updEnt (setEp s n { epAt s n with handTo := none, rejoin := false }) n fun e =>
      { e with state := 7, homeModule := (epAt s n).handTo.getD 0 }) s)

/-- The four messages of a piece. -/
def sendPiece (s : State) (j : PieceJob) : State :=
  let n := (slotNum j.slot).getD 0
  let x := slotOf s n
  let d := padTo 4096 (x.pieces.get j.next [])
  (List.range 4).foldl (fun s k =>
    let b := beBytes 1 j.slot ++ beBytes 1 k ++ [0, 0] ++ beBytes 4 x.imageId ++ beBytes 4 j.next ++ beBytes 4 (crc32c d) ++
      sliceB d (1024 * k) 1024
    if j.bcast then spanBcast s (fld s Reg.FED_CFG_TTL) 5 b else spanSend s j.dst 5 b) s

/-- The oldest FED_PIECE_SEND sends its next piece while the second's share lasts, and ends after its last. -/
def execPiecePartSend (s : State) : Host.Outcome State Fault Refusal :=
  .next (
    match s.fed.jobs with
    | [] => s
    | j :: r =>
      if j.left = 0 then
        emitOutcome (fedUpd s fun f => { f with jobs := r }) 0x0E03 (leBytes 1 j.slot ++ [0, 0, 0] ++ leBytes 4 j.sent) j.ref 0
      else
        let used := if s.fed.jobSec.1 = dtSec s.dt then s.fed.jobSec.2 else 0
        if fld s Reg.FED_UDP_PIECE_RATE ≤ used then s
        else
          fedUpd (sendPiece s j) fun f => { f with
            jobSec := (dtSec s.dt, used + 1), jobs := { j with next := j.next + 1, left := j.left - 1, sent := j.sent + 1 } :: r })

/-- The module's own feeders that are dead, and the contactors that Ox holds open. -/
def ownFeeders (s : State) : Nat × Nat :=
  let mask (p : Nat → Bool) : Nat := ((List.range 6).map fun f => b2n (p f) * 2 ^ f).sum
  (mask fun f => flag s (Reg.BAS_FDR_CFG_EN f) && flag s (Reg.BAS_FDR_STAT_DEAD f), mask (contactorOpen s))

/-- FEEDER_STATE leaves on each change and every 10 s. -/
def execFeederStateSend (s : State) : Host.Outcome State Fault Refusal :=
  .next (
    let (d, o) := ownFeeders s
    let due : Bool := match s.fed.feederSaid with
      | none => true
      | some (d0, o0, t) => decide (d0 ≠ d ∨ o0 ≠ o) || passedSec s t 10
    if !running s ∨ !spanMine s ∨ !due then s
    else
      spanBcast (fedUpd s fun f => { f with feederSaid := some (d, o, s.el) }) (fld s Reg.FED_CFG_TTL) 7
        (beBytes 1 d ++ beBytes 1 o ++ [0, 0]))

/-- Remote modules that a local feeder is mapped to and that have been silent for 30 s. -/
def staleRemotes (s : State) : List Nat :=
  s.fed.remote.filterMap fun x =>
    match x.2 with
    | some (_, _, t) =>
      if passedSec s t 30 ∧ s.fed.feederMap.any (fun y => decide (y.2.map Prod.fst = some x.1)) then some x.1 else none
    | none => none

def execFeederStateStale (s : State) : Host.Outcome State Fault Refusal :=
  .next (
    match staleRemotes s with
    | [] => s
    | l => mapShowAll (setErr (fedUpd s fun f => { f with remote := l.foldl SMap.del f.remote }) Reg.FED_ERR_FEEDER_STALE))

/-- At each DT second the valid published values are sent. -/
def execValuePublish (s : State) : Host.Outcome State Fault Refusal :=
  .next (
    if !running s ∨ !spanMine s ∨ s.fed.pubSec = dtSec s.dt then s
    else
      s.fed.pubs.foldl (fun s x =>
        match x.2 with
        | none => s
        | some v =>
          match srcValue s 0 v.word with
          | some y => spanSend s v.dst 8 (beBytes 1 v.index ++ [0, 0, 0] ++ beBytes 4 y)
          | none => s) (fedUpd s fun f => { f with pubSec := dtSec s.dt }))

/-! ### Opcodes (R463) -/

/-- DST and its zero bits. -/
def dstChk (c : Cmd) (o : Nat) : Chk := rsvChk (decide (4095 < c.op o 2)) (o + 1)

/-- The module may originate messages. -/
def fedReady (s : State) : Bool := flag s Reg.FED_ID_VALID && fedOn s

def bodyFedRouteSet (s : State) (c : Cmd) : Work := do
  let first := c.op 16 2
  let n := c.op 20 2
  checkOps (opChks c [(16, 2), (20, 2)] [(0, 2 * n)] ++
    [rangeChk (decide (4095 < first)) 16, rangeChk (decide (n = 0 ∨ 4096 < n ∨ 4096 < first + n)) 20])
  let b ← readBuf s c 0
  let l := b.take (2 * n)
  checkBuf 0 (l.zipIdx.map fun x => rangeChk (!bit x.1.toNat 6 && decide (3 < x.1.toNat % 64)) x.2)
  let routes := (List.range n).foldl (fun m i => m.set (first + i) (fieldLE l (2 * i) 1, fieldLE l (2 * i + 1) 1) (0, 0)) s.fed.routes
  pure (fedUpd s fun f => { f with routes := routes }, some (ansDone n))

def execFedRouteSet (sq : Fin 16) (s : State) : Host.Outcome State Fault Refusal := .next (runRing s sq 0x0E02 bodyFedRouteSet)

def bodyFedPeerSet (s : State) (c : Cmd) : Work := do
  let i := c.op 16 1
  checkOps (opChks c [(16, 24)] [] ++ [rangeChk (decide (63 < i ∧ i ≠ 255)) 16, rangeChk (decide (3 < c.op 17 1)) 17])
  let p : Peer := { port := c.op 17 1, mac := sliceB c.bytes 18 6, ip := sliceB c.bytes 24 16 }
  pure (fedUpd s fun f => { f with peers := f.peers.set i (some p) none }, some ansDone)

def execFedPeerSet (sq : Fin 16) (s : State) : Host.Outcome State Fault Refusal := .next (runRing s sq 0x0E03 bodyFedPeerSet)

def bodyFedValuePub (s : State) (c : Cmd) : Work := do
  let e := c.op 16 1
  let w := c.op 24 4
  let k := w / 2 ^ 24
  checkOps (opChks c [(16, 3), (20, 2), (24, 4)] [] ++
    [rangeChk (decide (15 < e)) 16, rsvChk (decide (1 < c.op 17 1)) 17, rangeChk (decide (63 < c.op 18 1)) 18, dstChk c 20,
     if k = 1 ∨ k = 2 ∨ k = 4 ∨ k = 5 ∨ k = 7 then srcChk w false false 27 else rangeChk true 27])
  let v : Option ValuePub := if c.op 17 1 = 1 then some { index := c.op 18 1, dst := c.op 20 2, word := w } else none
  pure (fedUpd s fun f => { f with pubs := f.pubs.set e v none }, some ansDone)

def execFedValuePub (sq : Fin 16) (s : State) : Host.Outcome State Fault Refusal := .next (runRing s sq 0x0E04 bodyFedValuePub)

def bodyFedFeederMap (s : State) (c : Cmd) : Work := do
  let f := c.op 16 1
  let m := c.op 20 2
  checkOps (opChks c [(16, 2), (20, 3)] [] ++
    [rangeChk (decide (5 < f)) 16, rsvChk (decide (1 < c.op 17 1)) 17, rangeChk (decide (4095 < m)) 20, rangeChk (decide (5 < c.op 22 1)) 22])
  stopIf (flag s (Reg.BAS_FDR_CFG_EN f)) (ansBadState 0x0004)
  let v : Option (Nat × Nat) := if c.op 17 1 = 1 then some (m, c.op 22 1) else none
  let heard : SMap (Option (Nat × Nat × Nat)) :=
    if v.isSome ∧ s.fed.remote.get m none = none then s.fed.remote.set m (some (0, 0, s.el)) none else s.fed.remote
  pure (causedBy s (mapShow (fedUpd s fun x => { x with feederMap := x.feederMap.set f v none, remote := heard }) f) c.seq, some ansDone)

def execFedFeederMap (sq : Fin 16) (s : State) : Host.Outcome State Fault Refusal := .next (runRing s sq 0x0E05 bodyFedFeederMap)

def bodyFedHandover (s : State) (c : Cmd) : Work := do
  let n := c.op 16 3
  let d := c.op 20 2
  checkOps (opChks c [(16, 3), (20, 2)] [] ++ [rangeChk (decide (foldSize ≤ n)) 16, dstChk c 20])
  stopIf (decide ((entAt s n).state ≠ 3)) (ansBadState 0x0005)
  stopIf ((s.fed.handing.any fun h => h.eph = n) || (epAt s n).handTo.isSome) (ansBadState 0x0006)
  stopIf (!fedReady s) (ansBadState 0x0007)
  let s1 := spanSend s d 3 (beBytes 3 n ++ [0] ++ (entAt s n).bytes)
  pure (fedUpd s1 fun f => { f with handing := f.handing ++ [{ eph := n, dst := d, since := s.el, ref := some c.ref }] }, some ansQueued)

def execFedHandover (sq : Fin 16) (s : State) : Host.Outcome State Fault Refusal := .next (runRing s sq 0x0E06 bodyFedHandover)

def bodyFedPieceSend (s : State) (c : Cmd) : Work := do
  let slot := c.op 16 1
  let first := c.op 20 4
  let n := c.op 24 4
  checkOps (opChks c [(16, 4), (20, 8)] [] ++ [slotChk c, rsvChk (decide (1 < c.op 17 1)) 17, dstChk c 18])
  stopIf (!fedReady s) (ansBadState 0x0007)
  let x := slotOf s ((slotNum slot).getD 0)
  let held := (x.pieces.filter fun y => decide (first ≤ y.1 ∧ y.1 < first + n)).length
  stopIf (decide (held ≠ n)) (ansBadState 0x0008)
  let j : PieceJob := { slot := slot, bcast := bit (c.op 17 1) 0, dst := c.op 18 2, next := first, left := n, sent := 0, ref := some c.ref }
  pure (fedUpd s fun f => { f with jobs := f.jobs ++ [j] }, some ansQueued)

def execFedPieceSend (sq : Fin 16) (s : State) : Host.Outcome State Fault Refusal := .next (runRing s sq 0x0E07 bodyFedPieceSend)

def bodyFedActSend (s : State) (c : Cmd) : Work := do
  checkOps (opChks c [(16, 16)] [] ++
    [rangeChk (decide (1 < c.op 16 1)) 16, rsvChk (decide (1 < c.op 17 1)) 17, dstChk c 18, dtChk c 24])
  stopIf (!fedReady s) (ansBadState 0x0007)
  let b := beBytes 1 (c.op 16 1) ++ [0, 0, 0] ++ beBytes 4 (c.op 20 4) ++ beBytes 8 (c.op 24 8)
  pure (if c.op 17 1 = 1 then spanBcast s (fld s Reg.FED_CFG_TTL) 6 b else spanSend s (c.op 18 2) 6 b, some ansDone)

def execFedActSend (sq : Fin 16) (s : State) : Host.Outcome State Fault Refusal := .next (runRing s sq 0x0E08 bodyFedActSend)

end Sys2Proof.Machine
end

