-- ==== Sys2Proof/Machine/PowerOps.lean ====
section
/-! DEFINITION. The power-fail warning, supplies, domains and modes, tamper, and the resets that a command or an activation asks
for (R81, R82, R322, R484, R485, R487-R493, R500, R501, R508, R522). -/

namespace Sys2Proof.Machine

/-! ### Power-fail (R488-R490, R493) -/

/-- What a warning or an activation commits to FRAM (R490 steps 1 to 4; the Fold journal is in FRAM already). -/
def commitAll (s : State) : State :=
  let s1 := commitBasin s
  let s2 := (List.range s1.cis.pend1.length).foldl (fun s _ => framWrite s) s1
  match s2.ox.kept with
  | some m => if s2.ox.hasProg then retCommit s2 m else s2
  | none => s2

/-- Load is shed (R489). -/
def shed (s : State) : State :=
  let s1 := rxOff (setDom (setDom s 9 0) 7 0)
  let s2 := outputsCheck (flkShed s1)
  if role s2 = 2 then releaseRole s2 else s2

/-- VIN as the monitor reads it: PWR_VOLT, and a VIN of at most 9.0 V is not good (R488, R502). -/
def readVin (s : State) (mv : Nat) : State :=
  let s1 := setFld s Reg.PWR_VOLT_VIN (min mv 65535)
  if mv ≤ 9000 then setFld s1 Reg.PWR_STAT_VIN_OK 0 else s1

/-- The latch of a warning, whose logic lies in AO (R482, R488). -/
def latchPf (s : State) : State :=
  pwrUpd (setFlag (count1 s (Reg.PWR_CNT_COUNT 0)) Reg.PWR_STAT_PF true) fun p => { p with pfAt := s.el + 1 }

/-- A warning from VIN below 8.5 V, or from PFW_N, which raises one only while PFW_PIN_EN is 1. While the clock monitor or the scan mode
holds the module, and before step 9, nothing is committed. The commit duration is a free value of at most 4 ms. -/
def execPowerFailWarning (w : PfWarn) (s : State) : Host.Outcome State Fault Refusal :=
  .next (
    if s.pwr.phase = .por ∨ s.pwr.phase = .holdover then s
    else
      let s0 := readVin s w.vin
      if flag s Reg.PWR_STAT_PF ∨ (if w.pin then !flag s Reg.PWR_CTRL_PFW_PIN_EN else decide (8500 ≤ w.vin)) then s0
      else if !running s then pwrUpd (latchPf s0) fun p => { p with pfRec := none }
      else
        let s2 := shed (latchPf s0)
        if fld s Reg.PWR_STAT_STEP = 9 then
          let r : PfRec := { dt := s.dt, us := Config.free s2.freeN % 4001, done := true }
          pwrUpd (commitAll (drawFree s2)) fun p => { p with pfRec := some r, pfHist := r :: p.pfHist }
        else pwrUpd s2 fun p => { p with pfRec := none })

/-! ### Supplies, temperature and tamper (R487, R501, R508, R522) -/

def supplyEvent (s : State) (k : Nat) : State := emit s 0x1002 (leBytes 1 k)

def execVbakLow (mv : Nat) (s : State) : Host.Outcome State Fault Refusal :=
  .next (
    match s.pwr.phase with
    | .por => s
    | .holdover | .clockHeld => pwrUpd s fun p => { p with aoLost := true }
    | .on | .scan =>
      let s1 := setFld s Reg.PWR_VOLT_VBAK (min mv 65535)
      if flag s Reg.PWR_STAT_VBAK_OK ∧ mv < 2000 then
        supplyEvent (setErr (setFld s1 Reg.PWR_STAT_VBAK_OK 0) Reg.PWR_ERR_VBAK_LOW) 0
      else s1)

def execVbakGood (mv : Nat) (s : State) : Host.Outcome State Fault Refusal :=
  .next (
    match s.pwr.phase with
    | .por | .holdover => s
    | .clockHeld => pwrUpd s fun p => { p with aoLost := false }
    | .on | .scan =>
      let s1 := setFld s Reg.PWR_VOLT_VBAK (min mv 65535)
      if !flag s Reg.PWR_STAT_VBAK_OK ∧ 2000 ≤ mv then supplyEvent (setFld s1 Reg.PWR_STAT_VBAK_OK 1) 1 else s1)

/-- A lid temperature in 0.01 °C: at or above 100 °C it is reported once until it falls below 95 °C. -/
def execThermal (t : Int) (s : State) : Host.Outcome State Fault Refusal :=
  .next (
    if !running s then s
    else
      let s1 := setFld s Reg.PWR_TEMP_LID (ofSigned 16 t)
      if 10000 ≤ t ∧ !s.pwr.hot then supplyEvent (setErr (pwrUpd s1 fun p => { p with hot := true }) Reg.PWR_ERR_THERMAL) 2 else s1)

def execThermalClear (t : Int) (s : State) : Host.Outcome State Fault Refusal :=
  .next (
    if !running s then s
    else
      let s1 := setFld s Reg.PWR_TEMP_LID (ofSigned 16 t)
      if t < 9500 ∧ s.pwr.hot then supplyEvent (pwrUpd s1 fun p => { p with hot := false }) 3 else s1)

/-- AO has no supply (R482, R492). -/
def aoDead (s : State) : Bool := decide (s.pwr.phase = .por ∨ s.pwr.phase = .holdover ∧ s.pwr.aoLost = true)

/-- TAMPn has been low for 4 periods of the AO clock, or is high again: PIN_TAMPER shows its level, and a low one may latch (R522,
R523). -/
def execTamper (x : TampIn) (s0 : State) : Host.Outcome State Fault Refusal :=
  let n := x.n
  let s := setFld s0 Reg.PIN_TAMPER_LEVEL (putBits (fld s0 Reg.PIN_TAMPER_LEVEL) n.val n.val (b2n !x.low))
  .next (
    let latch := fld s Reg.PIN_TAMPER_LATCH
    if aoDead s0 then s0
    else if !x.low ∨ !bit (fld s Reg.PIN_TAMPER_EN) n.val ∨ bit latch n.val then s
    else
      let now := latch + 2 ^ n.val
      let s1 := setFld s Reg.PIN_TAMPER_LATCH now
      let s2 := if latch = 0 then pwrUpd s1 fun p => { p with tamperDt := s.dt } else s1
      if running s then tamperRecord s2 now else pwrUpd s2 fun p => { p with tamperDue := p.tamperDue ++ [now] })

/-! ### Modes and domains (R483-R485, R500) -/

def bodyPwrModeSet (s : State) (c : Cmd) : Work := do
  let m := c.op 16 1
  checkOps (opChks c [(16, 1)] [] ++ [rangeChk (decide (1 < m)) 16])
  stopIf (flag s Reg.PWR_STAT_PF) (ansBadState 0x0001)
  let old := fld s Reg.PWR_STAT_MODE
  let s1 := pwrUpd (setFld (setFld s Reg.PWR_STAT_MODE m) Reg.RAD_CTRL_QUIET m) fun p => { p with ckMode := m }
  let s2 := outputsCheck s1
  pure (if old = m then s2 else emitBy s2 0x1000 (leBytes 1 old ++ leBytes 1 m) c.seq, some ansDone)

def execPwrModeSet (sq : Fin 16) (s : State) : Host.Outcome State Fault Refusal := .next (runRing s sq 0x1000 bodyPwrModeSet)

/-- The block of a domain that the host may set is in use (R484). -/
def inUse (s : State) (d : Nat) : Bool :=
  match d with
  | 6 => flag s Reg.RAD_CTRL_TXB_EN || decide (fld s Reg.RAD_CTRL_DIV ≠ 1)
  | 7 => flag s Reg.RAD_CTRL_RF24_EN
  | 10 => flag s Reg.BAS_CTRL_EN || decide (fld s Reg.BAS_CLK_EN ≠ 0)
  | _ => decide (oxState s = 2) || flag s Reg.FTN_CTRL_EN

def bodyPwrDomainSet (s : State) (c : Cmd) : Work := do
  let d := c.op 16 1
  let v := c.op 17 1
  checkOps (opChks c [(16, 2)] [] ++ [rangeChk (!([6, 7, 10, 11].contains d)) 16, rangeChk (decide (2 < v)) 17])
  stopIf (flag s Reg.PWR_STAT_PF) (ansBadState 0x0001)
  stopIf (inUse s d) (ansBadState 0x0002)
  pure (pwrUpd s fun p => { p with changes := p.changes ++ [{ seq := c.seq, dom := d, goal := v }] }, none)

def execPwrDomainSet (sq : Fin 16) (s : State) : Host.Outcome State Fault Refusal := .next (runRing s sq 0x1001 bodyPwrDomainSet)

/-- The register domain of a power domain that the host may set. -/
def regDom (d : Nat) : RegDom := match d with | 6 => .rfb | 7 => .rf24 | 10 => .met | _ => .iox

/-- Folding follows what Basin shows after the reset of its domain (R271, R296). -/
def foldDead (s : State) : State := (List.range 6).foldl (fun t f => foldCause t f 1 (flag t (Reg.BAS_FDR_STAT_DEAD f))) s

/-- The DOM reset of a domain that powers up from OFF (R20, R483); PIN_STRAP keeps what was sampled. -/
def domReset (s : State) (d : Nat) : State :=
  let g := regDom d
  let jets := if d = 11 then liveJets s else []
  let bank := oxBank s
  let s1 := ckLoad (setFld (dropRegs s fun c => c.dom = g && !c.ao) Reg.PIN_STRAP_STRAP (fld s Reg.PIN_STRAP_STRAP)) fun c => c.dom = g
  let s2 := if d = 10 then foldDead (restoreBasin (basinReset s1))
    else if d = 11 then oxRestore (oxReset (ftnReset s1) bank) else s1
  jetStops s2 jets

/-- The pads of a domain follow its state; from OFF its blocks drive them anew (R505). -/
def domPads (s : State) (d goal : Nat) : State := if goal = 0 then dropDrives s fun p => p.dom = some d else showPads s

/-- The oldest change of a domain is complete (R484); after a power-fail warning it does not come about (R493). -/
def execDomainStateReached (s : State) : Host.Outcome State Fault Refusal :=
  .next (
    match s.pwr.changes with
    | [] => s
    | x :: r =>
      let old := domState s x.dom
      let s1 := pwrUpd s fun p => { p with changes := r }
      if flag s Reg.PWR_STAT_PF then completeSeq s1 x.seq (ansBadState 0x0001)
      else
      let s2 := setDom s1 x.dom x.goal
      let s3 := if old = 0 ∧ x.goal ≠ 0 then domReset s2 x.dom else s2
      let s4 := (if x.dom = 11 ∧ old = 1 ∧ x.goal = 2 then oxFollowRole else id) <|
        domPads (if x.dom = 10 ∧ x.goal ≠ 0 then driveClks s3 else s3) x.dom x.goal
      let s5 := if old = x.goal then s4 else emitBy s4 0x1001 (leBytes 1 x.dom ++ leBytes 1 old ++ leBytes 1 x.goal) x.seq
      completeSeq s5 x.seq ansDone)

/-! ### Resets that are asked for (R81, R82, R322) -/

/-- Every held completion that its CQ has room for is written. -/
def flushHeld (s : State) : State :=
  (List.range 16).foldl (fun s n => (List.range (cqAt s n).held.length).foldl (fun s _ => writeCompletion s n) s) s

def bodyModuleReset (s : State) (c : Cmd) : Work := do
  checkOps (opChks c [(16, 4)] [] ++ [rangeChk (decide (c.op 16 4 ≠ 0xD2640A5E)) 16])
  stopIf (committing s) (ansBadState 0x0002)
  pure (s, some ansDone)

/-- Begin the reset of MODULE_RESET once its completion entry is written and no commit to FRAM runs, or remember that it is still to
begin (R81, R82). -/
def resetWhenWritten (s : State) (seq : Nat) (b : Boot) : State :=
  if entryPending s seq || committing s then hostUpd s fun h => { h with resetFor := some seq } else modReset s b 5 false

/-- MODULE_RESET: DONE is written, then the reset begins; a command whose CQ is full waits for a free slot, and one whose entry
could not be written resets the module when this command comes after the entry is out. -/
def execModuleReset (sq : Fin 16) (b : Boot) (s : State) : Host.Outcome State Fault Refusal :=
  .next (
    match s.host.resetFor with
    | some q => resetWhenWritten s q b
    | none =>
      match pick s sq 0x0105 with
      | none => s
      | some c =>
        let run := runCmd s c bodyModuleReset
        match judge s c, bodyModuleReset s c with
        | none, .ok _ =>
          if cqFree s (fld s (Reg.HIF_SQ_CFG_CQ c.sq)) ∨ c.noCompletion then resetWhenWritten (flushHeld run) c.seq b else s
        | _, _ => run)

/-- An activation stops fetching; commands that have not started complete with BUSY_RETRY (R322). -/
def stopForActivation (s : State) (a : ActSched) : State :=
  let s1 := completeAll s (sortCmds ((allFetched s).filter fun c => !c.started)) (ansRetry 0)
  updUpd s1 fun u => { u with act := some { a with since := some s.el } }

/-- The slot before the one that an activation boots: from RESCUE the slot in service may be that slot itself. -/
def slotBefore (s : State) (n : Nat) : Nat := if s.upd.runSlot = n then 1 - n else s.upd.runSlot

/-- State is committed, the boot record is written, and the module resets into the slot (R322). -/
def bootActivated (s : State) (a : ActSched) (b : Boot) : State :=
  let s1 := updAudit (commitAll (flushHeld s)) 2 a.slot []
  let s2 := (List.range s1.cis.pend1.length).foldl (fun s _ => framWrite s) s1
  let r : BootRec := { slot := a.slot, prev := slotBefore s a.slot, tries := 1, win := fld s Reg.UPD_CFG_HEALTH_WIN, booted := false }
  modReset (updUpd s2 fun u => { u with act := none, boot := some r }) b 7 false

/-- An activation falls due, and goes on once every command that has started has its final status, or after 20 ms (R322, log entry
116). -/
def execActivationDue (b : Boot) (s : State) : Host.Outcome State Fault Refusal :=
  .next (
    match s.upd.act with
    | some a =>
      if running s ∧ actDue s ∧ fld s Reg.PWR_STAT_STEP = 9 ∧ !flag s Reg.PWR_STAT_PF then
        let s1 := if a.since.isSome then s else stopForActivation s a
        if (allFetched s1).isEmpty ∨ a.since.any (fun t => passedMs s t 20) then bootActivated s1 a b else s1
      else s
    | none => s)

end Sys2Proof.Machine
end

