-- ==== Sys2Proof/Machine/Steps.lean ====
section
/-! DEFINITION. A step of DT at a 1/65,536 s boundary, and what every block makes of it (R97-R99, R110, R159, R180, R196, R202,
R228, R237, R278, R321). -/

namespace Sys2Proof.Machine

/-- Tamin's share: LAST_RX and LAST_SP keep their elapsed instants, and so do the events that are planned; GRID_EPOCH counts (R159,
R180). Commit windows that a forward step passes over are dropped (R202). -/
def taminStep (s : State) (d : Int) : State :=
  let sec := roundAway d 65536
  let k := roundAway (d * 5) 4096
  let add (w : Nat) (v : Nat) (x : Int) : Nat := (((v : Int) + x) % (2 ^ w : Nat)).toNat
  let now := curSp s
  let s1 := macUpd s fun m => { m with
    fold := m.fold.map fun x => (x.1, { x.2 with lastRx := add 32 x.2.lastRx sec, lastSp := add 32 x.2.lastSp k })
    joins := m.joins.map fun x => (x.1, x.2.map fun (j : JoinPlan) => { j with sp := ((j.sp : Int) + k).toNat, anchor := ((j.anchor : Int) + k).toNat })
    plans := m.plans.map fun p => { p with sp := ((p.sp : Int) + k).toNat }
    resps := m.resps.map fun r => { r with at' := ((r.at' : Int) + roundAway (d * 400000) 65536).toNat }
    oldMaps := m.oldMaps.map fun x => (x.1, x.2.map fun (o : OldMap) => { o with until' := ((o.until' : Int) + k).toNat })
    ep := m.ep.map fun x => (x.1, { x.2 with
      upSp := x.2.upSp.map fun v => add 32 v k
      conn := x.2.conn.map fun c => { c with at' := c.at'.map fun a => (a.1, add 32 a.2 k) } })
    wins := if 0 < d then m.wins.filter fun w => decide (w.kind ≠ 1 ∨ now ≤ w.sp) else m.wins }
  setFld s1 Reg.MAC_GRID_GRID_EPOCH ((fld s1 Reg.MAC_GRID_GRID_EPOCH + 1) % 65536)

/-- Street control's share: a forward step fires the steps that it crosses, and makes commits due; a backward one fires nothing
(R196, R202). -/
def streetStep (s : State) (old : Nat) : State :=
  if old ≤ s.dt ∧ onAir s then dueCommits (fireCrossed s 2) else stepsSeen s

/-- The step reaches the blocks (R110). -/
def deliverStep (s : State) (old : Nat) : State :=
  let d : Int := (s.dt : Int) - old
  actCross (syncSlow (cascadeStep (basinStep (streetStep (taminStep s d) old) old) d)) old s.dt

/-- DT steps, and the blocks learn of it before anything else happens at the new time. A slew of the servo goes on (log entry 134). -/
def takeStep (s : State) (new : Nat) (byHost : Bool) (after : Option Nat) : State :=
  deliverStep (stepClock (timeUpd s fun t => { t with servoStep := none }) new byHost after) s.dt

/-- The register commit that waits acts: the state, and that it stepped (R97, R98, R101, R103). -/
def regCommit (s : State) : State × Bool :=
  let s1 := timeUpd (setFld s Reg.TIM_COMMIT_PENDING 0) fun t => { t with commitMode := 0 }
  let drop (s : State) : State := timeUpd s fun t => { t with staged := none }
  if s.time.commitMode = 7 then (drop s1, false)
  else if qual s = 4 then (setErr s1 Reg.TIM_ERR_SET_DENIED, false)
  else if s.time.commitMode = 1 then (takeStep s1 (stagedSet s) true none, true)
  else
    let v := calSecs (s.time.staged.getD (nowCal s))
    if v < 0 ∨ lastCalSec < v then (setErr (drop s1) Reg.TIM_ERR_CAL_RANGE, false)
    else (takeStep (drop s1) (v * 65536).toNat true none, true)

/-- The oldest ring step acts; its command completes with the DT before the step (R98, R111). -/
def ringStep (s : State) (r : RingStep) : State :=
  let s1 := timeUpd s fun t => { t with ringSteps := t.ringSteps.drop 1 }
  if qual s = 4 then completeSeq s1 r.cmdSeq (ansBadState 0x0001)
  else
    match (if r.adjust then adjusted s r.value else some r.value.toNat) with
    | some v => completeSeq (takeStep s1 v true (some r.cmdSeq)) r.cmdSeq (ansDone s.dt)
    | none => completeSeq s1 r.cmdSeq (ansBadField 0x01 16)

/-- The servo's step, by an offset in ns (R91). -/
def servoJump (s : State) : State :=
  match s.time.servoStep with
  | some off => takeStep s (max 0 ((s.dt : Int) + roundAway (off * 65536) 1000000000) % 2 ^ 56).toNat false none
  | none => s

/-- The boundary of the present interval of 1/65,536 s: a register commit, else the oldest ring step, else the servo's step; and
the local rules that wait (R99). -/
def execStepBoundary (s : State) : Host.Outcome State Fault Refusal :=
  .next (
    if !running s ∨ s.time.boundary = s.el + 1 then s
    else
      let s0 := timeUpd s fun t => { t with boundary := s.el + 1 }
      let (s1, stepped) := if s0.time.commitMode = 0 then (s0, false) else regCommit s0
      let s2 := if stepped = true then s1 else
        match s1.time.ringSteps with
        | r :: _ => ringStep s1 r
        | [] => servoJump s1
      applyRules s2)

end Sys2Proof.Machine
end

