-- ==== Sys2Proof/Machine/HostAccess.lean ====
section
/-! DEFINITION. Host reads and writes of BAR0 and BAR2: access codes, LOCK bits, and what each register card says of a write or a
read of it (R14-R19, R38, R47, R483, R524-R528). -/

namespace Sys2Proof.Machine

/-! ### Where an access lands -/

/-- The number of a card's power domain in PWR_DOMAIN (R482). -/
def domIndex : RegDom → Nat
  | .fab => 2 | .host => 4 | .net => 3 | .flk => 8 | .rfa => 5 | .rfb => 6 | .rf24 => 7 | .cw => 9 | .met => 10 | .iox => 11
  | .sec => 1

/-- The LOCK bit of the window of a register (R525). -/
def lockFld (off : Nat) : RF := if off / 4096 = 1 then Reg.HIF_LOCK_LOCK else ⟨off / 4096 * 4096, 31, 31⟩

/-- The RWL fields of the register at an offset keep their values (R15). -/
def locked (s : State) (off : Nat) : Bool := flag s (lockFld off)

/-- The bits of a card's fields whose access code satisfies a predicate. -/
def accMask (c : Card) (p : Acc → Bool) : Nat :=
  (c.fields.map fun f => if p f.acc then 2 ^ (f.hi + 1) - 2 ^ f.lo else 0).sum

/-- The card has RWL fields, and its LOCK bit is set. -/
def sealed (s : State) (c : Card) (off : Nat) : Bool := locked s off && decide (accMask c (fun a => a = .rwl) ≠ 0)

/-! ### Values that a write replaces or drops -/

/-- Replace a field of the written word when it is out of range: what "reads back as" says. -/
def backAs (bad : Bool) (hi lo r v : Nat) : Nat := if bad then putBits v hi lo r else v

/-- A field of the written word is outside a range. -/
def outside (v hi lo a b : Nat) : Bool := decide (bits v hi lo < a ∨ b < bits v hi lo)

/-- A signed field of the written word is outside a range. -/
def outsideS (v hi lo : Nat) (a b : Int) : Bool :=
  let x := toSigned (hi + 1 - lo) (bits v hi lo)
  decide (x < a ∨ b < x)

/-- The word that a write of `v` stores, register by register, as the register cards say; reserved bits that the card gives only in
words are cleared. -/
def backWord (base n v : Nat) : Nat :=
  match base with
  | 0x2200 => backAs (outside v 19 16 4 12) 19 16 12 v
  | 0x4010 | 0x4020 | 0x4030 => if n = 2 then bits v 15 0 else v
  | 0x4040 => if n = 1 then bits v 7 0 else v
  | 0x4064 => backAs (outside v 3 0 6 15) 3 0 9 (backAs (outside v 11 8 2 8) 11 8 3 (backAs (outside v 20 16 4 31) 20 16 8 v))
  | 0x601C => backAs (decide (bits v 31 24 = 0)) 31 24 20 (backAs (outside v 23 16 1 8) 23 16 2 v)
  | 0x6020 => [7, 15, 23, 31].foldl (fun v b => putBits v b b 0) v
  | 0x602C => backAs (decide (bits v 15 0 < 600)) 15 0 600 v
  | 0x7010 => backAs (decide (bits v 31 24 < 10)) 31 24 60 (backAs (outside v 23 20 1 8) 23 20 3 (backAs (outside v 15 0 5 3600) 15 0 30 v))
  | 0x7014 => backAs (decide (bits v 1 0 = 0 ∨ bits v 1 0 = 3)) 1 0 2 v
  | 0x8008 => backAs (decide (bits v 11 0 = 0)) 11 0 120 v
  | 0x8010 => backAs (decide (256 < bits v 24 16)) 24 16 256 v
  | 0x9008 => backAs (decide (bits v 31 16 = 0)) 31 16 300 (backAs (decide (bits v 7 0 = 0)) 7 0 10 v)
  | 0xA300 => backAs (decide (bits v 27 24 = 0)) 27 24 10 (backAs (decide (bits v 23 16 = 0)) 23 16 2 v)
  | 0xB00C => backAs (decide (bits v 31 16 = 0)) 31 16 256 (backAs (decide (bits v 15 0 = 0)) 15 0 64 v)
  | 0xB010 => backAs (decide (bits v 3 0 = 0)) 3 0 1 v
  | 0xC008 => backAs (decide (bits v 31 16 < 60)) 31 16 60 v
  | 0xD00C => backAs (decide (972 < bits v 25 16)) 25 16 972 (backAs (outside v 7 0 20 200) 7 0 100 v)
  | 0xD100 => backAs (decide (750 < bits v 9 0)) 9 0 750 v
  | 0x13008 => backAs (decide (bits v 23 16 = 0)) 23 16 64 v
  | 0x14008 => backAs (decide (bits v 31 24 = 0)) 31 24 24 (backAs (decide (bits v 15 0 < 600)) 15 0 3600 v)
  | 0x16010 => [7, 15, 23, 31].foldl (fun v h => backAs (decide (bits v h (h - 7) = 0)) h (h - 7) 1 v) v
  | _ => v

/-- An enable of a feature bus port breaks a rule of R358. -/
def flbRefused (s : State) (p v : Nat) : Bool :=
  let base := bits v 11 0
  let n := bits v 28 16
  let q := 1 - p
  let b' := fld s (Reg.FTN_FLB_CFG_BASE q)
  let n' := fld s (Reg.FTN_FLB_CFG_DRIVERS q)
  decide (4096 < base + n) || decide (n = 0) || (if bit v 30 then decide (4095 < base + n) else decide (128 < n)) ||
    (flag s (Reg.FTN_FLB_CFG_EN q) && decide (base < b' + n' ∧ b' < base + n))

/-- The error flags of a write that is dropped, or `none` for one that is not: a value outside its range, or a write at a time the
register does not accept (R41, R93, R97, R105, R108, R109, R117, R358 and the register cards). -/
def dropWrite (s : State) (base n v : Nat) : Option (List RF) :=
  let on (b : Bool) (f : RF) : List RF := if b then [f] else []
  let drop (l : List RF) : Option (List RF) := if l = [] then none else some l
  let rules (w : Nat) : Bool := outside w 3 0 1 12 || outside w 6 4 1 5 || outside w 10 8 0 6 || outside w 20 16 0 23
  match base with
  | 0x1100 | 0x1104 => if flag s (Reg.HIF_SQ_CFG_ENABLE n) then some [] else none
  | 0x1300 | 0x1304 => if flag s (Reg.HIF_CQ_CFG_ENABLE n) then some [] else none
  | 0x1500 | 0x1504 => if flag s (Reg.HIF_EQ_CFG_ENABLE n) then some [] else none
  | 0x3020 | 0x3024 => drop (on (setBusy s) Reg.TIM_ERR_SET_BUSY)
  | 0x3040 => drop (on (outsideS v 15 0 (-1080) 1080 || outside v 23 16 0 120) Reg.TIM_ERR_BAD_RULE)
  | 0x3044 | 0x3048 => drop (on (rules v) Reg.TIM_ERR_BAD_RULE)
  | 0x304C => if flag s Reg.TIM_LEAP_ACTIVE then some [] else none
  | 0x3100 | 0x3104 => drop (on (flag s (Reg.TIM_ALM_CTRL_ARMED n)) Reg.TIM_ERR_ALM_BUSY)
  | 0x3200 => drop (on (outside v 27 0 1 134217728) Reg.TIM_ERR_BAD_RULE)
  | 0x4008 =>
    drop (on (decide (bits v 19 0 % 100 ≠ 0) || outside v 19 0 862100 912100) Reg.RAD_ERR_CFG_RANGE ++
      on (flag s Reg.RAD_CTRL_RX_EN || flag s Reg.RAD_CTRL_TXA_EN || flag s Reg.RAD_CTRL_TXB_EN) Reg.RAD_ERR_CFG_BUSY)
  | 0x4040 => drop (on (flag s Reg.RAD_CTRL_RX_EN || flag s Reg.RAD_CTRL_TXA_EN || flag s Reg.RAD_CTRL_TXB_EN) Reg.RAD_ERR_CFG_BUSY)
  | 0x4070 | 0x4074 => drop (on (outsideS v 7 0 (-40) 108) Reg.RAD_ERR_CFG_RANGE)
  | 0x4078 => drop (on (outsideS v 7 0 (-40) 20) Reg.RAD_ERR_CFG_RANGE)
  | 0x6020 => drop (on ((List.range 4).any fun j => decide (bits v (8 * j + 6) (8 * j) % 8 ≠ 4 * n + j)) Reg.MAC_ERR_CFG)
  | 0x6028 => drop (on (outside v 4 0 11 26) Reg.MAC_ERR_CFG)
  | 0x7008 => drop (on (outsideS v 31 0 (-900000000) 900000000) Reg.STR_ERR_CFG)
  | 0x700C => drop (on (outsideS v 31 0 (-1800000000) 1800000000) Reg.STR_ERR_CFG)
  | 0xA104 => drop (on (!b32.isFinite v) Reg.BAS_ERR_CFG)
  | 0xB048 => drop (on (decide (bits v 2 0 ≠ 0)) Reg.CIS_ERR_CFG)
  | 0xD008 => drop (on (decide (480 < bits v 24 16) || outside v 9 0 300 1000) Reg.FTN_ERR_CFG)
  | 0xD200 => drop (on (!flag s (Reg.FTN_FLB_CFG_EN n) && bit v 31 && flbRefused s n v) Reg.FTN_ERR_CFG)
  | _ => none

/-! ### Writes -/

/-- A write of `v` to a register by its access codes (R14, R15). -/
def putWord (s : State) (c : Card) (off v : Nat) : State :=
  let keepRwl := locked s off
  let w := BitVec.ofNat 32 v
  let old := reg s off
  let rw := accMask c fun a => a = .rw || (a = .rwl && !keepRwl)
  let w1c := w &&& BitVec.ofNat 32 (accMask c fun a => a = .w1c)
  let w1s := w &&& BitVec.ofNat 32 (accMask c fun a => a = .w1s)
  setReg s off ((mergeWord rw w old &&& ~~~w1c) ||| w1s)

/-- The checkpoint follows a register that it holds, and while ACTIVE the module mirrors the change (R442, R444, log entry 100). -/
def ckFollow (s0 s : State) (off : Nat) : State :=
  if savedBits off = 0 ∨ (reg s0 off &&& BitVec.ofNat 32 (savedBits off)) = (reg s off &&& BitVec.ofNat 32 (savedBits off)) then s
  else
    let s1 := ckSave s off
    mirror s1 0x48 (cfgBody Config.regItem (Config.regPlace off) (beBytes 4 (reg s1 off).toNat))

/-- A write of a register that its card alone describes. -/
def plainWrite (s : State) (c : Card) (n off v : Nat) : State :=
  match (if sealed s c off then none else dropWrite s c.base n v) with
  | some errs => setErrs s errs
  | none =>
    let s1 := putWord s c off (backWord c.base n v)
    ckFollow s (afterWrite s s1 c.base n) off

/-- A write of the PUF_CLEAR, TK_EXPORT_DIS and LOCK bits of KEY_CTRL (R410, R424). -/
def keyCtrlWrite (s : State) (v : Nat) : State :=
  let s1 := if bit v 1 then setFld s Reg.KEY_CTRL_TK_EXPORT_DIS 1 else s
  let s2 := if bit v 31 then setFld s1 Reg.KEY_CTRL_LOCK 1 else s1
  if bit v 2 then pufClear s2 else s2

/-- A write of BAS_INTERVAL. -/
def basIntervalWrite (s : State) (v : Nat) : State := ckFollow s (intervalWrite s v) 0xA00C

/-- BAS_INTERVAL_LEN_WRITE (R278). -/
def execIntervalLenWrite (v : Word) (s : State) : Host.Outcome State Fault Refusal :=
  .next (if domState s 10 = 2 then basIntervalWrite s v.toNat else pdAccess s true 0xA00C)

/-- A write of a register card's register, by its base address and index. -/
def regWrite (s : State) (c : Card) (n off v : Nat) : State :=
  match c.base with
  | 0x1000 => hifEnableWrite s (bit v 0)
  | 0x1008 => if bit v 0 then resumeWrite s else s
  | 0x1108 => sqCfgWrite s n v
  | 0x1308 => cqCfgWrite s n v
  | 0x1508 => eqCfgWrite s n v
  | 0x2200 =>
    if flag s (Reg.RIL_HP_CFG_ENABLE n) then
      setFlag (setFld s (Reg.RIL_HP_CFG_VEC n) (bits v 28 24)) (Reg.RIL_HP_CFG_ENABLE n) (bit v 31)
    else plainWrite s c n off v
  | 0x2204 => if bit v 0 then portFlush s n else s
  | 0x3000 => timCtrlWrite s v
  | 0x3028 => stageWrite s false v
  | 0x302C => stageWrite s true v
  | 0x3038 => commitWrite s (bits v 2 0)
  | 0x3108 =>
    let s1 := if bit v 1 then setFld (setFld s (Reg.TIM_ALM_CTRL_FIRED n) 0) (Reg.TIM_ALM_CTRL_STEPPED n) 0 else s
    if bit v 0 then armAlarm s1 n else setFld s1 (Reg.TIM_ALM_CTRL_ARMED n) 0
  | 0x3204 => if bit v 31 then enableWake s n else setFld s (Reg.TIM_WAKE_CTRL_EN n) 0
  | 0xA00C => basIntervalWrite s v
  | 0xD104 => ftnUpd s fun f => { f with reg := f.reg.set (sinkChan n) (bits v 15 0) 0 }
  | 0xD200 =>
    if flag s (Reg.FTN_FLB_CFG_EN n) then
      let s1 := setFlag s (Reg.FTN_FLB_CFG_EN n) (bit v 31)
      ckFollow s s1 off
    else plainWrite s c n off v
  | 0x10000 => keyCtrlWrite s v
  | _ => plainWrite s c n off v

/-- A host write of a dword in BAR0 (R38, R483). -/
def bar0Write (s : State) (off v : Nat) : State :=
  match cardAt off with
  | none => badAccess s 0 true off
  | some (c, n) =>
    if domState s (domIndex c.dom) ≠ 2 then pdAccess s true off
    else regWrite s c n off v

/-- A host write of a dword in BAR2: a doorbell or the MSI-X table (R47). -/
def bar2Write (s : State) (off v : Nat) : State :=
  if off % 4 ≠ 0 then badAccess s 1 true off
  else if off < 0x80 ∧ off % 8 = 0 then sqDoorbell s (off / 8) v
  else if 0x100 ≤ off ∧ off < 0x180 ∧ off % 8 = 0 then cqDoorbell s ((off - 0x100) / 8) v
  else if 0x200 ≤ off ∧ off < 0x220 ∧ off % 8 = 0 then eqDoorbell s ((off - 0x200) / 8) v
  else if 0x800 ≤ off ∧ off < 0xA00 then flushMsix (hostUpd s fun h => { h with msix := msixTableWrite h.msix (off - 0x800) v })
  else if 0xC00 ≤ off ∧ off < 0xC08 then s
  else badAccess s 1 true off

/-- A host write of one dword: without all byte enables it is dropped (R38). -/
def hostWrite1 (s : State) (a : HostAccess) (off v : Nat) : State :=
  if !a.whole then badAccess s (b2n a.bar2) true off
  else if a.bar2 then bar2Write s off v
  else bar0Write s off v

/-- A host write; an aligned 64-bit one is two, the lower address first (R38). -/
def hostWrite (s : State) (a : HostAccess) (v : Nat) : State :=
  let s1 := hostWrite1 s a a.off v
  match a.second with
  | some w => hostWrite1 s1 a (a.off + 4) w.toNat
  | none => s1

/-- REGISTER_WRITE (R14). -/
def execRegisterWrite (a : HostAccess) (v : Word) (s : State) : Host.Outcome State Fault Refusal := .next (hostWrite s a v.toNat)

/-! ### Reads -/

/-- Seconds left in the health window of a trial; whether part of one counts is left open. -/
def trialLeft (s : State) : Nat :=
  match s.upd.boot with
  | some b =>
    if b.booted then
      let r := b.win * 65536 - (s.el - s.upd.trialSince)
      r / 65536 + (if r % 65536 = 0 then 0 else b2n (Config.roundUp r 65536))
    else 0
  | none => 0

/-- Levels queued and not sent: the queue of R192, and the LEVEL elements that wait for an endpoint. -/
def queuedLevels (s : State) : Nat :=
  s.street.queue.length + (s.mac.ep.map fun x => (x.2.dlq.filter fun i => decide (i.type = 0x15)).length).sum

/-- BAS_Ef_p_q (R273): Wh of accumulator q of a phase, or of the phase sum for p = 3. -/
def energyReg (s : State) (f p q : Nat) : Nat :=
  let acc := (fdrAt s f).acc
  let a (p : Nat) : Nat := acc.getD (6 * p + q) 0 / 2 ^ 32
  (if p = 3 then a 0 + a 1 + a 2 else a p) / 1000000 % 2 ^ 32

/-- The word that a read of a register returns: what is stored, with the fields that follow other state. -/
def liveWord (s : State) (base n off : Nat) : Nat :=
  let w := (reg s off).toNat
  let put (w : Nat) (f : RF) (x : Nat) : Nat := putBits w f.hi f.lo x
  match base with
  | 0x1108 => put w (Reg.HIF_SQ_CFG_IDLE n) (b2n (sqAt s n).fetched.isEmpty)
  | 0x1110 => put w (Reg.HIF_SQ_HEAD_INFLIGHT n) (sqAt s n).fetched.length
  | 0x2000 =>
    let k := Config.rillDepth n
    put (put (put w (Reg.RIL_Q_STAT_DEPTH_LOG2 n) k) (Reg.RIL_Q_STAT_POLICY n) (b2n (Config.rillPolicy n))) (Reg.RIL_Q_STAT_FILL n)
      ((s.host.rill.get n {}).fill k)
  | 0x2208 => put w (Reg.RIL_HP_STAT_FILL n) ((s.host.ports.get n {}).fill (fld s (Reg.RIL_HP_CFG_DEPTH_LOG2 n)))
  | 0x3004 => put w Reg.TIM_STAT_HOLD_AGE (holdAge s)
  | 0x302C => if s.time.staged.isSome then timeWord (shownCal s) else w
  | 0x4078 => put w Reg.RAD_RF24_CHANNEL (fld s Reg.MAC_T1_CHANNEL)
  | 0x7004 => put (put w Reg.STR_STAT_COMMITS s.street.commits.length) Reg.STR_STAT_QUEUED (queuedLevels s)
  | 0x7018 =>
    let d := localDay s (dtSec s.dt)
    put (put w Reg.STR_DAY_CLASS (dateClass s d)) Reg.STR_DAY_EXCEPTION (b2n (excOf s d).isSome)
  | 0xB004 => put w Reg.CIS_EPOCH_EPOCH (dtSec s.dt / 2 ^ 32)
  | 0xB400 => leNat (ringBytes s (fld s Reg.CIS_CURSOR_OFS + 4 * n) 4)
  | 0xC004 => put w Reg.UPD_STAT_TRIAL_LEFT (trialLeft s)
  | 0xD004 =>
    let jets := (((List.range 16).filter fun j => decide ((jetAt s j).state = 2)).map fun j => 2 ^ j).sum
    put (put w Reg.FTN_STAT_JETS jets) Reg.FTN_STAT_ACTIVE (activeMask s)
  | 0xD010 => put w Reg.FTN_BOOST_STAT_HEADROOM (min 16383 ((lowestHeadroom s).getD 0))
  | 0xD104 => put (put w (Reg.FTN_SINK_DUTY_SRC n) (codeSrc s (sinkChan n))) (Reg.FTN_SINK_DUTY_CODE n) (codeLatched s (sinkChan n))
  | 0xD108 => put (put w (Reg.FTN_SINK_STAT_ACTIVE n) (b2n (sinkActive s n))) (Reg.FTN_SINK_STAT_HEADROOM n) (s.ftn.headroom.get n 0)
  | 0x10010 => if cfgField s 13 1 0 % 2 = 1 then 0 else w
  | 0x10100 => (slotAt s n).attr
  | 0x13010 =>
    let h := s.fed.hello.get n 0
    put (put w (Reg.FED_PORT_STAT_LINK n) (b2n (portLink s n))) (Reg.FED_PORT_STAT_NEIGH n) (b2n (decide (h ≠ 0 ∧ s.el < h + 3 * 65536)))
  | _ => if 0xA400 ≤ base ∧ base < 0xA700 then energyReg s ((base - 0xA400) / 0x80) ((base - 0xA400) / 0x20 % 4) n else w

/-- RC fields are cleared after they are read (R14, R18). -/
def clearRc (s : State) (c : Card) (off : Nat) : State :=
  let m := accMask c fun a => a = .rc
  if m = 0 then s else setReg s off (reg s off &&& ~~~BitVec.ofNat 32 m)

/-- What a host read returns. -/
def answerRead (s : State) (v : Nat) : State := hostUpd s fun h => { h with readData := v }

/-- A read of a register card's register. -/
def regRead (s : State) (c : Card) (n off : Nat) : State :=
  match c.base with
  | 0x2210 => portRead s n
  | 0x3010 => secLoRead s
  | 0x3028 => calDateRead s
  | 0xB038 => liveFseqRead s
  | 0xB050 => audOseqRead s
  | _ => clearRc (answerRead s (liveWord s c.base n off)) c off

/-- A host read of a dword in BAR0 (R38, R483). -/
def bar0Read (s : State) (off : Nat) : State :=
  match cardAt off with
  | none => badAccess (answerRead s 0) 0 false off
  | some (c, n) =>
    if domState s (domIndex c.dom) ≠ 2 then pdAccess (answerRead s 0xFFFFFFFF) false off
    else regRead s c n off

/-- A dword of the MSI-X table. -/
def msixTableRead (m : MsixSt) (off : Nat) : Nat :=
  let i := off / 16
  match off / 4 % 4 with
  | 0 => bits (m.addr.get i 0) 31 0
  | 1 => bits (m.addr.get i 0) 63 32
  | 2 => m.data.get i 0
  | _ => b2n (!m.unmasked.get i false)

/-- A host read of a dword in BAR2 (R47). -/
def bar2Read (s : State) (off : Nat) : State :=
  if off % 4 = 0 ∧ 0x800 ≤ off ∧ off < 0xA00 then answerRead s (msixTableRead s.host.msix (off - 0x800))
  else if off = 0xC00 then answerRead s ((List.range 32).map fun v => b2n (s.host.msix.pend.get v false) * 2 ^ v).sum
  else if off = 0xC04 then answerRead s 0
  else if off % 8 = 0 ∧ (off < 0x80 ∨ 0x100 ≤ off ∧ off < 0x180 ∨ 0x200 ≤ off ∧ off < 0x220) then answerRead s 0
  else badAccess (answerRead s 0) 1 false off

/-- A host read of one dword. -/
def hostRead1 (s : State) (a : HostAccess) (off : Nat) : State := if a.bar2 then bar2Read s off else bar0Read s off

/-- A host read; an aligned 64-bit one is two, the lower address first (R38). -/
def hostRead (s : State) (a : HostAccess) : State :=
  let s1 := hostRead1 s a a.off
  match a.second with
  | some _ =>
    let s2 := hostRead1 s1 a (a.off + 4)
    answerRead s2 (s1.host.readData + 2 ^ 32 * s2.host.readData)
  | none => s1

/-- READ_CLEAR: a host read; RC fields give their value and clear (R18). -/
def execReadClear (a : HostAccess) (s : State) : Host.Outcome State Fault Refusal := .next (hostRead s a)

/-! ### LOCK bits (R15, R525) -/

/-- The register that holds a block's LOCK bit. -/
def lockOff : LockSel → Nat
  | .hif => 0x1010 | .rad => 0x4000 | .mac => 0x6000 | .str => 0x7000 | .cas => 0x8000 | .wei => 0x9000 | .bas => 0xA000
  | .cis => 0xB000 | .upd => 0xC000 | .ftn => 0xD000 | .oxe => 0xE000 | .key => 0x10000 | .par => 0x12000 | .fed => 0x13000
  | .bst => 0x14000 | .pwr => 0x15000 | .pin => 0x16000

/-- The power domain of a block's LOCK bit (R524). -/
def lockDom : LockSel → Nat
  | .hif => 4 | .rad => 8 | .cas => 9 | .wei => 9 | .bas => 10 | .ftn => 11 | .oxe => 11 | .pin => 11 | .key => 1 | .par => 3 | .fed => 3
  | .mac => 2 | .str => 2 | .cis => 2 | .upd => 2 | .bst => 2 | .pwr => 2

/-- A write that sets a LOCK bit and leaves the register's other fields as they are. -/
def execLockSet (w : LockSel) (s : State) : Host.Outcome State Fault Refusal :=
  .next (if domState s (lockDom w) = 2 then setFld s (lockFld (lockOff w)) 1 else pdAccess s true (lockOff w))

end Sys2Proof.Machine
end

