-- ==== Sys2Proof/Machine/Dispatch.lean ====
section
/-! DEFINITION. The meaning of each command: one arm per constructor of Instr, each a direct call. -/

namespace Sys2Proof.Machine

/-- What a command does to everything but the queue. -/
def exec (i : Instr) (s : State) : Host.Outcome State Fault Refusal :=
  match i with
  | .registerWrite a v => Sys2Proof.Machine.execRegisterWrite a v s
  | .readClear a => Sys2Proof.Machine.execReadClear a s
  | .lockSet w => Sys2Proof.Machine.execLockSet w s
  | .glbFenceRead => Sys2Proof.Machine.execGlbFenceRead s
  | .configRequest q => Sys2Proof.Machine.execConfigRequest q s
  | .msixConfigWrite w => Sys2Proof.Machine.execMsixConfigWrite w s
  | .perstAssert low => Sys2Proof.Machine.execPerstAssert low s
  | .hotReset => Sys2Proof.Machine.execHotReset s
  | .flr => Sys2Proof.Machine.execFlr s
  | .linkDown => Sys2Proof.Machine.execLinkDown s
  | .d3hotEntry => Sys2Proof.Machine.execD3hotEntry s
  | .d3hotExit => Sys2Proof.Machine.execD3hotExit s
  | .aerFatal => Sys2Proof.Machine.execAerFatal s
  | .aerCorrectable => Sys2Proof.Machine.execAerCorrectable s
  | .recoveryHalted => Sys2Proof.Machine.execRecoveryHalted s
  | .hifEnableWrite b => Sys2Proof.Machine.execHifEnableWrite b s
  | .resume => Sys2Proof.Machine.execResume s
  | .ringEnable r v => Sys2Proof.Machine.execRingEnable r v s
  | .sqTailDoorbell n v u => Sys2Proof.Machine.execSqTailDoorbell n v u s
  | .cqHeadDoorbell n v => Sys2Proof.Machine.execCqHeadDoorbell n v s
  | .eqHeadDoorbell n v => Sys2Proof.Machine.execEqHeadDoorbell n v s
  | .descriptorFetch => Sys2Proof.Machine.execDescriptorFetch s
  | .completionWrite n => Sys2Proof.Machine.execCompletionWrite n s
  | .eventRecordWrite n => Sys2Proof.Machine.execEventRecordWrite n s
  | .coalesceTimeout r => Sys2Proof.Machine.execCoalesceTimeout r s
  | .rillQueueWrite q w how => Sys2Proof.Machine.execRillQueueWrite q w how s
  | .hostPortDataRead n => Sys2Proof.Machine.execHostPortDataRead n s
  | .hostPortFlush n => Sys2Proof.Machine.execHostPortFlush n s
  | .nop sq => Sys2Proof.Machine.execNop sq s
  | .identify sq => Sys2Proof.Machine.execIdentify sq s
  | .eventRoute sq => Sys2Proof.Machine.execEventRoute sq s
  | .intentForget sq => Sys2Proof.Machine.execIntentForget sq s
  | .statsRead sq => Sys2Proof.Machine.execStatsRead sq s
  | .moduleReset sq b => Sys2Proof.Machine.execModuleReset sq b s
  | .timeSet sq => Sys2Proof.Machine.execTimeSet sq s
  | .timeAdjust sq => Sys2Proof.Machine.execTimeAdjust sq s
  | .leapSchedule sq => Sys2Proof.Machine.execLeapSchedule sq s
  | .localRuleSet sq => Sys2Proof.Machine.execLocalRuleSet sq s
  | .timSrcWrite v => Sys2Proof.Machine.execTimSrcWrite v s
  | .timSecLoRead => Sys2Proof.Machine.execTimSecLoRead s
  | .timCalDateRead => Sys2Proof.Machine.execTimCalDateRead s
  | .calendarStageWrite time v => Sys2Proof.Machine.execCalendarStageWrite time v s
  | .timCommitSet => Sys2Proof.Machine.execTimCommitSet s
  | .timCommitCalendar => Sys2Proof.Machine.execTimCommitCalendar s
  | .timCommitDiscard => Sys2Proof.Machine.execTimCommitDiscard s
  | .stepBoundary => Sys2Proof.Machine.execStepBoundary s
  | .ptpSync port m leap => Sys2Proof.Machine.execPtpSync port m leap s
  | .ppsInEdge e => Sys2Proof.Machine.execPpsInEdge e s
  | .ptpSourceLost => Sys2Proof.Machine.execPtpSourceLost s
  | .ppsWindowClose => Sys2Proof.Machine.execPpsWindowClose s
  | .holdoverExpiry => Sys2Proof.Machine.execHoldoverExpiry s
  | .leapSlewStart => Sys2Proof.Machine.execLeapSlewStart s
  | .leap => Sys2Proof.Machine.execLeap s
  | .ppsOutPulse => Sys2Proof.Machine.execPpsOutPulse s
  | .alarmArm n => Sys2Proof.Machine.execAlarmArm n s
  | .alarm n => Sys2Proof.Machine.execAlarm n s
  | .wakeEnable n => Sys2Proof.Machine.execWakeEnable n s
  | .wake n => Sys2Proof.Machine.execWake n s
  | .radioProfileLoad sq => Sys2Proof.Machine.execRadioProfileLoad sq s
  | .profileSelect sq => Sys2Proof.Machine.execProfileSelect sq s
  | .txTest sq => Sys2Proof.Machine.execTxTest sq s
  | .txTestDone n => Sys2Proof.Machine.execTxTestDone n s
  | .rxSurvey sq => Sys2Proof.Machine.execRxSurvey sq s
  | .surveyDone v => Sys2Proof.Machine.execSurveyDone v s
  | .detection d => Sys2Proof.Machine.execDetection d s
  | .demodAssign => Sys2Proof.Machine.execDemodAssign s
  | .detectionDrop => Sys2Proof.Machine.execDetectionDrop s
  | .noSfd c => Sys2Proof.Machine.execNoSfd c s
  | .demodRelease c e => Sys2Proof.Machine.execDemodRelease c e s
  | .rf24FrameRx e => Sys2Proof.Machine.execRf24FrameRx e s
  | .txStart n r => Sys2Proof.Machine.execTxStart n r s
  | .txEnd n => Sys2Proof.Machine.execTxEnd n s
  | .dutyBucketClose => Sys2Proof.Machine.execDutyBucketClose s
  | .joinReq => Sys2Proof.Machine.execJoinReq s
  | .dataUp => Sys2Proof.Machine.execDataUp s
  | .relayUp => Sys2Proof.Machine.execRelayUp s
  | .resp => Sys2Proof.Machine.execResp s
  | .t1Poll => Sys2Proof.Machine.execT1Poll s
  | .dedicatedDownlink => Sys2Proof.Machine.execDedicatedDownlink s
  | .joinAccept => Sys2Proof.Machine.execJoinAccept s
  | .joinFailed => Sys2Proof.Machine.execJoinFailed s
  | .endpointLost => Sys2Proof.Machine.execEndpointLost s
  | .rooster => Sys2Proof.Machine.execRooster s
  | .ackAgg => Sys2Proof.Machine.execAckAgg s
  | .map => Sys2Proof.Machine.execMap s
  | .mapActive => Sys2Proof.Machine.execMapActive s
  | .mapOldWindowEnd => Sys2Proof.Machine.execMapOldWindowEnd s
  | .foldCheckpoint => Sys2Proof.Machine.execFoldCheckpoint s
  | .foldAdmit sq => Sys2Proof.Machine.execFoldAdmit sq s
  | .foldRemove sq => Sys2Proof.Machine.execFoldRemove sq s
  | .foldRead sq => Sys2Proof.Machine.execFoldRead sq s
  | .foldFind sq => Sys2Proof.Machine.execFoldFind sq s
  | .connSet sq => Sys2Proof.Machine.execConnSet sq s
  | .mapSet sq => Sys2Proof.Machine.execMapSet sq s
  | .dlSend sq => Sys2Proof.Machine.execDlSend sq s
  | .rekey sq => Sys2Proof.Machine.execRekey sq s
  | .bcastRekey sq => Sys2Proof.Machine.execBcastRekey sq s
  | .tickBoundary => Sys2Proof.Machine.execTickBoundary s
  | .levelVector => Sys2Proof.Machine.execLevelVector s
  | .stepFired => Sys2Proof.Machine.execStepFired s
  | .ambientStepFire => Sys2Proof.Machine.execAmbientStepFire s
  | .commit_ => Sys2Proof.Machine.execCommit s
  | .commitDue => Sys2Proof.Machine.execCommitDue s
  | .commitDone => Sys2Proof.Machine.execCommitDone s
  | .commitEntryFree => Sys2Proof.Machine.execCommitEntryFree s
  | .memberSet sq => Sys2Proof.Machine.execMemberSet sq s
  | .groupCfg sq => Sys2Proof.Machine.execGroupCfg sq s
  | .scheduleProfileLoad sq => Sys2Proof.Machine.execScheduleProfileLoad sq s
  | .exceptionSet sq => Sys2Proof.Machine.execExceptionSet sq s
  | .sceneStore sq => Sys2Proof.Machine.execSceneStore sq s
  | .sceneRecall sq => Sys2Proof.Machine.execSceneRecall sq s
  | .sceneRelease sq => Sys2Proof.Machine.execSceneRelease sq s
  | .commitLevel sq => Sys2Proof.Machine.execCommitLevel sq s
  | .commitCancel sq => Sys2Proof.Machine.execCommitCancel sq s
  | .commitRead sq => Sys2Proof.Machine.execCommitRead sq s
  | .composeRead sq => Sys2Proof.Machine.execComposeRead sq s
  | .solarRead sq => Sys2Proof.Machine.execSolarRead sq s
  | .casVertexLoad sq => Sys2Proof.Machine.execCasVertexLoad sq s
  | .casEdgeLoad sq => Sys2Proof.Machine.execCasEdgeLoad sq s
  | .casStageSync sq => Sys2Proof.Machine.execCasStageSync sq s
  | .casGraphActivate sq => Sys2Proof.Machine.execCasGraphActivate sq s
  | .casBorderSet sq => Sys2Proof.Machine.execCasBorderSet sq s
  | .casInject sq => Sys2Proof.Machine.execCasInject sq s
  | .casDemandRead sq => Sys2Proof.Machine.execCasDemandRead sq s
  | .casGraphRead sq => Sys2Proof.Machine.execCasGraphRead sq s
  | .casClear sq => Sys2Proof.Machine.execCasClear sq s
  | .borderDemand p l => Sys2Proof.Machine.execBorderDemand p l s
  | .slowSample conv late => Sys2Proof.Machine.execSlowSample conv late s
  | .fastSample x late => Sys2Proof.Machine.execFastSample x late s
  | .weiLoopLoad sq => Sys2Proof.Machine.execWeiLoopLoad sq s
  | .weiLoopEnable sq => Sys2Proof.Machine.execWeiLoopEnable sq s
  | .weiCoefSet sq => Sys2Proof.Machine.execWeiCoefSet sq s
  | .weiGroupSet sq => Sys2Proof.Machine.execWeiGroupSet sq s
  | .weiInject sq => Sys2Proof.Machine.execWeiInject sq s
  | .weiInjectStop sq => Sys2Proof.Machine.execWeiInjectStop sq s
  | .weiCaptureSet sq => Sys2Proof.Machine.execWeiCaptureSet sq s
  | .weiCaptureRead sq => Sys2Proof.Machine.execWeiCaptureRead sq s
  | .weiLoopRead sq => Sys2Proof.Machine.execWeiLoopRead sq s
  | .weiCaptureStop sq => Sys2Proof.Machine.execWeiCaptureStop sq s
  | .basinSample chans => Sys2Proof.Machine.execBasinSample chans s
  | .cycleEnd => Sys2Proof.Machine.execCycleEnd s
  | .windowEnd => Sys2Proof.Machine.execWindowEnd s
  | .tempUpdate conv => Sys2Proof.Machine.execTempUpdate conv s
  | .basinCommit => Sys2Proof.Machine.execBasinCommit s
  | .channelStuck n => Sys2Proof.Machine.execChannelStuck n s
  | .channelRecover n => Sys2Proof.Machine.execChannelRecover n s
  | .intervalEnd => Sys2Proof.Machine.execIntervalEnd s
  | .intervalLenWrite v => Sys2Proof.Machine.execIntervalLenWrite v s
  | .reconciliationStart => Sys2Proof.Machine.execReconciliationStart s
  | .reconDone => Sys2Proof.Machine.execReconDone s
  | .basTempTableLoad sq => Sys2Proof.Machine.execBasTempTableLoad sq s
  | .basValuesRead sq => Sys2Proof.Machine.execBasValuesRead sq s
  | .basEnergyRead sq => Sys2Proof.Machine.execBasEnergyRead sq s
  | .basLanternSet sq => Sys2Proof.Machine.execBasLanternSet sq s
  | .basAllocRead sq => Sys2Proof.Machine.execBasAllocRead sq s
  | .basReconRead sq => Sys2Proof.Machine.execBasReconRead sq s
  | .powerLossHoldEnd => Sys2Proof.Machine.execPowerLossHoldEnd s
  | .foldGraceEnd f => Sys2Proof.Machine.execFoldGraceEnd f s
  | .storm => Sys2Proof.Machine.execStorm s
  | .liveArchive => Sys2Proof.Machine.execLiveArchive s
  | .auditFramWrite => Sys2Proof.Machine.execAuditFramWrite s
  | .auditArchive => Sys2Proof.Machine.execAuditArchive s
  | .cisLiveFseqRead => Sys2Proof.Machine.execCisLiveFseqRead s
  | .cisAudOseqRead => Sys2Proof.Machine.execCisAudOseqRead s
  | .cisWinRead sq => Sys2Proof.Machine.execCisWinRead sq s
  | .cisRead sq => Sys2Proof.Machine.execCisRead sq s
  | .cisSnapPin sq => Sys2Proof.Machine.execCisSnapPin sq s
  | .cisSnapRead sq => Sys2Proof.Machine.execCisSnapRead sq s
  | .cisSnapRelease sq => Sys2Proof.Machine.execCisSnapRelease sq s
  | .cisClearChallenge sq => Sys2Proof.Machine.execCisClearChallenge sq s
  | .cisSecClear sq => Sys2Proof.Machine.execCisSecClear sq s
  | .updOpen sq => Sys2Proof.Machine.execUpdOpen sq s
  | .updPiece sq ok => Sys2Proof.Machine.execUpdPiece sq ok s
  | .updVerify sq => Sys2Proof.Machine.execUpdVerify sq s
  | .imageVerified => Sys2Proof.Machine.execImageVerified s
  | .updActivate sq => Sys2Proof.Machine.execUpdActivate sq s
  | .updCancel sq => Sys2Proof.Machine.execUpdCancel sq s
  | .updConfirm sq => Sys2Proof.Machine.execUpdConfirm sq s
  | .updErase sq => Sys2Proof.Machine.execUpdErase sq s
  | .activationDue b => Sys2Proof.Machine.execActivationDue b s
  | .imageConfirmed => Sys2Proof.Machine.execImageConfirmed s
  | .healthWindowExpiry b => Sys2Proof.Machine.execHealthWindowExpiry b s
  | .updEpOffer sq => Sys2Proof.Machine.execUpdEpOffer sq s
  | .updEpActivate sq => Sys2Proof.Machine.execUpdEpActivate sq s
  | .updEpStop sq => Sys2Proof.Machine.execUpdEpStop sq s
  | .updEpStatus sq => Sys2Proof.Machine.execUpdEpStatus sq s
  | .roundStart => Sys2Proof.Machine.execRoundStart s
  | .imageBlock => Sys2Proof.Machine.execImageBlock s
  | .epActivationDone => Sys2Proof.Machine.execEpActivationDone s
  | .superframe pins => Sys2Proof.Machine.execSuperframe pins s
  | .boostPeriod vsense csCut vmaxCut => Sys2Proof.Machine.execBoostPeriod vsense csCut vmaxCut s
  | .openString n => Sys2Proof.Machine.execOpenString n s
  | .ledShort n => Sys2Proof.Machine.execLedShort n s
  | .overtemp g t => Sys2Proof.Machine.execOvertemp g t s
  | .pinTest low => Sys2Proof.Machine.execPinTest low s
  | .fixtureTempUpdate => Sys2Proof.Machine.execFixtureTempUpdate s
  | .status p frame => Sys2Proof.Machine.execStatus p frame s
  | .ftnFixtureLoad sq => Sys2Proof.Machine.execFtnFixtureLoad sq s
  | .ftnFixtureSet sq => Sys2Proof.Machine.execFtnFixtureSet sq s
  | .ftnChanSet sq => Sys2Proof.Machine.execFtnChanSet sq s
  | .ftnColorSet sq => Sys2Proof.Machine.execFtnColorSet sq s
  | .ftnJetLoad sq => Sys2Proof.Machine.execFtnJetLoad sq s
  | .ftnJetStart sq => Sys2Proof.Machine.execFtnJetStart sq s
  | .ftnJetStop sq => Sys2Proof.Machine.execFtnJetStop sq s
  | .ftnJetEvent sq => Sys2Proof.Machine.execFtnJetEvent sq s
  | .ftnFaultClear sq => Sys2Proof.Machine.execFtnFaultClear sq s
  | .oxCycle conv inUs outUs => Sys2Proof.Machine.execOxCycle conv inUs outUs s
  | .wdogOverrun conv inUs => Sys2Proof.Machine.execWdogOverrun conv inUs s
  | .answer p b => Sys2Proof.Machine.execAnswer p b s
  | .rioTimeout p => Sys2Proof.Machine.execRioTimeout p s
  | .daliReceive p r => Sys2Proof.Machine.execDaliReceive p r s
  | .dinLevelAccept n high => Sys2Proof.Machine.execDinLevelAccept n high s
  | .oxLoad sq => Sys2Proof.Machine.execOxLoad sq s
  | .oxValidate sq => Sys2Proof.Machine.execOxValidate sq s
  | .oxSwitch sq => Sys2Proof.Machine.execOxSwitch sq s
  | .oxStart sq => Sys2Proof.Machine.execOxStart sq s
  | .oxStop sq => Sys2Proof.Machine.execOxStop sq s
  | .oxForceSet sq => Sys2Proof.Machine.execOxForceSet sq s
  | .oxForceClear sq => Sys2Proof.Machine.execOxForceClear sq s
  | .oxRead sq => Sys2Proof.Machine.execOxRead sq s
  | .oxWrite sq => Sys2Proof.Machine.execOxWrite sq s
  | .keyUpdate sq burnOk => Sys2Proof.Machine.execKeyUpdate sq burnOk s
  | .keyInfo sq => Sys2Proof.Machine.execKeyInfo sq s
  | .keyCipher sq => Sys2Proof.Machine.execKeyCipher sq s
  | .keyMac sq => Sys2Proof.Machine.execKeyMac sq s
  | .keySign sq => Sys2Proof.Machine.execKeySign sq s
  | .keyVerify sq => Sys2Proof.Machine.execKeyVerify sq s
  | .keyDerive sq => Sys2Proof.Machine.execKeyDerive sq s
  | .keyRandom sq => Sys2Proof.Machine.execKeyRandom sq s
  | .keyIdentity sq => Sys2Proof.Machine.execKeyIdentity sq s
  | .keyTkExport sq => Sys2Proof.Machine.execKeyTkExport sq s
  | .keyScrap sq burnOk => Sys2Proof.Machine.execKeyScrap sq burnOk s
  | .otpRead sq => Sys2Proof.Machine.execOtpRead sq s
  | .pufClear => Sys2Proof.Machine.execPufClear s
  | .leaseSend => Sys2Proof.Machine.execLeaseSend s
  | .lease l => Sys2Proof.Machine.execLease l s
  | .actInEdge => Sys2Proof.Machine.execActInEdge s
  | .actInSilent => Sys2Proof.Machine.execActInSilent s
  | .actOwnLapse => Sys2Proof.Machine.execActOwnLapse s
  | .heartbeatMissing => Sys2Proof.Machine.execHeartbeatMissing s
  | .startWait => Sys2Proof.Machine.execStartWait s
  | .fenced => Sys2Proof.Machine.execFenced s
  | .partnerLostReset b => Sys2Proof.Machine.execPartnerLostReset b s
  | .foldStream l => Sys2Proof.Machine.execFoldStream l s
  | .oxStream l => Sys2Proof.Machine.execOxStream l s
  | .basStream l => Sys2Proof.Machine.execBasStream l s
  | .weiSlowStream l => Sys2Proof.Machine.execWeiSlowStream l s
  | .weiFastStream l => Sys2Proof.Machine.execWeiFastStream l s
  | .cisStream l => Sys2Proof.Machine.execCisStream l s
  | .commitStream l => Sys2Proof.Machine.execCommitStream l s
  | .cfgStream l => Sys2Proof.Machine.execCfgStream l s
  | .syncReq l => Sys2Proof.Machine.execSyncReq l s
  | .cfgAck l => Sys2Proof.Machine.execCfgAck l s
  | .spanCopy l ok => Sys2Proof.Machine.execSpanCopy l ok s
  | .cfgAckTimeout => Sys2Proof.Machine.execCfgAckTimeout s
  | .syncGapTimeout => Sys2Proof.Machine.execSyncGapTimeout s
  | .bulkCopyDone => Sys2Proof.Machine.execBulkCopyDone s
  | .parSwitch sq => Sys2Proof.Machine.execParSwitch sq s
  | .parResync sq => Sys2Proof.Machine.execParResync sq s
  | .helloSend => Sys2Proof.Machine.execHelloSend s
  | .hello p l => Sys2Proof.Machine.execHello p l s
  | .spanForward p l => Sys2Proof.Machine.execSpanForward p l s
  | .handover p l => Sys2Proof.Machine.execHandover p l s
  | .handoverAck p l => Sys2Proof.Machine.execHandoverAck p l s
  | .handoverTimeout => Sys2Proof.Machine.execHandoverTimeout s
  | .handoverSupervisionEnd => Sys2Proof.Machine.execHandoverSupervisionEnd s
  | .piecePart p l ok => Sys2Proof.Machine.execPiecePart p l ok s
  | .piecePartSend => Sys2Proof.Machine.execPiecePartSend s
  | .activate p l => Sys2Proof.Machine.execActivate p l s
  | .feederStateMsg p l => Sys2Proof.Machine.execFeederStateMsg p l s
  | .feederStateSend => Sys2Proof.Machine.execFeederStateSend s
  | .feederStateStale => Sys2Proof.Machine.execFeederStateStale s
  | .value p l => Sys2Proof.Machine.execValue p l s
  | .valuePublish => Sys2Proof.Machine.execValuePublish s
  | .fedRouteSet sq => Sys2Proof.Machine.execFedRouteSet sq s
  | .fedPeerSet sq => Sys2Proof.Machine.execFedPeerSet sq s
  | .fedValuePub sq => Sys2Proof.Machine.execFedValuePub sq s
  | .fedFeederMap sq => Sys2Proof.Machine.execFedFeederMap sq s
  | .fedHandover sq => Sys2Proof.Machine.execFedHandover sq s
  | .fedPieceSend sq => Sys2Proof.Machine.execFedPieceSend sq s
  | .fedActSend sq => Sys2Proof.Machine.execFedActSend sq s
  | .tileFill t r need b => Sys2Proof.Machine.execTileFill t r need b s
  | .patrolRead r b => Sys2Proof.Machine.execPatrolRead r b s
  | .sramScrub ce ue b => Sys2Proof.Machine.execSramScrub ce ue b s
  | .nandRefresh r => Sys2Proof.Machine.execNandRefresh r s
  | .laneTest t r => Sys2Proof.Machine.execLaneTest t r s
  | .refCheck t r => Sys2Proof.Machine.execRefCheck t r s
  | .bstRun sq => Sys2Proof.Machine.execBstRun sq s
  | .bstRecover sq => Sys2Proof.Machine.execBstRecover sq s
  | .bstTileRead sq => Sys2Proof.Machine.execBstTileRead sq s
  | .testNAssert => Sys2Proof.Machine.execTestNAssert s
  | .powerFailWarning pin => Sys2Proof.Machine.execPowerFailWarning pin s
  | .brownOut => Sys2Proof.Machine.execBrownOut s
  | .vinDip b => Sys2Proof.Machine.execVinDip b s
  | .vinGood b => Sys2Proof.Machine.execVinGood b s
  | .rstN b => Sys2Proof.Machine.execRstN b s
  | .watchdog b => Sys2Proof.Machine.execWatchdog b s
  | .clockFault => Sys2Proof.Machine.execClockFault s
  | .clockRecover b => Sys2Proof.Machine.execClockRecover b s
  | .vbakLow mv => Sys2Proof.Machine.execVbakLow mv s
  | .thermal t => Sys2Proof.Machine.execThermal t s
  | .tamper n => Sys2Proof.Machine.execTamper n s
  | .pwrModeSet sq => Sys2Proof.Machine.execPwrModeSet sq s
  | .pwrDomainSet sq => Sys2Proof.Machine.execPwrDomainSet sq s
  | .linkUp width gen => Sys2Proof.Machine.execLinkUp width gen s
  | .bcastKeyActive => Sys2Proof.Machine.execBcastKeyActive s
  | .channelDisabledWhileStuck n => Sys2Proof.Machine.execChannelDisabledWhileStuck n s
  | .leaseExpiry => Sys2Proof.Machine.execLeaseExpiry s
  | .takeoverGuardEnd => Sys2Proof.Machine.execTakeoverGuardEnd s
  | .actInLapse => Sys2Proof.Machine.execActInLapse s
  | .holdOutEnd => Sys2Proof.Machine.execHoldOutEnd s
  | .mirLink up => Sys2Proof.Machine.execMirLink up s
  | .vbakGood mv => Sys2Proof.Machine.execVbakGood mv s
  | .thermalClear t => Sys2Proof.Machine.execThermalClear t s
  | .domainStateReached => Sys2Proof.Machine.execDomainStateReached s
  | .bstResult r => Sys2Proof.Machine.execBstResult r s

end Sys2Proof.Machine
end

