-- ==== Sys2Proof/Machine/Tick.lean ====
section
/-! DEFINITION. The passing of time on an idle step (log entry 2): elapsed time gains one unit, with the servo's frequency correction
(R109), and DT as much, or none or two while a leap second is slewed (R87, R93). -/

namespace Sys2Proof.Machine

/-- DT units gained by one elapsed unit in a leap-second slew of 1,000 ppm, with the new rate remainder (R93). -/
def leapGain (insert : Bool) (acc : Nat) : Nat × Nat :=
  if acc + 1 < 1000 then (1, acc + 1) else (if insert then 0 else 2, 0)

/-- DT units gained by the servo's slew of at most 500 ppm, with the new rate remainder (R91, log entry 21). -/
def servoGain (left : Int) (acc : Nat) : Int × Nat × Int :=
  if -15259 < left ∧ left < 15259 then (0, acc, left)
  else if acc + 1 < 2000 then (0, acc + 1, left)
  else if 0 < left then (1, 0, left - 15259) else (-1, 0, left + 15259)

/-- One unit of the oscillator passes on the clock. The servo's slew waits for the unit that a leap-second slew takes away, so that DT
never moves back. -/
def tickClock (s : State) : State :=
  let t := s.time
  let (g, acc) := match t.leap with
    | some l => leapGain l.insert t.leapAcc
    | none => (1, t.leapAcc)
  let (d, sacc, left) := if g = 0 then (0, t.slewAcc, t.slewLeft) else servoGain t.slewLeft t.slewAcc
  { s with
    el := ((s.el : Int) + 1 + d).toNat
    dt := (((s.dt + g : Nat) : Int) + d).toNat % 2 ^ 56
    time := { t with leapAcc := acc, slewAcc := sacc, slewLeft := left, since := s.dt + 1 } }

/-- A DT second is over: RAD_OCC shows the demodulators' work in it, and windows of the next one are planned (R141, R328). -/
def newSecond (s : State) : State :=
  let r := s.rad
  let avg := (looseDiv (r.occBusy * 1024 : Nat) (max 1 (fld s Reg.RAD_STAT_DEMODS) * 65536)).toNat
  let s1 := if domState s 8 = 2 then setFld (setFld s Reg.RAD_OCC_PEAK (min r.occPeak 127)) Reg.RAD_OCC_AVG (min avg 1023) else s
  imageTick (radUpd s1 fun x => { x with occSec := dtSec s.dt, occBusy := 0, occPeak := x.demods.length })

/-- The consumers of the internal Rill queues read what stands there (R76, log entry 17). -/
def rillDrain (s : State) : State :=
  hostUpd s fun h => { h with rill := h.rill.keys.foldl (fun m n =>
    let q := m.get n {}
    m.set n { q with rd := q.wr, lostmark := false } {}) h.rill }

/-- One unit of time passes. -/
def tick (s : State) : State :=
  let s1 := tickClock (if running s then keyStep (rillDrain s) else rillDrain s)
  let s2 := { s1 with rad := { s1.rad with occBusy := s1.rad.occBusy + s1.rad.demods.length } }
  if running s2 ∧ s2.rad.occSec ≠ dtSec s2.dt then newSecond s2 else s2

end Sys2Proof.Machine
end

