-- ==== Sys2Proof/Safety.lean ====
section
/-! DEFINITION. What a safe state is, and when a command is ready to do its own work, in the terms that statements use. -/

namespace Sys2Proof.Machine

/-- Host memory is in its canonical form: addresses strictly rise and no listed byte is 0, what an unlisted address reads as. -/
def Memory.wf (m : SMap Byte) : Bool := SMap.wf (fun _ => 0) m

/-- The register bank is in its canonical form: offsets strictly rise and no listed word is its register's reset value. -/
def Regs.wf (m : SMap Word) : Bool := SMap.wf resetVal m

/-- Host memory and the register bank are canonical, and module time has 56 bits (R5). -/
structure State.Inv (s : State) : Prop where
  mem : Memory.wf s.host.mem = true
  regs : Regs.wf s.regs = true
  dt : s.dt < 2 ^ 56

/-- `c` is the oldest command of SQ `sq` with opcode `op` that may start (R52, R61, R66), and no check of R532 steps 2 to 7
refuses it. -/
abbrev Ready (s : State) (sq : Fin 16) (op : Nat) (c : Cmd) : Prop := pick s sq op = some c ∧ judge s c = none

/-- No byte offends (R532). -/
abbrev Clean (l : List Chk) : Prop := ∀ k ∈ l, k.bad = false

/-- The host's buffer answers (R533). -/
abbrev Reachable (s : State) (c : Cmd) (k : Nat) : Prop := memFails s (c.bufAddr k) (c.bufLen k) = false

/-- The submission queue and opcode of a ring command; none for any other command. -/
def ringOf : Instr → Option (Fin 16 × Nat)
  | .nop sq => some (sq, 0x0100)
  | .identify sq => some (sq, 0x0101)
  | .eventRoute sq => some (sq, 0x0102)
  | .intentForget sq => some (sq, 0x0103)
  | .statsRead sq => some (sq, 0x0104)
  | .moduleReset sq _ => some (sq, 0x0105)
  | .timeSet sq => some (sq, 0x0200)
  | .timeAdjust sq => some (sq, 0x0201)
  | .leapSchedule sq => some (sq, 0x0202)
  | .localRuleSet sq => some (sq, 0x0203)
  | .radioProfileLoad sq => some (sq, 0x0300)
  | .profileSelect sq => some (sq, 0x0301)
  | .txTest sq => some (sq, 0x0302)
  | .rxSurvey sq => some (sq, 0x0303)
  | .foldAdmit sq => some (sq, 0x0400)
  | .foldRemove sq => some (sq, 0x0401)
  | .foldRead sq => some (sq, 0x0402)
  | .foldFind sq => some (sq, 0x0403)
  | .connSet sq => some (sq, 0x0404)
  | .mapSet sq => some (sq, 0x0405)
  | .dlSend sq => some (sq, 0x0406)
  | .rekey sq => some (sq, 0x0407)
  | .bcastRekey sq => some (sq, 0x0408)
  | .memberSet sq => some (sq, 0x0500)
  | .groupCfg sq => some (sq, 0x0501)
  | .scheduleProfileLoad sq => some (sq, 0x0502)
  | .exceptionSet sq => some (sq, 0x0503)
  | .sceneStore sq => some (sq, 0x0504)
  | .sceneRecall sq => some (sq, 0x0505)
  | .sceneRelease sq => some (sq, 0x0506)
  | .commitLevel sq => some (sq, 0x0507)
  | .commitCancel sq => some (sq, 0x0508)
  | .commitRead sq => some (sq, 0x0509)
  | .composeRead sq => some (sq, 0x050A)
  | .solarRead sq => some (sq, 0x050B)
  | .casVertexLoad sq => some (sq, 0x0600)
  | .casEdgeLoad sq => some (sq, 0x0601)
  | .casStageSync sq => some (sq, 0x0602)
  | .casGraphActivate sq => some (sq, 0x0603)
  | .casBorderSet sq => some (sq, 0x0604)
  | .casInject sq => some (sq, 0x0605)
  | .casDemandRead sq => some (sq, 0x0606)
  | .casGraphRead sq => some (sq, 0x0607)
  | .casClear sq => some (sq, 0x0608)
  | .weiLoopLoad sq => some (sq, 0x0700)
  | .weiLoopEnable sq => some (sq, 0x0701)
  | .weiCoefSet sq => some (sq, 0x0702)
  | .weiGroupSet sq => some (sq, 0x0703)
  | .weiInject sq => some (sq, 0x0704)
  | .weiInjectStop sq => some (sq, 0x0705)
  | .weiCaptureSet sq => some (sq, 0x0706)
  | .weiCaptureRead sq => some (sq, 0x0707)
  | .weiLoopRead sq => some (sq, 0x0708)
  | .weiCaptureStop sq => some (sq, 0x0709)
  | .basTempTableLoad sq => some (sq, 0x0800)
  | .basValuesRead sq => some (sq, 0x0801)
  | .basEnergyRead sq => some (sq, 0x0802)
  | .basLanternSet sq => some (sq, 0x0803)
  | .basAllocRead sq => some (sq, 0x0804)
  | .basReconRead sq => some (sq, 0x0805)
  | .cisWinRead sq => some (sq, 0x0900)
  | .cisRead sq => some (sq, 0x0901)
  | .cisSnapPin sq => some (sq, 0x0902)
  | .cisSnapRead sq => some (sq, 0x0903)
  | .cisSnapRelease sq => some (sq, 0x0904)
  | .cisClearChallenge sq => some (sq, 0x0905)
  | .cisSecClear sq => some (sq, 0x0906)
  | .updOpen sq => some (sq, 0x0A00)
  | .updPiece sq _ => some (sq, 0x0A01)
  | .updVerify sq => some (sq, 0x0A02)
  | .updActivate sq => some (sq, 0x0A03)
  | .updCancel sq => some (sq, 0x0A04)
  | .updConfirm sq => some (sq, 0x0A05)
  | .updErase sq => some (sq, 0x0A06)
  | .updEpOffer sq => some (sq, 0x0A07)
  | .updEpActivate sq => some (sq, 0x0A08)
  | .updEpStop sq => some (sq, 0x0A09)
  | .updEpStatus sq => some (sq, 0x0A0A)
  | .ftnFixtureLoad sq => some (sq, 0x0B00)
  | .ftnFixtureSet sq => some (sq, 0x0B01)
  | .ftnChanSet sq => some (sq, 0x0B02)
  | .ftnColorSet sq => some (sq, 0x0B03)
  | .ftnJetLoad sq => some (sq, 0x0B04)
  | .ftnJetStart sq => some (sq, 0x0B05)
  | .ftnJetStop sq => some (sq, 0x0B06)
  | .ftnJetEvent sq => some (sq, 0x0B07)
  | .ftnFaultClear sq => some (sq, 0x0B08)
  | .oxLoad sq => some (sq, 0x0C00)
  | .oxValidate sq => some (sq, 0x0C01)
  | .oxSwitch sq => some (sq, 0x0C02)
  | .oxStart sq => some (sq, 0x0C03)
  | .oxStop sq => some (sq, 0x0C04)
  | .oxForceSet sq => some (sq, 0x0C05)
  | .oxForceClear sq => some (sq, 0x0C06)
  | .oxRead sq => some (sq, 0x0C07)
  | .oxWrite sq => some (sq, 0x0C08)
  | .keyUpdate sq _ => some (sq, 0x0D00)
  | .keyInfo sq => some (sq, 0x0D01)
  | .keyCipher sq => some (sq, 0x0D02)
  | .keyMac sq => some (sq, 0x0D03)
  | .keySign sq => some (sq, 0x0D04)
  | .keyVerify sq => some (sq, 0x0D05)
  | .keyDerive sq => some (sq, 0x0D06)
  | .keyRandom sq => some (sq, 0x0D07)
  | .keyIdentity sq => some (sq, 0x0D08)
  | .keyTkExport sq => some (sq, 0x0D09)
  | .keyScrap sq _ => some (sq, 0x0D0A)
  | .otpRead sq => some (sq, 0x0D0B)
  | .parSwitch sq => some (sq, 0x0E00)
  | .parResync sq => some (sq, 0x0E01)
  | .fedRouteSet sq => some (sq, 0x0E02)
  | .fedPeerSet sq => some (sq, 0x0E03)
  | .fedValuePub sq => some (sq, 0x0E04)
  | .fedFeederMap sq => some (sq, 0x0E05)
  | .fedHandover sq => some (sq, 0x0E06)
  | .fedPieceSend sq => some (sq, 0x0E07)
  | .fedActSend sq => some (sq, 0x0E08)
  | .bstRun sq => some (sq, 0x0F00)
  | .bstRecover sq => some (sq, 0x0F01)
  | .bstTileRead sq => some (sq, 0x0F02)
  | .pwrModeSet sq => some (sq, 0x1000)
  | .pwrDomainSet sq => some (sq, 0x1001)
  | _ => none

/-- A run of `n` steps that no fault and no refusal ends. -/
def SafeRun (n : Nat) (s : State) : Prop :=
  match n with
  | 0 => True
  | n + 1 => ∃ t, step s = .next t ∧ SafeRun n t

end Sys2Proof.Machine
end

