-- ==== Sys2Proof/Certificates/Slice0/Obligations.lean ====
section
/-! DEFINITION. The statements for the provers: the step and its invariants, rules of the spec, and for every command where it
completes and with which next state. -/

open Sys2Proof Sys2Proof.Machine

/-- A step runs the command at the front of the queue on the state with the queue's rest. -/
def Obligations.StepTakesFront : Prop :=
  (∀ (s : State) (c : Instr) (rest : List Instr), s.pending = c :: rest → step s = exec c { s with pending := rest }) ∧
  ∀ s : State, s.pending = [] → step s = .next (tick s)

/-- No command of the table stops the machine: every run of every length goes on. -/
def Obligations.EveryRunGoesOn : Prop :=
  ∀ (n : Nat) (s : State), SafeRun n s

/-- The state after reset meets the invariant, with an empty queue and nothing outstanding. -/
def Obligations.ResetStateInvariant : Prop :=
  State.reset.Inv ∧ State.reset.pending = [] ∧ allFetched State.reset = [] ∧ allHeld State.reset = [] ∧
    State.reset.host.kept = [] ∧ hifState State.reset = 0

/-- Registers read the reset values of their cards. -/
def Obligations.ResetRegisterValues : Prop :=
  (∀ p ∈ [(Reg.TIM_CTRL_PPS_WIDTH, 100), (Reg.TIM_SERVO_STEP_THR, 6554),
      (Reg.RAD_STAT_DEMODS, 64), (Reg.RAD_DET_TX_PRE, 8), (Reg.MAC_TIMING_ACK_MAX, 20), (Reg.MAC_TIMING_TCORR_THR, 80),
      (Reg.STR_COMMIT_LEAD, 30), (Reg.STR_COMMIT_REPEATS, 3), (Reg.CAS_CFG_MIN_DEMAND, 512), (Reg.CAS_CFG_REACH, 120),
      (Reg.WEI_CFG_AMB_STALE, 300), (Reg.BAS_INTERVAL_RECON_DELAY, 360), (Reg.CIS_STORM_BURST, 256), (Reg.UPD_CFG_HEALTH_WIN, 900),
      (Reg.FTN_BOOST_FSW, 500), (Reg.OX_STAT_RET_RESTORE, 3), (Reg.KEY_IRQ_VEC, 31), (Reg.FED_CFG_TTL, 64), (Reg.BST_CTRL_EN, 1),
      (Reg.PWR_DOMAIN_STATE, 0xAAAAAA), (Reg.PWR_CTRL_PFW_PIN_EN, 1)], fld State.reset p.1 = p.2) ∧
  (∀ n : Fin 16, fld State.reset (Reg.HIF_SQ_PERM_GROUPS n) = 0xFFFF ∧ fld State.reset (Reg.HIF_SQ_CFG_CQ n) = n) ∧
  (∀ n : Fin 4, fld State.reset (Reg.HIF_EQ_CFG_VEC n) = 16 + n) ∧ (∀ n : Fin 8, fld State.reset (Reg.RIL_HP_CFG_VEC n) = 24 + n) ∧
  fld State.reset Reg.GLB_ID_PART = 0x2640 ∧ fld State.reset Reg.GLB_ID_REV_MAJ = 0xB ∧ fld State.reset Reg.GLB_ID_REV_MIN = 0

/-- Every step keeps host memory and the register bank canonical and module time below 2^56. -/
def Obligations.StepKeepsInvariant : Prop :=
  ∀ s t : State, s.Inv → step s = .next t → t.Inv

/-- R425 in part: OTP bits change only from 0 to 1. -/
def Obligations.OtpBitsOnlyRise : Prop :=
  ∀ (s t : State) (a i : Nat), step s = .next t → (otpByte s a).getLsbD i = true → (otpByte t a).getLsbD i = true

/-- No step lowers the security version floor. -/
def Obligations.SvnFloorNeverFalls : Prop :=
  ∀ s t : State, step s = .next t → s.upd.floor ≤ t.upd.floor

/-- A step consumes exactly the front command and elapsed time never goes back. -/
def Obligations.QueueAndElapsedTime : Prop :=
  ∀ s t : State, step s = .next t → t.pending = s.pending.tail ∧ s.el ≤ t.el

/-- Doorbells of disabled rings and tail doorbells in recovery are dropped; head doorbells are accepted. -/
def Obligations.DoorbellsOfStoppedRings : Prop :=
  (∀ (s : State) (n : Fin 16) (v : Word) (u : HostUpdate), let s1 := hostActs s u
      (flag s1 (Reg.HIF_SQ_CFG_ENABLE n) = false ∨ hifState s1 = 2 ∨ hifState s1 = 3) →
      exec (.sqTailDoorbell n v u) s = .next (if 65536 ≤ v.toNat then badAccess s1 1 true (8 * n) else s1)) ∧
  (∀ (s : State) (n : Fin 16) (v : Word), flag s (Reg.HIF_CQ_CFG_ENABLE n) = false →
      exec (.cqHeadDoorbell n v) s = .next (if 65536 ≤ v.toNat then badAccess s 1 true (0x100 + 8 * n) else s)) ∧
  (∀ (s : State) (n : Fin 4) (v : Word), flag s (Reg.HIF_EQ_CFG_ENABLE n) = false →
      exec (.eqHeadDoorbell n v) s = .next (if 65536 ≤ v.toNat then badAccess s 1 true (0x200 + 8 * n) else s)) ∧
  (∀ (s : State) (n : Fin 16) (v : Word), (hifState s = 2 ∨ hifState s = 3) → flag s (Reg.HIF_CQ_CFG_ENABLE n) = true →
      v.toNat < 65536 → headValid (cqSize s n) (cqAt s n).head (fld s (Reg.HIF_CQ_WR_INDEX n)) v.toNat = true →
      ∃ t, exec (.cqHeadDoorbell n v) s = .next t ∧ cqAt t n = { cqAt s n with head := v.toNat } ∧ t.regs = s.regs) ∧
  ∀ (s : State) (n : Fin 4) (v : Word), (hifState s = 2 ∨ hifState s = 3) → flag s (Reg.HIF_EQ_CFG_ENABLE n) = true →
      v.toNat < 65536 → headValid (eqSize s n) (eqAt s n).head (fld s (Reg.HIF_EQ_WR_INDEX n)) v.toNat = true →
      ∃ t, exec (.eqHeadDoorbell n v) s = .next t ∧ eqAt t n = { eqAt s n with head := v.toNat } ∧ t.regs = s.regs

/-- A ring command that may not start changes nothing, and one that its judgement refuses only completes with that refusal. -/
def Obligations.RingCommandOutcome : Prop :=
  ∀ (i : Instr) (s : State) (sq : Fin 16) (op : Nat), ringOf i = some (sq, op) →
    (op = 0x0105 → s.host.resetFor = none) →
    (pick s sq op = none → exec i s = .next s) ∧
    ∀ (c : Cmd) (a : Answer), pick s sq op = some c → judge s c = some a → exec i s = .next (completeJudged s c a)

/-- Opcodes of a group that the SQ may not use are DENIED; NOP and IDENTIFY never are. -/
def Obligations.GroupPermission : Prop :=
  ∀ (s : State) (c : Cmd), priorOutcome s c = none → Clean (layoutChks c) →
    opcodeDefined c.opcode = true →
    let allowed := bit (reg s (Reg.HIF_SQ_PERM_GROUPS c.sq).off).toNat
    (c.group ≠ 1 → allowed c.group = false → judge s c = some (ansDenied 0x0001)) ∧
    (c.group = 1 → c.opcode ≠ 0x0100 → c.opcode ≠ 0x0101 → allowed 1 = false → judge s c = some (ansDenied 0x0001)) ∧
    (allowed c.group = true → judge s c ≠ some (ansDenied 0x0001)) ∧
    ((c.opcode = 0x0100 ∨ c.opcode = 0x0101) → domState s 2 = 2 → judge s c = none)

/-- A completed intent enters its SQ's window of 4,096, and later commands with it replay the stored outcome. -/
def Obligations.IntentWindowEntry : Prop :=
  ∀ (s : State) (c : Cmd) (a : Answer), let t := complete s c a
    let w := (sqAt s c.sq).window
    (c.intent ≠ 0 → a.status ≠ 0x21 → a.status ≠ 0x30 → a.status ≠ 0x31 → (∀ i ∈ w, i.id ≠ c.intent) →
      (sqAt t c.sq).window = { id := c.intent, opcode := c.opcode, ans := a } :: w.take 4095 ∧
      ∀ d : Cmd, d.sq = c.sq → d.intent = c.intent → d.dup = none →
        judge t d = some (if d.opcode = c.opcode then a else ansBadField 0x06 8)) ∧
    ((c.intent = 0 ∨ a.status = 0x21 ∨ a.status = 0x30 ∨ a.status = 0x31) → (sqAt t c.sq).window = w) ∧
    (c.intent ≠ 0 → (a.status = 0x21 ∨ a.status = 0x30 ∨ a.status = 0x31) → ∀ d ∈ (sqAt s c.sq).fetched,
      d.sq = c.sq → d.intent = c.intent → c.seq < d.seq → d.started = false → ∃ e ∈ (sqAt t c.sq).fetched, e.seq = d.seq ∧
        judge t e = some (if d.opcode = c.opcode then a else ansBadField 0x06 8)) ∧
    ∀ n, n ≠ c.sq → (sqAt t n).window = (sqAt s n).window

/-- A read of a host port removes its oldest entry and latches the upper word, or reports underrun. -/
def Obligations.HostPortRead : Prop :=
  ∀ (s : State) (n : Fin 8), let k := fld s (Reg.RIL_HP_CFG_DEPTH_LOG2 n)
    let q := s.host.ports.get n {}
    let hi := (Reg.RIL_HP_DATA_HI_VALID n).off
    let w := q.entries.get (q.rd % 2 ^ k) 0
    (q.fill k ≠ 0 → ∃ t, exec (.hostPortDataRead n) s = .next t ∧ t.host.readData = w % 2 ^ 32 ∧
      t.host.ports.get n {} = { q with rd := (q.rd + 1) % (2 * 2 ^ k), lostmark := false } ∧
      (reg t hi).toNat = bits w 55 32 + 2 ^ 30 * b2n q.lostmark + 2 ^ 31 ∧
      (∀ m, m ≠ n.val → t.host.ports.get m {} = s.host.ports.get m {}) ∧ (∀ o, o ≠ hi → reg t o = reg s o) ∧ t.host.mem = s.host.mem) ∧
    (q.fill k = 0 → ∃ t, exec (.hostPortDataRead n) s = .next t ∧ t.host.readData = 0 ∧ reg t hi = 0 ∧
      flag t (Reg.RIL_HP_STAT_UNDERRUN n) = true ∧ t.host.ports = s.host.ports ∧
      (∀ o, o ≠ hi → o ≠ (Reg.RIL_HP_STAT_UNDERRUN n).off → reg t o = reg s o) ∧ t.host.mem = s.host.mem)

/-- A read or flush that meets a write in one cycle applies first, so nothing is lost. -/
def Obligations.RillSameCycle : Prop :=
  (∀ (s : State) (n : Fin 64) (w : BitVec 64), let k := Config.rillDepth n
    let q := s.host.rill.get n {}
    q.wr < 2 * 2 ^ k → q.rd < 2 * 2 ^ k → q.fill k ≤ 2 ^ k →
    (q.fill k ≠ 0 → ∃ t, exec (.rillQueueWrite (.queue n) w .read) s = .next t ∧ t.regs = s.regs ∧
      let q' := t.host.rill.get n {}
      q'.rd = (q.rd + 1) % (2 * 2 ^ k) ∧ q'.wr = (q.wr + 1) % (2 * 2 ^ k) ∧ q'.fill k = q.fill k ∧
      q'.entries.get (q.wr % 2 ^ k) 0 = w.toNat) ∧
    ∃ t, exec (.rillQueueWrite (.queue n) w .flush) s = .next t ∧ t.regs = s.regs ∧
      let q' := t.host.rill.get n {}
      q'.rd = q.wr ∧ q'.fill k = 1 ∧ q'.lostmark = false ∧ q'.entries.get (q'.rd % 2 ^ k) 0 = w.toNat) ∧
  ∀ (s : State) (n : Fin 8), ∃ t, exec (.hostPortFlush n) s = .next t ∧ t.regs = s.regs ∧
    let q := s.host.ports.get n {}
    t.host.ports.get n {} = { q with rd := q.wr, lostmark := false }

/-- A Rill write keeps the fill within the queue and adds at most one entry. -/
def Obligations.RillFillBound : Prop :=
  ∀ (q : RillSt) (k w : Nat) (ow : Bool), q.wr < 2 * 2 ^ k → q.rd < 2 * 2 ^ k → q.fill k ≤ 2 ^ k →
    (q.fill k : Int) = ((q.wr : Int) - q.rd) % (2 * 2 ^ k) ∧
    let r := q.push k ow w
    r.1.wr < 2 * 2 ^ k ∧ r.1.rd < 2 * 2 ^ k ∧ r.1.fill k = min (q.fill k + 1) (2 ^ k) ∧
    (r.2 = true ↔ q.fill k = 2 ^ k ∧ ow = true) ∧ (q.fill k = 2 ^ k → ow = false → r.1 = q)

/-- Event records wait in a store of 2,048 per EQ, in order, and a full store discards and counts. -/
def Obligations.EqPendingStore : Prop :=
  (∀ (s : State) (n : Fin 4) (r : EvRec), let q := eqAt s n
    (q.pend.length < 2048 → eqAt (eqPut s n r) n = { q with pend := q.pend ++ [r] } ∧ (eqPut s n r).regs = s.regs) ∧
    (2048 ≤ q.pend.length → let t := eqPut s n r
      (eqAt t n).pend = q.pend ∧ (eqAt t n).overflow = true ∧ flag t Reg.GLB_ERR_EQ_LOST = true ∧
      fld t (Reg.HIF_EQ_LOST_COUNT n) = min (fld s (Reg.HIF_EQ_LOST_COUNT n) + 1) (2 ^ 32 - 1)) ∧
    ∀ m : Fin 4, m ≠ n → eqAt (eqPut s n r) m = eqAt s m) ∧
  (∀ (s : State) (n : Fin 4), eqFree s n = false → exec (.eventRecordWrite n) s = .next s) ∧
  ∀ (s : State) (n : Fin 4) (r : EvRec) (rest : List EvRec), (eqAt s n).pend = r :: rest → hifState s = 1 → eqFree s n = true →
    released s r = true → let a := eqBase s n + 32 * fld s (Reg.HIF_EQ_WR_INDEX n)
    memFails s a 32 = false →
    ∃ t, exec (.eventRecordWrite n) s = .next t ∧ (eqAt t n).pend = rest ∧ (eqAt t n).overflow = false ∧
      t.host.mem = memPut s.host.mem a (eventBytes r (eqAt s n).overflow (fld s (Reg.HIF_EQ_WR_PHASE n)))

/-- Events of a group whose route is disabled are discarded uncounted; resets restore the default routes. -/
def Obligations.EventsOfDisabledGroups : Prop :=
  (∀ (s : State) (dt code status : Nat) (pl : List Byte) (ref : Option CmdRef) (after : List Nat),
    let rt := s.host.routes.get (code / 256) {}
    let t := emitAt s dt code pl ref status after
    (rt.enable = false → t.host.eqs = s.host.eqs ∧ ∀ n : Fin 4, fld t (Reg.HIF_EQ_LOST_COUNT n) = fld s (Reg.HIF_EQ_LOST_COUNT n)) ∧
    (rt.enable = true → (eqAt s rt.eq).pend.length < 2048 →
      ∃ r : EvRec, r.code = code ∧ r.dt = dt ∧ r.status = status ∧ r.payload = padTo 16 pl ∧
        (eqAt t rt.eq).pend = (eqAt s rt.eq).pend ++ [r])) ∧
  ∀ (s : State) (d : Depth) (g : Nat), (resetBlocks s d).host.routes.get g {} = { eq := 0, enable := true }

/-- The BAD_STATE cases of the admin opcodes are those of INTENT_FORGET and MODULE_RESET. -/
def Obligations.AdminBadStates : Prop :=
  (∀ (s : State) (sq : Fin 16) (c : Cmd), Ready s sq 0x0103 c → Clean (opChks c [(16, 1)] [] ++ [rsvChk (decide (15 < c.op 16 1)) 16]) →
    (∃ x ∈ (sqAt s (c.op 16 1 % 16)).fetched, x.seq ≠ c.seq) → exec (.intentForget sq) s = .next (complete s c (ansBadState 0x0001))) ∧
  (∀ (s : State) (sq : Fin 16) (c : Cmd) (b : Boot), Ready s sq 0x0105 c → s.host.resetFor = none → Clean (opChks c [(16, 4)] []) →
    (c.op 16 4 ≠ 0xD2640A5E → exec (.moduleReset sq b) s = .next (complete s c (ansBadField 0x01 16))) ∧
    (c.op 16 4 = 0xD2640A5E → committing s = true → exec (.moduleReset sq b) s = .next (complete s c (ansBadState 0x0002)))) ∧
  (∀ (s : State) (c : Cmd), ∀ body ∈ [bodyNop, bodyIdentify, bodyEventRoute, bodyStatsRead],
    (∀ a, body s c = .error (.ans a) → a.status ≠ 0x12) ∧ (∀ t a, body s c = .error (.ansIn t a) → a.status ≠ 0x12) ∧
    ∀ t a, body s c = .ok (t, some a) → a.status ≠ 0x12)

/-- The CRC of a Cistern record is the shift register of R289 over bytes 0 to LENGTH - 5. -/
def Obligations.CisternCrc : Prop :=
  crc16 [] = 0xFFFF ∧
  (∀ (l : List Byte) (b : Byte), crc16 (l ++ [b]) =
    Nat.repeat (fun crc => if crc &&& 0x8000 ≠ 0 then ((crc <<< 1) ^^^ 0x1021) &&& 0xFFFF else (crc <<< 1) &&& 0xFFFF) 8
      (crc16 l ^^^ (b.toNat <<< 8))) ∧
  crc16 [0x31, 0x32, 0x33, 0x34, 0x35, 0x36, 0x37, 0x38, 0x39] = 0x29B1 ∧
  ∀ r : CisRec, r.bytes.take (r.len - 4) = r.head ∧ (r.bytes.drop (r.len - 4)).take 2 = leBytes 2 (crc16 r.head) ∧ r.bytes.length = r.len

/-- The hop function always names a channel of its map. -/
def Obligations.HopStaysInMap : Prop :=
  ∀ access m n : Nat, access < 2 ^ 32 → n < 2 ^ 16 → (∃ c, c < 80 ∧ bit m c = true) →
    ∃ c, hopOn access m n = some c ∧ c < 80 ∧ bit m c = true

/-- Completing a command touches only its rings, their statistics and the flags of a full event store. -/
def Obligations.CompleteFrame : Prop :=
  ∀ (s : State) (c : Cmd) (a : Answer), let t := complete s c a
    (t.host.mem = s.host.mem ∧ t.host.routes = s.host.routes ∧ t.host.ports = s.host.ports ∧ t.host.rill = s.host.rill) ∧
    (t.dt = s.dt ∧ t.el = s.el ∧ t.pending = s.pending ∧ t.freeN = s.freeN) ∧
    (t.time = s.time ∧ t.cis = s.cis ∧ t.rad = s.rad ∧ t.mac = s.mac ∧ t.street = s.street ∧ t.cas = s.cas ∧ t.bas = s.bas) ∧
    (t.weir = s.weir ∧ t.ftn = s.ftn ∧ t.ox = s.ox ∧ t.pair = s.pair ∧ t.fed = s.fed ∧ t.key = s.key ∧ t.pin = s.pin ∧
      t.upd = s.upd ∧ t.pwr = s.pwr ∧ t.bst = s.bst) ∧
    (∀ n, n ≠ c.sq → sqAt t n = sqAt s n) ∧
    ∀ off, off ≠ Reg.HIF_STAT_STATE.off → off ≠ Reg.GLB_ERR_EQ_LOST.off → (∀ n, off ≠ (Reg.HIF_EQ_LOST_COUNT n).off) → reg t off = reg s off

/-- Completion and event writes store exactly their entry in host memory. -/
def Obligations.EntryWriteFrame : Prop :=
  (∀ (s t : State) (n : Fin 16) (b : Nat), exec (.completionWrite n) s = .next t →
    ((cqAt s n).held = [] ∨ ∀ k < 16, b % 2 ^ 64 ≠ (cqBase s n + 16 * fld s (Reg.HIF_CQ_WR_INDEX n) + k) % 2 ^ 64) →
    memByte t b = memByte s b) ∧
  ∀ (s t : State) (n : Fin 4) (b : Nat), exec (.eventRecordWrite n) s = .next t →
    ((eqAt s n).pend = [] ∨ ∀ k < 32, b % 2 ^ 64 ≠ (eqBase s n + 32 * fld s (Reg.HIF_EQ_WR_INDEX n) + k) % 2 ^ 64) →
    memByte t b = memByte s b

/-- A register write sets each field by its access code and leaves every other register. -/
def Obligations.RegisterWriteByAccess : Prop :=
  (∀ (s : State) (off n v : Nat) (c : Card), cardAt off = some (c, n) → let t := putWord s c off v
    (∀ f ∈ c.fields, ∀ i, f.lo ≤ i → i ≤ f.hi → let old := (reg s off).getLsbD i
      (reg t off).getLsbD i = match f.acc with
        | .rw => v.testBit i
        | .rwl => if locked s off then old else v.testBit i
        | .w1c => old && !v.testBit i
        | .w1s => old || v.testBit i
        | .ro | .wo | .rc => old) ∧
    (∀ o, o ≠ off → reg t o = reg s o) ∧ ∃ w, t = setReg s off w) ∧
  (∀ (s : State) (off n v : Nat) (c : Card), cardAt off = some (c, n) → locked s off = true →
    ∀ f ∈ c.fields, f.acc = .rwl → fld (putWord s c off v) ⟨off, f.hi, f.lo⟩ = fld s ⟨off, f.hi, f.lo⟩) ∧
  ∀ (s : State) (off n : Nat) (v : Word) (c : Card), cardAt off = some (c, n) → domState s (domIndex c.dom) = 2 →
    ([0x1000, 0x1008, 0x1108, 0x1308, 0x1508, 0x2200, 0x2204, 0x3000, 0x3028, 0x302C, 0x3038, 0x3108, 0x3204, 0xA00C, 0xD104,
      0xD200, 0x10000].contains c.base) = false →
    (sealed s c off = true ∨ dropWrite s c.base n v.toNat = none) →
    exec (.registerWrite { bar2 := false, off := off, whole := true } v) s =
      .next (ckFollow s (afterWrite s (putWord s c off (backWord c.base n v.toNat)) c.base n) off)

/-- Detections that waited 1 ms are dropped, counted in DROP, and set OVERLOAD. -/
def Obligations.DetectionDropped : Prop :=
  ∀ s : State, let old := s.rad.waiting.filter fun d => passedMs s d.at' 1
    (old = [] → exec .detectionDrop s = .next s) ∧
    (old ≠ [] → ∃ t, exec .detectionDrop s = .next t ∧
      t.rad = { s.rad with waiting := s.rad.waiting.filter fun d => !passedMs s d.at' 1 } ∧
      fld t (Reg.RAD_CNT_COUNT 4) = min (fld s (Reg.RAD_CNT_COUNT 4) + old.length) (2 ^ 32 - 1) ∧
      flag t Reg.RAD_ERR_OVERLOAD = true ∧ t.host.mem = s.host.mem ∧
      ∀ off, off ≠ (Reg.RAD_CNT_COUNT 4).off → off ≠ Reg.RAD_ERR_OVERLOAD.off → reg t off = reg s off)

/-- A standby whose lease expires while ACT_IN is asserted stays passive and reports MIR_DOWN, once until a LEASE comes again (the model's
choice, log entry 164). -/
def Obligations.LeaseExpiresWithActIn : Prop :=
  ∀ s : State, (role s = 3 → since s s.pair.leaseGrant 20000 = true → flag s Reg.PAR_STAT_ACT_IN = true → s.pair.mirDownSaid = false →
      ∃ t, exec .leaseExpiry s = .next (partnerEvent t 4) ∧ flag t Reg.PAR_ERR_MIR_DOWN = true ∧ role (partnerEvent t 4) = 3 ∧
        flag (partnerEvent t 4) Reg.PAR_ERR_MIR_DOWN = true ∧ (partnerEvent t 4).pair.actOutAt = s.pair.actOutAt) ∧
    (role s ≠ 3 ∨ since s s.pair.leaseGrant 20000 = false ∨ flag s Reg.PAR_STAT_ACT_IN = false ∨ s.pair.mirDownSaid = true →
      exec .leaseExpiry s = .next s)

/-- UPD_OPEN keeps a slot that is loading the same image and clears any other. -/
def Obligations.UpdOpenKeepsOrClears : Prop :=
  ∀ (s : State) (sq : Fin 16) (c : Cmd) (n : Nat), Ready s sq 0x0A00 c → slotNum (c.op 16 1) = some n →
    let total := c.op 20 4
    let image := c.op 24 4
    Clean (opChks c [(16, 1), (20, 8)] [] ++ [rangeChk (decide (total ≤ 512 ∨ slotSize n < total)) 20, rangeChk (decide (image = 0)) 24]) →
    slotHeld s n = false → campBusy s n = false → let x := slotOf s n
    (x.state = 1 ∧ x.image = image ∧ x.total = total →
      exec (.updOpen sq) s = .next (complete s c (ansDone x.pieces.length))) ∧
    (¬(x.state = 1 ∧ x.image = image ∧ x.total = total) → ∃ t, exec (.updOpen sq) s = .next (complete t c ansDone) ∧
      slotOf t n = { state := 1, total := total, image := image } ∧ (slotOf t n).pieces = [] ∧
      ∀ m, m ≠ n → slotOf t m = slotOf s m)

/-- Host register accesses, host port reads and Rill queue writes complete: each clause gives the whole next state of one command, so what it does not change is unchanged.
Clauses that write out a choice or an inference of the model where the spec leaves a point open: REGISTER_WRITE, READ_CLEAR, LOCK_SET (log
entry 16); RILL_QUEUE_WRITE (log entry 17). -/
def Obligations.HostAccessComplete : Prop :=
  -- REGISTER_WRITE
  (∀ (s : State) (off : Nat) (v : Word),
      (∀ b : Bool, let s1 := if b then bar2Write s off v.toNat else bar0Write s off v.toNat
        exec (.registerWrite { bar2 := b, off := off, whole := true } v) s = .next s1 ∧
        ∀ x : Word, exec (.registerWrite { bar2 := b, off := off, whole := true, second := some x } v) s = .next
          (if b then bar2Write s1 (off + 4) x.toNat else bar0Write s1 (off + 4) x.toNat)) ∧
      ∀ b : Bool, exec (.registerWrite { bar2 := b, off := off, whole := false } v) s = .next (badAccess s (b2n b) true off)) ∧
  -- READ_CLEAR
  (∀ (s : State) (b : Bool) (off : Nat) (e : Bool),
      let rd (s : State) (o : Nat) : State := if b then bar2Read s o else bar0Read s o
      exec (.readClear { bar2 := b, off := off, whole := e }) s = .next (rd s off) ∧
      ∀ x : Word,
        let s1 := rd s off
        let s2 := rd s1 (off + 4)
        exec (.readClear { bar2 := b, off := off, whole := e, second := some x }) s = .next
          (hostUpd s2 fun h => { h with readData := s1.host.readData + 2 ^ 32 * s2.host.readData })) ∧
  -- LOCK_SET
  (∀ (s : State) (w : LockSel),
      domState s (lockDom w) = 2 →
      exec (.lockSet w) s = .next (setFld s (lockFld (lockOff w)) 1)) ∧
  -- GLB_FENCE_READ
  (∀ (s : State),
      exec .glbFenceRead s = .next
        (hostUpd (setFld s Reg.GLB_FENCE_DROPPED 0) fun h => { h with readData := fld s Reg.GLB_FENCE_DROPPED })) ∧
  -- RILL_QUEUE_WRITE
  (∀ (s : State) (w : BitVec 64) (how : RillWith),
      (∀ n : Fin 64, exec (.rillQueueWrite (.queue n) w how) s = .next (queueWrite s n w.toNat how)) ∧
      (∀ n : Fin 8, flag s (Reg.RIL_HP_CFG_ENABLE n) = false → exec (.rillQueueWrite (.port n) w .alone) s = .next s) ∧
      (∀ n : Fin 8, flag s (Reg.RIL_HP_CFG_ENABLE n) = true →
        let k := fld s (Reg.RIL_HP_CFG_DEPTH_LOG2 n)
        let q0 := s.host.ports.get n {}
        let r := q0.push k true w.toNat
        let s1 := hostUpd s fun h => { h with ports := h.ports.set n r.1 {} }
        let s2 := if r.2 then setErr (count1 s1 (Reg.RIL_HP_LOST_COUNT n)) Reg.GLB_ERR_HP_LOST else s1
        exec (.rillQueueWrite (.port n) w .alone) s =
          .next (if q0.fill k = 0 then raiseVec s2 (fld s (Reg.RIL_HP_CFG_VEC n)) else s2)) ∧
      (∀ n : Fin 8, exec (.rillQueueWrite (.port n) w .read) s = exec (.rillQueueWrite (.port n) w .alone) (portRead s n)) ∧
      (∀ n : Fin 8, exec (.rillQueueWrite (.port n) w .flush) s = exec (.rillQueueWrite (.port n) w .alone) (portFlush s n))) ∧
  -- HOST_PORT_DATA_READ
  (∀ (s : State) (n : Fin 8),
      exec (.hostPortDataRead n) s = .next (portRead s n)) ∧
  -- HOST_PORT_FLUSH
  (∀ (s : State) (n : Fin 8),
      exec (.hostPortFlush n) s = .next (portFlush s n))

/-- PCIe link and configuration events complete: each clause gives the whole next state of one command, so what it does not change is unchanged.
Clauses that write out a choice or an inference of the model where the spec leaves a point open: CONFIG_REQUEST, AER_CORRECTABLE, LINK_UP
(log entry 125); MSIX_CONFIG_WRITE (log entry 6); PERST_ASSERT, HOT_RESET, FLR, LINK_DOWN, D3HOT_ENTRY (log entry 128); AER_FATAL (log
entries 125 and 128). -/
def Obligations.LinkComplete : Prop :=
  -- CONFIG_REQUEST
  (∀ (s : State) (off : Nat) (v : Word),
      (cfgReady s = true →
        exec (.configRequest { off := off }) s = .next (hostUpd s fun h => { h with retried := false, readData := cfgDword s off }) ∧
        exec (.configRequest { off := off, data := some v }) s =
          .next (cfgWrite (hostUpd s fun h => { h with retried := false }) off v.toNat)) ∧
      (cfgReady s = false → ∀ q, exec (.configRequest q) s = .next (hostUpd s fun h => { h with retried := true }))) ∧
  -- MSIX_CONFIG_WRITE
  (∀ (s : State) (en fm : Bool) (off : Nat) (v : Word),
      (cfgReady s = true → exec (.msixConfigWrite (.control en fm)) s = .next
        (flushMsix (hostUpd s fun h => { h with retried := false, msix := { h.msix with enable := en, fmask := fm } }))) ∧
      (cfgReady s = false → exec (.msixConfigWrite (.control en fm)) s = .next (hostUpd s fun h => { h with retried := true })) ∧
      exec (.msixConfigWrite (.table off v)) s = .next (flushMsix (hostUpd s fun h => { h with msix := msixTableWrite h.msix off v.toNat }))) ∧
  -- PERST_ASSERT
  (∀ (s : State) (low : Nat),
      let s1 := linkReset (linkLost (enterRecovery s (resetCauses s) [Reg.GLB_ERR_LINK_DOWN]))
      exec (.perstAssert low) s = .next (hostUpd s1 fun h => { h with link := { perst := false, perstRelease := s.el + low } })) ∧
  -- HOT_RESET
  (∀ (s : State),
      exec (.hotReset) s = .next (linkReset (linkLost (enterRecovery s (resetCauses s) [Reg.GLB_ERR_LINK_DOWN])))) ∧
  -- FLR
  (∀ (s : State),
      exec .flr s = .next (linkReset (enterRecovery s [Reg.HIF_RCV_CAUSE_RESET] [Reg.GLB_ERR_LINK_DOWN]))) ∧
  -- LINK_DOWN
  (∀ (s : State),
      exec (.linkDown) s = .next (linkLost (enterRecovery s [Reg.HIF_RCV_CAUSE_LINK_DOWN] [Reg.GLB_ERR_LINK_DOWN]))) ∧
  -- D3HOT_ENTRY
  (∀ (s : State),
      exec .d3hotEntry s = .next (linkUpd (enterRecovery s [Reg.HIF_RCV_CAUSE_D3HOT] [Reg.GLB_ERR_LINK_DOWN]) fun l => { l with d3hot := true })) ∧
  -- D3HOT_EXIT
  (∀ (s : State),
      exec .d3hotExit s = .next (linkUpd s fun l => { l with d3hot := false })) ∧
  -- AER_FATAL
  (∀ (s : State),
      let l := aerBits s true
      let a := s.host.link.aer
      let b := l.getD (Config.free s.freeN % l.length) 0
      let hdr := if a.unc = 0 then BitVec.ofNat 128 (Config.free (s.freeN + 1)) else a.hdr
      let s1 := linkUpd { s with freeN := s.freeN + 3 } fun k => { k with aer := { a with unc := Nat.lor a.unc (2 ^ b), hdr := hdr } }
      (l ≠ [] → bit a.sev b = true ∧
        exec .aerFatal s = .next (enterRecovery s1 [Reg.HIF_RCV_CAUSE_AER_FATAL] [Reg.GLB_ERR_AER_FATAL])) ∧
      (l = [] → exec .aerFatal s = .next s)) ∧
  -- AER_CORRECTABLE
  (∀ (s : State),
      let l := aerBits s false
      let a := s.host.link.aer
      let c := Config.free s.freeN % 32
      let b := l.getD (Config.free s.freeN % l.length) 0
      let hdr := if a.unc = 0 then BitVec.ofNat 128 (Config.free (s.freeN + 1)) else a.hdr
      let s1 : State := { s with freeN := s.freeN + 3 }
      let cor := linkUpd s1 fun k => { k with aer := { a with cor := Nat.lor a.cor (2 ^ c) } }
      let unc := linkUpd s1 fun k => { k with aer := { a with unc := Nat.lor a.unc (2 ^ b), hdr := hdr } }
      (l ≠ [] → bit a.sev b = false ∧
        exec .aerCorrectable s = .next (if Config.free (s.freeN + 2) % 2 = 0 then cor else unc)) ∧
      (l = [] → exec .aerCorrectable s = .next cor)) ∧
  -- LINK_UP
  (∀ (s : State) (width gen : Nat),
      exec (.linkUp width gen) s = .next (
        setFld (setFld (setFld s Reg.HIF_STAT_LINK_UP 1) Reg.HIF_STAT_WIDTH (min width (maxWidth s))) Reg.HIF_STAT_GEN
            (min gen (maxGen s))))

/-- Ring interface commands complete: recovery, enables, doorbells, fetches and entry writes: each clause gives the whole next state of one command, so what it does not change is unchanged.
Clauses that write out a choice or an inference of the model where the spec leaves a point open: HIF_ENABLE_WRITE, SQ_TAIL_DOORBELL,
CQ_HEAD_DOORBELL, EQ_HEAD_DOORBELL, COMPLETION_WRITE (log entry 15); RESUME (log entries 129, 130, 144 and 145). -/
def Obligations.InterfaceComplete : Prop :=
  -- RECOVERY_HALTED
  (∀ (s : State),
      hifState s = 2 →
      (allFetched s).isEmpty = true →
      exec .recoveryHalted s = .next (resumeCheck (setFld s Reg.HIF_STAT_STATE 3))) ∧
  -- HIF_ENABLE_WRITE
  (∀ (s : State),
      exec (.hifEnableWrite false) s = .next (drainCheck (setFld s Reg.HIF_CTRL_ENABLE 0)) ∧
      (flag s Reg.HIF_STAT_READY = true →
        let s1 := setFld s Reg.HIF_CTRL_ENABLE 1
        exec (.hifEnableWrite true) s = .next (resumeCheck (if hifState s1 = 0 then setFld s1 Reg.HIF_STAT_STATE 1 else s1)))) ∧
  -- RESUME
  (∀ (s : State),
      (hifState s = 2 ∨ hifState s = 3) →
      exec .resume s = .next (resumeCheck (setFld s Reg.HIF_RCV_CTRL_RESUME 1))) ∧
  -- RING_ENABLE
  (∀ (s : State) (v : Word),
      (∀ n : Fin 16, exec (.ringEnable (.sq n) v) s = .next (sqCfgWrite s n v.toNat)) ∧
      (∀ n : Fin 16, exec (.ringEnable (.cq n) v) s = .next (cqCfgWrite s n v.toNat)) ∧
      (∀ n : Fin 4, exec (.ringEnable (.eq n) v) s = .next (eqCfgWrite s n v.toNat))) ∧
  -- SQ_TAIL_DOORBELL
  (∀ (s : State) (n : Fin 16) (v : Word) (u : HostUpdate),
      let s1 := hostActs s u
      flag s1 (Reg.HIF_SQ_CFG_ENABLE n) = true →
      hifState s1 < 2 →
      v.toNat < sqSize s1 n →
      v.toNat < 65536 →
      exec (.sqTailDoorbell n v u) s = .next (setSq s1 n { sqAt s1 n with tail := v.toNat })) ∧
  -- CQ_HEAD_DOORBELL
  (∀ (s : State) (n : Fin 16) (v : Word),
      flag s (Reg.HIF_CQ_CFG_ENABLE n) = true →
      v.toNat < 65536 →
      headValid (cqSize s n) (cqAt s n).head (fld s (Reg.HIF_CQ_WR_INDEX n)) v.toNat = true →
      exec (.cqHeadDoorbell n v) s = .next (setCq s n { cqAt s n with head := v.toNat })) ∧
  -- EQ_HEAD_DOORBELL
  (∀ (s : State) (n : Fin 4) (v : Word),
      flag s (Reg.HIF_EQ_CFG_ENABLE n) = true →
      v.toNat < 65536 →
      headValid (eqSize s n) (eqAt s n).head (fld s (Reg.HIF_EQ_WR_INDEX n)) v.toNat = true →
      exec (.eqHeadDoorbell n v) s = .next (setEq s n { eqAt s n with head := v.toNat })) ∧
  -- DESCRIPTOR_FETCH
  (∀ (s : State) (n : Nat),
      nextSq s = some n →
      let head := fld s (Reg.HIF_SQ_HEAD_HEAD n)
      let a := sqBase s n + 64 * head
      memFails s a 64 = false →
      let b := memRead s a 64
      fieldLE b 0 2 ≠ 0 →
      fieldLE b 0 2 ≠ 0xFFFF →
      fieldLE b 4 1 % 4 ≠ 3 →
      let s1 := hostUpd s fun h => { h with
        attr := {}
        rrSq := n
        rrUsed := if n = h.rrSq ∧ h.rrUsed < 2 ^ fld s (Reg.HIF_SQ_CFG_WEIGHT n) then h.rrUsed + 1 else 1 }
      let c : Cmd := { seq := s.host.nextSeq, sq := n, bytes := b, epoch := epoch s }
      let s2 := hostUpd (setSq (setFld s1 (Reg.HIF_SQ_HEAD_HEAD n) ((head + 1) % sqSize s n)) n
          { sqAt s n with fetched := (sqAt s n).fetched ++ [c] }) fun h => { h with nextSeq := h.nextSeq + 1 }
      exec .descriptorFetch s = .next (settle (allFetched s2).length s2)) ∧
  -- COMPLETION_WRITE
  (∀ (s : State) (n : Fin 16) (h : Held) (r : List Held),
      (cqAt s n).held = h :: r →
      hifState s = 1 →
      cqFree s n = true →
      let i := fld s (Reg.HIF_CQ_WR_INDEX n)
      let ph := fld s (Reg.HIF_CQ_WR_PHASE n)
      let a := cqBase s n + 16 * i
      memFails s a 16 = false →
      let s1 := entryWrite s a (entryBytes h ph (fld s (Reg.HIF_SQ_HEAD_HEAD h.cmd.sq)))
      let i' := (i + 1) % cqSize s n
      let s2 := setFld (setFld s1 (Reg.HIF_CQ_WR_INDEX n) i') (Reg.HIF_CQ_WR_PHASE n) (if i' = 0 then 1 - ph else ph)
      let co := coalStep s (fld s (Reg.HIF_CQ_CFG_COAL_CNT n)) (cqAt s n).coal
      let s3 := setCq s2 n { cqAt s2 n with held := r, coal := co.1 }
      exec (.completionWrite n) s = .next (drainCheck (if co.2 then raiseVec s3 (fld s (Reg.HIF_CQ_CFG_VEC n)) else s3))) ∧
  -- EVENT_RECORD_WRITE
  (∀ (s : State) (n : Fin 4) (r : EvRec) (rest : List EvRec),
      (eqAt s n).pend = r :: rest →
      hifState s = 1 →
      eqFree s n = true →
      released s r = true →
      let i := fld s (Reg.HIF_EQ_WR_INDEX n)
      let ph := fld s (Reg.HIF_EQ_WR_PHASE n)
      let a := eqBase s n + 32 * i
      memFails s a 32 = false →
      let s1 := entryWrite s a (eventBytes r (eqAt s n).overflow ph)
      let i' := (i + 1) % eqSize s n
      let s2 := setFld (setFld s1 (Reg.HIF_EQ_WR_INDEX n) i') (Reg.HIF_EQ_WR_PHASE n) (if i' = 0 then 1 - ph else ph)
      let co := coalStep s (fld s (Reg.HIF_EQ_CFG_COAL_CNT n)) (eqAt s n).coal
      let s3 := setEq s2 n { eqAt s2 n with pend := rest, overflow := false, coal := co.1 }
      exec (.eventRecordWrite n) s = .next (if co.2 then raiseVec s3 (fld s (Reg.HIF_EQ_CFG_VEC n)) else s3)) ∧
  -- COALESCE_TIMEOUT
  (∀ (s : State),
      (∀ n : Fin 16, 0 < (cqAt s n).coal.count → 0 < fld s (Reg.HIF_CQ_CFG_COAL_CNT n) →
           passedUs s (cqAt s n).coal.since (8 * fld s (Reg.HIF_CQ_CFG_COAL_TIME n)) = true →
        exec (.coalesceTimeout (.cq n)) s =
          .next (raiseVec (setCq s n { cqAt s n with coal := {} }) (fld s (Reg.HIF_CQ_CFG_VEC n)))) ∧
      (∀ n : Fin 4, 0 < (eqAt s n).coal.count → 0 < fld s (Reg.HIF_EQ_CFG_COAL_CNT n) →
           passedUs s (eqAt s n).coal.since (8 * fld s (Reg.HIF_EQ_CFG_COAL_TIME n)) = true →
        exec (.coalesceTimeout (.eq n)) s =
          .next (raiseVec (setEq s n { eqAt s n with coal := {} }) (fld s (Reg.HIF_EQ_CFG_VEC n)))))

/-- Admin ring commands complete: each clause gives the whole next state of one command, so what it does not change is unchanged.
Clauses that write out a choice or an inference of the model where the spec leaves a point open: IDENTIFY (log entry 126); MODULE_RESET
(log entries 18, 115 and 142). The checks of BAD_FIELD are choices too (log entry 14). -/
def Obligations.AdminComplete : Prop :=
  -- NOP
  (∀ (s : State) (sq : Fin 16) (c : Cmd), Ready s sq 0x0100 c →
      Clean (opChks c [(16, 8)] []) →
      exec (.nop sq) s = .next (complete s c (ansDone (c.op 16 8)))) ∧
  -- IDENTIFY
  (∀ (s : State) (sq : Fin 16) (c : Cmd), Ready s sq 0x0101 c →
      Clean (opChks c [] [(1, 512)]) →
      Reachable s c 0 →
      let s1 := memWrite s (c.bufAddr 0) (List.take (c.bufLen 0) (identifyPage s))
      exec (.identify sq) s = .next (complete s1 c (ansDone 512))) ∧
  -- EVENT_ROUTE
  (∀ (s : State) (sq : Fin 16) (c : Cmd), Ready s sq 0x0102 c →
      let g := c.op 16 1
      let v := c.op 17 1
      Clean (opChks c [(16, 2)] [] ++ [rangeChk (decide (g < 1 ∨ 0x10 < g)) 16, rsvChk (decide (bits v 6 2 ≠ 0)) 17]) →
      exec (.eventRoute sq) s = .next (complete ({ s with host := { s.host with routes := s.host.routes.set g { eq := v % 4, enable := bit v 7 } {} } }) c ansDone)) ∧
  -- INTENT_FORGET
  (∀ (s : State) (sq : Fin 16) (c : Cmd), Ready s sq 0x0103 c →
      let v := c.op 16 1
      let n := v % 16
      Clean (opChks c [(16, 1)] [] ++ [rsvChk (decide (15 < v)) 16]) →
      ((sqAt s n).fetched.any fun x => x.seq ≠ c.seq) = false →
      let q := sqAt s n
      exec (.intentForget sq) s = .next (complete (setSq s n { q with window := [] }) c (ansDone q.window.length))) ∧
  -- STATS_READ
  (∀ (s : State) (sq : Fin 16) (c : Cmd), Ready s sq 0x0104 c →
      Clean (opChks c [] [(1, 256)]) →
      Reachable s c 0 →
      let s1 := memWrite s (c.bufAddr 0) (List.take (c.bufLen 0) (statsPage s))
      exec (.statsRead sq) s = .next (complete s1 c (ansDone 256))) ∧
  -- MODULE_RESET
  (∀ (s : State) (sq : Fin 16) (c : Cmd) (b : Boot), Ready s sq 0x0105 c →
      Clean (opChks c [(16, 4)] [] ++ [rangeChk (decide (c.op 16 4 ≠ 0xD2640A5E)) 16]) →
      s.host.resetFor = none →
      committing s = false →
      (cqFree s (fld s (Reg.HIF_SQ_CFG_CQ c.sq)) = true ∨ c.noCompletion = true) →
      let t := flushHeld (complete s c ansDone)
      (entryPending t c.seq = false → committing t = false → exec (.moduleReset sq b) s = .next (modReset t b 5 false)) ∧
      ((entryPending t c.seq = true ∨ committing t = true) → exec (.moduleReset sq b) s = .next (hostUpd t fun h => { h with resetFor := some c.seq })))

/-- Time ring and register commands complete: each clause gives the whole next state of one command, so what it does not change is unchanged.
Clauses that write out a choice or an inference of the model where the spec leaves a point open: LEAP_SCHEDULE (log entry 24);
TIM_SRC_WRITE (log entries 24 and 133); STEP_BOUNDARY (log entry 22). The checks of BAD_FIELD are choices too (log entry 14). -/
def Obligations.TimeCommandComplete : Prop :=
  -- TIME_SET
  (∀ (s : State) (sq : Fin 16) (c : Cmd), Ready s sq 0x0200 c →
      Clean (opChks c [(16, 8)] [] ++ [dtChk c 16]) →
      qual s ≠ 4 →
      exec (.timeSet sq) s = .next (markStarted (timeUpd s fun t => { t with ringSteps := t.ringSteps ++ [{ cmdSeq := c.seq, adjust := false, value := c.op 16 8 }] }) c)) ∧
  -- TIME_ADJUST
  (∀ (s : State) (sq : Fin 16) (c : Cmd), Ready s sq 0x0201 c →
      let off := toSigned 64 (c.op 16 8)
      Clean (opChks c [(16, 8)] [] ++ [rangeChk (adjusted s off).isNone 16]) →
      qual s ≠ 4 →
      exec (.timeAdjust sq) s = .next (markStarted (timeUpd s fun t => { t with ringSteps := t.ringSteps ++ [{ cmdSeq := c.seq, adjust := true, value := off }] }) c)) ∧
  -- LEAP_SCHEDULE
  (∀ (s : State) (sq : Fin 16) (c : Cmd), Ready s sq 0x0202 c →
      let day := bits (c.op 16 4) 16 0
      let kind := c.op 20 1
      let l : Leap := { insert := kind = 1, day := day }
      Clean (opChks c [(16, 5)] [] ++
        [rangeChk (!lastOfMonth day) 16, rsvChk (decide (bits (c.op 16 4) 31 17 ≠ 0)) (if bits (c.op 16 4) 23 17 ≠ 0 then 18 else 19),
         rangeChk (decide (2 < kind)) 20]) →
      s.time.leap.isSome = false →
      ¬ (kind ≠ 0 ∧ leapStart l ≤ s.dt) →
      let s1 := setFlag (setFlag s Reg.TIM_LEAP_INSERT (decide (kind = 1))) Reg.TIM_LEAP_DELETE (decide (kind = 2))
      exec (.leapSchedule sq) s = .next (complete (leapConflict (if kind = 0 then s1 else setFld s1 Reg.TIM_LEAP_DAY day)) c ansDone)) ∧
  -- LOCAL_RULE_SET
  (∀ (s : State) (sq : Fin 16) (c : Cmd), Ready s sq 0x0203 c →
      let ofs := toSigned 16 (c.op 16 2)
      Clean (opChks c [(16, 3), (20, 8)] [] ++
        [rangeChk (decide (ofs < -1080 ∨ 1080 < ofs)) 16, rangeChk (decide (120 < c.op 18 1)) 18] ++ ruleChks c 20 ++ ruleChks c 24) →
      exec (.localRuleSet sq) s = .next (markStarted (timeUpd s fun t => { t with rules := t.rules ++
        [{ cmdSeq := c.seq, ofs := c.op 16 2 + 65536 * c.op 18 1, start := c.op 20 4, stop := c.op 24 4 }] }) c)) ∧
  -- TIM_SRC_WRITE
  (∀ (s : State) (v : Word),
      exec (.timSrcWrite v) s = .next (timCtrlWrite s v.toNat)) ∧
  -- TIM_SEC_LO_READ
  (∀ (s : State),
      let s1 := setFld (setFld s Reg.TIM_SEC_HI_SEC (dtSec s.dt / 2 ^ 32)) Reg.TIM_FRAC_FRAC (dtFrac s.dt)
      exec .timSecLoRead s = .next { s1 with host := { s1.host with readData := dtSec s.dt % 2 ^ 32 } }) ∧
  -- TIM_CAL_DATE_READ
  (∀ (s : State),
      let s1 := latchCal s
      exec .timCalDateRead s = .next { s1 with host := { s1.host with readData := calDateWord s } }) ∧
  -- CALENDAR_STAGE_WRITE
  (∀ (s : State) (time : Bool) (v : Word),
      setBusy s = false →
      let c := s.time.staged.getD (nowCal s)
      let c' := if time then { c with hour := bits v.toNat 20 16, min := bits v.toNat 13 8, sec := bits v.toNat 5 0 }
        else { c with year := bits v.toNat 27 16, month := bits v.toNat 11 8, day := bits v.toNat 4 0 }
      exec (.calendarStageWrite time v) s = .next (timeUpd s fun t => { t with staged := some c' })) ∧
  -- TIM_COMMIT_SET
  (∀ (s : State),
      setBusy s = false →
      exec .timCommitSet s = .next (timeUpd (setFld s Reg.TIM_COMMIT_PENDING 1) fun t => { t with commitMode := 1 })) ∧
  -- TIM_COMMIT_CALENDAR
  (∀ (s : State),
      setBusy s = false →
      exec .timCommitCalendar s = .next (timeUpd (setFld s Reg.TIM_COMMIT_PENDING 1) fun t => { t with commitMode := 2 })) ∧
  -- TIM_COMMIT_DISCARD
  (∀ (s : State),
      setBusy s = false →
      exec .timCommitDiscard s = .next (timeUpd (setFld s Reg.TIM_COMMIT_PENDING 1) fun t => { t with commitMode := 7 })) ∧
  -- STEP_BOUNDARY
  (∀ (s : State),
      running s = true →
      s.time.boundary ≠ s.el + 1 →
      let s0 := timeUpd s fun t => { t with boundary := s.el + 1 }
      let r := if s0.time.commitMode = 0 then (s0, false) else regCommit s0
      let s2 := if r.2 = true then r.1 else
        match r.1.time.ringSteps with
        | x :: _ => ringStep r.1 x
        | [] => servoJump r.1
      exec .stepBoundary s = .next (applyRules s2))

/-- Time events complete: sources, leaps, alarms and wakes: each clause gives the whole next state of one command, so what it does not change is unchanged.
Clauses that write out a choice or an inference of the model where the spec leaves a point open: PTP_SYNC (log entries 21, 24, 131, 136
and 146); PPS_IN_EDGE (log entries 21 and 131); PTP_SOURCE_LOST (log entry 136); LEAP_SLEW_START (log entries 24 and 147); LEAP (log entry
132); PPS_OUT_PULSE (log entries 26 and 148); ALARM_ARM (log entry 26). -/
def Obligations.TimeEventComplete : Prop :=
  -- PTP_SYNC
  (∀ (s : State) (port : Fin 4) (m : SyncMsg) (leap : Option LeapNotice),
      syncTaken s port.val m = true →
      let l : Option Leap := leap.map fun n => { insert := n.insert, day := n.day }
      let s1 := timeUpd s fun t => { t with lastSync := s.el, ptpLost := false, onAlt := t.onAlt && flag s Reg.FED_CTRL_ALT_EN, ptpLeap := l }
      let s2 := if (hostLeap s1).isSome ∧ l.isSome ∧ hostLeap s1 ≠ l then setErr s1 Reg.TIM_ERR_LEAP_CONFLICT else s1
      exec (.ptpSync port m leap) s = .next
        (if timSrc s = 2 ∧ (syncOffset m).natAbs * 65536 < fld s Reg.TIM_SERVO_STEP_THR * 1000000000 then s2
         else Sys2Proof.Machine.measure s2 (syncOffset m))) ∧
  -- PPS_IN_EDGE
  (∀ (s : State) (ns : Int) (rising : Bool),
      (timSrc s = 2 ∨ timSrc s = 3) →
      ns.natAbs ≤ 100000000 →
      rising = !flag s Reg.TIM_CTRL_PPS_IN_EDGE →
      exec (.ppsInEdge { ns := ns, rising := rising }) s = .next (Sys2Proof.Machine.measure
        (timeUpd s fun t => { t with ppsMissing := 0, ppsLost := false, ppsLastSec := (s.dt + 32768) / 65536 }) (-(ns / 8 * 8)))) ∧
  -- PTP_SOURCE_LOST
  (∀ (s : State),
      (timSrc s = 1 ∨ timSrc s = 2) →
      s.time.ptpLost = false →
      passedSec s s.time.lastSync 4 = true →
      exec .ptpSourceLost s = .next
        (sourceLost (timeUpd s fun t => { t with ptpLost := true, onAlt := true }))) ∧
  -- PPS_WINDOW_CLOSE
  (∀ (s : State),
      (timSrc s = 2 ∨ timSrc s = 3) →
      65536 ≤ s.dt * 10 →
      let k := lastWindow s.dt
      s.time.ppsLastSec < k →
      let m := s.time.ppsMissing + 1
      let s1 := timeUpd s fun t => { t with ppsMissing := m, ppsLastSec := k }
      exec .ppsWindowClose s = .next
        (if 3 ≤ m ∧ s.time.ppsLost = false then sourceLost (timeUpd s1 fun t => { t with ppsLost := true }) else s1)) ∧
  -- HOLDOVER_EXPIRY
  (∀ (s : State) (t : Nat),
      s.time.leftLocked = some t →
      qual s = 3 →
      passedSec s t 2000 = true →
      exec .holdoverExpiry s = .next (setQual s 2 none)) ∧
  -- LEAP_SLEW_START
  (∀ (s : State) (l : Leap),
      leapPlan s = some l →
      s.time.leap = none →
      lastOfMonth l.day = true →
      leapStart l ≤ s.dt →
      s.dt < leapEnd l →
      exec .leapSlewStart s = .next (timeUpd (setFld s Reg.TIM_LEAP_ACTIVE 1) fun t => { t with leap := some l, leapAcc := 0 })) ∧
  -- LEAP
  (∀ (s : State) (l : Leap),
      s.time.leap = some l →
      leapEnd l ≤ s.dt →
      exec .leap s = .next (emit (timeUpd (setFld s Reg.TIM_LEAP_ACTIVE 0) fun t => { t with leap := none, leapAcc := 0 }) 0x0203
        (leBytes 1 (if l.insert then 1 else 2) ++ [0, 0, 0] ++ leBytes 4 l.day))) ∧
  -- PPS_OUT_PULSE
  (∀ (s : State),
      let t := s.time
      (t.ppsOut = true → passedMs s t.ppsRise (ppsWidth s) = true →
        exec .ppsOutPulse s = .next (drivePad (timeUpd s fun t => { t with ppsOut := false }) .ppsOut 0)) ∧
      (t.ppsOut = false → flag s Reg.TIM_CTRL_PPS_OUT_EN = true → atSecond s = true → t.ppsAt ≠ some (nowAt s) →
        exec .ppsOutPulse s = .next
          (drivePad (timeUpd s fun t => { t with ppsOut := true, ppsRise := s.el, ppsAt := some (nowAt s) }) .ppsOut 1))) ∧
  -- ALARM_ARM
  (∀ (s : State) (n : Fin 8),
      let past := decide (alarmValue s n ≤ s.dt)
      let s1 := setFlag (setFld s (Reg.TIM_ALM_CTRL_ARMED n) 1) (Reg.TIM_ALM_CTRL_PAST n) past
      let s2 := if flag s (Reg.TIM_ALM_CTRL_ARMED n) then s1 else timeUpd s1 fun t => { t with almSeen := t.almSeen.set n s.dt 0 }
      exec (.alarmArm n) s = .next (if past then setErr s2 Reg.TIM_ERR_ALM_PAST else s2)) ∧
  -- ALARM
  (∀ (s : State) (n : Fin 8),
      alarmDue s n = true →
      exec (.alarm n) s = .next (fireAlarm s n false none)) ∧
  -- WAKE_ENABLE
  (∀ (s : State) (n : Fin 4),
      flag s (Reg.TIM_WAKE_CTRL_EN n) = false →
      exec (.wakeEnable n) s = .next (timeUpd (setFld (setFld s (Reg.TIM_WAKE_CTRL_EN n) 1) (Reg.TIM_WAKE_CTRL_COUNT n) 0)
        fun t => { t with wakes := t.wakes.set n { last := s.el, period := fld s (Reg.TIM_WAKE_PERIOD_PERIOD n) } {} })) ∧
  -- WAKE
  (∀ (s : State) (n : Fin 4),
      let w := s.time.wakes.get n {}
      flag s (Reg.TIM_WAKE_CTRL_EN n) = true →
      w.last + w.period * 64 ≤ s.el →
      let c := (fld s (Reg.TIM_WAKE_CTRL_COUNT n) + 1) % 65536
      let s1 := timeUpd (setFld s (Reg.TIM_WAKE_CTRL_COUNT n) c) fun t => { t with
        wakes := t.wakes.set n { last := w.last + w.period * 64, period := fld s (Reg.TIM_WAKE_PERIOD_PERIOD n) } {} }
      exec (.wake n) s = .next (emit s1 0x0204 (leBytes 1 n ++ [0, 0, 0] ++ leBytes 2 c)))

/-- Radio ring commands complete: each clause gives the whole next state of one command, so what it does not change is unchanged.
Clauses that write out a choice or an inference of the model where the spec leaves a point open: RADIO_PROFILE_LOAD (log entry 151);
PROFILE_SELECT (log entries 150 and 151); TX_TEST (log entries 34, 37, 138 and 149). The checks of BAD_FIELD are choices too (log entry
14). -/
def Obligations.RadioRingComplete : Prop :=
  -- RADIO_PROFILE_LOAD
  (∀ (s : State) (sq : Fin 16) (c : Cmd), Ready s sq 0x0300 c →
      Clean (opChks c [] [(0, 16)]) →
      Reachable s c 0 →
      let b := memRead s (c.bufAddr 0) (c.bufLen 0)
      let n := fieldLE b 0 1
      Clean [⟨decide (1 ≤ n ∧ n ≤ 16 ∧ c.bufLen 0 < 16 + 16 * n), 40, 0x04⟩] →
      let subs := (List.range (min n 16)).map fun i => subBandOf b (16 * (i + 1))
      Clean ([rangeChk (decide (n < 1 ∨ 16 < n)) 0, rangeChk (decide (80 < fieldLE b 1 1)) 1] ++
        (match firstNonZero b 2 14 with | some o => [rsvChk true o] | none => []) ++
        (List.range (min n 16)).flatMap fun i => subBandChks b i (subs.take i)) →
      (decide (fld s Reg.RAD_STAT_PROFILE = 2) && (flag s Reg.RAD_CTRL_TXA_EN || flag s Reg.RAD_CTRL_TXB_EN)) = false →
      exec (.radioProfileLoad sq) s = .next (completeConfig (setFld (radUpd s fun r => { r with custom := { minHop := fieldLE b 1 1, subs := subs }, customLoaded := true }) Reg.RAD_STAT_CUSTOM_VALID 1) c ansDone)) ∧
  -- PROFILE_SELECT
  (∀ (s : State) (sq : Fin 16) (c : Cmd), Ready s sq 0x0301 c →
      let p := c.op 16 1
      Clean (opChks c [(16, 1)] [] ++ [rangeChk (decide (2 < p)) 16]) →
      (flag s Reg.RAD_CTRL_TXA_EN || flag s Reg.RAD_CTRL_TXB_EN) = false →
      (decide (p = 2) && !s.rad.customLoaded) = false →
      exec (.profileSelect sq) s = .next (completeConfig (setFld (radUpd s fun r => { r with ckProfile := p }) Reg.RAD_STAT_PROFILE p) c ansDone)) ∧
  -- TX_TEST
  (∀ (s : State) (sq : Fin 16) (c : Cmd), Ready s sq 0x0302 c →
      let n := c.op 16 1
      let mode := c.op 18 1
      let ch := c.op 20 2
      let pwr := toSigned 8 (c.op 22 1)
      let ms := c.op 24 4
      Clean (opChks c [(16, 3), (20, 3), (24, 4)] [] ++
        [rangeChk (decide (1 < n)) 16, rangeChk (decide (1 < c.op 17 1)) 17, rangeChk (decide (2 < mode)) 18,
         rangeChk (decide (79 < ch ∨ (mode = 2 ∧ ch % 2 = 1))) 20, rangeChk (decide (pwr < -40 ∨ 108 < pwr)) 22,
         rangeChk (decide (ms < 1 ∨ 60000 < ms)) 24]) →
      flag s (if n = 0 then Reg.RAD_CTRL_TXA_EN else Reg.RAD_CTRL_TXB_EN) = false →
      (chainAt s n).busy = false →
      let form : AirForm := { mode := mode, fcs := 0, test := some (c.op 17 1) }
      ∀ i x, txAdmit s n ch (mode = 2) .test (ms * 1000) = .ok (i, x) →
      exec (.txTest sq) s = .next (complete (send (chargeTx s n ch (mode = 2) (ms * 1000) i x (some c.ref))
        (.air n ch form (padPower s n pwr x) [])) c ansQueued)) ∧
  -- RX_SURVEY
  (∀ (s : State) (sq : Fin 16) (c : Cmd), Ready s sq 0x0303 c →
      let ms := c.op 16 4
      Clean (opChks c [(16, 4)] [(1, 640)] ++ [rangeChk (decide (ms < 10 ∨ 10000 < ms)) 16]) →
      flag s Reg.RAD_CTRL_RX_EN = true →
      s.rad.survey.isSome = false →
      exec (.rxSurvey sq) s = .next (complete (radUpd s fun r => { r with survey := some { ref := c.ref, addr := c.bufAddr 0, len := c.bufLen 0, start := s.el, ms := ms } }) c ansQueued))

/-- Radio events complete: detection, demodulation, transmission and airtime: each clause gives the whole next state of one command, so what it does not change is unchanged.
Clauses that write out a choice or an inference of the model where the spec leaves a point open: TX_TEST_DONE, TX_END (log entry 33);
DETECTION (log entries 33 and 37); DEMOD_ASSIGN (log entries 33, 137 and 158); DEMOD_RELEASE (log entry 37); RF24_FRAME_RX (log entries 37
and 39); TX_START (log entries 37 and 38); DUTY_BUCKET_CLOSE (log entry 35). -/
def Obligations.RadioEventComplete : Prop :=
  -- TX_TEST_DONE
  (∀ (s : State) (n : Fin 2) (r : CmdRef),
      let c := chainAt s n
      c.test = some r →
      c.busy = true →
      passedUs s c.start c.airtime = true →
      exec (.txTestDone n) s = .next
        (flkShed (emitOutcome (endTx s n) 0x0300 (leBytes 1 n ++ [0, 0, 0] ++ leBytes 4 c.airtime) (some r) 0))) ∧
  -- SURVEY_DONE
  (∀ (s : State) (v : List (BitVec 16)) (q : Survey),
      s.rad.survey = some q →
      passedMs s q.start q.ms = true →
      let s1 := radUpd s fun r => { r with survey := none }
      let b := padTo 640 (v.flatMap fun x => leBytes 2 x.toNat)
      memFails s1 q.addr 640 = false →
      exec (.surveyDone v) s = .next (emitOutcome (memWrite s1 q.addr b) 0x0301 (leBytes 2 640) (some q.ref) 0)) ∧
  -- DETECTION
  (∀ (s : State) (d : Signal) (a : Nat),
      let c : Nat := d.ch
      (detectorRuns s c && (paired s c == decide (d.mode.val = 2)) && !suppressed s c &&
        decide (fld s Reg.RAD_DET_MIN_PRE ≤ d.octets ∧ fld s Reg.RAD_DET_THR ≤ d.overDb)) = true →
      divAnt s { d with antA := d.antA && pathOn s 0, antB := d.antB && pathOn s 1 } = some a →
      exec (.detection d) s = .next (radUpd (count1 s (Reg.RAD_CNT_COUNT 0)) fun r => { r with
        waiting := r.waiting ++ [{ ch := c, ant := a, rssi := d.rssi, at' := s.el, inGrid := inGridNow s c }] })) ∧
  -- DEMOD_ASSIGN
  (∀ (s : State) (d : Det),
      poolRuns s = true →
      s.rad.demods.length < fld s Reg.RAD_STAT_DEMODS →
      topDet s (s.rad.waiting.filter fun d => !passedMs s d.at' 1) = some d →
      exec .demodAssign s = .next (setDemods (radUpd s fun r => { r with waiting := removeOne d r.waiting })
        (s.rad.demods ++ [{ ch := d.ch, ant := d.ant, at' := d.at', lane := idleLane s }]))) ∧
  -- DETECTION_DROP
  (∀ (s : State),
      let k := (s.rad.waiting.filter fun d => passedMs s d.at' 1).length
      k ≠ 0 →
      exec .detectionDrop s = .next
        (setErr (countBy (radUpd s fun r => { r with waiting := r.waiting.filter fun d => !passedMs s d.at' 1 })
          (Reg.RAD_CNT_COUNT 4) k) Reg.RAD_ERR_OVERLOAD)) ∧
  -- NO_SFD
  (∀ (s : State) (c : Fin 80) (d : Demod),
      (s.rad.demods.find? fun d => decide (d.ch = c.val) && passedMs s d.at' 2) = some d →
      exec (.noSfd c) s = .next (count1 (release s d) (Reg.RAD_CNT_COUNT 3))) ∧
  -- DEMOD_RELEASE
  (∀ (s : State) (c : Fin 80) (e : FrameEnd) (d : Demod),
      poolRuns s = true →
      (s.rad.demods.find? fun d => decide (d.ch = c.val)) = some d →
      decide (e.mode.val = 2) = paired s c →
      e.modeSwitch = false →
      3 ≤ e.psdu.length →
      e.psdu.length ≤ 2047 →
      e.fcsOk = true →
      exec (.demodRelease c e) s = .next (deliver (count1 (release s d) (Reg.RAD_CNT_COUNT 1))
        { bytes := e.psdu.take (e.psdu.length - if e.fcs4 then 4 else 2), ch := c, mode := e.mode, ant := d.ant, fec := e.fec,
          rssi := e.rssi, t25 := dt25 s.dt - e.sfdAgo } e.psdu.length)) ∧
  -- RF24_FRAME_RX
  (∀ (s : State) (e : FrameEnd),
      (flag s Reg.RAD_CTRL_RF24_EN && !radioBarred s &&
        decide (domState s 7 = 2 ∧ 3 ≤ e.psdu.length ∧ e.psdu.length ≤ 127) && e.fcsOk) = true →
      exec (.rf24FrameRx e) s = .next (deliver s
        { bytes := e.psdu.take (e.psdu.length - 2), ch := fld s Reg.MAC_T1_CHANNEL, mode := 3, ant := 3, fec := none,
          rssi := e.rssi, t25 := dt25 s.dt - e.sfdAgo } e.psdu.length)) ∧
  -- TX_START
  (∀ (s : State) (n : Fin 2) (r : AirFrame),
      (chainAt s n).busy = false →
      exec (.txStart n r) s = .next (txStart s n r.power
        { ch := r.ch, wide := r.mode = 2, mode := r.mode, fec := r.fec, pre := fld s Reg.RAD_DET_TX_PRE,
          fcs := if r.fcs4 then 4 else 2, whiten := r.whiten, bytes := r.bytes }).1) ∧
  -- TX_END
  (∀ (s : State) (n : Fin 2),
      let c := chainAt s n
      c.busy = true →
      c.test = none →
      passedUs s c.start c.airtime = true →
      exec (.txEnd n) s = .next (flkShed (endTx s n))) ∧
  -- DUTY_BUCKET_CLOSE
  (∀ (s : State),
      domState s 2 = 2 →
      passedSec s s.rad.bucketStart 100 = true →
      exec .dutyBucketClose s = .next (closeBuckets s))

/-- Tamin frame events complete: each clause gives the whole next state of one command, so what it does not change is unchanged.
Clauses that write out a choice or an inference of the model where the spec leaves a point open: JOIN_REQ (log entries 44 and 47);
DATA_UP, RELAY_UP (log entries 43 and 47); RESP (log entry 46); T1_POLL (log entries 41, 43 and 46); DEDICATED_DOWNLINK (log entries 46
and 47); JOIN_ACCEPT (log entries 45, 47 and 98); JOIN_FAILED (log entry 44); ENDPOINT_LOST (log entry 47). -/
def Obligations.TaminFrameComplete : Prop :=
  -- JOIN_REQ
  (∀ (s : State) (x : RxFrame) (h : UpHead),
      (s.rad.rxq.find? fun x => x.ftype = 1) = some x →
      let s1 := radUpd s fun r => { r with rxq := removeOne x r.rxq }
      hears s1 = true →
      upHead x.bytes = some h →
      headOk s1 h (some x.mode) = true →
      exec .joinReq s = .next (if role s1 = 3 then s1 else joinReq s1 x h none)) ∧
  -- DATA_UP
  (∀ (s : State) (x : RxFrame) (h : UpHead),
      (s.rad.rxq.find? fun x => decide (x.ftype ≠ 1 ∧ x.ftype ≠ 2)) = some x →
      let s1 := radUpd s fun r => { r with rxq := removeOne x r.rxq }
      hears s1 = true →
      upHead x.bytes = some h →
      headOk s1 h (some x.mode) = true →
      exec .dataUp s = .next (directUp s1 x h)) ∧
  -- RELAY_UP
  (∀ (s : State) (x : RxFrame) (h : UpHead),
      (s.rad.rxq.find? fun x => x.ftype = 2) = some x →
      let s1 := radUpd s fun r => { r with rxq := removeOne x r.rxq }
      hears s1 = true →
      upHead x.bytes = some h →
      headOk s1 h (some x.mode) = true →
      exec .relayUp s = .next (directUp s1 x h)) ∧
  -- RESP
  (∀ (s : State) (r : RespPend),
      (s.mac.resps.find? fun r => decide (r.at' ≤ dt25 s.dt)) = some r →
      exec .resp s = .next (sendResp (macUpd s fun m => { m with resps := removeOne r m.resps }) r)) ∧
  -- T1_POLL
  (∀ (s : State) (n v : Nat),
      rf24On s = true →
      flag s Reg.MAC_CTRL_T1_EN = true →
      pollDue s = some (n, v) →
      let s0 := if (connDue s n (curSp s)).isNone then updEnt s n fun e => { e with lastSp := curSp s % 2 ^ 32, lastEvt := v } else s
      let s1 := prepare (failItems (setEp s0 n { epAt s0 n with listenSp := curSp s }) n) n
      let stat := statusElem s1 n
      let items := (takeElems (fun k => decide (k + dlOver + 2 ≤ 127) && served s n) stat.length (epAt s1 n).dlq).1
      let s2 := sendRf24 s1 (dlFrame s1 n 5 (stat ++ items.flatMap fun i => elem i.type i.val))
      exec .t1Poll s = .next (statusSent (takeDl (markSent s2 n items.length) n) n)) ∧
  -- DEDICATED_DOWNLINK
  (∀ (s : State) (p : DlPlan),
      let gen (p : DlPlan) : Nat := (entAt s p.eph).gen
      (s.mac.plans.find? fun p => slotStarts s (gen p) p.ch p.sp || slotPassed s (gen p) p.ch p.sp) = some p →
      slotPassed s (gen p) p.ch p.sp = false →
      mayUnicast s p.eph = true →
      onAir s = true →
      let st := decide (gen p = 2) && (statusFlags s p.eph != 0)
      exec .dedicatedDownlink s = .next
        (sendWaiting (macUpd s fun m => { m with plans := removeOne p m.plans }) p.eph p.ch p.mode st)) ∧
  -- JOIN_ACCEPT
  (∀ (s : State) (n : Nat) (j : JoinPlan),
      let gen (n : Nat) : Nat := (entAt s n).gen
      ((joinList s).find? fun x => !x.2.sent && (slotStarts s (gen x.1) x.2.ch x.2.sp || slotPassed s (gen x.1) x.2.ch x.2.sp)) = some (n, j) →
      slotPassed s (gen n) j.ch j.sp = false →
      onAir s = true →
      ctrLeft s n = true →
      j.mode ≠ 3 →
      let s1 := macUpd s fun m => { m with joins := m.joins.set n (some { j with sent := true }) none }
      let r := sendDedicated (useMaster s1) j.ch j.mode (dlFrame s1 n 5 (joinElem s1 n j))
      exec .joinAccept s = .next (if r.2 then takeDl r.1 n else r.1)) ∧
  -- JOIN_FAILED
  (∀ (s : State) (n : Nat) (j : JoinPlan),
      ((joinList s).find? fun x => decide (((entAt s x.1).state = 2 ∨ (entAt s x.1).state = 6) ∧ x.2.anchor + 3 * (entAt s x.1).p + 1 < curSp s)) = some (n, j) →
      let e := entAt s n
      let s1 := dropJoin s n
      let s2 := if j.former = 0 then freeEnt s1 n else setEnt s1 n { e with state := j.former }
      exec .joinFailed s = .next (emit s2 0x0409 (leBytes 3 n ++ leBytes 1 j.former ++ List.replicate 4 0 ++ leBytes 8 e.eui))) ∧
  -- ENDPOINT_LOST
  (∀ (s : State),
      let now := dtSec s.dt
      s.mac.supSec ≠ now →
      onAir s = true →
      exec .endpointLost s = .next (s.mac.fold.foldl (fun s x =>
        let e := entAt s x.1
        if (e.state = 2 ∨ e.state = 3 ∨ e.state = 6) ∧ e.superv ≤ 2 * ((now + 2 ^ 32 - e.lastRx % 2 ^ 32) % 2 ^ 32) then becomeLost s x.1
        else s) (macUpd s fun m => { m with supSec := now })))

/-- Tamin broadcast events complete: each clause gives the whole next state of one command, so what it does not change is unchanged.
Clauses that write out a choice or an inference of the model where the spec leaves a point open: ROOSTER (log entries 42, 45 and 154);
ACK_AGG (log entries 47, 54 and 154); MAP (log entries 54 and 154); FOLD_CHECKPOINT (log entry 49). -/
def Obligations.TaminBroadcastComplete : Prop :=
  -- ROOSTER
  (∀ (s : State),
      let t := dtSec s.dt
      beaconDue s = true →
      slotStarts s 3 (t % 8) (80 * t) = true →
      let s0 := planWins (macUpd s fun m => { m with beaconSec := some t }) (80 * t)
      let frame := bcFrame s0 7 (anyRelayed s fun _ _ => true) (roosterPayload s0 t)
      let tryOn (s : State) (c : Nat) : State × Bool := if chainFree s c then sendOn s c (beaconCh s (t % 8)) 1 frame else (s, false)
      let sent (s : State) : State := takeBcnt (takeAcks s 16).2
      let a := tryOn s0 0
      let b := tryOn a.1 1
      exec .rooster s = .next (if a.2 then sent a.1 else if b.2 then sent b.1
        else count1 (macUpd b.1 fun m => { m with wins := s.mac.wins }) (Reg.MAC_CNT_COUNT 15))) ∧
  -- ACK_AGG
  (∀ (s s1 : State) (w : Win),
      s.mac.acks.isEmpty = false →
      onAir s = true →
      chainLeft s 2 = true →
      takeWin s 2 (fun _ => true) = (s1, some w) →
      let n := ackRoom s1 w.mode
      let b := (takeAcks s1 n).1
      let r := sendBroadcast s1 11 w.ch w.mode (anyRelayed s1 fun i _ => (s1.mac.acks.take n).contains i) (leBytes 1 (b.length / 3) ++ b)
      exec .ackAgg s = .next (if r.2 then (takeAcks r.1 n).2 else r.1)) ∧
  -- MAP
  (∀ (s s1 : State) (w : Win) (p : MapPend),
      chainLeft s 2 = true →
      takeWin s 4 (fun _ => true) = (s1, some w) →
      (s1.mac.mapPend.find? fun p => p.index = w.id) = some p →
      let r := sendBroadcast s1 12 w.ch w.mode (anyRelayed s1 fun _ e => e.mapIdx = p.index)
        (leBytes 1 p.index ++ [0] ++ leBytes 2 (fld s Reg.MAC_GRID_MAP_VER) ++ leBytes 8 p.actDt ++ leBytes 10 p.map)
      exec .map s = .next
        (if r.2 then macUpd r.1 fun m => { m with mapPend := m.mapPend.map fun q => if q = p then { q with sent := q.sent + 1 } else q }
         else r.1)) ∧
  -- MAP_ACTIVE
  (∀ (s : State) (p : MapPend),
      (s.mac.mapPend.find? fun p => decide (p.actDt ≤ s.dt)) = some p →
      let v := (fld s Reg.MAC_GRID_MAP_VER + 1) % 65536
      let s1 := macUpd s fun m => { m with
        mapPend := removeOne p m.mapPend
        oldMaps := m.oldMaps.upd p.index [] fun l => { map := mapAt s p.index, until' := spFrom p.actDt, from' := s.el } :: l
        maps := m.maps.set p.index p.map 0 }
      exec .mapActive s = .next
        (emitOutcome (ckTables (setFld s1 Reg.MAC_GRID_MAP_VER v)) 0x0405 (leBytes 1 p.index ++ [0] ++ leBytes 2 v) p.ref 0)) ∧
  -- MAP_OLD_WINDOW_END
  (∀ (s : State),
      exec (.mapOldWindowEnd) s = .next (
        macUpd s fun m => { m with oldMaps :=
            (m.oldMaps.map fun x => (x.1, x.2.filter fun o => !passedSec s o.from' 3600)).filter fun x => !x.2.isEmpty })) ∧
  -- FOLD_CHECKPOINT
  (∀ (s : State),
      domState s 2 = 2 →
      (passedSec s s.mac.ckptAt (fld s Reg.MAC_CKPT_PERIOD) = true ∨ 786432 ≤ journalBytes s.mac.journal) →
      exec .foldCheckpoint s = .next (checkpointFold s)) ∧
  -- BCAST_KEY_ACTIVE
  (∀ (s : State) (b : BcastPend),
      s.mac.bcast = some b →
      b.actDt ≤ s.dt →
      let s1 := setFld (setFld s Reg.MAC_KEY_CFG_BK_EPOCH b.epoch) Reg.MAC_BCNT_COUNT 0
      let s2 := jrn (macUpd s1 fun m => { m with bcast := none }) (.counter 3 0 0)
      exec .bcastKeyActive s = .next (emitOutcome s2 0x0407 (List.replicate 4 0 ++ leBytes 2 b.epoch ++ leBytes 1 1) b.ref 0))

/-- Tamin ring commands complete: each clause gives the whole next state of one command, so what it does not change is unchanged.
Clauses that write out a choice or an inference of the model where the spec leaves a point open: FOLD_ADMIT, FOLD_READ, DL_SEND, REKEY
(log entry 48); FOLD_REMOVE (log entries 41 and 48); CONN_SET (log entries 42 and 48). The checks of BAD_FIELD are choices too (log entry
14). -/
def Obligations.TaminRingComplete : Prop :=
  -- FOLD_ADMIT
  (∀ (s : State) (sq : Fin 16) (c : Cmd), Ready s sq 0x0400 c →
      let eui := c.op 16 8
      let gen := c.op 25 1
      let iv := c.op 28 2
      Clean (opChks c [(16, 16)] [] ++
        [rangeChk (decide (3 < c.op 24 1)) 24, rangeChk (decide (gen < 1 ∨ 3 < gen)) 25, rangeChk (badFeeder (c.op 26 1)) 26,
         rangeChk (smallMap (mapAt s (c.op 27 1))) 27, rangeChk (badInterval iv) 28, rangeChk (badSuperv (c.op 30 2)) 30]) →
      (findEui s eui).isSome = false →
      ∀ n, freeEph s = some n →
      (decide (gen = 1) && !(t1Fits s n (iv * 4 / 5) && (List.range (iv * 4 / 5)).any (t1Candidate s n (iv * 4 / 5)))) = false →
      exec (.foldAdmit sq) s = .next (complete
        (setEnt s n { eui := eui, state := 1, type := c.op 24 1, gen := gen, feeder := c.op 26 1, hostAdmit := true,
                      mapIdx := c.op 27 1, interval := iv, superv := c.op 30 2 }) c (ansDone n))) ∧
  -- FOLD_REMOVE
  (∀ (s : State) (sq : Fin 16) (c : Cmd), Ready s sq 0x0401 c →
      let n := c.op 16 3
      Clean (opChks c [(16, 3)] [] ++ [ephChk c 16]) →
      (entAt s n).state ≠ 0 →
      (s.mac.fold.any fun x => decide (x.2.parent = n ∧ x.1 ≠ n ∧ 0 < x.2.relays)) = false →
      exec (.foldRemove sq) s = .next (complete (causedBy s (freeEnt (dropItems s n) n) c.seq) c ansDone)) ∧
  -- FOLD_READ
  (∀ (s : State) (sq : Fin 16) (c : Cmd), Ready s sq 0x0402 c →
      let n := c.op 16 3
      let k := c.op 20 4
      Clean (opChks c [(16, 3), (20, 4)] [(1, 128 * min k 4096)] ++
        [ephChk c 16, rangeChk (decide (foldSize < n + k)) 16, rangeChk (decide (k < 1 ∨ 4096 < k)) 20]) →
      Reachable s c 0 →
      let s1 := memWrite s (c.bufAddr 0) (List.take (c.bufLen 0) ((List.range k).flatMap fun i => (entAt s (n + i)).bytes))
      exec (.foldRead sq) s = .next (complete s1 c (ansDone k))) ∧
  -- FOLD_FIND
  (∀ (s : State) (sq : Fin 16) (c : Cmd), Ready s sq 0x0403 c →
      Clean (opChks c [(16, 8)] []) →
      exec (.foldFind sq) s = .next (complete s c (ansDone ((findEui s (c.op 16 8)).getD 0xFFFFFFFF)))) ∧
  -- CONN_SET
  (∀ (s : State) (sq : Fin 16) (c : Cmd), Ready s sq 0x0404 c →
      let n := c.op 16 3
      let m := c.op 19 1
      let e := entAt s n
      Clean (opChks c [(16, 11)] [] ++
        [ephChk c 16, rsvChk (decide (31 < m)) 19, rangeChk (bit m 0 && badFeeder (c.op 20 1)) 20,
         rangeChk (bit m 3 && smallMap (mapAt s (c.op 21 1))) 21, rangeChk (bit m 2 && badInterval (c.op 22 2)) 22,
         rangeChk (bit m 1 && badSuperv (c.op 24 2)) 24]) →
      e.state ≠ 0 →
      (e.state = 3 ∨ m < 4) →
      (4 ≤ m → ((epAt s n).conn.any fun p => p.ref.isSome) = false) →
      let iv := c.op 22 2 * 4 / 5
      (bit m 2 = true → e.gen = 1 → t1Fits s n iv = true ∧ (connAfter s n iv).isSome = true) →
      let p : ConnPend := { ref := some c.ref, mask := m, feeder := c.op 20 1, superv := if bit m 1 then c.op 24 2 else e.superv,
                            interval := if bit m 2 then c.op 22 2 else e.interval, mapIdx := if bit m 3 then c.op 21 1 else e.mapIdx,
                            listen := if bit m 4 then c.op 26 1 else e.listen }
      let x := epAt s n
      let s1 := setEp s n { x with conn := some p, dlq := x.dlq.filter fun i => i.kind ≠ .conn }
      exec (.connSet sq) s = .next (if m < 4 then complete (setEnt s n (p.apply e)) c ansDone
        else complete (queueDl s1 n { type := 0x11, val := connElem s1 n p, kind := .conn }) c ansQueued)) ∧
  -- MAP_SET
  (∀ (s : State) (sq : Fin 16) (c : Cmd), Ready s sq 0x0405 c →
      let i := c.op 16 1
      let m := c.op 18 10
      let t := c.op 28 8
      Clean (opChks c [(16, 1), (18, 18)] [] ++
        [rangeChk (smallMap m || (mapChans m).any fun k => !inBand s k false) 18, dtChk c 28]) →
      s.dt + 60 * 65536 ≤ t →
      (s.mac.mapPend.any fun p => p.index = i) = false →
      exec (.mapSet sq) s = .next (complete (macUpd s fun x => { x with mapPend := x.mapPend ++ [{ index := i, map := m, actDt := t, ref := some c.ref }] }) c ansQueued)) ∧
  -- DL_SEND
  (∀ (s : State) (sq : Fin 16) (c : Cmd), Ready s sq 0x0406 c →
      let n := c.op 16 3
      Clean (opChks c [(16, 3)] [(0, 1)] ++ [ephChk c 16, rangeChk (decide (1 ≤ c.bufs ∧ 100 < c.bufLen 0)) 48]) →
      Reachable s c 0 →
      let b := memRead s (c.bufAddr 0) (c.bufLen 0)
      (entAt s n).state = 3 →
      ¬ (4 ≤ ((epAt s n).dlq.filter DlItem.isApp).length) →
      exec (.dlSend sq) s = .next (complete (queueDl s n { type := 0x7F, val := b, kind := .app c.ref }) c ansQueued)) ∧
  -- REKEY
  (∀ (s : State) (sq : Fin 16) (c : Cmd), Ready s sq 0x0407 c →
      let n := c.op 16 3
      Clean (opChks c [(16, 3)] [] ++ [ephChk c 16]) →
      (entAt s n).state = 3 →
      ((entAt s n).rekeyPend) = false →
      (entAt s n).keyEpoch ≠ 65535 →
      exec (.rekey sq) s = .next (complete (startRekey s n (some c.ref)) c ansQueued)) ∧
  -- BCAST_REKEY
  (∀ (s : State) (sq : Fin 16) (c : Cmd), Ready s sq 0x0408 c →
      Clean (opChks c [(16, 8)] [] ++ [dtChk c 16]) →
      s.mac.bcast.isSome = false →
      exec (.bcastRekey sq) s = .next (complete (startBcastRekey s (c.op 16 8) (some c.ref)) c ansQueued))

/-- Street control events complete: each clause gives the whole next state of one command, so what it does not change is unchanged.
Clauses that write out a choice or an inference of the model where the spec leaves a point open: TICK_BOUNDARY (log entries 50 and 57);
LEVEL_VECTOR (log entries 47 and 54); STEP_FIRED, COMMIT_DUE, COMMIT_DONE (log entry 47); AMBIENT_STEP_FIRE (log entries 47 and 51);
COMMIT (log entries 47, 53 and 54); COMMIT_ENTRY_FREE (log entry 169). -/
def Obligations.StreetEventComplete : Prop :=
  -- TICK_BOUNDARY
  (∀ (s : State),
      let t := tickOf s.dt
      let s1 := tickPeriod s
      let first := dtSec s.dt * 20 % 2 ^ 32
      (tickDue s1 = true → s1.cas.quiet = true → exec .tickBoundary s = .next (runTick s1 first ((first + 19) % 2 ^ 32) 20)) ∧
      (tickDue s1 = true → s1.cas.quiet = false → exec .tickBoundary s = .next (runTick s1 t t 1)) ∧
      (tickDue s1 = false → exec .tickBoundary s = .next s1)) ∧
  -- LEVEL_VECTOR
  (∀ (s : State) (g : Nat),
      let k := curSp s
      let used := if s.street.lvCount.1 = k + 1 then s.street.lvCount.2 else 0
      let room := min (fld s Reg.STR_PLAN_LV_CHAINS - used) (chainsLeft s 3)
      (((lvGroups s).take room).find? fun x => slotStarts s 3 (groupAt s x.1).channel k).map Prod.fst = some g →
      onAir s = true →
      let q := groupQueue s g
      let base := q.foldl (fun a x => min a x.1) ((q.head?.map Prod.fst).getD 0)
      let inV := ((q.filter fun x => decide (x.1 < base + 40)).sortBy fun a b => decide (a.1 ≤ b.1)).take (lvRoom s)
      let mask := (inV.map fun x => 2 ^ (x.1 - base)).sum
      let forced := inV.any fun x => x.2.2.forced
      let s0 := streetUpd s fun x => { x with lvSlot := x.lvSlot.set g (k + 1) 0 }
      let r := sendBroadcast s0 8 (groupAt s g).channel 1 (anyRelayed s fun n _ => inV.any fun x => x.2.1 = n)
        (leBytes 2 g ++ leBytes 3 base ++ leBytes 5 mask ++ leBytes 1 (b2n forced) ++ inV.flatMap fun x => leBytes 2 x.2.2.level)
      let s2 := inV.foldl (fun s x => updEnt (streetUpd s fun y => { y with queue := y.queue.del x.2.1 }) x.2.1
        fun e => { e with levelCmd := x.2.2.level }) r.1
      exec .levelVector s = .next
        (if r.2 then countBy (count1 (streetUpd s2 fun x => { x with lvCount := (k + 1, used + 1) }) (Reg.STR_CNT_COUNT 0))
           (Reg.STR_CNT_COUNT 1) inV.length
         else r.1)) ∧
  -- STEP_FIRED
  (∀ (s : State),
      onAir s = true →
      exec .stepFired s = .next (fireSteps s)) ∧
  -- AMBIENT_STEP_FIRE
  (∀ (s : State),
      onAir s = true →
      exec .ambientStepFire s = .next ((ambientHeld s).foldl (fun s f => fireAmbient s f 0 s.dt) (fireSteps s))) ∧
  -- COMMIT
  (∀ (s s1 : State) (w : Win) (c : CommitEnt),
      chainLeft s 1 = true →
      takeWin s 1 (fun _ => true) = (s1, some w) →
      (s1.street.commits.find? fun c => decide (c.id = w.tag ∧ c.state = 0)) = some c →
      onAir s1 = true →
      c.kind ≠ 1 →
      let who := addressed s1 c.group c.all
      let r := sendBroadcast s1 9 w.ch w.mode (anyRelayed s1 fun n _ => who.contains n) c.payload
      exec .commit_ s = .next
        (if r.2 then updCommit (count1 r.1 (Reg.STR_CNT_COUNT 2)) c.id fun c => { c with sent := c.sent + 1 } else r.1)) ∧
  -- COMMIT_DUE
  (∀ (s : State),
      onAir s = true →
      exec .commitDue s = .next (dueCommits s)) ∧
  -- COMMIT_DONE
  (∀ (s : State),
      let w := fld s Reg.STR_COMMIT_LATE_WIN
      exec (.commitDone) s = .next (
        (s.street.commits.filter fun c => !c.done && onAir s && decide (c.state = 1 ∧ c.actDt + w * 65536 ≤ s.dt)).foldl
            (fun s c => writeDone s c false) s)) ∧
  -- COMMIT_ENTRY_FREE
  (∀ (s : State),
      let held (c : CommitEnt) : Bool := decide (s.dt < c.actDt + 3600 * 65536)
      exec .commitEntryFree s = .next (streetUpd s fun x => { x with
        commits := x.commits.filter held, freed := keepFreed x.freed (x.commits.filter fun c => !held c) }))

/-- Street control ring commands complete: memberships, groups, schedules and scenes: each clause gives the whole next state of one command, so what it does not change is unchanged.
Clauses that write out a choice or an inference of the model where the spec leaves a point open: MEMBER_SET (log entries 48 and 52);
GROUP_CFG (log entry 54). The checks of BAD_FIELD are choices too (log entry 14). -/
def Obligations.StreetRingComplete : Prop :=
  -- MEMBER_SET
  (∀ (s : State) (sq : Fin 16) (c : Cmd), Ready s sq 0x0500 c →
      let n := c.op 16 3
      Clean (opChks c [(16, 3)] [(0, 48)] ++ [ephChk c 16]) →
      Reachable s c 0 →
      let b := memRead s (c.bufAddr 0) (c.bufLen 0)
      Clean (memberChks b) →
      let m := memberOfBytes b
      (entAt s n).state ≠ 0 →
      ((epAt s n).dlq.any DlItem.isMember) = false →
      (s.street.members.any fun x => decide (x.1 ≠ n) && x.2.any fun y => y.groups.any fun g => m.groups.contains g) = false →
      let active := decide ((entAt s n).state = 3)
      let s1 := streetUpd s fun x => { x with members := x.members.set n (some { m with marked := !active }) none }
      let s2 := updEnt s1 n fun e => { e with groupPtr := n }
      let joined (k : CommitEnt) : Bool := !k.all && !(memberOf s n).any fun o => o.groups.any fun g => decide (g.1 = k.group)
      exec (.memberSet sq) s = .next (if active then completeConfig (oweCommits (sendMember s2 n m (some c.ref)) n joined) c ansQueued
        else completeConfig s2 c ansDone)) ∧
  -- GROUP_CFG
  (∀ (s : State) (sq : Fin 16) (c : Cmd), Ready s sq 0x0501 c →
      let g := c.op 16 2
      let pr := c.op 18 2
      let per := c.op 22 2
      let ph := c.op 24 2
      let ch := c.op 26 1
      let t := c.op 28 8
      Clean (opChks c [(16, 11), (28, 8)] [] ++
        [rangeChk (decide (1023 < pr ∧ pr ≠ 0xFFFF)) 18, rangeChk (decide (0 < per ∧ per < 8)) 22,
         rangeChk (decide (max per 1 ≤ ph)) 24, rangeChk (decide (79 < ch) || !inBand s ch false) 26, dtChk c 28]) →
      let old := groupAt s g
      let changes := decide (old.period ≠ per ∨ old.phase ≠ ph ∨ old.channel ≠ ch)
      (changes = true → timingPending s g = false ∧ s.dt + 2 * 65536 ≤ t ∧ commitRoom s 1 = true) →
      let s1 := streetUpd s fun x => { x with groups := x.groups.set g { old with profile := pr, hyst := c.op 20 2 } {} }
      let (s2, id) := acceptCommit s1 2 g 0 t false (leBytes 2 per ++ leBytes 2 ph ++ leBytes 1 ch ++ [0]) (some c.ref)
      exec (.groupCfg sq) s = .next (if changes then completeConfig s2 c (ansQueued 0 id) else completeConfig s1 c ansDone)) ∧
  -- SCHEDULE_PROFILE_LOAD
  (∀ (s : State) (sq : Fin 16) (c : Cmd), Ready s sq 0x0502 c →
      let pr := c.op 16 2
      Clean (opChks c [(16, 2)] [(0, 16)] ++ [rangeChk (decide (1023 < pr)) 16]) →
      Reachable s c 0 →
      let b := memRead s (c.bufAddr 0) (c.bufLen 0)
      let n := fieldLE b 0 1
      Clean [⟨decide (1 ≤ n ∧ n ≤ 16 ∧ c.bufLen 0 < 16 + 16 * n), 40, 0x04⟩] →
      let k := min n 16
      let steps := (List.range k).map fun i => sstepOf b (16 * i + 16)
      Clean ([rangeChk (decide (n < 1 ∨ 16 < n)) 0, rsvChk (decide (fieldLE b 1 1 ≠ 0)) 1,
         rsvChk (decide (4 ≤ fieldLE b 4 1)) 4, rangeChk (decide (fieldLE b 5 1 = 0)) 5] ++
        (match firstNonZero b 6 10 with | some o => [rsvChk true o] | none => []) ++
        (List.range k).flatMap fun i => sstepChks b (16 * i + 16)) →
      let p : Sched := { ambEph := fieldLE b 2 3, ambHold := fieldLE b 5 1, steps := steps }
      let s1 := streetUpd s fun x => { x with
        profiles := x.profiles.set pr (some p) none
        ambSince := x.ambSince.filter fun e => decide (e.1 / 16 ≠ pr)
        ambFired := x.ambFired.filter fun e => decide (e.1 / 16 ≠ pr) }
      exec (.scheduleProfileLoad sq) s = .next (completeConfig (takeForce s1 pr) c ansDone)) ∧
  -- EXCEPTION_SET
  (∀ (s : State) (sq : Fin 16) (c : Cmd), Ready s sq 0x0503 c →
      let i := c.op 16 1
      let cls := c.op 22 1
      Clean (opChks c [(16, 1), (18, 5)] [] ++ [rangeChk (decide (7 < cls ∧ cls ≠ 0xFF)) 22] ++
        (if cls = 0xFF then [] else dateChks c 18 20 21)) →
      let day := daysBefore (c.op 18 2) (c.op 20 1) (c.op 21 1)
      (decide (cls ≠ 0xFF) && s.street.exceptions.any fun x => decide (x.1 ≠ i) && x.2.any fun e =>
        decide (daysBefore e.year e.month e.day = day)) = false →
      let v : Option ExcDate := if cls = 0xFF then none
        else some { year := c.op 18 2, month := c.op 20 1, day := c.op 21 1, cls := cls }
      exec (.exceptionSet sq) s = .next (completeConfig (streetUpd s fun x => { x with exceptions := x.exceptions.set i v none }) c ansDone)) ∧
  -- SCENE_STORE
  (∀ (s : State) (sq : Fin 16) (c : Cmd), Ready s sq 0x0504 c →
      let n := c.op 16 1
      Clean (opChks c [(16, 1)] [(0, 8)]) →
      Reachable s c 0 →
      let b := memRead s (c.bufAddr 0) (c.bufLen 0)
      let k := fieldLE b 0 1
      Clean [⟨decide (1 ≤ k ∧ k ≤ 64 ∧ c.bufLen 0 < 8 + 8 * k), 40, 0x04⟩] →
      let m := min k 64
      Clean ([rangeChk (decide (k < 1 ∨ 64 < k)) 0] ++ (match firstNonZero b 1 7 with | some o => [rangeChk true o] | none => []) ++
        (List.range m).flatMap fun i =>
          let o := 8 * i + 8
          [rangeChk (decide (600 < fieldLE b (o + 4) 2)) (o + 4), rangeChk (decide (1 < fieldLE b (o + 6) 1)) (o + 6),
           rangeChk (decide (fieldLE b (o + 7) 1 ≠ 0)) (o + 7)]) →
      sceneHeld s n = false →
      exec (.sceneStore sq) s = .next (completeConfig (streetUpd s fun x => { x with scenes := x.scenes.set n ((List.range m).map fun i => sceneEntOf b (8 * i + 8)) [] }) c ansDone)) ∧
  -- SCENE_RECALL
  (∀ (s : State) (sq : Fin 16) (c : Cmd), Ready s sq 0x0505 c →
      let n := c.op 16 1
      let t := c.op 24 8
      Clean (opChks c [(16, 2), (24, 8)] [] ++ [rangeChk (decide (1 < c.op 17 1)) 17, dtChk c 24]) →
      let ents := s.street.scenes.get n []
      ents.isEmpty = false →
      (t = 0 ∨ (s.dt + 2 * 65536 ≤ t ∧ commitRoom s (ents.filter SceneEnt.fixed).length = true)) →
      let r := recallScene s n (c.op 17 1) t c.ref
      exec (.sceneRecall sq) s = .next (complete r.1 c (match r.2 with | some id => ansQueued 0 id | none => ansDone))) ∧
  -- SCENE_RELEASE
  (∀ (s : State) (sq : Fin 16) (c : Cmd), Ready s sq 0x0506 c →
      let n := c.op 16 1
      Clean (opChks c [(16, 1)] []) →
      sceneHeld s n = true →
      exec (.sceneRelease sq) s = .next (complete (releaseScene s n) c ansDone))

/-- Street control commit and read commands complete: each clause gives the whole next state of one command, so what it does not change is unchanged.
Clauses that write out a choice or an inference of the model where the spec leaves a point open: COMMIT_CANCEL (log entry 53);
COMPOSE_READ (log entry 48). The checks of BAD_FIELD are choices too (log entry 14). -/
def Obligations.StreetCommitComplete : Prop :=
  -- COMMIT_LEVEL
  (∀ (s : State) (sq : Fin 16) (c : Cmd), Ready s sq 0x0507 c →
      let f := c.op 18 1
      let t := c.op 24 8
      Clean (opChks c [(16, 3), (20, 12)] [] ++
        [rsvChk (decide (3 < f)) 18, rangeChk (decide (600 < c.op 22 2)) 22, dtChk c 24]) →
      s.dt + 2 * 65536 ≤ t →
      commitRoom s 1 = true →
      let (s1, id) := acceptCommit s 0 (c.op 16 2) (f % 2) t (bit f 1) (leBytes 2 (c.op 20 2) ++ leBytes 2 (c.op 22 2)) (some c.ref)
      exec (.commitLevel sq) s = .next (complete s1 c (ansQueued 0 id))) ∧
  -- COMMIT_CANCEL
  (∀ (s : State) (sq : Fin 16) (c : Cmd), Ready s sq 0x0508 c →
      Clean (opChks c [(16, 4)] []) →
      ∀ k, (s.street.commits.find? fun k => decide (k.id = c.op 16 4 ∧ k.state = 0)) = some k →
      commitRoom s 1 = true →
      exec (.commitCancel sq) s = .next (complete (causedBy s (cancelCommit s k (some c.ref)) c.seq) c ansQueued)) ∧
  -- COMMIT_READ
  (∀ (s : State) (sq : Fin 16) (c : Cmd), Ready s sq 0x0509 c →
      Clean (opChks c [(16, 4)] [(1, 32)]) →
      ∀ k, (s.street.commits.find? fun k => decide (k.id = c.op 16 4)) = some k →
      Reachable s c 0 →
      exec (.commitRead sq) s = .next (complete (memWrite s (c.bufAddr 0) (List.take (c.bufLen 0) k.page)) c (ansDone 32))) ∧
  -- COMPOSE_READ
  (∀ (s : State) (sq : Fin 16) (c : Cmd), Ready s sq 0x050A c →
      let n := c.op 16 3
      let k := c.op 20 4
      Clean (opChks c [(16, 3), (20, 4)] [(1, 16 * min k 4096)] ++
        [ephChk c 16, rangeChk (decide (foldSize < n + k)) 16, rangeChk (decide (k < 1 ∨ 4096 < k)) 20]) →
      Reachable s c 0 →
      let s1 := memWrite s (c.bufAddr 0) (List.take (c.bufLen 0) ((List.range k).flatMap fun i => composeWords s (n + i)))
      exec (.composeRead sq) s = .next (complete s1 c (ansDone k))) ∧
  -- SOLAR_READ
  (∀ (s : State) (sq : Fin 16) (c : Cmd), Ready s sq 0x050B c →
      Clean (opChks c [(16, 4)] [(1, 32)] ++ dateChks c 16 18 19) →
      let day := daysBefore (c.op 16 2) (c.op 18 1) (c.op 19 1)
      Reachable s c 0 →
      let s1 := memWrite s (c.bufAddr 0) (List.take (c.bufLen 0) ((List.range 8).flatMap fun ev =>
        leBytes 4 (match solarUtc s day ev with | some t => (t % 2 ^ 32).toNat | none => 0xFFFFFFFF)))
      exec (.solarRead sq) s = .next (complete s1 c (ansDone 32)))

/-- Cascade commands complete: each clause gives the whole next state of one command, so what it does not change is unchanged.
Clauses that write out a choice or an inference of the model where the spec leaves a point open: CAS_BORDER_SET (log entry 58);
CAS_DEMAND_READ (log entry 57); BORDER_DEMAND (log entries 71 and 72). The checks of BAD_FIELD are choices too (log entry 14). -/
def Obligations.CascadeComplete : Prop :=
  -- CAS_VERTEX_LOAD
  (∀ (s : State) (sq : Fin 16) (c : Cmd), Ready s sq 0x0600 c →
      let k := c.op 20 4
      Clean (opChks c [(16, 3), (20, 4)] [(0, 16 * min k 65536)] ++ spanChks c 16 3 numVtx 65536) →
      Reachable s c 0 →
      let b := memRead s (c.bufAddr 0) (c.bufLen 0)
      Clean ((List.range k).flatMap fun i => vtxChks b (16 * i)) →
      s.cas.activate.isSome = false →
      let l := (List.range k).map fun i => Vtx.ofBytes (b.drop (16 * i))
      exec (.casVertexLoad sq) s = .next (complete (casUpd s fun x => { x with staging := { x.staging with vtx := loadFrom x.staging.vtx (c.op 16 3) {} l } }) c (ansDone k))) ∧
  -- CAS_EDGE_LOAD
  (∀ (s : State) (sq : Fin 16) (c : Cmd), Ready s sq 0x0601 c →
      let k := c.op 20 4
      Clean (opChks c [(16, 3), (20, 4)] [(0, 8 * min k 131072)] ++ spanChks c 16 3 numEdge 131072) →
      Reachable s c 0 →
      let b := memRead s (c.bufAddr 0) (c.bufLen 0)
      Clean ((List.range k).flatMap fun i => edgeChks b (8 * i)) →
      s.cas.activate.isSome = false →
      let l := (List.range k).map fun i => fieldLE b (8 * i) 8
      exec (.casEdgeLoad sq) s = .next (complete (casUpd s fun x => { x with staging := { x.staging with edges := loadFrom x.staging.edges (c.op 16 3) 0 l } }) c (ansDone k))) ∧
  -- CAS_STAGE_SYNC
  (∀ (s : State) (sq : Fin 16) (c : Cmd), Ready s sq 0x0602 c →
      Clean (opChks c [] []) →
      s.cas.activate.isSome = false →
      exec (.casStageSync sq) s = .next (complete (casUpd s fun x => { x with staging := x.active }) c ansDone)) ∧
  -- CAS_GRAPH_ACTIVATE
  (∀ (s : State) (sq : Fin 16) (c : Cmd), Ready s sq 0x0603 c →
      Clean (opChks c [] []) →
      s.cas.activate.isSome = false →
      stageRefusal s = none →
      exec (.casGraphActivate sq) s =
        .next (markStarted (setFlag (casUpd s fun x => { x with activate := some c.seq }) Reg.CAS_STAT_ACT_PEND true) c)) ∧
  -- CAS_BORDER_SET
  (∀ (s : State) (sq : Fin 16) (c : Cmd), Ready s sq 0x0604 c →
      let i := c.op 16 2
      let f := c.op 18 1
      let b : BorderLink := { en := bit f 0, isIn := bit f 1, loc := c.op 20 3 % 2 ^ 19, remMod := c.op 24 2 % 4096,
                              remVertex := c.op 28 3 % 2 ^ 19 }
      Clean (opChks c [(16, 3), (20, 3), (24, 2), (28, 3)] [] ++
        [rangeChk (decide (4096 ≤ i)) 16, rsvChk (decide (4 ≤ f)) 18, rangeChk (decide (numVtx ≤ b.loc)) 20,
         rsvChk (decide (2 ^ 19 ≤ c.op 20 3)) 22, rsvChk (decide (4096 ≤ c.op 24 2)) 25, rangeChk (decide (numVtx ≤ b.remVertex)) 28,
         rsvChk (decide (2 ^ 19 ≤ c.op 28 3)) 30]) →
      let o := s.cas.borders.get i {}
      (((o.en && !b.en) || b.isIn ≠ o.isIn || b.loc ≠ o.loc) && borderNamed s i) = false →
      exec (.casBorderSet sq) s = .next (completeConfig (casUpd s fun x => { x with borders := x.borders.set i b {} }) c ansDone)) ∧
  -- CAS_INJECT
  (∀ (s : State) (sq : Fin 16) (c : Cmd), Ready s sq 0x0605 c →
      let w := c.op 16 3
      Clean (opChks c [(16, 5)] [] ++
        [rangeChk (decide (numVtx ≤ w % 2 ^ 19)) 16, rangeChk (decide (bits w 21 19 = 0)) 18, rsvChk (decide (2 ^ 22 ≤ w)) 18]) →
      flag s Reg.CAS_CTRL_EN = true →
      ¬ (4096 ≤ s.cas.intake.length) →
      exec (.casInject sq) s = .next (complete (intakePut s { vertex := w % 2 ^ 19, classes := bits w 21 19, strength := c.op 19 1, e := eventTick s.dt (c.op 20 1) }) c ansDone)) ∧
  -- CAS_DEMAND_READ
  (∀ (s : State) (sq : Fin 16) (c : Cmd), Ready s sq 0x0606 c →
      let k := c.op 20 4
      Clean (opChks c [(16, 3), (20, 4)] [(1, 8 * min k 65536)] ++ spanChks c 16 3 numVtx 65536) →
      Reachable s c 0 →
      let s1 := memWrite s (c.bufAddr 0) (List.take (c.bufLen 0) ((List.range k).flatMap fun i =>
        let v := c.op 16 3 + i
        leBytes 2 (casOut s v) ++ [0, 0] ++ leBytes 4 (s.cas.last.get v 0)))
      exec (.casDemandRead sq) s = .next (complete s1 c (ansDone k))) ∧
  -- CAS_GRAPH_READ
  (∀ (s : State) (sq : Fin 16) (c : Cmd), Ready s sq 0x0607 c →
      let kind := c.op 16 1
      let f := c.op 17 3
      let k := c.op 20 4
      let vert := decide (kind % 2 = 0)
      Clean (opChks c [(16, 8)] [(1, if vert then 16 * min k 65536 else 8 * min k 131072)] ++ [rangeChk (decide (3 < kind)) 16] ++
        (if vert then spanChks c 17 3 numVtx 65536 else spanChks c 17 3 numEdge 131072)) →
      let g := if kind < 2 then s.cas.active else s.cas.staging
      Reachable s c 0 →
      let s1 := memWrite s (c.bufAddr 0) (List.take (c.bufLen 0) ((List.range k).flatMap fun i =>
        if vert then
          (if kind = 0 then (vtxAt g (f + i)).bytes (s.cas.demand.get (f + i) 0) (s.cas.last.get (f + i) 0)
           else (vtxAt g (f + i)).bytes 0 0)
        else leBytes 8 (g.edges.get (f + i) 0)))
      exec (.casGraphRead sq) s = .next (complete s1 c (ansDone k))) ∧
  -- CAS_CLEAR
  (∀ (s : State) (sq : Fin 16) (c : Cmd), Ready s sq 0x0608 c →
      Clean (opChks c [] []) →
      exec (.casClear sq) s = .next (markStarted (casUpd s fun x => { x with clears := x.clears ++ [c.seq] }) c)) ∧
  -- BORDER_DEMAND
  (∀ (s s1 : State) (p : Fin 4) (l : List Byte) (m : SpanMsg),
      spanKind l = 2 →
      spanRx s p.val l = (s1, some m) →
      exec (.borderDemand p l) s = .next (borderDemand s1 m))

/-- Weir samples and ring commands complete: each clause gives the whole next state of one command, so what it does not change is unchanged.
Clauses that write out a choice or an inference of the model where the spec leaves a point open: SLOW_SAMPLE, FAST_SAMPLE (log entries 60,
64, 120 and 155); WEI_LOOP_LOAD, WEI_GROUP_SET, WEI_INJECT (log entry 62); WEI_LOOP_ENABLE (log entries 60 and 62). The checks of
BAD_FIELD are choices too (log entry 14). -/
def Obligations.WeirComplete : Prop :=
  -- SLOW_SAMPLE
  (∀ (s : State) (conv : List Word) (late : List (Fin 4096)),
      weirRuns s = true →
      flag s Reg.WEI_CTRL_SLOW_EN = true →
      let due := slowDue s
      due.isEmpty = false →
      let s1 := due.foldl (fun s x => updLoop s x.1 fun l => { l with seen := x.2 }) (setAin s conv)
      exec (.slowSample conv late) s = .next (weirBatch s1 (due.map Prod.fst) (late.map fun n => n.val))) ∧
  -- FAST_SAMPLE
  (∀ (s : State) (x : FastIn) (late : List (Fin 16)) (a : Nat × Nat) (r : List (Nat × Nat)),
      weirRuns s = true →
      flag s Reg.WEI_CTRL_FAST_EN = true →
      fastNext s = a :: r →
      let c := r.foldl (fun m y => min m y.2) a.2
      c * 65536 ≤ (s.el + 1 - s.weir.fastStart) * 19200000 →
      let due := ((fastNext s).filter fun y => y.2 = c).map Prod.fst
      let s1 := due.foldl (fun s n => updLoop s n fun l => { l with seen := l.seen + 1 }) (setAin s x.conv)
      let s2 := { setFld s1 Reg.FTN_BOOST_STAT_VOUT (min x.vout 8191) with ftn := { s1.ftn with
        vout := min x.vout 8191
        headroom := x.pins.foldl (fun m p => if sinkActive s p.1.val then m.set p.1.val (min p.2 48000) 0 else m) s1.ftn.headroom } }
      exec (.fastSample x late) s = .next (weirBatch s2 due (late.map fun n => fast0 + n.val))) ∧
  -- WEI_LOOP_LOAD
  (∀ (s : State) (sq : Fin 16) (c : Cmd), Ready s sq 0x0700 c →
      let n := c.op 16 2
      Clean (opChks c [(16, 2)] [(0, 80)] ++ loopChks c) →
      Reachable s c 0 →
      let b := memRead s (c.bufAddr 0) (c.bufLen 0)
      Clean (shapeChks b n) →
      Clean [⟨decide (c.bufLen 0 < 80 + 20 * fieldLE b 0 1 * fieldLE b 1 1), 40, 0x04⟩] →
      let d := LoopDesc.ofBytes b
      let mates := match groupOf s n with
        | some g => (groupCfg s g).members.filterMap fun m => if m = n then none else (loopAt s m).desc
        | none => []
      Clean (descChks b n ++ [⟨mates.any fun x => decide (x.rate ≠ d.rate), 4, 0x03⟩, ⟨mates.any fun x => decide (x.dest ≠ d.dest), 6, 0x03⟩,
        ⟨mates.any fun x => decide (x.destIndex ≠ d.destIndex), 7, 0x03⟩]) →
      ((loopAt s n).en) = false →
      exec (.weiLoopLoad sq) s = .next (completeConfig (updLoop s n fun l => { l with desc := some d, coefNext := [], reg := 0, secs := (l.secs ++ List.replicate d.nsec ({} : SecSt)).take d.nsec }) c ansDone)) ∧
  -- WEI_LOOP_ENABLE
  (∀ (s : State) (sq : Fin 16) (c : Cmd), Ready s sq 0x0701 c →
      let n := c.op 16 2
      let en := bit (c.op 18 1) 0
      let man := bit (c.op 18 1) 1
      let init := c.op 20 4
      Clean (opChks c [(16, 3), (20, 4)] [] ++ loopChks c ++
        [rsvChk (decide (4 ≤ c.op 18 1)) 18, rangeChk (!b32.isFinite init) 20]) →
      ∀ d, (loopAt s n).desc = some d →
      let l := loopAt s n
      (en && !l.en && !mayDrive s n d) = false →
      let s1 := updLoop s n fun l => { l with cfgEn := en, cfgMan := man }
      let s2 := if !en then disableLoop s1 n
        else if l.en then updLoop s1 n fun l => changeMode l man init
        else startLoop s1 n man init
      exec (.weiLoopEnable sq) s = .next (completeConfig (causedBy s s2 c.seq) c ansDone)) ∧
  -- WEI_COEF_SET
  (∀ (s : State) (sq : Fin 16) (c : Cmd), Ready s sq 0x0702 c →
      let n := c.op 16 2
      let r := c.op 18 1
      let l := loopAt s n
      let ns := match l.desc with | some d => d.nsec | none => 1
      Clean (opChks c [(16, 3)] [(0, 20 * ns)] ++ loopChks c ++
        [rangeChk (match l.desc with | some d => decide (d.coefs.length ≤ r) | none => false) 18]) →
      Reachable s c 0 →
      let b := memRead s (c.bufAddr 0) (c.bufLen 0)
      l.desc.isNone = false →
      Clean ((List.range (5 * ns)).map fun i => finiteChk b (4 * i)) →
      let l1 := { l with coefNext := l.coefNext ++ [(r, coefsOf b 0 ns)] }
      exec (.weiCoefSet sq) s = .next (completeConfig (setLoop s n (if l.en then l1 else (takeCoefs l1).1)) c ansDone)) ∧
  -- WEI_GROUP_SET
  (∀ (s : State) (sq : Fin 16) (c : Cmd), Ready s sq 0x0703 c →
      let g := c.op 16 2
      let k := c.op 18 1
      let margin := c.op 28 4
      let at4 (i : Nat) : Nat := c.op (20 + 2 * i) 2
      let mem := (List.range (min k 4)).map at4
      let ds := mem.filterMap fun n => (loopAt s n).desc
      let bad := match ds with | [] => false | d :: r => r.any fun x => !groupFits d x
      Clean (opChks c [(16, 3), (20, 12)] [] ++
        [rangeChk (decide (1023 < g)) 16, rangeChk (decide (k = 1 ∨ 4 < k)) 18] ++
        ((List.range 4).flatMap fun i =>
          [rangeChk (decide (i < k ∧ numLoops ≤ at4 i)) (20 + 2 * i), rsvChk (decide (k ≤ i ∧ at4 i ≠ 0)) (20 + 2 * i),
           ⟨decide (i < k) && (mem.take i).contains (at4 i), 20 + 2 * i, 0x03⟩]) ++
        [⟨bad || (mem.any isFast && mem.any fun n => !isFast n), 20, 0x03⟩,
         ⟨!b32.isFinite margin, 28, 0x03⟩, rangeChk (b32.lt margin 0) 28]) →
      (mem.any fun n => (loopAt s n).desc.isNone) = false →
      (mem.any fun n => match groupOf s n with | some x => decide (x ≠ g) | none => false) = false →
      let s1 := weirUpd s fun w => { w with groupNext := w.groupNext.set g (some { members := mem, margin := if k = 0 then 0 else margin }) none }
      exec (.weiGroupSet sq) s = .next (completeConfig (groupsDue s1 []) c ansDone)) ∧
  -- WEI_INJECT
  (∀ (s : State) (sq : Fin 16) (c : Cmd), Ready s sq 0x0704 c →
      let n := c.op 16 2
      let l := loopAt s n
      Clean (opChks c [(16, 2)] [(0, 32)] ++ loopChks c) →
      Reachable s c 0 →
      let b := memRead s (c.bufAddr 0) (c.bufLen 0)
      let hd := injChks b n (l.desc.map LoopDesc.rate)
      Clean [⟨!(hd.any Chk.bad) && decide (fieldLE b 0 1 = 3 ∧ c.bufLen 0 < 32 + 12 * fieldLE b 3 1), 40, 0x04⟩] →
      Clean (hd ++ compChks b) →
      s.weir.inject.isSome = false →
      (!l.en || l.held) = false →
      let k := fieldLE b 3 1
      let q : Inject := {
        loop := n, kind := fieldLE b 0 1, point := fieldLE b 1 1, hold := bit (fieldLE b 2 1) 0, capture := bit (fieldLE b 2 1) 1
        n := k, a := fieldLE b 4 4, duration := fieldLE b 8 4, chip := fieldLE b 12 1, f0 := fieldLE b 16 4, f1 := fieldLE b 20 4
        comps := if fieldLE b 0 1 = 3 then (List.range k).map fun i =>
          (fieldLE b (32 + 12 * i) 4, fieldLE b (36 + 12 * i) 4, fieldLE b (40 + 12 * i) 4) else []
        shift := 2 ^ k - 1, ref := some c.ref }
      exec (.weiInject sq) s = .next (complete (setFld (setFlag (weirUpd s fun w => { w with inject := some q }) Reg.WEI_STAT_INJ true) Reg.WEI_STAT_INJ_LOOP n) c ansQueued)) ∧
  -- WEI_INJECT_STOP
  (∀ (s : State) (sq : Fin 16) (c : Cmd), Ready s sq 0x0705 c →
      Clean (opChks c [] []) →
      s.weir.inject.isNone = false →
      exec (.weiInjectStop sq) s = .next (complete (causedBy s (injEnd s 1) c.seq) c ansDone)) ∧
  -- WEI_CAPTURE_SET
  (∀ (s : State) (sq : Fin 16) (c : Cmd), Ready s sq 0x0706 c →
      Clean (opChks c [] [(0, 48)]) →
      Reachable s c 0 →
      let b := memRead s (c.bufAddr 0) (c.bufLen 0)
      let used := (List.range 4).filter fun i => fieldLE b (12 * i + 3) 1 ≠ 0xFF
      Clean (((List.range 4).flatMap fun i => capChks b (12 * i)) ++ [⟨used.isEmpty, 3, 0x03⟩]) →
      capOn s = false →
      let ch (i : Nat) : CapChan :=
        let o := 12 * i
        { loop := fieldLE b o 2, signal := fieldLE b (o + 2) 1, trig := fieldLE b (o + 3) 1, decim := fieldLE b (o + 4) 4,
          running := decide (fieldLE b (o + 3) 1 = 0) }
      let s1 := weirUpd s fun w => { w with caps := used.foldl (fun m i => m.set i (ch i) {}) [], capRef := some c.ref }
      let st := if s1.weir.caps.any fun x => x.2.running then 2 else 1
      exec (.weiCaptureSet sq) s = .next (complete (setFld (setFld s1 Reg.WEI_STAT_CAP_STATE st) Reg.WEI_CAP_WRITTEN_SAMPLES 0) c ansQueued)) ∧
  -- WEI_CAPTURE_READ
  (∀ (s : State) (sq : Fin 16) (c : Cmd), Ready s sq 0x0707 c →
      let k := c.op 24 4
      let f := c.op 20 4
      Clean (opChks c [(16, 1), (20, 8)] [(1, 8 * min k 65536)] ++
        [rangeChk (decide (3 < c.op 16 1)) 16, rangeChk (decide (k < 1 ∨ 65536 < k)) 24]) →
      let d := (s.weir.caps.get (c.op 16 1) {}).data
      ¬ (d.length < 8 * (f + k)) →
      Reachable s c 0 →
      let s1 := memWrite s (c.bufAddr 0) (List.take (c.bufLen 0) ((d.drop (8 * f)).take (8 * k)))
      exec (.weiCaptureRead sq) s = .next (complete s1 c (ansDone k))) ∧
  -- WEI_LOOP_READ
  (∀ (s : State) (sq : Fin 16) (c : Cmd), Ready s sq 0x0708 c →
      Clean (opChks c [(16, 2)] [(1, 128)] ++ loopChks c) →
      Reachable s c 0 →
      let s1 := memWrite s (c.bufAddr 0) (List.take (c.bufLen 0) (loopPage (loopAt s (c.op 16 2))))
      exec (.weiLoopRead sq) s = .next (complete s1 c (ansDone 128))) ∧
  -- WEI_CAPTURE_STOP
  (∀ (s : State) (sq : Fin 16) (c : Cmd), Ready s sq 0x0709 c →
      Clean (opChks c [] []) →
      capOn s = true →
      exec (.weiCaptureStop sq) s = .next (complete (causedBy s (capEnd s 1) c.seq) c ansDone))

/-- Basin metering events complete: each clause gives the whole next state of one command, so what it does not change is unchanged.
Clauses that write out a choice or an inference of the model where the spec leaves a point open: BASIN_SAMPLE (log entries 65 and 67);
CYCLE_END (log entry 67); WINDOW_END (log entry 66); TEMP_UPDATE (log entries 69, 120 and 155); BASIN_COMMIT, INTERVAL_LEN_WRITE (log
entry 68); CHANNEL_STUCK, CHANNEL_RECOVER, CHANNEL_DISABLED_WHILE_STUCK (log entry 65); INTERVAL_END (log entries 68 and 163);
RECONCILIATION_START (log entries 68, 69 and 163); RECON_DONE (log entry 69). -/
def Obligations.BasinEventComplete : Prop :=
  -- BASIN_SAMPLE
  (∀ (s : State) (chans : List ChanIn),
      let k := s.el * 8000 / 65536 + 1
      s.bas.sampleIdx ≠ k →
      domState s 10 = 2 →
      let s1 := (List.range 42).foldl (fun s n => chanSample s n (chans.getD n ⟨.code 0, .code 0⟩)) (basUpd s fun b => { b with sampleIdx := k })
      exec (.basinSample chans) s = .next ((List.range 6).foldl (fun s f =>
        if metered s f then
          let s2 := if (fdrAt s f).interval.isNone then openIntv s f s.dt false true else s
          feederSample s2 f
        else feederIdle s f) s1)) ∧
  -- CYCLE_END
  (∀ (s : State) (f x : Nat) (r : List (Nat × Nat)),
      domState s 10 = 2 →
      s.bas.cycDue = (f, x) :: r →
      let thr := fld s (Reg.BAS_FDR_RC_RC_THR f)
      let ma := b64.mul x (b64.ofInt 1000)
      let exceeds := decide (thr ≠ 0) && b64.le (b64.ofInt thr) ma
      let under := decide (thr = 0) || b64.lt ma (b64.mul (dec 8 10) (b64.ofInt thr))
      let y := fdrAt s f
      let up := if exceeds then y.rcOver + 1 else 0
      let dn := if under then y.rcUnder + 1 else 0
      let s1 := updFdr (basUpd s fun b => { b with cycDue := r }) f fun y => { y with rcOver := up, rcUnder := dn }
      let on := flag s (Reg.BAS_FDR_STAT_RC_ALARM f)
      exec .cycleEnd s = .next
        (if !on ∧ exceeds ∧ fld s (Reg.BAS_FDR_CFG_RC_CYCLES f) ≤ up then rcAlarm s1 f x true
         else if on ∧ (thr = 0 ∨ 50 ≤ dn) then rcAlarm s1 f x false
         else s1)) ∧
  -- WINDOW_END
  (∀ (s : State) (w : WinDue) (r : List WinDue),
      domState s 10 = 2 →
      s.bas.winDue = w :: r →
      let f := w.feeder
      let s0 := basUpd s fun b => { b with winDue := r }
      let fu := w.freq.getD (fNom s)
      let ph := phasesOf s f
      let vals := ph.map fun p => (p, phaseVals w.samples fu p)
      let fv : FeederVals :=
        { ph := vals, freq := w.freq.getD (Config.free s.freeN % 2 ^ 64), inRms := rms64 (w.samples.map fun x => x.n)
          ires := rms64 (w.samples.map (iresOf ph)), pSum := sum64 (vals.map fun x => x.2.p), qSum := sum64 (vals.map fun x => x.2.q)
          sec := dtSec s.dt % 2 ^ 32 }
      let s1 := updFdr (if w.freq.isSome then s0 else drawFree s0) f fun x => { x with vals := some fv, fUsed := fu }
      let mhz := min (b64.toIntAway (b64.mul fv.freq (b64.ofInt 1000))).toNat (2 ^ 20 - 1)
      let s2 := setFld (setFlag s1 (Reg.BAS_FDR_STAT_FREQ_VALID f) w.freq.isSome) (Reg.BAS_FDR_STAT_FREQ f) mhz
      let s3 := if w.freq.isSome then s2 else setErr s2 Reg.BAS_ERR_FREQ_INVALID
      let dv := b64.div (b64.ofInt (fld s (Reg.BAS_FDR_CFG_DEAD_V f))) (b64.ofInt 10)
      let dead := flag s (Reg.BAS_FDR_STAT_DEAD f)
      exec .windowEnd s = .next
        (if !dead ∧ vals.all fun x => b64.lt x.2.vrms dv then feederState s3 f true
         else if dead ∧ vals.any fun x => b64.le (b64.mul (dec 125 100) dv) x.2.vrms then feederState s3 f false
         else s3)) ∧
  -- TEMP_UPDATE
  (∀ (s : State) (conv : List Word),
      let k := dtSec s.dt + 1
      s.bas.tempSec ≠ k →
      domState s 10 = 2 →
      let s0 := basUpd (setAin s conv) fun b => { b with tempSec := k }
      let t := (basTemp s0).getD (sfld s Reg.BAS_TEMP_CFG_T_FIXED)
      let s1 := setFlag (setFld s0 Reg.BAS_TEMP_NOW_T (ofSigned 16 t)) Reg.BAS_TEMP_NOW_FALLBACK (basTemp s0).isNone
      let s2 := if (basTemp s0).isNone then setErr s1 Reg.BAS_ERR_TEMP_SRC else s1
      exec (.tempUpdate conv) s = .next ((List.range 42).foldl (fun s n =>
        let s3 := updChan s n fun c => { c with gppm := interpTable TempPoint.gain t c.table, phase := interpTable TempPoint.phase t c.table }
        let d := chanDelay s3 n
        let s4 := updChan s3 n fun c => { c with delay := d.1 }
        if d.2 then setErr s4 Reg.BAS_ERR_DELAY_CLAMP else s4) s2)) ∧
  -- BASIN_COMMIT
  (∀ (s : State),
      let k := dtSec s.dt + 1
      s.bas.commitSec ≠ k →
      domState s 10 = 2 →
      exec .basinCommit s = .next (commitBasin (rollOpen (rollClose (basUpd s fun b => { b with commitSec := k }))))) ∧
  -- CHANNEL_STUCK
  (∀ (s : State) (n : Fin 42),
      chanOn s n.val = true →
      flag s (Reg.BAS_CH_CFG_FAULT n.val) = false →
      let s1 := setErr (count1 (setFlag s (Reg.BAS_CH_CFG_FAULT n.val) true) (Reg.BAS_CNT_COUNT 0)) Reg.BAS_ERR_CH_FAULT
      exec (.channelStuck n) s = .next
        (chanFault (chanEvent (updIntv s1 (n.val / 7) fun i => { i with chf := true }) n.val 0) n.val 0x8802 false)) ∧
  -- CHANNEL_RECOVER
  (∀ (s : State) (n : Fin 42),
      chanOn s n.val = true →
      flag s (Reg.BAS_CH_CFG_FAULT n.val) = true →
      exec (.channelRecover n) s = .next
        (chanFault (chanEvent (setFlag s (Reg.BAS_CH_CFG_FAULT n.val) false) n.val 2) n.val 0x8802 true)) ∧
  -- CHANNEL_DISABLED_WHILE_STUCK
  (∀ (s : State) (n : Fin 42),
      domState s 10 = 2 →
      chanOn s n.val = false →
      flag s (Reg.BAS_CH_CFG_FAULT n.val) = true →
      exec (.channelDisabledWhileStuck n) s = .next
        (chanFault (chanEvent (setFlag s (Reg.BAS_CH_CFG_FAULT n.val) false) n.val 3) n.val 0x8802 true)) ∧
  -- INTERVAL_END
  (∀ (s : State),
      let k := dtSec s.dt / intvSecs s
      s.bas.endIdx ≠ k + 1 →
      domState s 10 = 2 →
      role s ≠ 3 →
      let b := k * intvSecs s * 65536
      exec .intervalEnd s = .next (rollOpen (closeAll (rollClose (basUpd s fun x => { x with endIdx := k + 1 })) b b false))) ∧
  -- INTERVAL_LEN_WRITE
  (∀ (s : State) (v : Word),
      domState s 10 = 2 →
      exec (.intervalLenWrite v) s = .next (basIntervalWrite s v.toNat)) ∧
  -- RECONCILIATION_START
  (∀ (s : State) (w : ReconWait) (r : List ReconWait),
      s.bas.waits = w :: r →
      passedSec s w.at' (fld s Reg.BAS_INTERVAL_RECON_DELAY) = true →
      exec .reconciliationStart s = .next (if role s = 3 then basUpd s fun b => { b with waits := r }
        else setFlag (basUpd s fun b => { b with waits := r, running := b.running ++ [reconcile s w] }) Reg.BAS_STAT_RECON_BUSY true)) ∧
  -- RECON_DONE
  (∀ (s : State) (x : Recon) (r : List Recon),
      domState s 10 = 2 →
      s.bas.running = x :: r →
      let s1 := basUpd s fun b => { b with running := r, done := b.done.upd x.feeder [] fun l => (x :: l).take 8 }
      let s2 := countBy (count1 (setFlag s1 Reg.BAS_STAT_RECON_BUSY (!r.isEmpty)) (Reg.BAS_CNT_COUNT 5)) (Reg.BAS_CNT_COUNT 4) x.estimated
      exec .reconDone s = .next (emit (record s2 2 9 0x08 x.payload) 0x0802
        (leBytes 1 x.feeder ++ leBytes 1 x.flags ++ [0, 0] ++ leBytes 4 x.vec.length ++ leBytes 8 x.start)))

/-- Basin ring commands complete: each clause gives the whole next state of one command, so what it does not change is unchanged.
Clauses that write out a choice or an inference of the model where the spec leaves a point open: BAS_TEMP_TABLE_LOAD (log entry 40);
BAS_LANTERN_SET (log entry 48). The checks of BAD_FIELD are choices too (log entry 14). -/
def Obligations.BasinRingComplete : Prop :=
  -- BAS_TEMP_TABLE_LOAD
  (∀ (s : State) (sq : Fin 16) (c : Cmd), Ready s sq 0x0800 c →
      let n := c.op 16 1
      Clean (opChks c [(16, 1)] [(0, 8)] ++ [rangeChk (decide (41 < n)) 16]) →
      Reachable s c 0 →
      let b := memRead s (c.bufAddr 0) (c.bufLen 0)
      let k := fieldLE b 0 1
      Clean [rangeChk (decide (k < 1 ∨ 16 < k)) 0] →
      Clean [⟨decide (c.bufLen 0 < 8 + 12 * k), 40, 0x04⟩] →
      Clean (tempChks b k) →
      flag s Reg.BAS_CTRL_LOCK = false →
      let t := (List.range k).map fun i => tempPoint b (8 + 12 * i)
      exec (.basTempTableLoad sq) s = .next (completeConfig (updIntv (updChan s n fun x => { x with table := t }) (n / 7) fun i => { i with cal := true }) c ansDone)) ∧
  -- BAS_VALUES_READ
  (∀ (s : State) (sq : Fin 16) (c : Cmd), Ready s sq 0x0801 c →
      let f := c.op 16 1
      Clean (opChks c [(16, 1)] [(1, 128)] ++ [feederChk c 16]) →
      flag s (Reg.BAS_FDR_CFG_EN f) = true →
      Reachable s c 0 →
      let s1 := memWrite s (c.bufAddr 0) (List.take (c.bufLen 0) (valuesPage s f))
      exec (.basValuesRead sq) s = .next (complete s1 c (ansDone 128))) ∧
  -- BAS_ENERGY_READ
  (∀ (s : State) (sq : Fin 16) (c : Cmd), Ready s sq 0x0802 c →
      Clean (opChks c [(16, 1)] [(1, 152)] ++ [feederChk c 16]) →
      Reachable s c 0 →
      let s1 := memWrite s (c.bufAddr 0) (List.take (c.bufLen 0) (leBytes 8 s.dt ++ (fdrAt s (c.op 16 1)).acc.flatMap fun a => leBytes 8 (a / 2 ^ 32)))
      exec (.basEnergyRead sq) s = .next (complete s1 c (ansDone 152))) ∧
  -- BAS_LANTERN_SET
  (∀ (s : State) (sq : Fin 16) (c : Cmd), Ready s sq 0x0803 c →
      let n := c.op 16 3
      let k := c.op 20 4
      Clean (opChks c [(16, 3), (20, 4)] [(0, 8 * min k 65536)] ++
        [ephChk c 16, rangeChk (decide (k < 1 ∨ 65536 < k)) 20, rangeChk (decide (n < foldSize ∧ foldSize < n + k)) 20]) →
      Reachable s c 0 →
      let b := memRead s (c.bufAddr 0) (c.bufLen 0)
      Clean ((List.range k).flatMap fun i => (match firstNonZero b (8 * i + 6) 2 with | some o => [rsvChk true o] | none => [])) →
      let m := (List.range k).foldl (fun (m : SMap BasLantern) i =>
        m.set (n + i) { rated := fieldLE b (8 * i) 2, cal := fieldLE b (8 * i + 2) 2, weight := fieldLE b (8 * i + 4) 2 } {}) s.bas.lanterns
      exec (.basLanternSet sq) s = .next (completeConfig (basUpd s fun x => { x with lanterns := m }) c (ansDone k))) ∧
  -- BAS_ALLOC_READ
  (∀ (s : State) (sq : Fin 16) (c : Cmd), Ready s sq 0x0804 c →
      let k := c.op 24 4
      Clean (opChks c [(16, 2), (20, 8)] [(1, 16 * min k 65536)] ++
        [feederChk c 16, rangeChk (decide (7 < c.op 17 1)) 17, rangeChk (decide (k < 1 ∨ 65536 < k)) 24]) →
      ∀ x, (s.bas.done.get (c.op 16 1) [])[c.op 17 1]? = some x →
      let l := (x.vec.drop (c.op 20 4)).take k
      Reachable s c 0 →
      exec (.basAllocRead sq) s =
        .next (complete (memWrite s (c.bufAddr 0) (List.take (c.bufLen 0) l.flatten)) c (ansDone l.length))) ∧
  -- BAS_RECON_READ
  (∀ (s : State) (sq : Fin 16) (c : Cmd), Ready s sq 0x0805 c →
      Clean (opChks c [(16, 2)] [(1, 68)] ++ [feederChk c 16, rangeChk (decide (7 < c.op 17 1)) 17]) →
      ∀ x, (s.bas.done.get (c.op 16 1) [])[c.op 17 1]? = some x →
      Reachable s c 0 →
      exec (.basReconRead sq) s =
        .next (complete (memWrite s (c.bufAddr 0) (List.take (c.bufLen 0) x.payload)) c (ansDone 68)))

/-- Cistern events and latching reads complete: each clause gives the whole next state of one command, so what it does not change is unchanged.
Clauses that write out a choice or an inference of the model where the spec leaves a point open: POWER_LOSS_HOLD_END, FOLD_GRACE_END (log
entry 76); STORM (log entries 77 and 166); LIVE_ARCHIVE, AUDIT_ARCHIVE (log entry 78). -/
def Obligations.CisternComplete : Prop :=
  -- POWER_LOSS_HOLD_END
  (∀ (s : State) (h : HeldLoss) (r : List HeldLoss),
      s.cis.held = h :: r →
      passedSec s h.arrived (fld s Reg.CIS_FOLD_HOLD) = true →
      exec .powerLossHoldEnd s = .next (faultAt (cisUpd s fun x => { x with held := r }) h.dt 0x04 0x0001 false h.eph h.feeder h.detail 1 0)) ∧
  -- FOLD_GRACE_END
  (∀ (s : State) (f : Fin 6),
      let c := foldAt s f
      c.active = true →
      c.causes = 0 →
      passedSec s c.ended (fld s Reg.CIS_FOLD_GRACE) = true →
      exec (.foldGraceEnd f) s = .next (faultAt (setFold s f {}) s.dt 0x09 0x8901 true 0x3FFFF f
        (c.seen + 256 * min ((c.ended - c.began) / 65536) (2 ^ 24 - 1)) c.count c.lost)) ∧
  -- STORM
  (∀ (s : State),
      s.cis.stormSec ≠ dtSec s.dt →
      exec .storm s = .next (s.cis.buckets.keys.foldl stormSource (cisUpd s fun c => { c with stormSec := dtSec s.dt }))) ∧
  -- LIVE_ARCHIVE
  (∀ (s : State),
      let new := s.cis.live.filter fun l => !l.archived
      exec .liveArchive s = .next (cisUpd (skipTorn s new) fun c => { c with
        arch0 := dropTo 201326592 (c.arch0 ++ (new.filter fun l => !l.torn).map LiveRec.body)
        live := c.live.map fun l => { l with archived := true } })) ∧
  -- AUDIT_FRAM_WRITE
  (∀ (s : State) (r : CisRec) (rest : List CisRec),
      s.cis.pend1 = r :: rest →
      let held := ((s.cis.fram1 ++ [r]).map CisRec.len).sum
      held ≤ 2097152 →
      exec .auditFramWrite s = .next (cisUpd s fun c => { c with
        pend1 := rest, fram1 := c.fram1 ++ [r], framOld := dropTo (2097152 - held) c.framOld })) ∧
  -- AUDIT_ARCHIVE
  (∀ (s : State),
      let fresh := s.cis.fram1
      (1048576 ≤ (fresh.map CisRec.len).sum ∨ passedSec s s.cis.arch1At 3600 = true) →
      let all := bySeq (s.cis.arch1 ++ fresh.filter fun r => !isBad s 1 r)
      let kept := dropTo 268435456 all
      let s1 := cisUpd (skipBad s 1 fresh) fun c => { c with
        arch1 := kept, fram1 := [], framOld := c.framOld ++ fresh, arch1At := s.el }
      exec .auditArchive s = .next (invalidateSnaps (if kept.length < all.length then setErr s1 Reg.CIS_ERR_AUDIT_WRAP else s1))) ∧
  -- CIS_LIVE_FSEQ_READ
  (∀ (s : State),
      let c := s.cis
      let s1 := setFld (setFld (setFld s Reg.CIS_LIVE_FSEQ_HI_SEQ (c.fseq / 2 ^ 32)) Reg.CIS_LIVE_NSEQ_LO_SEQ c.nseq)
        Reg.CIS_LIVE_NSEQ_HI_SEQ (c.nseq / 2 ^ 32)
      let s2 := setFld (setFld s1 Reg.CIS_LIVE_FIRST_OFS c.first) Reg.CIS_LIVE_HEAD_OFS c.headOfs
      exec .cisLiveFseqRead s = .next { s2 with host := { s2.host with readData := c.fseq % 2 ^ 32 } }) ∧
  -- CIS_AUD_OSEQ_READ
  (∀ (s : State),
      let o := auditOseq s
      let s1 := setFld (setFld (setFld s Reg.CIS_AUD_OSEQ_HI_SEQ (o / 2 ^ 32)) Reg.CIS_AUD_NSEQ_LO_SEQ s.cis.nseq1)
        Reg.CIS_AUD_NSEQ_HI_SEQ (s.cis.nseq1 / 2 ^ 32)
      exec .cisAudOseqRead s = .next { s1 with host := { s1.host with readData := o % 2 ^ 32 } })

/-- Cistern ring commands complete: each clause gives the whole next state of one command, so what it does not change is unchanged.
Clauses that write out a choice or an inference of the model where the spec leaves a point open: CIS_READ, CIS_SNAP_READ (log entry 78);
CIS_CLEAR_CHALLENGE (log entry 99); CIS_SEC_CLEAR (log entries 96 and 98). The checks of BAD_FIELD are choices too (log entry 14). -/
def Obligations.CisternRingComplete : Prop :=
  -- CIS_WIN_READ
  (∀ (s : State) (sq : Fin 16) (c : Cmd), Ready s sq 0x0900 c →
      Clean (opChks c [] [(1, 528)]) →
      Reachable s c 0 →
      let s1 := memWrite s (c.bufAddr 0) (List.take (c.bufLen 0) (ringBytes s (fld s Reg.CIS_CURSOR_OFS) 512 ++ leBytes 8 s.cis.nseq ++ leBytes 8 s.cis.fseq))
      exec (.cisWinRead sq) s = .next (complete s1 c (ansDone 528))) ∧
  -- CIS_READ
  (∀ (s : State) (sq : Fin 16) (c : Cmd), Ready s sq 0x0901 c →
      let cls := c.op 17 1
      let first := c.op 24 6
      Clean (opChks c [(17, 1), (24, 6)] [(1, 512)] ++ [⟨decide (3 < cls), 17, 0x03⟩, rangeChk (decide (s.cis.nseq ≤ first)) 24]) →
      let new := s.cis.live.filter fun l => !l.archived
      let wanted (r : CisRec) : Bool := decide (first ≤ r.seq) && bit cls r.cls
      let all := (s.cis.arch0.filter fun r => !isBad s 0 r) ++ (new.filter fun l => !l.torn).map LiveRec.body
      let f := takeFit 65535 (c.bufLen 0) (all.filter wanted)
      let last := (match f.2.2 with | some r => r.seq | none => s.cis.nseq)
      let passed (r : CisRec) : Bool := wanted r && decide (r.seq < last)
      let s1 := skipTorn (skipBad s 0 (s.cis.arch0.filter passed)) (new.filter fun l => passed l.body)
      Reachable s1 c 0 →
      exec (.cisRead sq) s = .next (complete (memWrite s1 (c.bufAddr 0) (List.take (c.bufLen 0) f.1)) c
        (ansDone (readResult f.2.1 f.2.2 s.cis.nseq)))) ∧
  -- CIS_SNAP_PIN
  (∀ (s : State) (sq : Fin 16) (c : Cmd), Ready s sq 0x0902 c →
      let n := c.op 16 1
      let cls := c.op 17 1
      let first := c.op 24 6
      let last := if c.op 32 6 = 0 then s.cis.nseq1 - 1 else c.op 32 6
      Clean (opChks c [(16, 2), (24, 6), (32, 6)] [] ++
        [rangeChk (decide (3 < n)) 16, ⟨decide (cls % 4 ≠ 0 ∨ 15 < cls), 17, 0x03⟩,
         rangeChk (decide (s.cis.nseq1 ≤ first ∨ last < first)) 24, rangeChk (decide (s.cis.nseq1 ≤ last)) 32]) →
      flag s (Reg.CIS_SNAP_PINNED n) = false →
      ¬ (first < auditOseq s) →
      let s1 := setReg s (Reg.CIS_SNAP_PINNED n).off (BitVec.ofNat 32 (2 ^ 31 + cls))
      exec (.cisSnapPin sq) s = .next (complete (cisUpd s1 fun x => { x with snaps := x.snaps.set n { first := first, last := last } {} }) c (ansDone last))) ∧
  -- CIS_SNAP_READ
  (∀ (s : State) (sq : Fin 16) (c : Cmd), Ready s sq 0x0903 c →
      let n := c.op 16 1
      let from' := c.op 24 6
      Clean (opChks c [(16, 1), (24, 6)] [(1, 512)] ++ [rangeChk (decide (3 < n)) 16, rangeChk (decide (s.cis.nseq1 ≤ from')) 24]) →
      flag s (Reg.CIS_SNAP_PINNED n) = true →
      flag s (Reg.CIS_SNAP_INVALID n) = false →
      let p := s.cis.snaps.get n {}
      let l := (auditAll s).filter fun r => decide (from' ≤ r.seq ∧ p.first ≤ r.seq ∧ r.seq ≤ p.last) &&
        bit (reg s (Reg.CIS_SNAP_PINNED n).off).toNat r.cls
      let (b, k, left) := takeFit 65535 (c.bufLen 0) (l.filter fun r => !isBad s 1 r)
      let s0 := skipBad s 1 (l.filter fun r => match left with | some m => decide (r.seq < m.seq) | none => true)
      Reachable s0 c 0 →
      let s1 := memWrite s0 (c.bufAddr 0) (List.take (c.bufLen 0) b)
      exec (.cisSnapRead sq) s = .next (complete s1 c (ansDone (readResult k left (p.last + 1))))) ∧
  -- CIS_SNAP_RELEASE
  (∀ (s : State) (sq : Fin 16) (c : Cmd), Ready s sq 0x0904 c →
      let n := c.op 16 1
      Clean (opChks c [(16, 1)] [] ++ [rangeChk (decide (3 < n)) 16]) →
      flag s (Reg.CIS_SNAP_PINNED n) = true →
      exec (.cisSnapRelease sq) s = .next (complete (cisUpd (setReg s (Reg.CIS_SNAP_PINNED n).off 0) fun x => { x with snaps := x.snaps.set n {} {} }) c ansDone)) ∧
  -- CIS_CLEAR_CHALLENGE
  (∀ (s : State) (sq : Fin 16) (c : Cmd), Ready s sq 0x0905 c →
      Clean (opChks c [] []) →
      let (b, s1) := random s 8
      exec (.cisClearChallenge sq) s = .next (complete (cisUpd s1 fun x => { x with nonce := some (leNat b, s.el) }) c (ansDone (leNat b)))) ∧
  -- CIS_SEC_CLEAR
  (∀ (s : State) (sq : Fin 16) (c : Cmd), Ready s sq 0x0906 c →
      let upTo := c.op 24 6
      Clean (opChks c [(24, 6)] [(0, 40)] ++ [rangeChk (decide (s.cis.nseq1 ≤ upTo)) 24]) →
      Reachable s c 0 →
      let b := memRead s (c.bufAddr 0) (c.bufLen 0)
      (s.cis.nonce.any fun x => !passedSec s x.2 300 && decide (x.1 = fieldLE b 0 8)) = true →
      let hit (r : CisRec) : Bool := decide (r.cls = 3 ∧ r.seq ≤ upTo)
      ((List.range 4).any fun n =>
        let p := s.cis.snaps.get n {}
        flag s (Reg.CIS_SNAP_PINNED n) && bit (reg s (Reg.CIS_SNAP_PINNED n).off).toNat 3 &&
          (auditAll s).any fun r => hit r && decide (p.first ≤ r.seq ∧ r.seq ≤ p.last)) = false →
      ∀ key, internalUse s (fld s Reg.CIS_CTRL_CLEAR_SLOT) 3 2 8 = some key →
      let tag := hmacSha256 key (ascii "CISTERN-CLEAR" ++ beBytes 8 Config.moduleEui ++ beBytes 8 (fieldLE b 0 8) ++ beBytes 6 upTo)
      let cnt := ((auditAll s).filter hit).length
      let s1 := cisUpd s fun x => { x with
        nonce := none, arch1 := x.arch1.map (clearRec upTo), fram1 := x.fram1.map (clearRec upTo)
        framOld := x.framOld.map (clearRec upTo), pend1 := x.pend1.map (clearRec upTo) }
      exec (.cisSecClear sq) s = .next (if tag ≠ (b.drop 8).take 32 then complete s c (ansBadSig 0x0001)
        else complete (record (remask s1 (fld s Reg.CIS_CTRL_CLEAR_SLOT)) 3 4 0x09 (leBytes 6 upTo ++ [0, 0] ++ leBytes 4 cnt ++ List.replicate 8 0)) c (ansDone cnt)))

/-- Update ring commands complete: each clause gives the whole next state of one command, so what it does not change is unchanged.
Clauses that write out a choice or an inference of the model where the spec leaves a point open: UPD_PIECE (log entries 30 and 80);
UPD_VERIFY (log entry 80); UPD_EP_STOP (log entries 53 and 83); UPD_EP_STATUS (log entry 83). The checks of BAD_FIELD are choices too (log
entry 14). -/
def Obligations.UpdatesRingComplete : Prop :=
  -- UPD_OPEN
  (∀ (s : State) (sq : Fin 16) (c : Cmd), Ready s sq 0x0A00 c →
      let n := (slotNum (c.op 16 1)).getD 0
      let total := c.op 20 4
      let image := c.op 24 4
      Clean (opChks c [(16, 1), (20, 8)] [] ++
        [slotChk c, rangeChk (decide (total ≤ 512 ∨ slotSize n < total)) 20, rangeChk (decide (image = 0)) 24]) →
      slotHeld s n = false →
      campBusy s n = false →
      let x := slotOf s n
      exec (.updOpen sq) s = .next (if x.state = 1 ∧ x.image = image ∧ x.total = total then complete s c (ansDone x.pieces.length)
        else complete (setUSlot s n { state := 1, total := total, image := image }) c ansDone)) ∧
  -- UPD_PIECE
  (∀ (s : State) (sq : Fin 16) (c : Cmd) (ok : Bool), Ready s sq 0x0A01 c →
      let n := (slotNum (c.op 16 1)).getD 0
      let i := c.op 20 4
      let x := slotOf s n
      Clean (opChks c [(16, 1), (20, 8)] [(0, 4096)] ++ [slotChk c, rangeChk (decide (0 < x.total ∧ x.numPieces ≤ i)) 20]) →
      Reachable s c 0 →
      let b := memRead s (c.bufAddr 0) (c.bufLen 0)
      x.state = 1 →
      isVerifying s n = false →
      crc32c (b.take 4096) = c.op 24 4 →
      x.pieces.get i [] = [] →
      ok = true →
      exec (.updPiece sq ok) s = .next (complete
        (setUSlot (count1 s (Reg.UPD_CNT_COUNT 0)) n { x with pieces := x.pieces.set i (b.take 4096) [] }) c ansDone)) ∧
  -- UPD_VERIFY
  (∀ (s : State) (sq : Fin 16) (c : Cmd), Ready s sq 0x0A02 c →
      let n := (slotNum (c.op 16 1)).getD 0
      Clean (opChks c [(16, 1)] [] ++ [slotChk c]) →
      (!((slotOf s n).full || (slotOf s n).delivered)) = false →
      isVerifying s n = false →
      exec (.updVerify sq) s = .next (complete (updShow (updUpd s fun u => { u with verifying := u.verifying ++ [(n, c.ref, imageKey s n)] })) c ansQueued)) ∧
  -- UPD_ACTIVATE
  (∀ (s : State) (sq : Fin 16) (c : Cmd), Ready s sq 0x0A03 c →
      let n := c.op 16 1
      let x := slotOf s n
      let t := c.op 24 8
      Clean (opChks c [(16, 1), (24, 8)] [] ++ [rangeChk (decide (1 < n)) 16, dtChk c 24]) →
      x.state = 2 →
      (s.upd.rescue = true ∨ s.dt + 60 * 65536 ≤ t) →
      s.upd.act.isSome = false →
      inTrial s = false →
      s.upd.floor ≤ x.svn →
      let t' := if s.upd.rescue then s.dt else t
      exec (.updActivate sq) s = .next (complete
        (updAudit (setUSlot (updUpd s fun u => { u with act := some { slot := n, actDt := t', due := s.upd.rescue } }) n
          { x with state := 4 }) 1 n []) c ansDone)) ∧
  -- UPD_CANCEL
  (∀ (s : State) (sq : Fin 16) (c : Cmd), Ready s sq 0x0A04 c →
      Clean (opChks c [] []) →
      ∀ a, s.upd.act = some a →
      actDue s = false →
      exec (.updCancel sq) s = .next (complete
        (setUSlot (updUpd s fun u => { u with act := none }) a.slot { slotOf s a.slot with state := 2 }) c ansDone)) ∧
  -- UPD_CONFIRM
  (∀ (s : State) (sq : Fin 16) (c : Cmd), Ready s sq 0x0A05 c →
      Clean (opChks c [] []) →
      inTrial s = true →
      exec (.updConfirm sq) s = .next (complete (updUpd s fun u => { u with hostConfirm := true }) c ansDone)) ∧
  -- UPD_ERASE
  (∀ (s : State) (sq : Fin 16) (c : Cmd), Ready s sq 0x0A06 c →
      let n := (slotNum (c.op 16 1)).getD 0
      Clean (opChks c [(16, 1)] [] ++ [slotChk c]) →
      slotHeld s n = false →
      campBusy s n = false →
      exec (.updErase sq) s = .next (complete (setUSlot s n {}) c ansDone)) ∧
  -- UPD_EP_OFFER
  (∀ (s : State) (sq : Fin 16) (c : Cmd), Ready s sq 0x0A07 c →
      let k := c.op 16 1 - 16
      let t := c.op 24 8
      Clean (opChks c [(16, 17), (34, 4)] [] ++
        [epSlotChk c, rsvChk (decide (1 < c.op 17 1)) 17, rangeChk (decide (c.op 20 1 = 0)) 20, rangeChk (decide (c.op 21 1 = 0)) 21,
         rangeChk (decide (c.op 22 2 < 60)) 22, dtChk c 24, rangeChk (decide (c.op 32 1 = 0)) 32,
         rangeChk (decide (1439 < c.op 34 2)) 34, rangeChk (decide (1439 < c.op 36 2)) 36]) →
      let x := slotOf s (k + 2)
      x.state = 2 →
      campBusy s (k + 2) = false →
      bit (fieldLE x.manifest 27 1) 3 = true →
      s.dt + 2 * 65536 ≤ t →
      commitRoom s 1 = true →
      let all := bit (c.op 17 1) 0
      let (s1, id) := acceptCommit s 8 (c.op 18 2) 0 t all (offerBody k x) none
      let camp : Campaign := {
        state := 1, targets := campTargets s x (c.op 18 2) all, group := c.op 18 2, all := all, burst := c.op 20 1,
        gap := c.op 21 1, roundGap := c.op 22 2, maxRounds := c.op 32 1, sendFrom := c.op 34 2, sendTo := c.op 36 2, ref := some c.ref,
        nextRound := (t + 65535) / 65536 + 10 }
      exec (.updEpOffer sq) s = .next (complete (setCamp s1 k camp) c (ansQueued 0 id))) ∧
  -- UPD_EP_ACTIVATE
  (∀ (s : State) (sq : Fin 16) (c : Cmd), Ready s sq 0x0A08 c →
      let k := c.op 16 1 - 16
      let t := c.op 24 8
      let win := c.op 18 2
      Clean (opChks c [(16, 6), (24, 8)] [] ++
        [epSlotChk c, rsvChk (decide (1 < c.op 17 1)) 17, rangeChk (decide (win = 0)) 18, rangeChk (decide (c.op 20 2 < 60)) 20, dtChk c 24]) →
      let camp := campAt s k
      camp.state = 2 →
      s.dt + 2 * 65536 ≤ t →
      commitRoom s 1 = true →
      let (s1, id) := acceptCommit s 9 camp.group (c.op 17 1) t camp.all
        (leBytes 1 k ++ [0] ++ leBytes 4 (slotOf s (k + 2)).image ++ leBytes 2 win) none
      exec (.updEpActivate sq) s = .next (complete (setCamp s1 k { camp with
        state := 3, notActed := [], act := some { id := id, tally := t + (win + c.op 20 2) * 65536, ref := some c.ref } }) c (ansQueued 0 id))) ∧
  -- UPD_EP_STOP
  (∀ (s : State) (sq : Fin 16) (c : Cmd), Ready s sq 0x0A09 c →
      let k := c.op 16 1 - 16
      Clean (opChks c [(16, 2)] [] ++ [epSlotChk c, rsvChk (decide (1 < c.op 17 1)) 17]) →
      let camp := campAt s k
      camp.state ≠ 0 →
      camp.state ≠ 4 →
      let s1 := if camp.state = 1 then roundsDone s k else setCamp s k { camp with state := 2 }
      let pend := pendingAct s k
      (bit (c.op 17 1) 0 = true → commitRoom s (1 + b2n pend.isSome) = true) →
      let s2 := match pend with | some e => cancelCommit s1 e none | none => s1
      let r := acceptCommit s2 10 camp.group 0 ((s.dt + fld s Reg.STR_COMMIT_LEAD * 65536) % 2 ^ 56) camp.all
        (leBytes 1 k ++ [0] ++ leBytes 4 (slotOf s (k + 2)).image) (some c.ref)
      exec (.updEpStop sq) s = .next (if bit (c.op 17 1) 0 then complete (causedBy s r.1 c.seq) c (ansQueued 0 r.2)
        else complete (causedBy s s1 c.seq) c ansDone)) ∧
  -- UPD_EP_STATUS
  (∀ (s : State) (sq : Fin 16) (c : Cmd), Ready s sq 0x0A0A c →
      let k := c.op 16 1 - 16
      Clean (opChks c [(16, 1)] [(1, 64)] ++ [epSlotChk c]) →
      let camp := campAt s k
      let count (st : Nat) : Nat := (camp.targets.filter fun n => otaState (entAt s n).ota = st).length
      Reachable s c 0 →
      let s1 := memWrite s (c.bufAddr 0) (List.take (c.bufLen 0) (padTo 64 (((List.range 8).flatMap fun st => leBytes 4 (count st)) ++ leBytes 4 (silentCount s k camp) ++
        leBytes 4 camp.targets.length ++ leBytes 1 camp.rounds ++ leBytes 1 camp.state)))
      exec (.updEpStatus sq) s = .next (complete s1 c (ansDone 64)))

/-- Update events complete: each clause gives the whole next state of one command, so what it does not change is unchanged.
Clauses that write out a choice or an inference of the model where the spec leaves a point open: IMAGE_VERIFIED (log entry 80);
ACTIVATION_DUE (log entries 78, 115 and 116); HEALTH_WINDOW_EXPIRY (log entry 115); IMAGE_BLOCK (log entries 54 and 82);
EP_ACTIVATION_DONE (log entry 83). -/
def Obligations.UpdatesEventComplete : Prop :=
  -- IMAGE_VERIFIED
  (∀ (s : State) (n : Nat) (ref : CmdRef) (key : Option (List Byte)) (r : List (Nat × CmdRef × Option (List Byte))),
      s.upd.verifying = (n, ref, key) :: r →
      let c := checkImage (updUpd s fun u => { u with verifying := r }) n key
      let x := slotOf c.1 n
      let p (k : Nat) : List Byte := leBytes 1 (slotVal n) ++ leBytes 1 k ++ [0, 0] ++ leBytes 4 x.imageId ++ x.version
      exec .imageVerified s = .next (match c.2 with
        | none => emitOutcome (updAudit (setUSlot c.1 n { x with state := 2 }) 0 n []) 0x0A00 (p 0) (some ref) 0
        | some (a, k) => emitOutcome (setErr (setUSlot c.1 n { x with state := 3 }) Reg.UPD_ERR_VERIFY_FAIL) 0x0A00 (p k) (some ref) a.status)) ∧
  -- ACTIVATION_DUE
  (∀ (s : State) (b : Boot) (a : ActSched),
      s.upd.act = some a →
      running s = true →
      actDue s = true →
      fld s Reg.PWR_STAT_STEP = 9 →
      flag s Reg.PWR_STAT_PF = false →
      let s1 := if a.since.isSome then s else stopForActivation s a
      let s2 := updAudit (commitAll (flushHeld s1)) 2 a.slot []
      let s3 := (List.range s2.cis.pend1.length).foldl (fun s _ => framWrite s) s2
      let r : BootRec := { slot := a.slot, prev := slotBefore s1 a.slot, tries := 1, win := fld s1 Reg.UPD_CFG_HEALTH_WIN, booted := false }
      ((allFetched s1).isEmpty = true ∨ a.since.any (fun t => passedMs s t 20) = true →
        exec (.activationDue b) s = .next (modReset (updUpd s3 fun u => { u with act := none, boot := some r }) b 7 false)) ∧
      ((allFetched s1).isEmpty = false → a.since.any (fun t => passedMs s t 20) = false → exec (.activationDue b) s = .next s1)) ∧
  -- IMAGE_CONFIRMED
  (∀ (s : State) (b : BootRec),
      s.upd.boot = some b →
      b.booted = true →
      fld s Reg.PWR_STAT_STEP = 9 →
      fld s Reg.BST_STAT_START = 1 →
      (flag s Reg.UPD_CTRL_HOST_CONFIRM = false ∨ s.upd.hostConfirm = true) →
      passedSec s s.upd.trialSince b.win = false →
      let x := slotOf s b.slot
      let s1 := updUpd s fun u => { u with boot := none, floor := max u.floor x.svn, hostConfirm := false }
      let s2 := updAudit (setUSlot s1 b.slot { x with state := 5 }) 3 b.slot []
      exec .imageConfirmed s = .next (emit s2 0x0A01 (leBytes 1 (slotVal b.slot) ++ [0, 0, 0] ++ leBytes 4 x.imageId ++ leBytes 4 x.svn))) ∧
  -- HEALTH_WINDOW_EXPIRY
  (∀ (s : State) (b : Boot) (r : BootRec),
      s.upd.boot = some r →
      running s = true →
      r.booted = true →
      passedSec s s.upd.trialSince r.win = true →
      exec (.healthWindowExpiry b) s = .next (modReset s b 6 true)) ∧
  -- ROUND_START
  (∀ (s : State) (k : Nat),
      (List.range 16).find? (roundDue s) = some k →
      exec .roundStart s = .next (startRound s k)) ∧
  -- IMAGE_BLOCK
  (∀ (s : State) (k : Nat) (w : ImgWin),
      chainLeft s 2 = true →
      blockDue s = some (k, w) →
      let b := w.blocks.getD (winIdx s w - w.sp) 0
      let r := sendBlock (useWindow s k w) k b w
      exec .imageBlock s = .next (if r.2 then count1 r.1 (Reg.UPD_CNT_COUNT 4) else r.1)) ∧
  -- EP_ACTIVATION_DONE
  (∀ (s : State) (k : Nat),
      ((List.range 16).find? fun k => (campAt s k).act.any fun a => decide (a.tally ≤ s.dt)) = some k →
      let c := campAt s k
      let is (n st : Nat) : Bool := decide (otaState (entAt s n).ota = st)
      let conf := c.targets.filter fun n => is n 6
      let fell := c.targets.filter fun n => is n 7
      let rest := c.targets.filter fun n => !is n 6 && !is n 7
      let notAct := rest.filter c.notActed.contains
      let silent := rest.length - notAct.length
      let s1 := setCamp s k { c with state := 4, act := none }
      let s2 := updAudit s1 5 (k + 2) [conf.length, fell.length, silent]
      exec .epActivationDone s = .next (emitOutcome s2 0x0A04
        (leBytes 1 (k + 16) ++ [0, 0, 0] ++ leBytes 3 conf.length ++ leBytes 3 fell.length ++ leBytes 3 silent ++ leBytes 3 notAct.length)
        (c.act.bind ActPlan.ref) 0))

/-- Fountain events complete: each clause gives the whole next state of one command, so what it does not change is unchanged.
Clauses that write out a choice or an inference of the model where the spec leaves a point open: SUPERFRAME (log entry 85); OPEN_STRING,
LED_SHORT, PIN_TEST (log entry 88); FIXTURE_TEMP_UPDATE (log entry 86); STATUS (log entry 89). -/
def Obligations.FountainEventComplete : Prop :=
  -- SUPERFRAME
  (∀ (s : State) (pins : List (Fin 16 × Nat)),
      let k := s.el * 9375 / (64 * 65536) + 1
      s.ftn.boundary ≠ k →
      domState s 11 = 2 →
      let s1 := latchSinks (takePins (ftnUpd s fun f => { f with boundary := k, count := f.count + 1 }) pins)
      let s2 := driveSinks (ftnUpd s1 fun f => { f with outputsOn := ftnOutputs s1 })
      let s3 := if s2.ftn.outputsOn then portFrame (portFrame s2 0) 1 else s2
      exec (.superframe pins) s = .next ((List.range 16).foldl runJet ((List.range 16).foldl beginJet s3))) ∧
  -- BOOST_PERIOD
  (∀ (s : State) (vsense : Nat) (csCut vmaxCut : Option (BitVec 16)),
      domState s 11 = 2 →
      let s0 := setFld (ftnUpd s fun f => { f with vout := min vsense 8191 }) Reg.FTN_BOOST_STAT_VOUT (min vsense 8191)
      let en := flag s0 Reg.FTN_CTRL_BOOST_EN
      let overVolt := en && decide (fld s0 Reg.FTN_BOOST_VMAX * 10 ≤ vsense)
      let on := en && !overVolt && ftnOutputs s0 && decide (activeMask s0 ≠ 0)
      let dmax := b32.ratio false (fld s0 Reg.FTN_BOOST_LIM_DMAX) 1024
      let d := (b32.toIntFloor (b32.mul (b32.min (boostDuty s0) dmax) (b32.ofInt 65536))).toNat
      let cs := csCut.map BitVec.toNat
      let vm := vmaxCut.map BitVec.toNat
      let t := if on then min d (min (cs.getD d) (vm.getD d)) else 0
      let ilim := on && decide (t < d) && decide (cs = some t)
      let ovp := overVolt || (on && decide (t < d) && decide (vm = some t))
      let s1 := setFlag (setFlag s0 Reg.FTN_BOOST_STAT_ILIM ilim) Reg.FTN_BOOST_STAT_OVP ovp
      let s2 := if ilim then count1 s1 (Reg.FTN_CNT_COUNT 1) else s1
      exec (.boostPeriod vsense csCut vmaxCut) s = .next (drivePad (if ovp then count1 s2 (Reg.FTN_CNT_COUNT 0) else s2) .ftnGate t)) ∧
  -- OPEN_STRING
  (∀ (s : State) (n : Fin 16),
      sinkActive s n.val = true →
      flag s (Reg.FTN_SINK_STAT_OPEN n.val) = false →
      exec (.openString n) s = .next (latchSink s n.val 0x8B01 0 [Reg.FTN_SINK_STAT_OPEN n.val])) ∧
  -- LED_SHORT
  (∀ (s : State) (n : Fin 16),
      let extra := s.ftn.headroom.get n.val 0 - (lowestHeadroom s).getD 0
      sinkActive s n.val = true →
      flag s (Reg.FTN_SINK_STAT_SHORT n.val) = false →
      fld s Reg.FTN_PINTEST_SHORT_MV ≤ extra →
      exec (.ledShort n) s = .next (latchSink s n.val 0x8B02 (extra % 65536 * 65536) [Reg.FTN_SINK_STAT_SHORT n.val])) ∧
  -- OVERTEMP
  (∀ (s : State) (g : Fin 4) (t : Int),
      domState s 11 = 2 →
      let ks := (List.range 4).map fun i => 4 * g.val + i
      (125 ≤ t → exec (.overtemp g t) s = .next (ks.foldl (fun s k =>
        if flag s (Reg.FTN_SINK_STAT_OT k) then s else latchSink s k 0x8B03 (ofSigned 8 t * 256) [Reg.FTN_SINK_STAT_OT k]) s)) ∧
      (t < 110 → exec (.overtemp g t) s = .next (driveSinks (ks.foldl (fun s k =>
        if flag s (Reg.FTN_SINK_STAT_OT k) then
          fault (setFlag s (Reg.FTN_SINK_STAT_OT k) false) 0x0B 0x8B03 true (k + ofSigned 8 t * 256)
        else s) s)))) ∧
  -- PIN_TEST
  (∀ (s : State) (low : Bool) (k : Nat),
      let per := fld s Reg.FTN_PINTEST_PERIOD
      per ≠ 0 →
      ftnOutputs s = true →
      let begins := decide (15 ≤ s.ftn.pinNext) && passedSec s (s.ftn.pinAt - 1) per
      (s.ftn.pinNext < 15 ∨ begins = true) →
      let s1 := if begins then ftnUpd s fun f => { f with pinAt := s.el + 1, pinNext := 0 } else s
      ((List.range 15).find? fun k => decide (s1.ftn.pinNext ≤ k) && pairTestable s1 k) = some k →
      let s2 := pinTestDrive (ftnUpd s1 fun f => { f with pinNext := k + 1 }) k
      exec (.pinTest low) s = .next (if low then latchSink s2 k 0x8B04 0 [Reg.FTN_SINK_STAT_PIN k, Reg.FTN_SINK_STAT_PIN (k + 1)] else s2)) ∧
  -- FIXTURE_TEMP_UPDATE
  (∀ (s : State),
      let k := dtSec s.dt + 1
      s.ftn.tempSec ≠ k →
      domState s 11 = 2 →
      exec .fixtureTempUpdate s = .next (s.ftn.fixtures.foldl (fun s x => match x.2 with
        | some f => match f.target with
          | some t => (solveFix s x.1 f t).1
          | none => s
        | none => s) (ftnUpd s fun f => { f with tempSec := k }))) ∧
  -- STATUS
  (∀ (s : State) (p : Fin 2) (a : Nat) (l : List Byte),
      domState s 11 = 2 →
      (flbAt s p.val).asked = some a →
      2 ≤ l.length →
      let n := l.length - 2
      fieldLE l n 2 = crc16 (l.take n) →
      l.length = 8 →
      fieldLE l 0 1 = 0xD5 →
      fieldLE l 1 2 = a + 3 * 4096 →
      fieldLE l 3 1 = 2 →
      let s1 := updFlb s p.val fun f => { f with asked := none, misses := f.misses.set a 0 0 }
      exec (.status p (some l)) s = .next (if fieldLE l 4 1 = 0 then s1 else busFault s1 p.val a (fieldLE l 4 1)))

/-- Fountain ring commands complete: each clause gives the whole next state of one command, so what it does not change is unchanged.
Clauses that write out a choice or an inference of the model where the spec leaves a point open: FTN_FIXTURE_LOAD (log entry 87);
FTN_FIXTURE_SET (log entry 86); FTN_CHAN_SET (log entry 85). The checks of BAD_FIELD are choices too (log entry 14). -/
def Obligations.FountainRingComplete : Prop :=
  -- FTN_FIXTURE_LOAD
  (∀ (s : State) (sq : Fin 16) (c : Cmd), Ready s sq 0x0B00 c →
      let k := c.op 20 2
      let f := c.op 16 2
      Clean (opChks c [(16, 2), (20, 2)] [(0, 80 * min k 16384)] ++ ftnRange c 16 k 16384 16384) →
      Reachable s c 0 →
      let b := memRead s (c.bufAddr 0) (c.bufLen 0)
      Clean ((List.range k).flatMap fun i => fixtureChks b (80 * i)) →
      let m := (List.range k).foldl (fun (m : SMap (Option Fixture)) i => m.set (f + i) (some (Fixture.ofBytes b (80 * i))) none) s.ftn.fixtures
      hasRepeat (mapped m) = false →
      ((List.range k).any fun i => jetFix s (f + i)) = false →
      exec (.ftnFixtureLoad sq) s = .next (completeConfig (ftnUpd s fun x => { x with fixtures := m }) c (ansDone k))) ∧
  -- FTN_FIXTURE_SET
  (∀ (s : State) (sq : Fin 16) (c : Cmd), Ready s sq 0x0B01 c →
      let n := c.op 16 2
      Clean (opChks c [(16, 8)] [] ++ [rangeChk (decide (16384 ≤ n)) 16]) →
      jetFix s n = false →
      ∀ f, fixAt s n = some f →
      let r := solveFix s n f (c.op 18 2, c.op 20 2, c.op 22 2)
      exec (.ftnFixtureSet sq) s = .next (complete r.1 c (ansDone r.2))) ∧
  -- FTN_CHAN_SET
  (∀ (s : State) (sq : Fin 16) (c : Cmd), Ready s sq 0x0B02 c →
      let kind := c.op 16 1
      let f := c.op 18 2
      let k := c.op 20 1
      Clean (opChks c [(16, 1), (18, 3), (24, 2 * min k 16)] [] ++ [rangeChk (decide (1 < kind)) 16] ++
        (let lim := if kind = 0 then 16 else 65536
         [rangeChk (decide (lim ≤ f)) 18, rangeChk (decide (k < 1 ∨ 16 < k)) 20, rangeChk (decide (f < lim ∧ lim < f + k)) 20])) →
      let ch (i : Nat) : Nat := if kind = 0 then sinkChan (f + i) else f + i
      ((List.range k).any fun i => decide (codeSrc s (ch i) ≠ 0)) = false →
      exec (.ftnChanSet sq) s = .next (complete (ftnUpd s fun x => { x with reg := (List.range k).foldl (fun m i => m.set (ch i) (c.op (24 + 2 * i) 2) 0) x.reg }) c ansDone)) ∧
  -- FTN_COLOR_SET
  (∀ (s : State) (sq : Fin 16) (c : Cmd), Ready s sq 0x0B03 c →
      Clean (opChks c [(16, 1), (18, 4)] [] ++ [rangeChk (decide (254 < c.op 16 1)) 16, rangeChk (decide (c.op 20 2 = 0)) 20]) →
      exec (.ftnColorSet sq) s = .next (completeConfig (ftnUpd s fun x => { x with colors := x.colors.set (c.op 16 1) (c.op 18 2, c.op 20 2) (0, 0) }) c ansDone)) ∧
  -- FTN_JET_LOAD
  (∀ (s : State) (sq : Fin 16) (c : Cmd), Ready s sq 0x0B04 c →
      let j := c.op 16 1
      Clean (opChks c [(16, 1)] [(0, 28)] ++ [jetChk c]) →
      Reachable s c 0 →
      let b := memRead s (c.bufAddr 0) (c.bufLen 0)
      let n := fieldLE b 0 2
      Clean [rangeChk (decide (n < 1 ∨ 256 < n)) 0] →
      Clean [⟨decide (c.bufLen 0 < 16 + 12 * n), 40, 0x04⟩] →
      let p := JetProg.ofBytes b
      Clean (progChks b p) →
      (jetAt s j).state = 0 →
      exec (.ftnJetLoad sq) s = .next (completeConfig (setJet s j { prog := some p }) c ansDone)) ∧
  -- FTN_JET_START
  (∀ (s : State) (sq : Fin 16) (c : Cmd), Ready s sq 0x0B05 c →
      let j := c.op 16 1
      Clean (opChks c [(16, 1), (24, 8)] [] ++ [jetChk c, dtChk c 24]) →
      ∀ p, (jetAt s j).prog = some p →
      (jetAt s j).state = 0 →
      targetTaken s j p = false →
      exec (.ftnJetStart sq) s = .next (complete (setJet s j { prog := some p, state := 1, startDt := c.op 24 8 }) c ansDone)) ∧
  -- FTN_JET_STOP
  (∀ (s : State) (sq : Fin 16) (c : Cmd), Ready s sq 0x0B06 c →
      let j := c.op 16 1
      Clean (opChks c [(16, 1)] [] ++ [jetChk c]) →
      (jetAt s j).state ≠ 0 →
      let x := jetAt s j
      exec (.ftnJetStop sq) s = .next (complete (emitBy (setJet s j { x with state := 0 }) 0x0B00 (leBytes 1 j ++ leBytes 1 1 ++ leBytes 1 x.pc) c.seq) c ansDone)) ∧
  -- FTN_JET_EVENT
  (∀ (s : State) (sq : Fin 16) (c : Cmd), Ready s sq 0x0B07 c →
      let j := c.op 16 1
      let f := c.op 17 1
      Clean (opChks c [(16, 2)] [] ++ [jetChk c, rangeChk (decide (7 < f)) 17]) →
      let x := jetAt s j
      x.state ≠ 0 →
      exec (.ftnJetEvent sq) s = .next (complete (setJet s j { x with flags := putBits x.flags f f 1 }) c ansDone)) ∧
  -- FTN_FAULT_CLEAR
  (∀ (s : State) (sq : Fin 16) (c : Cmd), Ready s sq 0x0B08 c →
      let kind := c.op 16 1
      let v := c.op 18 2
      Clean (opChks c [(16, 1), (18, 2)] [] ++ [rangeChk (decide (1 < kind)) 16, rangeChk (decide (kind = 0 ∧ 15 < v)) 18,
        rsvChk (decide (kind = 1 ∧ 8192 ≤ v)) 19]) →
      let fs := [Reg.FTN_SINK_STAT_OPEN v, Reg.FTN_SINK_STAT_SHORT v, Reg.FTN_SINK_STAT_PIN v]
      let p := v / 4096
      let a := v % 4096
      (kind = 0 → fs.any (flag s) = true) →
      (kind ≠ 0 → (flbAt s p).faults.get a false = true) →
      exec (.ftnFaultClear sq) s = .next
        (if kind = 0 then complete (driveSinks (fs.foldl (fun s f => setFlag s f false) s)) c ansDone
         else complete (updFlb s p fun f => { f with faults := f.faults.set a false false, misses := f.misses.set a 0 0 }) c ansDone))

/-- Ox scan engine events complete: each clause gives the whole next state of one command, so what it does not change is unchanged.
Clauses that write out a choice or an inference of the model where the spec leaves a point open: OX_CYCLE, WDOG_OVERRUN (log entry 92);
ANSWER, RIO_TIMEOUT, DALI_RECEIVE (log entry 94); DIN_LEVEL_ACCEPT (log entry 165). -/
def Obligations.OxEventComplete : Prop :=
  -- OX_CYCLE
  (∀ (s : State) (conv : List Word) (inUs outUs : Fin 31),
      let s1 := oxBegin s conv
      let c := oxRun s1 inUs
      oxReady s = true →
      c.done = true →
      exec (.oxCycle conv inUs outUs) s = .next (oxOutput (oxAfter s1 c) (inUs + outUs + c.used / 96))) ∧
  -- WDOG_OVERRUN
  (∀ (s : State) (conv : List Word) (inUs : Fin 31),
      let s1 := oxBegin s conv
      let c := oxRun s1 inUs
      oxReady s = true →
      c.done = false →
      exec (.wdogOverrun conv inUs) s = .next (oxOverrun s1 c)) ∧
  -- ANSWER
  (∀ (s : State) (p : Fin 2) (b : List Byte) i e w,
      domState s 11 = 2 →
      rioAsked s p = some (i, e) →
      answerWords e b = some w →
      exec (.answer p b) s = .next (rioNext (rioGood s i e w) p false)) ∧
  -- RIO_TIMEOUT
  (∀ (s : State) (p : Fin 2) i e,
      domState s 11 = 2 →
      rioAsked s p = some (i, e) →
      let s1 := if (rioPort s p).spoilt then s else count1 s (Reg.OX_CNT_COUNT 6)
      exec (.rioTimeout p) s = .next (rioNext (rioFail s1 i e) p false)) ∧
  -- DALI_RECEIVE
  (∀ (s : State) (p : Fin 2) (r : DaliResult) (w : Nat),
      let d := daliAt s p
      domState s 11 = 2 →
      d.busy = some w →
      let v := match r with
        | .answered b => if bit w 26 then b.toNat + 2 ^ 8 else 0
        | .quiet => if bit w 26 then 2 ^ 9 else 0
        | .bad => 2 ^ 10
      exec (.daliReceive p r) s = .next (setDali s p { d with busy := none, rx := v + bits w 31 28 * 2 ^ 28 })) ∧
  -- DIN_LEVEL_ACCEPT
  (∀ (s : State) (n : Fin 24) (x : DinLevel),
      domState s 11 = 2 →
      dinFilter s n.val ≤ x.held →
      exec (.dinLevelAccept n x) s = .next
        (setFld s Reg.PIN_DIN_LEVEL (putBits (fld s Reg.PIN_DIN_LEVEL) n.val n.val (b2n x.high))))

/-- Ox ring commands complete: each clause gives the whole next state of one command, so what it does not change is unchanged.
Clauses that write out a choice or an inference of the model where the spec leaves a point open: OX_VALIDATE (log entry 90); OX_SWITCH
(log entries 94 and 140); OX_STOP (log entries 91 and 94); OX_FORCE_CLEAR (log entry 94). The checks of BAD_FIELD are choices too (log
entry 14). -/
def Obligations.OxRingComplete : Prop :=
  -- OX_LOAD
  (∀ (s : State) (sq : Fin 16) (c : Cmd), Ready s sq 0x0C00 c →
      let o := c.op 20 4
      let n := c.bufLen 0
      Clean (opChks c [(20, 4)] [(0, 0)] ++
        [rangeChk (decide (o % 4 ≠ 0 ∨ 131072 < o + n)) 20, rangeChk (decide (n % 4 ≠ 0)) 48]) →
      Reachable s c 0 →
      let b := memRead s (c.bufAddr 0) (c.bufLen 0)
      oxSwitchPending s = false →
      let old := (oxIdle s).bytes
      let head := padTo o old
      exec (.oxLoad sq) s = .next (completeConfig (setBank s (1 - oxBank s) { bytes := head ++ b ++ old.drop (o + n), status := 1 }) c ansDone)) ∧
  -- OX_VALIDATE
  (∀ (s : State) (sq : Fin 16) (c : Cmd), Ready s sq 0x0C01 c →
      Clean (opChks c [] []) →
      oxSwitchPending s = false →
      (oxIdle s).status ≠ 0 →
      let b := (oxIdle s).bytes
      imgIntact b = true →
      let r := if imgSigned b then
          verifyUnder s (fld s Reg.OX_CTRL_SIG_SLOT) 8 (b.take (imgBodyEnd b)) (sliceB b (imgBodyEnd b) 96)
        else (s, !flag s Reg.OX_CTRL_SIG_REQ)
      r.2 = true →
      imgBad b (oxProgId s) = none →
      exec (.oxValidate sq) s = .next (completeConfig (setBank r.1 (1 - oxBank s) { bytes := b, status := 2 }) c ansDone)) ∧
  -- OX_SWITCH
  (∀ (s : State) (sq : Fin 16) (c : Cmd), Ready s sq 0x0C02 c →
      Clean (opChks c [] []) →
      (oxIdle s).status = 2 →
      oxSwitchPending s = false →
      oxState s ≠ 3 →
      exec (.oxSwitch sq) s = .next (if oxState s = 2 then markStarted (oxShow (oxUpd s fun o => { o with switch := some c.seq })) c
        else completeConfig (causedBy s (oxSwitchNow s).1 c.seq) c (ansDone (oxSwitchNow s).2))) ∧
  -- OX_START
  (∀ (s : State) (sq : Fin 16) (c : Cmd), Ready s sq 0x0C03 c →
      Clean (opChks c [] []) →
      oxState s ≠ 2 →
      oxState s ≠ 3 →
      s.ox.hasProg = true →
      exec (.oxStart sq) s = .next (complete (oxStart s) c ansDone)) ∧
  -- OX_STOP
  (∀ (s : State) (sq : Fin 16) (c : Cmd), Ready s sq 0x0C04 c →
      Clean (opChks c [] []) →
      oxState s = 2 →
      exec (.oxStop sq) s = .next (markStarted (oxUpd s fun o => { o with stops := o.stops ++ [c.seq] }) c)) ∧
  -- OX_FORCE_SET
  (∀ (s : State) (sq : Fin 16) (c : Cmd), Ready s sq 0x0C05 c →
      let f : Force := { symbol := c.op 16 4, word := c.op 20 2, mask := c.op 24 4, value := c.op 28 4 }
      Clean (opChks c [(16, 6), (24, 8)] []) →
      ((imgSyms (oxImg s)).any fun y => decide (y.id = f.symbol ∧ f.word < y.words ∧ y.kind ≠ 1)) = true →
      let l := forceSlots s
      ∀ i, forceSlot l f = some i →
      let s1 := oxShow (oxUpd s fun o => { o with forces := l.set i (some f), mirForces := true })
      exec (.oxForceSet sq) s = .next (complete (if oxState s = 2 then s1 else applyForces s1) c (ansDone i))) ∧
  -- OX_FORCE_CLEAR
  (∀ (s : State) (sq : Fin 16) (c : Cmd), Ready s sq 0x0C06 c →
      Clean (opChks c [(16, 7)] [] ++ [rsvChk (decide (1 < c.op 22 1)) 22]) →
      let all := bit (c.op 22 1) 0
      let hit := forceIs all (c.op 16 4) (c.op 20 2)
      let n := (s.ox.forces.filter hit).length
      (decide (n = 0) && !all) = false →
      exec (.oxForceClear sq) s = .next (complete (oxShow (oxUpd s fun o => { o with forces := o.forces.map fun x => if hit x then none else x, mirForces := true })) c (ansDone n))) ∧
  -- OX_READ
  (∀ (s : State) (sq : Fin 16) (c : Cmd), Ready s sq 0x0C07 c →
      let a := c.op 16 2
      let n := c.op 20 2
      Clean (oxRangeChks c false) →
      let m := if oxState s = 2 then s.ox.snap else s.ox.mem
      Reachable s c 0 →
      let s1 := memWrite s (c.bufAddr 0) (List.take (c.bufLen 0) ((List.range n).flatMap fun i => leBytes 4 (m.get (a + i) 0)))
      exec (.oxRead sq) s = .next (complete s1 c (ansDone n))) ∧
  -- OX_WRITE
  (∀ (s : State) (sq : Fin 16) (c : Cmd), Ready s sq 0x0C08 c →
      let a := c.op 16 2
      let n := c.op 20 2
      Clean (oxRangeChks c true) →
      Reachable s c 0 →
      let b := memRead s (c.bufAddr 0) (c.bufLen 0)
      ((drivenWords s).any fun w => decide (a ≤ w ∧ w < a + n)) = false →
      ¬ (oxArea a = 2 ∧ oxState s ≠ 2) →
      let ws := (List.range n).map fun i => fieldLE b (4 * i) 4
      exec (.oxWrite sq) s = .next (complete (oxUpd s fun o =>
        if oxState s = 2 then { o with writes := o.writes ++ [(a, ws)] }
        else { o with mem := oxStoreAll (forceList s) o.mem a ws }) c (ansDone n)))

/-- Coop key and OTP commands complete: each clause gives the whole next state of one command, so what it does not change is unchanged.
Clauses that write out a choice or an inference of the model where the spec leaves a point open: KEY_UPDATE, KEY_SCRAP (log entry 97);
KEY_INFO (log entry 98); KEY_CIPHER, KEY_MAC, KEY_VERIFY, KEY_DERIVE (log entry 96); KEY_SIGN (log entries 96 and 99); KEY_RANDOM (log
entry 99). The checks of BAD_FIELD are choices too (log entry 14). -/
def Obligations.KeysComplete : Prop :=
  -- KEY_UPDATE
  (∀ (s : State) (sq : Fin 16) (c : Cmd) (burnOk : Bool), Ready s sq 0x0D00 c →
      Clean (opChks c [] [(0, 256)]) →
      Reachable s c 0 →
      let b := memRead s (c.bufAddr 0) (c.bufLen 0)
      let m := KeyMsg.ofBytes b
      256 + m.len ≤ c.bufLen 0 →
      Clean (keyMsgChks s b) →
      (keyMsgBurns s m = true → burnOk = true) →
      exec (.keyUpdate sq burnOk) s = .next (match keyMsgJudge s m with
        | none => markStarted (keyMsgStart s m c.seq) c
        | some a => complete (keyMsgFail s m a) c a)) ∧
  -- KEY_INFO
  (∀ (s : State) (sq : Fin 16) (c : Cmd), Ready s sq 0x0D01 c →
      Clean (opChks c [(16, 1)] [(1, 16)] ++ [rangeChk (decide (63 < c.op 16 1)) 16]) →
      let k := slotAt s (c.op 16 1)
      let kcv := if k.attr = 0 then List.replicate 8 0 else (kdfN k.value (ascii "COOP-KCV") [] 32).take 8
      let pub := if k.type = 4 ∧ 112 ≤ c.bufLen 0 then k.value else []
      let l := leBytes 4 k.attr ++ kcv ++ [0, 0, 0, 0] ++ pub
      Reachable s c 0 →
      let s1 := memWrite s (c.bufAddr 0) (List.take (c.bufLen 0) l)
      exec (.keyInfo sq) s = .next (complete s1 c (ansDone l.length))) ∧
  -- KEY_CIPHER
  (∀ (s : State) (sq : Fin 16) (c : Cmd), Ready s sq 0x0D02 c →
      let dec := bit (c.op 17 1) 0
      let aad := c.op 18 2
      let overhead := 12 + aad + (if dec then 16 else 0)
      let n := c.bufLen 0 - overhead
      let out := n + (if dec then 0 else 16)
      Clean (opChks c [(16, 4)] [(0, overhead + 1), (1, out)] ++ slotChks s c [1, 2] ++
        [rsvChk (decide (2 ≤ c.op 17 1)) 17, rangeChk (decide (1024 < aad)) 18, rangeChk (decide (65536 < n)) 48]) →
      Reachable s c 0 →
      let b := memRead s (c.bufAddr 0) (c.bufLen 0)
      let k := slotAt s (c.op 16 1)
      k.attr ≠ 0 →
      useRefusal s k (if dec then 1 else 0) 12 (secureSq s c.sq) = none →
      let s1 := remask (count1 s (Reg.KEY_CNT_COUNT 3)) (c.op 16 1)
      let iv := b.take 12
      let ad := (b.drop 12).take aad
      let d := b.drop (12 + aad)
      Reachable s1 c 1 →
      (dec = false → exec (.keyCipher sq) s = .next (complete (memWrite s1 (c.bufAddr 1)
        (((gcmSeal k.value iv ad d).take out).take (c.bufLen 1))) c (ansDone out))) ∧
      (dec = true → exec (.keyCipher sq) s = .next (match gcmOpen k.value iv ad d with
        | some l => complete (memWrite s1 (c.bufAddr 1) ((l.take n).take (c.bufLen 1))) c (ansDone n)
        | none => complete s1 c (ansIntegrity 0x0001)))) ∧
  -- KEY_MAC
  (∀ (s : State) (sq : Fin 16) (c : Cmd), Ready s sq 0x0D03 c →
      let alg := c.op 17 1
      Clean (opChks c [(16, 2)] [(0, 1), (1, 32)] ++ slotChks s c (if alg = 0 then [3] else [1, 2]) ++
        [rangeChk (decide (1 < alg)) 17, rangeChk (decide (65536 < c.bufLen 0)) 48]) →
      Reachable s c 0 →
      let b := memRead s (c.bufAddr 0) (c.bufLen 0)
      let k := slotAt s (c.op 16 1)
      k.attr ≠ 0 →
      useRefusal s k 2 12 (secureSq s c.sq) = none →
      let s1 := remask (count1 s (Reg.KEY_CNT_COUNT 3)) (c.op 16 1)
      let l := if alg = 0 then (hmacSha256 k.value b).take 32 else (aesCmac k.value b).take 16
      Reachable s1 c 1 →
      exec (.keyMac sq) s = .next (complete (memWrite s1 (c.bufAddr 1) (l.take (c.bufLen 1))) c (ansDone (if alg = 0 then 32 else 16)))) ∧
  -- KEY_SIGN
  (∀ (s : State) (sq : Fin 16) (c : Cmd), Ready s sq 0x0D04 c →
      Clean (opChks c [(16, 1)] [(0, 48), (1, 96)] ++ slotChks s c [5]) →
      Reachable s c 0 →
      let b := memRead s (c.bufAddr 0) (c.bufLen 0)
      let k := slotAt s (c.op 16 1)
      k.attr ≠ 0 →
      useRefusal s k 3 12 (secureSq s c.sq) = none →
      let s1 := remask (count1 s (Reg.KEY_CNT_COUNT 3)) (c.op 16 1)
      let r := random s1 48
      let l := (ecdsaSign k.value (b.take 48) (leNat r.1)).take 96
      Reachable r.2 c 1 →
      exec (.keySign sq) s = .next (complete (memWrite r.2 (c.bufAddr 1) (l.take (c.bufLen 1))) c (ansDone 96))) ∧
  -- KEY_VERIFY
  (∀ (s : State) (sq : Fin 16) (c : Cmd), Ready s sq 0x0D05 c →
      Clean (opChks c [(16, 1)] [(0, 144)] ++ slotChks s c [4]) →
      Reachable s c 0 →
      let b := memRead s (c.bufAddr 0) (c.bufLen 0)
      let k := slotAt s (c.op 16 1)
      k.attr ≠ 0 →
      useRefusal s k 4 12 (secureSq s c.sq) = none →
      let s1 := remask (count1 s (Reg.KEY_CNT_COUNT 3)) (c.op 16 1)
      exec (.keyVerify sq) s = .next (complete s1 c
        (if ecdsaVerify k.value (b.take 48) ((b.drop 48).take 96) then ansDone else ansBadSig 0x0001))) ∧
  -- KEY_DERIVE
  (∀ (s : State) (sq : Fin 16) (c : Cmd), Ready s sq 0x0D06 c →
      let n := c.op 17 1
      Clean (opChks c [(16, 2)] [(0, 2), (1, n)] ++ slotChks s c [3] ++
        [rangeChk (decide (n < 16 ∨ 64 < n)) 17, rangeChk (decide (256 < c.bufLen 0)) 48]) →
      Reachable s c 0 →
      let b := memRead s (c.bufAddr 0) (c.bufLen 0)
      let k := slotAt s (c.op 16 1)
      k.attr ≠ 0 →
      useRefusal s k 5 12 (secureSq s c.sq) = none →
      let s1 := remask (count1 s (Reg.KEY_CNT_COUNT 3)) (c.op 16 1)
      let l := ((List.range ((n + 31) / 32)).flatMap fun i => hmacSha256 k.value (beBytes 4 (i + 1) ++ b ++ beBytes 4 (8 * n))).take n
      Reachable s1 c 1 →
      exec (.keyDerive sq) s = .next (complete (memWrite s1 (c.bufAddr 1) (l.take (c.bufLen 1))) c (ansDone n))) ∧
  -- KEY_RANDOM
  (∀ (s : State) (sq : Fin 16) (c : Cmd), Ready s sq 0x0D07 c →
      let n := c.bufLen 0
      Clean (opChks c [] [(1, 1)] ++ [rangeChk (decide (4096 < n)) 48]) →
      let r := random (count1 s (Reg.KEY_CNT_COUNT 3)) n
      Reachable r.2 c 0 →
      exec (.keyRandom sq) s = .next (complete (memWrite r.2 (c.bufAddr 0) (r.1.take (c.bufLen 0))) c (ansDone n))) ∧
  -- KEY_IDENTITY
  (∀ (s : State) (sq : Fin 16) (c : Cmd), Ready s sq 0x0D08 c →
      Clean (opChks c [] [(1, 64)]) →
      Reachable s c 0 →
      let s1 := memWrite s (c.bufAddr 0) (List.take (c.bufLen 0) (identityPage s))
      exec (.keyIdentity sq) s = .next (complete s1 c (ansDone 64))) ∧
  -- KEY_TK_EXPORT
  (∀ (s : State) (sq : Fin 16) (c : Cmd), Ready s sq 0x0D09 c →
      Clean (opChks c [] [(1, 32)]) →
      flag s Reg.KEY_CTRL_TK_EXPORT_DIS = false →
      lifeCycle s = 1 →
      Reachable (keyAudit s 5 0 0 0) c 0 →
      let s1 := memWrite (keyAudit s 5 0 0 0) (c.bufAddr 0) (List.take (c.bufLen 0) (transportKey s))
      exec (.keyTkExport sq) s = .next (complete s1 c (ansDone 32))) ∧
  -- KEY_SCRAP
  (∀ (s : State) (sq : Fin 16) (c : Cmd) (burnOk : Bool), Ready s sq 0x0D0A c →
      Clean (opChks c [(16, 4)] [] ++ [rangeChk (decide (c.op 16 4 ≠ 0x0D2640FF)) 16]) →
      lifeCycle s ≠ 5 →
      mayAdvance (lifeCycle s) 5 = true →
      burnOk = true →
      exec (.keyScrap sq burnOk) s = .next (markStarted (keyUpd s fun k => { k with job := some {
        op := 6, target := 5, old := lifeCycle s, seq := c.seq, left := [.pend, .burn, .zeroise, .lcRecord, .lcEvent, .done] } }) c)) ∧
  -- OTP_READ
  (∀ (s : State) (sq : Fin 16) (c : Cmd), Ready s sq 0x0D0B c →
      let o := c.op 16 2
      let n := c.op 20 2
      Clean (opChks c [(16, 2), (20, 2)] [(1, min n 8192)] ++
        [rangeChk (decide (o % 4 ≠ 0 ∨ 8192 ≤ o)) 16, rangeChk (decide (n < 4 ∨ 8192 < n ∨ 8192 < o + n)) 20]) →
      Reachable s c 0 →
      let s1 := memWrite s (c.bufAddr 0) (List.take (c.bufLen 0) ((List.range n).map fun i => otpVisible s (o + i)))
      exec (.otpRead sq) s = .next (complete s1 c (ansDone n))) ∧
  -- PUF_CLEAR
  (∀ (s : State),
      domState s 1 = 2 →
      exec .pufClear s = .next (pufClear s))

/-- Pair role events complete: each clause gives the whole next state of one command, so what it does not change is unchanged.
Clauses that write out a choice or an inference of the model where the spec leaves a point open: LEASE, LEASE_EXPIRY (log entries 105 and
164); ACT_IN_SILENT (log entry 107); HEARTBEAT_MISSING (log entry 105); START_WAIT (log entry 104); FENCED (log entries 101 and 104);
PARTNER_LOST_RESET (log entries 103, 105 and 115); MIR_LINK (log entries 100 and 104). -/
def Obligations.PairRoleComplete : Prop :=
  -- LEASE_SEND
  (∀ (s : State),
      running s = true →
      let tenth (t : Nat) : Nat := t * 10 / 65536
      let due (t : Option Nat) : Bool := match t with | some t => passedMs s t 5 | none => true
      (role s = 0 → exec .leaseSend s = .next (if due s.pair.actOutAt then toggleAct s else s)) ∧
      (1 ≤ role s → due s.pair.leaseTx = false → exec .leaseSend s = .next s) ∧
      (1 ≤ role s → due s.pair.leaseTx = true →
        let s1 := mirSend (pairUpd s fun p => { p with leaseTx := some s.el }) 0x40 (leaseBody s false)
        (role s ≠ 2 → exec .leaseSend s = .next s1) ∧
        (role s = 2 → s.pair.leaseTx = none → exec .leaseSend s = .next (toggleAct s1)) ∧
        ∀ t, role s = 2 → s.pair.leaseTx = some t → let s2 := toggleAct s1
          exec .leaseSend s = .next (if tenth t = tenth s.el then s2 else mirSend (mirSend s2 0x43 (basBody s2)) 0x45 (fastBody s2)))) ∧
  -- LEASE
  (∀ (s : State) (l : List Byte) (m : SpanMsg),
      running s = true →
      paired' s = true →
      SpanMsg.parse l = some m →
      m.msg = 0x40 →
      m.dst = m.src →
      m.bcast = false →
      m.ttl = 1 →
      m.body.length = 36 →
      exec (.lease l) s = .next (leaseIn s m)) ∧
  -- ACT_IN_EDGE
  (∀ (s : State),
      running s = true →
      let s1 := pairUpd s fun p => { p with actInAt := some s.el, actInSince := some (p.actInSince.getD s.el), overdue := none, edgeBack := true }
      exec .actInEdge s = .next (holdBack (gateCheck (setFld s1 Reg.PAR_STAT_ACT_IN 1)))) ∧
  -- ACT_IN_SILENT
  (∀ (s : State),
      role s = 3 →
      (s.pair.actInAt = none ∨ since s s.pair.actInAt 6000 = true) →
      flag s Reg.PAR_STAT_HOLD = false →
      exec .actInSilent s = .next (holdHigh s)) ∧
  -- ACT_OWN_LAPSE
  (∀ (s : State),
      flag s Reg.PAR_STAT_ACT_OWN = true →
      since s s.pair.actOutAt 7500 = true →
      exec .actOwnLapse s = .next (gateCheck (setFld s Reg.PAR_STAT_ACT_OWN 0))) ∧
  -- HEARTBEAT_MISSING
  (∀ (s : State),
      paired' s = true →
      flag s Reg.PAR_STAT_PARTNER = true →
      since s s.pair.leaseRx 10000 = true →
      let s1 := partnerEvent (setFld s Reg.PAR_STAT_PARTNER 0) 0
      exec .heartbeatMissing s = .next (takeoverCheck (if role s = 2 then unsync s1 else s1))) ∧
  -- START_WAIT
  (∀ (s : State),
      role s = 1 →
      since s s.pair.startAt (200000 + 100000 * fld s Reg.PAR_STAT_UNIT) = true →
      flag s Reg.PAR_STAT_ACT_IN = false →
      s.pair.mismatch = false →
      exec .startWait s = .next (becomeActive s 2)) ∧
  -- FENCED
  (∀ (s : State),
      role s = 2 →
      flag s Reg.PAR_STAT_ACT_IN = true →
      since s s.pair.actInSince 10000 = true →
      exec .fenced s = .next (setErr (standDown s 4 4) Reg.PAR_ERR_FENCED)) ∧
  -- PARTNER_LOST_RESET
  (∀ (s : State) (b : Boot),
      role s = 3 →
      flag s Reg.PAR_STAT_SYNCED = false →
      since s s.pair.overdue 1000000 = true →
      let cause := 4 + Config.free s.freeN % 5
      exec (.partnerLostReset b) s = .next (modReset (setErr (partnerEvent (drawFree s) 0) Reg.PAR_ERR_PARTNER_LOST) b cause false)) ∧
  -- LEASE_EXPIRY
  (∀ (s : State),
      role s = 3 →
      since s s.pair.leaseGrant 20000 = true →
      flag s Reg.PAR_STAT_ACT_IN = true →
      s.pair.mirDownSaid = false →
      exec .leaseExpiry s = .next (partnerEvent (setErr (pairUpd s fun p => { p with mirDownSaid := true }) Reg.PAR_ERR_MIR_DOWN) 4)) ∧
  -- TAKEOVER_GUARD_END
  (∀ (s : State),
      since s s.pair.leaseGrant 22000 = true →
      exec .takeoverGuardEnd s = .next (takeoverCheck s)) ∧
  -- ACT_IN_LAPSE
  (∀ (s : State),
      flag s Reg.PAR_STAT_ACT_IN = true →
      since s s.pair.actInAt 7500 = true →
      exec .actInLapse s = .next (takeoverCheck (gateCheck (pairUpd (setFld s Reg.PAR_STAT_ACT_IN 0) fun p => { p with actInSince := none })))) ∧
  -- HOLD_OUT_END
  (∀ (s : State),
      role s = 2 →
      flag s Reg.PAR_STAT_HOLD = true →
      since s s.pair.driveAt 1000 = true →
      exec .holdOutEnd s = .next (holdOut s false)) ∧
  -- MIR_LINK
  (∀ (s : State) (up : Bool),
      running s = true →
      let s1 := setFlag s Reg.PAR_STAT_MIR_UP up
      exec (.mirLink up) s = .next
        (if up = true ∧ role s = 0 ∧ flag s Reg.PAR_CTRL_PAIR_EN = false ∧ s.el < s.pair.wireUntil then
           pairOn (ckSave (setFld s1 Reg.PAR_CTRL_PAIR_EN 1) Reg.PAR_CTRL_PAIR_EN.off)
         else s1))

/-- Mirror stream messages complete: each clause gives the whole next state of one command, so what it does not change is unchanged.
Clauses that write out a choice or an inference of the model where the spec leaves a point open: FOLD_STREAM, OX_STREAM, WEI_SLOW_STREAM,
WEI_FAST_STREAM, CIS_STREAM, COMMIT_STREAM (log entries 106 and 161); BAS_STREAM (log entries 106, 161 and 163); CFG_STREAM (log entries
100, 106 and 161); CFG_ACK, CFG_ACK_TIMEOUT (log entry 100); SPAN_COPY (log entries 71 and 72); SYNC_GAP_TIMEOUT (log entry 106);
BULK_COPY_DONE (log entry 161). -/
def Obligations.PairStreamComplete : Prop :=
  -- FOLD_STREAM
  (∀ (s : State) (l : List Byte) (m : SpanMsg),
      running s = true →
      role s = 3 →
      SpanMsg.parse l = some m →
      m.msg = 0x41 →
      m.dst = m.src →
      m.bcast = false →
      m.ttl = 1 →
      m.src = fld s Reg.FED_ID_ID →
      let last := s.pair.rxSeq.get 0x41 0
      (last = 0 ∨ last < m.seq) →
      let s2 := pairUpd s fun p => { p with
        rxSeq := p.rxSeq.set 0x41 m.seq 0
        announced := if (p.announced.get 0x41 (0, 0)).1 ≤ m.seq then p.announced.del 0x41 else p.announced
        fresh := if p.bulk.get 0x41 false then p.fresh ++ (streamKeys 0x41 m.body).map fun x => (0x41, x) else p.fresh }
      let s3 := if last ≠ 0 ∧ last + 1 < m.seq then gapFound s2 0x41 else s2
      exec (.foldStream l) s = .next (applyFold s3 m.body)) ∧
  -- OX_STREAM
  (∀ (s : State) (l : List Byte) (m : SpanMsg),
      running s = true →
      role s = 3 →
      SpanMsg.parse l = some m →
      m.msg = 0x42 →
      m.dst = m.src →
      m.bcast = false →
      m.ttl = 1 →
      m.src = fld s Reg.FED_ID_ID →
      let last := s.pair.rxSeq.get 0x42 0
      (last = 0 ∨ last < m.seq) →
      let s2 := pairUpd s fun p => { p with
        rxSeq := p.rxSeq.set 0x42 m.seq 0
        announced := if (p.announced.get 0x42 (0, 0)).1 ≤ m.seq then p.announced.del 0x42 else p.announced
        fresh := if p.bulk.get 0x42 false then p.fresh ++ (streamKeys 0x42 m.body).map fun x => (0x42, x) else p.fresh }
      let s3 := if last ≠ 0 ∧ last + 1 < m.seq then gapFound s2 0x42 else s2
      exec (.oxStream l) s = .next (applyOx s3 m.body)) ∧
  -- BAS_STREAM
  (∀ (s : State) (l : List Byte) (m : SpanMsg),
      running s = true →
      role s = 3 →
      SpanMsg.parse l = some m →
      m.msg = 0x43 →
      m.dst = m.src →
      m.bcast = false →
      m.ttl = 1 →
      m.src = fld s Reg.FED_ID_ID →
      let last := s.pair.rxSeq.get 0x43 0
      (last = 0 ∨ last < m.seq) →
      let s2 := pairUpd s fun p => { p with
        rxSeq := p.rxSeq.set 0x43 m.seq 0
        announced := if (p.announced.get 0x43 (0, 0)).1 ≤ m.seq then p.announced.del 0x43 else p.announced
        fresh := if p.bulk.get 0x43 false then p.fresh ++ (streamKeys 0x43 m.body).map fun x => (0x43, x) else p.fresh }
      let s3 := if last ≠ 0 ∧ last + 1 < m.seq then gapFound s2 0x43 else s2
      exec (.basStream l) s = .next (applyBas s3 m.body)) ∧
  -- WEI_SLOW_STREAM
  (∀ (s : State) (l : List Byte) (m : SpanMsg),
      running s = true →
      role s = 3 →
      SpanMsg.parse l = some m →
      m.msg = 0x44 →
      m.dst = m.src →
      m.bcast = false →
      m.ttl = 1 →
      m.src = fld s Reg.FED_ID_ID →
      let last := s.pair.rxSeq.get 0x44 0
      (last = 0 ∨ last < m.seq) →
      let s2 := pairUpd s fun p => { p with
        rxSeq := p.rxSeq.set 0x44 m.seq 0
        announced := if (p.announced.get 0x44 (0, 0)).1 ≤ m.seq then p.announced.del 0x44 else p.announced
        fresh := if p.bulk.get 0x44 false then p.fresh ++ (streamKeys 0x44 m.body).map fun x => (0x44, x) else p.fresh }
      let s3 := if last ≠ 0 ∧ last + 1 < m.seq then gapFound s2 0x44 else s2
      exec (.weiSlowStream l) s = .next (applySlow s3 m.body)) ∧
  -- WEI_FAST_STREAM
  (∀ (s : State) (l : List Byte) (m : SpanMsg),
      running s = true →
      role s = 3 →
      SpanMsg.parse l = some m →
      m.msg = 0x45 →
      m.dst = m.src →
      m.bcast = false →
      m.ttl = 1 →
      m.src = fld s Reg.FED_ID_ID →
      let last := s.pair.rxSeq.get 0x45 0
      (last = 0 ∨ last < m.seq) →
      let s2 := pairUpd s fun p => { p with
        rxSeq := p.rxSeq.set 0x45 m.seq 0
        announced := if (p.announced.get 0x45 (0, 0)).1 ≤ m.seq then p.announced.del 0x45 else p.announced
        fresh := if p.bulk.get 0x45 false then p.fresh ++ (streamKeys 0x45 m.body).map fun x => (0x45, x) else p.fresh }
      let s3 := if last ≠ 0 ∧ last + 1 < m.seq then gapFound s2 0x45 else s2
      exec (.weiFastStream l) s = .next (applyFast s3 m.body)) ∧
  -- CIS_STREAM
  (∀ (s : State) (l : List Byte) (m : SpanMsg),
      running s = true →
      role s = 3 →
      SpanMsg.parse l = some m →
      m.msg = 0x46 →
      m.dst = m.src →
      m.bcast = false →
      m.ttl = 1 →
      m.src = fld s Reg.FED_ID_ID →
      let last := s.pair.rxSeq.get 0x46 0
      (last = 0 ∨ last < m.seq) →
      let s2 := pairUpd s fun p => { p with
        rxSeq := p.rxSeq.set 0x46 m.seq 0
        announced := if (p.announced.get 0x46 (0, 0)).1 ≤ m.seq then p.announced.del 0x46 else p.announced
        fresh := if p.bulk.get 0x46 false then p.fresh ++ (streamKeys 0x46 m.body).map fun x => (0x46, x) else p.fresh }
      let s3 := if last ≠ 0 ∧ last + 1 < m.seq then gapFound s2 0x46 else s2
      exec (.cisStream l) s = .next (applyCis s3 m.body)) ∧
  -- COMMIT_STREAM
  (∀ (s : State) (l : List Byte) (m : SpanMsg),
      running s = true →
      role s = 3 →
      SpanMsg.parse l = some m →
      m.msg = 0x47 →
      m.dst = m.src →
      m.bcast = false →
      m.ttl = 1 →
      m.src = fld s Reg.FED_ID_ID →
      let last := s.pair.rxSeq.get 0x47 0
      (last = 0 ∨ last < m.seq) →
      let s2 := pairUpd s fun p => { p with
        rxSeq := p.rxSeq.set 0x47 m.seq 0
        announced := if (p.announced.get 0x47 (0, 0)).1 ≤ m.seq then p.announced.del 0x47 else p.announced
        fresh := if p.bulk.get 0x47 false then p.fresh ++ (streamKeys 0x47 m.body).map fun x => (0x47, x) else p.fresh }
      let s3 := if last ≠ 0 ∧ last + 1 < m.seq then gapFound s2 0x47 else s2
      exec (.commitStream l) s = .next (applyCommit s3 m.body)) ∧
  -- CFG_STREAM
  (∀ (s : State) (l : List Byte) (m : SpanMsg),
      running s = true →
      role s = 3 →
      SpanMsg.parse l = some m →
      m.msg = 0x48 →
      m.dst = m.src →
      m.bcast = false →
      m.ttl = 1 →
      m.src = fld s Reg.FED_ID_ID →
      let last := s.pair.rxSeq.get 0x48 0
      (last = 0 ∨ last < m.seq) →
      let s2 := pairUpd s fun p => { p with
        rxSeq := p.rxSeq.set 0x48 m.seq 0
        announced := if (p.announced.get 0x48 (0, 0)).1 ≤ m.seq then p.announced.del 0x48 else p.announced
        fresh := if p.bulk.get 0x48 false then p.fresh ++ (streamKeys 0x48 m.body).map fun x => (0x48, x) else p.fresh }
      let s3 := if last ≠ 0 ∧ last + 1 < m.seq then gapFound s2 0x48 else s2
      exec (.cfgStream l) s = .next (mirSend (applyCfg s3 m.body) 0x4A (beBytes 4 (fieldBE l 10 4)))) ∧
  -- SYNC_REQ
  (∀ (s : State) (l : List Byte) (m : SpanMsg),
      running s = true →
      role s = 2 →
      SpanMsg.parse l = some m →
      m.msg = 0x49 →
      m.dst = m.src →
      m.bcast = false →
      m.ttl = 1 →
      m.src = fld s Reg.FED_ID_ID →
      let k := fieldBE m.body 0 1
      let l' := if k = 0 then streams else streams.filter fun x => x = k
      let s2 := l'.foldl sendBulk s
      exec (.syncReq l) s = .next (if l'.contains 0x42 then oxUpd s2 fun o => { o with mirrored := mirWords s2, mirForces := false } else s2)) ∧
  -- CFG_ACK
  (∀ (s : State) (l : List Byte) (m : SpanMsg),
      running s = true →
      SpanMsg.parse l = some m →
      m.msg = 0x4A →
      m.dst = m.src →
      m.bcast = false →
      m.ttl = 1 →
      m.src = fld s Reg.FED_ID_ID →
      exec (.cfgAck l) s = .next ((s.pair.cfgWait.filter fun w => decide (w.mirSeq = fieldBE m.body 0 4)).foldl endWait s)) ∧
  -- SPAN_COPY
  (∀ (s : State) (l : List Byte) (ok : Bool) (c m : SpanMsg),
      running s = true →
      role s ≠ 0 →
      fedOn s = true →
      SpanMsg.parse l = some c →
      c.msg = 0x4B →
      c.dst = c.src →
      c.bcast = false →
      c.ttl = 1 →
      c.src = fld s Reg.FED_ID_ID →
      SpanMsg.ofBytes c.body = some m →
      let s2 := count1 s (Reg.PAR_CNT_COUNT 4)
      let d := dupStep (s2.fed.dup.get m.src (0, 0)) m.seq
      exec (.spanCopy l ok) s = .next
        (if d.1 = true ∨ (m.bcast = false ∧ idConflict s = true) then s2 else spanAct (fedUpd s2 fun f => { f with dup := f.dup.set m.src d.2 (0, 0) }) m ok)) ∧
  -- CFG_ACK_TIMEOUT
  (∀ (s : State),
      exec (.cfgAckTimeout) s = .next (
        (s.pair.cfgWait.filter fun w => passedMs s w.since 50).foldl (fun s w =>
            endWait (count1 (setErr (unsync s) Reg.PAR_ERR_CFG_ACK) (Reg.PAR_CNT_COUNT 2)) w) s)) ∧
  -- SYNC_GAP_TIMEOUT
  (∀ (s : State),
      role s = 3 →
      exec .syncGapTimeout s = .next ((s.pair.announced.filter fun x => passedMs s (x.2.2 - 1) 20).foldl (fun s x => gapFound s x.1) s)) ∧
  -- BULK_COPY_DONE
  (∀ (s : State),
      role s = 3 →
      s.pair.bulk ≠ [] →
      s.pair.announced = [] →
      (s.pair.bulk.keys.any fun k => decide (s.pair.rxSeq.get k 0 < s.pair.told.get k 0)) = false →
      let s1 := s.pair.bulk.keys.foldl dropStale s
      exec .bulkCopyDone s = .next (takeoverCheck (pairUpd (nowSynced s1) fun p => { p with bulk := [], fresh := [] })))

/-- Span federation messages complete: each clause gives the whole next state of one command, so what it does not change is unchanged.
Clauses that write out a choice or an inference of the model where the spec leaves a point open: HELLO_SEND (log entries 72 and 160);
HELLO (log entries 71, 72 and 165); SPAN_FORWARD, ACTIVATE (log entries 71 and 72); HANDOVER, HANDOVER_ACK, PIECE_PART (log entries 71, 72
and 73); HANDOVER_TIMEOUT, PIECE_PART_SEND (log entry 73); FEEDER_STATE_MSG (log entries 71, 72 and 74); FEEDER_STATE_STALE (log entry
107); VALUE (log entries 71, 72 and 107); VALUE_PUBLISH (log entry 71). -/
def Obligations.SpanComplete : Prop :=
  -- HELLO_SEND
  (∀ (s : State),
      running s = true →
      spanMine s = true →
      (match s.fed.helloAt with | some t => !passedSec s t 1 | none => false) = false →
      exec .helloSend s = .next ((List.range 4).foldl (fun s p =>
        let n := (s.fed.seq + 1) % 2 ^ 32
        portSend (count1 (fedUpd s fun f => { f with seq := n }) (Reg.FED_CNT_COUNT 1)) p everyMac
          { msg := 1, src := fld s Reg.FED_ID_ID, dst := 0, bcast := true, ttl := 1, seq := n
            body := beBytes 1 p ++ beBytes 1 (fld s Reg.FED_ID_VALID + 2 * role s) ++ beBytes 2 (fld s Reg.PAR_STAT_EPOCH) })
        (fedUpd s fun f => { f with helloAt := some s.el }))) ∧
  -- HELLO
  (∀ (s s1 : State) (p : Fin 4) (l : HelloFrame) (m : SpanMsg),
      spanKind l.bytes = 1 →
      spanRx s p.val l.bytes = (s1, some m) →
      exec (.hello p l) s = .next (actHello s1 p.val (beBytes 6 l.mac.toNat) m)) ∧
  -- SPAN_FORWARD
  (∀ (s : State) (p : Fin 4) (l : List Byte) (m : SpanMsg),
      SpanMsg.ofBytes l = some m →
      m.bcast = false →
      (m.dst ≠ fld s Reg.FED_ID_ID ∨ flag s Reg.FED_ID_VALID = false) →
      m.msg ≠ 1 →
      exec (.spanForward p l) s = .next (spanRx s p.val l).1) ∧
  -- HANDOVER
  (∀ (s s1 : State) (p : Fin 4) (l : List Byte) (m : SpanMsg),
      spanKind l = 3 →
      spanRx s p.val l = (s1, some m) →
      exec (.handover p l) s = .next (spanAct s1 m true)) ∧
  -- HANDOVER_ACK
  (∀ (s s1 : State) (p : Fin 4) (l : List Byte) (m : SpanMsg),
      spanKind l = 4 →
      spanRx s p.val l = (s1, some m) →
      exec (.handoverAck p l) s = .next (spanAct s1 m true)) ∧
  -- HANDOVER_TIMEOUT
  (∀ (s : State),
      exec .handoverTimeout s = .next ((s.fed.handing.filter fun h => passedSec s h.since 2).foldl (fun s h => handoverDone s h 4 0) s)) ∧
  -- HANDOVER_SUPERVISION_END
  (∀ (s : State),
      exec (.handoverSupervisionEnd) s = .next (
        (s.mac.ep.keys.filter (handSilent s)).foldl (fun s n =>
            updEnt (setEp s n { epAt s n with handTo := none, rejoin := false }) n fun e =>
              { e with state := 7, homeModule := (epAt s n).handTo.getD 0 }) s)) ∧
  -- PIECE_PART
  (∀ (s s1 : State) (p : Fin 4) (l : List Byte) (ok : Bool) (m : SpanMsg),
      spanKind l = 5 →
      spanRx s p.val l = (s1, some m) →
      exec (.piecePart p l ok) s = .next (spanAct s1 m ok)) ∧
  -- PIECE_PART_SEND
  (∀ (s : State) (j : PieceJob) (r : List PieceJob),
      s.fed.jobs = j :: r →
      let used := if s.fed.jobSec.1 = dtSec s.dt then s.fed.jobSec.2 else 0
      (j.left = 0 → exec .piecePartSend s = .next
        (emitOutcome (fedUpd s fun f => { f with jobs := r }) 0x0E03 (leBytes 1 j.slot ++ [0, 0, 0] ++ leBytes 4 j.sent) j.ref 0)) ∧
      (j.left ≠ 0 → used < fld s Reg.FED_UDP_PIECE_RATE → exec .piecePartSend s = .next (fedUpd (sendPiece s j) fun f => { f with
        jobSec := (dtSec s.dt, used + 1), jobs := { j with next := j.next + 1, left := j.left - 1, sent := j.sent + 1 } :: r }))) ∧
  -- ACTIVATE
  (∀ (s s1 : State) (p : Fin 4) (l : List Byte) (m : SpanMsg),
      spanKind l = 6 →
      spanRx s p.val l = (s1, some m) →
      exec (.activate p l) s = .next (spanAct s1 m true)) ∧
  -- FEEDER_STATE_MSG
  (∀ (s s1 : State) (p : Fin 4) (l : List Byte) (m : SpanMsg),
      spanKind l = 7 →
      spanRx s p.val l = (s1, some m) →
      exec (.feederStateMsg p l) s = .next (spanAct s1 m true)) ∧
  -- FEEDER_STATE_SEND
  (∀ (s : State),
      running s = true →
      spanMine s = true →
      s.fed.feederSaid = none →
      let d := (ownFeeders s).1
      let o := (ownFeeders s).2
      exec .feederStateSend s = .next (spanBcast (fedUpd s fun f => { f with feederSaid := some (d, o, s.el) }) (fld s Reg.FED_CFG_TTL) 7
        (beBytes 1 d ++ beBytes 1 o ++ [0, 0]))) ∧
  -- FEEDER_STATE_STALE
  (∀ (s : State),
      staleRemotes s ≠ [] →
      exec .feederStateStale s = .next (mapShowAll (setErr (fedUpd s fun f => { f with remote := (staleRemotes s).foldl SMap.del f.remote })
        Reg.FED_ERR_FEEDER_STALE))) ∧
  -- VALUE
  (∀ (s s1 : State) (p : Fin 4) (l : List Byte) (m : SpanMsg),
      spanKind l = 8 →
      spanRx s p.val l = (s1, some m) →
      exec (.value p l) s = .next (spanAct s1 m true)) ∧
  -- VALUE_PUBLISH
  (∀ (s : State),
      running s = true →
      spanMine s = true →
      s.fed.pubSec ≠ dtSec s.dt →
      exec .valuePublish s = .next (s.fed.pubs.foldl (fun s x =>
        match x.2 with
        | none => s
        | some v =>
          match srcValue s 0 v.word with
          | some y => spanSend s v.dst 8 (beBytes 1 v.index ++ [0, 0, 0] ++ beBytes 4 y)
          | none => s) (fedUpd s fun f => { f with pubSec := dtSec s.dt })))

/-- Pair and federation ring commands complete: each clause gives the whole next state of one command, so what it does not change is unchanged.
Clauses that write out a choice or an inference of the model where the spec leaves a point open: PAR_SWITCH (log entry 101); PAR_RESYNC
(log entry 106); FED_VALUE_PUB (log entry 62); FED_HANDOVER, FED_ACT_SEND (log entry 71). The checks of BAD_FIELD are choices too (log
entry 14). -/
def Obligations.PairFedRingComplete : Prop :=
  -- PAR_SWITCH
  (∀ (s : State) (sq : Fin 16) (c : Cmd), Ready s sq 0x0E00 c →
      Clean (opChks c [] []) →
      2 ≤ role s →
      flag s Reg.PAR_STAT_SYNCED = true →
      flag s Reg.PAR_STAT_PARTNER = true →
      exec (.parSwitch sq) s = .next (causedBy (complete s c ansDone) (requestBulk (releaseRole (complete s c ansDone)) 0) c.seq)) ∧
  -- PAR_RESYNC
  (∀ (s : State) (sq : Fin 16) (c : Cmd), Ready s sq 0x0E01 c →
      Clean (opChks c [] []) →
      flag s Reg.PAR_STAT_PARTNER = true →
      let s1 := if role s = 2 then streams.foldl sendBulk (unsync s) else requestBulk s 0
      exec (.parResync sq) s = .next (complete (pairUpd (causedBy s s1 c.seq) fun p => { p with resync := p.resync ++ [c.ref] }) c ansQueued)) ∧
  -- FED_ROUTE_SET
  (∀ (s : State) (sq : Fin 16) (c : Cmd), Ready s sq 0x0E02 c →
      let first := c.op 16 2
      let n := c.op 20 2
      Clean (opChks c [(16, 2), (20, 2)] [(0, 2 * n)] ++
        [rangeChk (decide (4095 < first)) 16, rangeChk (decide (n = 0 ∨ 4096 < n ∨ 4096 < first + n)) 20]) →
      Reachable s c 0 →
      let b := memRead s (c.bufAddr 0) (c.bufLen 0)
      let l := b.take (2 * n)
      Clean (l.zipIdx.map fun x => rangeChk (!bit x.1.toNat 6 && decide (3 < x.1.toNat % 64)) x.2) →
      let routes := (List.range n).foldl (fun m i => m.set (first + i) (fieldLE l (2 * i) 1, fieldLE l (2 * i + 1) 1) (0, 0)) s.fed.routes
      exec (.fedRouteSet sq) s = .next (completeConfig (fedUpd s fun f => { f with routes := routes }) c (ansDone n))) ∧
  -- FED_PEER_SET
  (∀ (s : State) (sq : Fin 16) (c : Cmd), Ready s sq 0x0E03 c →
      let i := c.op 16 1
      Clean (opChks c [(16, 24)] [] ++ [rangeChk (decide (63 < i ∧ i ≠ 255)) 16, rangeChk (decide (3 < c.op 17 1)) 17]) →
      let p : Peer := { port := c.op 17 1, mac := sliceB c.bytes 18 6, ip := sliceB c.bytes 24 16 }
      exec (.fedPeerSet sq) s = .next (completeConfig (fedUpd s fun f => { f with peers := f.peers.set i (some p) none }) c ansDone)) ∧
  -- FED_VALUE_PUB
  (∀ (s : State) (sq : Fin 16) (c : Cmd), Ready s sq 0x0E04 c →
      let e := c.op 16 1
      let w := c.op 24 4
      let k := w / 2 ^ 24
      Clean (opChks c [(16, 3), (20, 2), (24, 4)] [] ++
        [rangeChk (decide (15 < e)) 16, rsvChk (decide (1 < c.op 17 1)) 17, rangeChk (decide (63 < c.op 18 1)) 18, dstChk c 20,
         if k = 1 ∨ k = 2 ∨ k = 4 ∨ k = 5 ∨ k = 7 then srcChk w false false 27 else rangeChk true 27]) →
      let v : Option ValuePub := if c.op 17 1 = 1 then some { index := c.op 18 1, dst := c.op 20 2, word := w } else none
      exec (.fedValuePub sq) s = .next (completeConfig (fedUpd s fun f => { f with pubs := f.pubs.set e v none }) c ansDone)) ∧
  -- FED_FEEDER_MAP
  (∀ (s : State) (sq : Fin 16) (c : Cmd), Ready s sq 0x0E05 c →
      let f := c.op 16 1
      let m := c.op 20 2
      Clean (opChks c [(16, 2), (20, 3)] [] ++
        [rangeChk (decide (5 < f)) 16, rsvChk (decide (1 < c.op 17 1)) 17, rangeChk (decide (4095 < m)) 20, rangeChk (decide (5 < c.op 22 1)) 22]) →
      flag s (Reg.BAS_FDR_CFG_EN f) = false →
      let v : Option (Nat × Nat) := if c.op 17 1 = 1 then some (m, c.op 22 1) else none
      let heard : SMap (Option (Nat × Nat × Nat)) :=
        if v.isSome ∧ s.fed.remote.get m none = none then s.fed.remote.set m (some (0, 0, s.el)) none else s.fed.remote
      exec (.fedFeederMap sq) s = .next (completeConfig (causedBy s (mapShow (fedUpd s fun x => { x with feederMap := x.feederMap.set f v none, remote := heard }) f) c.seq) c ansDone)) ∧
  -- FED_HANDOVER
  (∀ (s : State) (sq : Fin 16) (c : Cmd), Ready s sq 0x0E06 c →
      let n := c.op 16 3
      let d := c.op 20 2
      Clean (opChks c [(16, 3), (20, 2)] [] ++ [rangeChk (decide (foldSize ≤ n)) 16, dstChk c 20]) →
      (entAt s n).state = 3 →
      ((s.fed.handing.any fun h => h.eph = n) || (epAt s n).handTo.isSome) = false →
      fedReady s = true →
      let s1 := spanSend s d 3 (beBytes 3 n ++ [0] ++ (entAt s n).bytes)
      exec (.fedHandover sq) s = .next (complete (fedUpd s1 fun f => { f with handing := f.handing ++ [{ eph := n, dst := d, since := s.el, ref := some c.ref }] }) c ansQueued)) ∧
  -- FED_PIECE_SEND
  (∀ (s : State) (sq : Fin 16) (c : Cmd), Ready s sq 0x0E07 c →
      let slot := c.op 16 1
      let first := c.op 20 4
      let n := c.op 24 4
      Clean (opChks c [(16, 4), (20, 8)] [] ++ [slotChk c, rsvChk (decide (1 < c.op 17 1)) 17, dstChk c 18]) →
      fedReady s = true →
      let x := slotOf s ((slotNum slot).getD 0)
      let held := (x.pieces.filter fun y => decide (first ≤ y.1 ∧ y.1 < first + n)).length
      held = n →
      let j : PieceJob := { slot := slot, bcast := bit (c.op 17 1) 0, dst := c.op 18 2, next := first, left := n, sent := 0, ref := some c.ref }
      exec (.fedPieceSend sq) s = .next (complete (fedUpd s fun f => { f with jobs := f.jobs ++ [j] }) c ansQueued)) ∧
  -- FED_ACT_SEND
  (∀ (s : State) (sq : Fin 16) (c : Cmd), Ready s sq 0x0E08 c →
      Clean (opChks c [(16, 16)] [] ++
        [rangeChk (decide (1 < c.op 16 1)) 16, rsvChk (decide (1 < c.op 17 1)) 17, dstChk c 18, dtChk c 24]) →
      fedReady s = true →
      let b := beBytes 1 (c.op 16 1) ++ [0, 0, 0] ++ beBytes 4 (c.op 20 4) ++ beBytes 8 (c.op 24 8)
      exec (.fedActSend sq) s = .next (complete (if c.op 17 1 = 1 then spanBcast s (fld s Reg.FED_CFG_TTL) 6 b else spanSend s (c.op 18 2) 6 b) c ansDone))

/-- Self-test commands and events complete: each clause gives the whole next state of one command, so what it does not change is unchanged.
Clauses that write out a choice or an inference of the model where the spec leaves a point open: TILE_FILL (log entries 110, 139 and 157);
PATROL_READ (log entries 110, 114, 139 and 157); SRAM_SCRUB (log entries 112, 114 and 156); NAND_REFRESH (log entries 111, 112, 114 and
139); LANE_TEST, BST_RESULT (log entries 113 and 137); REF_CHECK (log entries 113, 114 and 158); BST_RUN (log entry 113); BST_RECOVER (log
entry 158). The checks of BAD_FIELD are choices too (log entry 14). -/
def Obligations.SelfTestComplete : Prop :=
  -- TILE_FILL
  (∀ (s : State) (t : Nat) (r : TileRead) (need : Option (Fin 16)) (b : Boot),
      running s = true →
      t < numTiles →
      exec (.tileFill t r need b) s = .next (tileRead s t r need b)) ∧
  -- PATROL_READ
  (∀ (s : State) (r : TileRead) (b : Boot),
      running s = true →
      flag s Reg.BST_CTRL_PATROL = true →
      let t := s.bst.patrol
      (t ≠ 0 ∨ s.bst.patrolAt = 0 ∨ passedSec s (s.bst.patrolAt - 1) (3600 * fld s Reg.BST_CFG_PATROL_H) = true) →
      let s1 := bstUpd s fun x => { x with patrol := (t + 1) % numTiles, patrolAt := if t = 0 then s.el + 1 else x.patrolAt }
      exec (.patrolRead r b) s = .next (tileRead s1 t r none b)) ∧
  -- SRAM_SCRUB
  (∀ (s : State) (ce : Nat) (ue : List SramFault) (b : Boot),
      running s = true →
      (s.bst.scrubAt = 0 ∨ passedSec s (s.bst.scrubAt - 1) 600 = true) →
      exec (.sramScrub ce ue b) s = .next
        (ue.foldl (sramFault b) (countBy (bstUpd s fun x => { x with scrubAt := s.el + 1 }) (Reg.BST_CNT_COUNT 1) ce))) ∧
  -- NAND_REFRESH
  (∀ (s : State),
      running s = true →
      (∀ n : Fin 9, 6 ≤ n.val → exec (.nandRefresh (.corrected n)) s = .next (count1 s (Reg.BST_CNT_COUNT 3))) ∧
      exec (.nandRefresh (.other .fold)) s = .next (count1 (dropCheckpoint s) (Reg.BST_CNT_COUNT 4)) ∧
      exec (.nandRefresh (.other .config)) s = .next (count1 (ckDrop s) (Reg.BST_CNT_COUNT 4)) ∧
      exec (.nandRefresh (.other .image)) s = .next (count1 s (Reg.BST_CNT_COUNT 4)) ∧
      (∀ sq : Fin 16, exec (.nandRefresh (.lost sq)) s = .next (failNeed (drawFree s) sq.val (freeVal s 16)))) ∧
  -- LANE_TEST
  (∀ (s : State) (t : Nat) (r : TestRun),
      (List.range 0x61).find? (laneDue s) = some t →
      laneBusy s t = false →
      runFits t r = true →
      exec (.laneTest t r) s = .next (judgeRun (stampTest s t) t r).1) ∧
  -- REF_CHECK
  (∀ (s : State) (t : Nat) (r : TestRun),
      refDue s t = true →
      runFits t r = true →
      exec (.refCheck t r) s = .next (judgeRun (stampTest s t) t r).1) ∧
  -- BST_RUN
  (∀ (s : State) (sq : Fin 16) (c : Cmd), Ready s sq 0x0F00 c →
      let t := c.op 16 1
      Clean (opChks c [(16, 1)] [] ++ [rangeChk (!isTarget t) 16]) →
      s.bst.lanes.contains t = false →
      (isLane t && !spareFree s t) = false →
      domState s (targetDomain t) ≠ 0 →
      testing s t = false →
      exec (.bstRun sq) s = .next (complete (driveSinks (showTests (bstUpd s fun b => { b with
        tests := b.tests ++ [{ target := t, ref := c.ref, recover := false, since := s.el }] }))) c ansQueued)) ∧
  -- BST_RECOVER
  (∀ (s : State) (sq : Fin 16) (c : Cmd), Ready s sq 0x0F01 c →
      let t := c.op 16 1
      Clean (opChks c [(16, 1)] [] ++ [rangeChk (!isTarget t) 16]) →
      s.bst.lanes.contains t = false →
      (isLane t && !spareFree s t) = false →
      domState s (targetDomain t) ≠ 0 →
      testing s t = false →
      exec (.bstRecover sq) s = .next (complete (driveSinks (showTests (bstUpd s fun b => { b with
        tests := b.tests ++ [{ target := t, ref := c.ref, recover := true, since := s.el }] }))) c ansQueued)) ∧
  -- BST_TILE_READ
  (∀ (s : State) (sq : Fin 16) (c : Cmd), Ready s sq 0x0F02 c →
      let first := c.op 20 4
      let n := c.op 24 4
      Clean (opChks c [(20, 8)] [(1, 4 * n)] ++ [rangeChk (decide (n = 0 ∨ 131072 < n)) 24]) →
      let l := (s.bst.tiles.drop first).take n
      Reachable s c 0 →
      let s1 := memWrite s (c.bufAddr 0) (List.take (c.bufLen 0) (l.flatMap (leBytes 4)))
      exec (.bstTileRead sq) s = .next (complete s1 c (ansDone l.length))) ∧
  -- BST_RESULT
  (∀ (s : State) (r : TestRun) (x : BstTest) (rest : List BstTest),
      s.bst.tests = x :: rest →
      runFits x.target r = true →
      laneBusy s x.target = false →
      let j := judgeRun (driveSinks (showTests (stampTest (bstUpd s fun b => { b with tests := rest }) x.target))) x.target r
      let misr := match r with
        | .lane a b want _ => leBytes 4 (if a = want then a else b).val ++ leBytes 4 want.val
        | .ref _ _ => []
      exec (.bstResult r) s = .next (emitOutcome j.1 0x0F00 (leBytes 1 x.target ++ leBytes 1 j.2 ++ [0, 0] ++ misr) (some x.ref) 0)) ∧
  -- TEST_N_ASSERT
  (∀ (s : State),
      running s = true →
      exec .testNAssert s = .next
        (if flag s Reg.KEY_STAT_SCAN_OK then pwrUpd (wipe (count1 s (Reg.PWR_CNT_COUNT 3)) .mod) fun x => { x with phase := .scan }
         else count1 s (Reg.BST_CNT_COUNT 7)))

/-- Power, clock, thermal and tamper events complete: each clause gives the whole next state of one command, so what it does not change is unchanged.
Clauses that write out a choice or an inference of the model where the spec leaves a point open: POWER_FAIL_WARNING (log entries 116 and
165); VIN_DIP, RST_N, WATCHDOG, CLOCK_RECOVER (log entry 115); VIN_GOOD (log entries 115 and 165); CLOCK_FAULT (log entry 118); TAMPER
(log entries 120 and 165). -/
def Obligations.PowerComplete : Prop :=
  -- POWER_FAIL_WARNING
  (∀ (s : State) (w : PfWarn),
      running s = true →
      flag s Reg.PWR_STAT_PF = false →
      (if w.pin then flag s Reg.PWR_CTRL_PFW_PIN_EN = true else w.vin < 8500) →
      let s0 := setFld s Reg.PWR_VOLT_VIN (min w.vin 65535)
      let s1 := if w.vin ≤ 9000 then setFld s0 Reg.PWR_STAT_VIN_OK 0 else s0
      let s2 := shed (pwrUpd (setFlag (count1 s1 (Reg.PWR_CNT_COUNT 0)) Reg.PWR_STAT_PF true) fun p => { p with pfAt := s1.el + 1 })
      let r : PfRec := { dt := s.dt, us := Config.free s2.freeN % 4001, done := true }
      exec (.powerFailWarning w) s = .next
        (if fld s Reg.PWR_STAT_STEP = 9 then
           pwrUpd (commitAll (drawFree s2)) fun p => { p with pfRec := some r, pfHist := r :: p.pfHist }
         else pwrUpd s2 fun p => { p with pfRec := none })) ∧
  -- BROWN_OUT
  (∀ (s : State),
      (s.pwr.phase = .on ∨ s.pwr.phase = .clockHeld ∨ s.pwr.phase = .scan) →
      let lost := s.pwr.aoLost || (decide (s.pwr.phase ≠ .clockHeld) && !flag s Reg.PWR_STAT_VBAK_OK)
      let s1 := setFld (wipe (count1 s (Reg.PWR_CNT_COUNT 2)) .cold) Reg.PWR_DOMAIN_STATE 2
      exec .brownOut s = .next
        (pwrUpd (dropDrives (setFld s1 Reg.PWR_STAT_VIN_OK 0) fun _ => true) fun x => { x with phase := .holdover, aoLost := lost })) ∧
  -- VIN_DIP
  (∀ (s : State) (b : Boot),
      running s = true →
      s.pwr.pfAt ≠ 0 →
      passedUs s (s.pwr.pfAt - 1) (100000 + (match s.pwr.pfRec with | some r => r.us | none => 0)) = true →
      exec (.vinDip b) s = .next (coldStart (count1 s (Reg.PWR_CNT_COUNT 1)) b 2)) ∧
  -- VIN_GOOD
  (∀ (s : State) (b : Boot),
      (s.pwr.phase = .por → exec (.vinGood b) s = .next (coldStart s b 0)) ∧
      (s.pwr.phase = .holdover → exec (.vinGood b) s = .next (coldStart s b (if s.pwr.aoLost then 0 else 1)))) ∧
  -- RST_N
  (∀ (s : State) (b : Boot),
      running s = true →
      exec (.rstN b) s = .next (modReset s b 4 false)) ∧
  -- WATCHDOG
  (∀ (s : State) (b : Boot),
      running s = true →
      exec (.watchdog b) s = .next (modReset s b 6 false)) ∧
  -- CLOCK_FAULT
  (∀ (s : State),
      (s.pwr.phase = .on ∨ s.pwr.phase = .scan) →
      exec .clockFault s = .next
        (pwrUpd (wipe s .cold) fun x => { x with phase := .clockHeld, aoLost := !flag s Reg.PWR_STAT_VBAK_OK })) ∧
  -- CLOCK_RECOVER
  (∀ (s : State) (b : Boot),
      s.pwr.phase = .clockHeld →
      exec (.clockRecover b) s = .next (coldStart s b 3)) ∧
  -- VBAK_LOW
  (∀ (s : State) (mv : Nat),
      let s1 := setFld s Reg.PWR_VOLT_VBAK (min mv 65535)
      ((s.pwr.phase = .holdover ∨ s.pwr.phase = .clockHeld) →
        exec (.vbakLow mv) s = .next (pwrUpd s fun p => { p with aoLost := true })) ∧
      ((s.pwr.phase = .on ∨ s.pwr.phase = .scan) → flag s Reg.PWR_STAT_VBAK_OK = true → mv < 2000 →
        exec (.vbakLow mv) s = .next (supplyEvent (setErr (setFld s1 Reg.PWR_STAT_VBAK_OK 0) Reg.PWR_ERR_VBAK_LOW) 0))) ∧
  -- VBAK_GOOD
  (∀ (s : State) (mv : Nat),
      let s1 := setFld s Reg.PWR_VOLT_VBAK (min mv 65535)
      (s.pwr.phase = .clockHeld → exec (.vbakGood mv) s = .next (pwrUpd s fun p => { p with aoLost := false })) ∧
      ((s.pwr.phase = .on ∨ s.pwr.phase = .scan) → flag s Reg.PWR_STAT_VBAK_OK = false → 2000 ≤ mv →
        exec (.vbakGood mv) s = .next (supplyEvent (setFld s1 Reg.PWR_STAT_VBAK_OK 1) 1))) ∧
  -- THERMAL
  (∀ (s : State) (t : Int),
      running s = true →
      let s1 := setFld s Reg.PWR_TEMP_LID (ofSigned 16 t)
      exec (.thermal t) s = .next
        (if 10000 ≤ t ∧ s.pwr.hot = false then supplyEvent (setErr (pwrUpd s1 fun p => { p with hot := true }) Reg.PWR_ERR_THERMAL) 2 else s1)) ∧
  -- THERMAL_CLEAR
  (∀ (s : State) (t : Int),
      running s = true →
      let s1 := setFld s Reg.PWR_TEMP_LID (ofSigned 16 t)
      exec (.thermalClear t) s = .next
        (if t < 9500 ∧ s.pwr.hot = true then supplyEvent (pwrUpd s1 fun p => { p with hot := false }) 3 else s1)) ∧
  -- TAMPER
  (∀ (s0 : State) (x : TampIn),
      aoDead s0 = false →
      let s := setFld s0 Reg.PIN_TAMPER_LEVEL (putBits (fld s0 Reg.PIN_TAMPER_LEVEL) x.n.val x.n.val (b2n !x.low))
      let latch := fld s Reg.PIN_TAMPER_LATCH
      let now := latch + 2 ^ x.n.val
      (x.low = false → exec (.tamper x) s0 = .next s) ∧
      (x.low = true → bit (fld s Reg.PIN_TAMPER_EN) x.n.val = true → bit latch x.n.val = false →
        let s1 := setFld s Reg.PIN_TAMPER_LATCH now
        let s2 := if latch = 0 then pwrUpd s1 fun p => { p with tamperDt := s.dt } else s1
        exec (.tamper x) s0 = .next (if running s then tamperRecord s2 now
          else pwrUpd s2 fun p => { p with tamperDue := p.tamperDue ++ [now] })))

/-- Power ring commands and domain arrival complete: each clause gives the whole next state of one command, so what it does not change is unchanged.
Clauses that write out a choice or an inference of the model where the spec leaves a point open: PWR_MODE_SET (log entry 18);
PWR_DOMAIN_SET (log entries 18 and 118); DOMAIN_STATE_REACHED (log entry 118). The checks of BAD_FIELD are choices too (log entry 14). -/
def Obligations.PowerRingComplete : Prop :=
  -- PWR_MODE_SET
  (∀ (s : State) (sq : Fin 16) (c : Cmd), Ready s sq 0x1000 c →
      let m := c.op 16 1
      Clean (opChks c [(16, 1)] [] ++ [rangeChk (decide (1 < m)) 16]) →
      flag s Reg.PWR_STAT_PF = false →
      let old := fld s Reg.PWR_STAT_MODE
      let s1 := pwrUpd (setFld (setFld s Reg.PWR_STAT_MODE m) Reg.RAD_CTRL_QUIET m) fun p => { p with ckMode := m }
      let s2 := outputsCheck s1
      exec (.pwrModeSet sq) s = .next (completeConfig (if old = m then s2 else emitBy s2 0x1000 (leBytes 1 old ++ leBytes 1 m) c.seq) c ansDone)) ∧
  -- PWR_DOMAIN_SET
  (∀ (s : State) (sq : Fin 16) (c : Cmd), Ready s sq 0x1001 c →
      let d := c.op 16 1
      let v := c.op 17 1
      Clean (opChks c [(16, 2)] [] ++ [rangeChk (!([6, 7, 10, 11].contains d)) 16, rangeChk (decide (2 < v)) 17]) →
      flag s Reg.PWR_STAT_PF = false →
      inUse s d = false →
      exec (.pwrDomainSet sq) s = .next (markStarted (pwrUpd s fun p => { p with changes := p.changes ++ [{ seq := c.seq, dom := d, goal := v }] }) c)) ∧
  -- DOMAIN_STATE_REACHED
  (∀ (s : State) (x : DomChange) (r : List DomChange),
      s.pwr.changes = x :: r →
      let old := domState s x.dom
      let s1 := pwrUpd s fun p => { p with changes := r }
      (flag s Reg.PWR_STAT_PF = true → exec .domainStateReached s = .next (completeSeq s1 x.seq (ansBadState 0x0001))) ∧
      (flag s Reg.PWR_STAT_PF = false →
        let s2 := setDom s1 x.dom x.goal
        let s3 := if old = 0 ∧ x.goal ≠ 0 then domReset s2 x.dom else s2
        let s4 := domPads (if x.dom = 10 ∧ x.goal ≠ 0 then driveClks s3 else s3) x.dom x.goal
        let s5 := if x.dom = 11 ∧ old = 1 ∧ x.goal = 2 then oxFollowRole s4 else s4
        let s6 := if old = x.goal then s5 else emitBy s5 0x1001 (leBytes 1 x.dom ++ leBytes 1 old ++ leBytes 1 x.goal) x.seq
        exec .domainStateReached s = .next (completeSeq s6 x.seq ansDone)))
end

