-- ==== Sys2Proof/Laws/Cfg.lean ====
section
/-! SUPPORT. The bytes of the checkpoint's tables read back, and the CFG messages of a change turn the old bytes into the new (R442,
R446). -/

namespace Sys2Proof.Laws

open Sys2Proof.Machine

theorem cfgRead_cfgImage (t : CfgTables) : cfgRead (cfgImage t) = some t := by
  have h := CfgTables.code.ok t []
  rw [List.append_nil] at h
  unfold cfgImage
  dsimp only
  split
  · rename_i e; simp [cfgRead, e, h]
  · simp [cfgRead, h]

theorem sameUpTo_take : ∀ l m : List Byte, l.take (sameUpTo l m) = m.take (sameUpTo l m) ∧ sameUpTo l m ≤ l.length
  | [], m => by simp [sameUpTo]
  | a :: l, [] => by simp [sameUpTo]
  | a :: l, b :: m => by
    unfold sameUpTo
    split
    · have := sameUpTo_take l m
      simp_all
    · simp

/-- The pieces of some bytes, laid over a beginning of at least their OFFSET, replace what stands from there on. -/
theorem cfgOver_pieces (k : Nat) : ∀ (o : Nat) (b l : List Byte), o ≤ l.length →
    (cfgPieces k o b).foldl cfgOver l = l.take o ++ b := by
  induction k with
  | zero => intro o b l _; rfl
  | succ k ih =>
    intro o b l h
    unfold cfgPieces
    split
    · rfl
    · rename_i hb
      have h1 : (l.take o).length = o := by simp [h]
      have h2 : (b.take cfgPiece).length = cfgPiece := by simp; omega
      have h3 : (cfgOver l (o, b.take cfgPiece)).length = o + cfgPiece := by simp only [cfgOver, List.length_append, h1, h2]
      rw [List.foldl_cons, ih _ _ _ (by omega), List.take_of_length_le (by omega)]
      simp [cfgOver, List.append_assoc]

/-- A STANDBY module that holds the old bytes holds the new ones after the messages of the change. -/
theorem cfgDelta_over (old new : CfgTables) : (cfgDelta old new).foldl cfgOver (cfgImage old) = cfgImage new := by
  unfold cfgDelta
  obtain ⟨h, hl⟩ := sameUpTo_take (cfgImage old) (cfgImage new)
  rw [cfgOver_pieces _ _ _ _ hl, h, List.take_append_drop]

end Sys2Proof.Laws
end

