-- ==== Sys2Proof/Laws/SMap.lean ====
section
/-! SUPPORT. Laws of sparse tables: a read after a write, and that every operation keeps the canonical form. -/

namespace Sys2Proof.Laws

variable {α : Type}

/-- The bound `lo` lies below `k`. -/
def Below (lo : Option Nat) (k : Nat) : Prop := ∀ l, lo = some l → l < k

theorem wfFrom_cons [DecidableEq α] {d : Nat → α} {lo : Option Nat} {k : Nat} {v : α} {r : SMap α} :
    SMap.wfFrom d lo ((k, v) :: r) = true ↔ Below lo k ∧ v ≠ d k ∧ SMap.wfFrom d (some k) r = true := by
  cases lo <;> simp [SMap.wfFrom, Below, and_assoc]

theorem wfFrom_below [DecidableEq α] {d : Nat → α} {lo lo' : Option Nat} (h : ∀ k, Below lo k → Below lo' k) :
    ∀ {m : SMap α}, SMap.wfFrom d lo m = true → SMap.wfFrom d lo' m = true
  | [], _ => rfl
  | (k, v) :: r, w => by
    rw [wfFrom_cons] at w ⊢
    exact ⟨h k w.1, w.2⟩

theorem below_some {lo : Option Nat} {k : Nat} (h : Below lo k) : ∀ j, Below (some k) j → Below lo j := by
  intro j hj l hl
  have a := h l hl
  have b := hj k rfl
  omega

theorem wfFrom_del [DecidableEq α] {d : Nat → α} {k : Nat} :
    ∀ {m : SMap α} {lo : Option Nat}, SMap.wfFrom d lo m = true → SMap.wfFrom d lo (m.del k) = true
  | [], _, _ => rfl
  | (k', v) :: r, lo, w => by
    rw [wfFrom_cons] at w
    unfold SMap.del
    split
    · exact wfFrom_below (below_some w.1) (wfFrom_del w.2.2)
    · rw [wfFrom_cons]
      exact ⟨w.1, w.2.1, wfFrom_del w.2.2⟩

theorem wfFrom_ins [DecidableEq α] {d : Nat → α} {k : Nat} {v : α} (hv : v ≠ d k) :
    ∀ {m : SMap α} {lo : Option Nat}, Below lo k → SMap.wfFrom d lo (m.del k) = true →
      SMap.wfFrom d lo ((m.del k).ins k v) = true
  | [], lo, hk, _ => by
    simp only [SMap.del, SMap.ins]
    rw [wfFrom_cons]
    exact ⟨hk, hv, rfl⟩
  | (k', v') :: r, lo, hk, w => by
    unfold SMap.del at w ⊢
    split at w <;> rename_i h
    · rw [if_pos h]
      exact wfFrom_ins hv hk w
    · rw [if_neg h]
      rw [wfFrom_cons] at w
      unfold SMap.ins
      split <;> rename_i h'
      · rw [wfFrom_cons, wfFrom_cons]
        exact ⟨hk, hv, fun _ e => by cases e; exact h', w.2⟩
      · rw [wfFrom_cons]
        exact ⟨w.1, w.2.1, wfFrom_ins hv (fun _ e => by cases e; omega) w.2.2⟩

/-- Writing a value keeps the canonical form. -/
theorem wf_set [DecidableEq α] {d : Nat → α} {m : SMap α} {k : Nat} {v : α} (h : m.wf d = true) :
    (m.set k v (d k)).wf d = true := by
  unfold SMap.set
  split <;> rename_i hv
  · exact wfFrom_del h
  · exact wfFrom_ins hv (fun _ e => by cases e) (wfFrom_del h)

/-- Dropping entries keeps the canonical form. -/
theorem wfFrom_filter [DecidableEq α] {d : Nat → α} {p : Nat × α → Bool} :
    ∀ {m : SMap α} {lo : Option Nat}, SMap.wfFrom d lo m = true → SMap.wfFrom d lo (m.filter p) = true
  | [], _, _ => rfl
  | (k, v) :: r, lo, w => by
    rw [wfFrom_cons] at w
    rw [List.filter_cons]
    split
    · rw [wfFrom_cons]
      exact ⟨w.1, w.2.1, wfFrom_filter w.2.2⟩
    · exact wfFrom_below (below_some w.1) (wfFrom_filter w.2.2)

theorem get_del_same {m : SMap α} {k : Nat} {d : α} : (m.del k).get k d = d := by
  induction m with
  | nil => rfl
  | cons e r ih =>
    obtain ⟨k', v⟩ := e
    unfold SMap.del
    split <;> rename_i h
    · exact ih
    · simp only [SMap.get, if_neg h, ih]

theorem get_del_ne {m : SMap α} {j k : Nat} {d : α} (h : j ≠ k) : (m.del k).get j d = m.get j d := by
  induction m with
  | nil => rfl
  | cons e r ih =>
    obtain ⟨k', v⟩ := e
    unfold SMap.del
    split <;> rename_i hk
    · subst hk
      simp only [SMap.get, if_neg (Ne.symm h), ih]
    · simp only [SMap.get, ih]

theorem get_ins_same {m : SMap α} {k : Nat} {v d : α} : ((m.del k).ins k v).get k d = v := by
  induction m with
  | nil => simp [SMap.del, SMap.ins, SMap.get]
  | cons e r ih =>
    obtain ⟨k', v'⟩ := e
    unfold SMap.del
    split <;> rename_i hk
    · exact ih
    · unfold SMap.ins
      split
      · simp [SMap.get]
      · simp only [SMap.get, if_neg hk, ih]

theorem get_ins_ne {m : SMap α} {j k : Nat} {v d : α} (h : j ≠ k) : (m.ins k v).get j d = m.get j d := by
  induction m with
  | nil => simp [SMap.ins, SMap.get, Ne.symm h]
  | cons e r ih =>
    obtain ⟨k', v'⟩ := e
    unfold SMap.ins
    split
    · simp [SMap.get, Ne.symm h]
    · simp only [SMap.get, ih]

/-- A read of the key that was written gives the value. -/
@[simp] theorem get_set_same [DecidableEq α] {m : SMap α} {k : Nat} {v d : α} : (m.set k v d).get k d = v := by
  unfold SMap.set
  split <;> rename_i h
  · rw [get_del_same, h]
  · exact get_ins_same

/-- A write leaves every other key. -/
theorem get_set_ne [DecidableEq α] {m : SMap α} {j k : Nat} {v d d' : α} (h : j ≠ k) : (m.set k v d).get j d' = m.get j d' := by
  unfold SMap.set
  split
  · exact get_del_ne h
  · rw [get_ins_ne h, get_del_ne h]

end Sys2Proof.Laws
end

