-- ==== Sys2Proof/Laws/KeptBase.lean ====
section
/-! SUPPORT. What every meaning keeps: the queue as it is, the canonical form of host memory and of the register bank, and
module time within 56 bits. One lemma per operation, so that a proof about every step cites them and unfolds nothing. -/

namespace Sys2Proof.Laws

open Sys2Proof.Machine

/-- `t` has the queue of `s`, keeps what is canonical in `s`, and loses nothing that only grows: elapsed time, the SVN floor and
the burned bits of OTP. -/
structure Kept (s t : State) : Prop where
  pend : t.pending = s.pending
  mem : SMap.wf (fun _ => (0 : Byte)) s.host.mem = true → SMap.wf (fun _ => (0 : Byte)) t.host.mem = true
  regs : SMap.wf resetVal s.regs = true → SMap.wf resetVal t.regs = true
  dt : s.dt < 2 ^ 56 → t.dt < 2 ^ 56
  el : s.el ≤ t.el
  floor : s.upd.floor ≤ t.upd.floor
  burned : ∀ i, s.key.burned.get i 0 &&& t.key.burned.get i 0 = s.key.burned.get i 0

theorem Kept.refl (s : State) : Kept s s := ⟨rfl, id, id, id, Nat.le_refl _, Nat.le_refl _, fun _ => BitVec.and_self⟩

theorem and_kept {w : Nat} {a b c : BitVec w} (h : a &&& b = a) (g : b &&& c = b) : a &&& c = a := by
  rw [← h, BitVec.and_assoc, g]

theorem Kept.trans {a b c : State} (h : Kept a b) (g : Kept b c) : Kept a c :=
  ⟨g.pend.trans h.pend, g.mem ∘ h.mem, g.regs ∘ h.regs, g.dt ∘ h.dt, Nat.le_trans h.el g.el, Nat.le_trans h.floor g.floor,
    fun i => and_kept (h.burned i) (g.burned i)⟩

/-- An update of anything but the queue, the registers, both times, host memory, the SVN floor and OTP. -/
theorem Kept.upd {k0 s : State} (h : Kept k0 s) {el freeN sent time cis rad mac street cas bas weir ftn ox pair fed key pin upd
    pwr bst} {host : HostSt} (hm : host.mem = s.host.mem) (he : el = s.el) (hf : upd.floor = s.upd.floor)
    (hb : key.burned = s.key.burned) :
    Kept k0 (State.mk s.pending s.regs s.dt el freeN sent host time cis rad mac street cas bas weir ftn ox pair fed key pin upd pwr
      bst) :=
  h.trans ⟨rfl, fun w => by simpa [hm] using w, id, id, he ▸ Nat.le_refl _, hf ▸ Nat.le_refl _,
    fun _ => by simp [hb]⟩

/-- An update of module time, too, and of elapsed time forward. -/
theorem Kept.clock {k0 s : State} (h : Kept k0 s) {x el freeN sent time cis rad mac street cas bas weir ftn ox pair fed key pin
    upd pwr bst} {host : HostSt} (hm : host.mem = s.host.mem) (he : s.el ≤ el) (hf : upd.floor = s.upd.floor)
    (hb : key.burned = s.key.burned) :
    Kept k0 (State.mk s.pending s.regs (x % 2 ^ 56) el freeN sent host time cis rad mac street cas bas weir ftn ox pair fed key pin
      upd pwr bst) :=
  h.trans ⟨rfl, fun w => by simpa [hm] using w, id, fun _ => Nat.mod_lt _ (by decide), he, hf ▸ Nat.le_refl _,
    fun _ => by simp [hb]⟩

theorem Kept.ite {k0 : State} {p : Prop} [Decidable p] {a b : State} (ha : Kept k0 a) (hb : Kept k0 b) :
    Kept k0 (if p then a else b) := by split <;> assumption

theorem Kept.ite1 {α : Type} {k0 : State} {p : Prop} [Decidable p] {a b : State × α} (ha : Kept k0 a.1) (hb : Kept k0 b.1) :
    Kept k0 (if p then a else b).1 := by split <;> assumption

theorem Kept.fst {α : Type} {k0 : State} {p : State × α} {a : State} {b : α} (e : p = (a, b)) (h : Kept k0 p.1) : Kept k0 a := by
  subst e; exact h

theorem Kept.snd {α : Type} {k0 : State} {p : α × State} {a : α} {b : State} (e : p = (a, b)) (h : Kept k0 p.2) : Kept k0 b := by
  subst e; exact h

theorem Kept.foldl {α : Type} {k0 s : State} {f : State → α → State} {l : List α} (h : Kept k0 s)
    (hf : ∀ t a, Kept k0 t → Kept k0 (f t a)) : Kept k0 (l.foldl f s) := by
  induction l generalizing s with
  | nil => exact h
  | cons a l ih => exact ih (hf s a h)

theorem Kept.foldl1 {α β : Type} {k0 : State} {p : State × β} {f : State × β → α → State × β} {l : List α} (h : Kept k0 p.1)
    (hf : ∀ t a, Kept k0 t.1 → Kept k0 (f t a).1) : Kept k0 (l.foldl f p).1 := by
  induction l generalizing p with
  | nil => exact h
  | cons a l ih => exact ih (hf p a h)

/-- What the work of an opcode leaves is kept. -/
def StopKept (k0 : State) : Stop → Prop
  | .ans _ => True
  | .ansIn s _ => Kept k0 s
  | .bufFault s => Kept k0 s

def ExKept {α : Type} (k0 : State) (p : α → Prop) : Except Stop α → Prop
  | .ok v => p v
  | .error e => StopKept k0 e

def WorkKept (k0 : State) (w : Work) : Prop := ExKept k0 (fun v => Kept k0 v.1) w

theorem ExKept.bind {α β : Type} {k0 : State} {p : α → Prop} {q : β → Prop} {x : Except Stop α} {f : α → Except Stop β}
    (hx : ExKept k0 p x) (hf : ∀ v, p v → ExKept k0 q (f v)) : ExKept k0 q (x >>= f) := by
  cases x with
  | ok v => exact hf v hx
  | error e => exact hx

theorem ExKept.pure {α : Type} {k0 : State} {p : α → Prop} {v : α} (h : p v) : ExKept k0 p (Pure.pure v) := h

/-- A next state that a meaning answers is kept. -/
structure OutKept (k0 : State) (o : Host.Outcome State Fault Refusal) : Prop where
  out : ∀ t, o = .next t → Kept k0 t

theorem OutKept.next {k0 s : State} (h : Kept k0 s) : OutKept k0 (.next s) := by
  refine ⟨fun t e => ?_⟩
  cases e
  exact h

theorem wk_bind {α : Type} {k0 : State} {p : α → Prop} {x : Except Stop α} {f : α → Work} (hx : ExKept k0 p x)
    (hf : ∀ v, p v → WorkKept k0 (f v)) : WorkKept k0 (x >>= f) := ExKept.bind hx hf

theorem wk_ok {k0 : State} {v : State × Option Answer} (h : Kept k0 v.1) : WorkKept k0 (.ok v) := h

theorem wk_pure {k0 : State} {v : State × Option Answer} (h : Kept k0 v.1) : WorkKept k0 (Pure.pure v) := h

theorem wk_ans {k0 : State} {a : Answer} : WorkKept k0 (.error (.ans a)) := trivial

theorem wk_ansIn {k0 s : State} {a : Answer} (h : Kept k0 s) : WorkKept k0 (.error (.ansIn s a)) := h

theorem wk_ite {k0 : State} {p : Prop} [Decidable p] {a b : Work} (ha : WorkKept k0 a) (hb : WorkKept k0 b) :
    WorkKept k0 (if p then a else b) := by split <;> assumption

theorem wk_stopIf {k0 : State} {b : Bool} {a : Answer} {f : Unit → Work} (hf : WorkKept k0 (f ())) :
    WorkKept k0 (stopIf b a >>= f) := by
  refine wk_bind (p := fun _ => True) ?_ fun _ _ => hf
  unfold stopIf
  split <;> trivial

theorem wk_checkOps {k0 : State} {l : List Chk} {f : Unit → Work} (hf : WorkKept k0 (f ())) :
    WorkKept k0 (checkOps l >>= f) := by
  refine wk_bind (p := fun _ => True) ?_ fun _ _ => hf
  unfold checkOps
  split <;> trivial

theorem wk_checkBuf {k0 : State} {k : Nat} {l : List Chk} {f : Unit → Work} (hf : WorkKept k0 (f ())) :
    WorkKept k0 (checkBuf k l >>= f) := by
  refine wk_bind (p := fun _ => True) ?_ fun _ _ => hf
  unfold checkBuf
  split <;> trivial

theorem wk_readBuf {k0 s : State} {c : Cmd} {k : Nat} {f : List Byte → Work} (h : Kept k0 s)
    (hf : ∀ l, WorkKept k0 (f l)) : WorkKept k0 (readBuf s c k >>= f) := by
  refine wk_bind (p := fun _ => True) ?_ fun l _ => hf l
  unfold readBuf
  split
  · exact h
  · trivial

theorem kept_setReg {k0 s : State} {off : Nat} {v : Word} (h : Kept k0 s) : Kept k0 (setReg s off v) :=
  ⟨h.pend, h.mem, fun w => wf_set (h.regs w), h.dt, h.el, h.floor, h.burned⟩

theorem wf_memPut {l : List Byte} : ∀ {m : SMap Byte} {a : Nat}, m.wf (fun _ => (0 : Byte)) = true →
    (memPut m a l).wf (fun _ => (0 : Byte)) = true := by
  induction l with
  | nil => exact fun h => h
  | cons b r ih => exact fun h => ih (wf_set h)

theorem wf_writes {l : List (Nat × List Byte)} : ∀ {m : SMap Byte}, m.wf (fun _ => (0 : Byte)) = true →
    (l.foldl (fun m w => memPut m w.1 w.2) m).wf (fun _ => (0 : Byte)) = true := by
  induction l with
  | nil => exact fun h => h
  | cons _ _ ih => exact fun h => ih (wf_memPut h)

theorem kept_memWrite {k0 s : State} {a : Nat} {l : List Byte} (h : Kept k0 s) : Kept k0 (memWrite s a l) :=
  ⟨h.pend, fun w => wf_memPut (h.mem w), h.regs, h.dt, h.el, h.floor, h.burned⟩

theorem kept_entryWrite {k0 s : State} {a : Nat} {l : List Byte} (h : Kept k0 s) : Kept k0 (entryWrite s a l) :=
  ⟨h.pend, fun w => wf_memPut (h.mem w), h.regs, h.dt, h.el, h.floor, h.burned⟩

theorem kept_hostUpd {k0 s : State} {f : HostSt → HostSt} (h : Kept k0 s) (hf : ∀ x, (f x).mem = x.mem) :
    Kept k0 (hostUpd s f) := Kept.upd h (hf s.host) rfl rfl rfl

theorem kept_dropRegs {k0 s : State} {p : Card → Bool} (h : Kept k0 s) : Kept k0 (dropRegs s p) :=
  ⟨h.pend, h.mem, fun w => wfFrom_filter (h.regs w), h.dt, h.el, h.floor, h.burned⟩

theorem kept_writeBuf {k0 s : State} {c : Cmd} {k : Nat} {l : List Byte} (h : Kept k0 s) :
    ExKept k0 (fun t => Kept k0 t) (writeBuf s c k l) := by
  unfold writeBuf
  dsimp only
  split
  · exact Kept.upd (kept_memWrite h) rfl rfl rfl rfl
  · exact kept_memWrite h

theorem wk_writeBuf {k0 s : State} {c : Cmd} {k : Nat} {l : List Byte} {f : State → Work} (h : Kept k0 s)
    (hf : ∀ t, Kept k0 t → WorkKept k0 (f t)) : WorkKept k0 (writeBuf s c k l >>= f) :=
  wk_bind (kept_writeBuf h) hf

theorem kept_updUpd {k0 s : State} {f : UpdSt → UpdSt} (h : Kept k0 s) (hf : ∀ x, (f x).floor = x.floor) :
    Kept k0 (updUpd s f) := Kept.upd h rfl rfl (hf s.upd) rfl

theorem kept_keyUpd {k0 s : State} {f : KeySt → KeySt} (h : Kept k0 s) (hf : ∀ x, (f x).burned = x.burned) :
    Kept k0 (keyUpd s f) := Kept.upd h rfl rfl rfl (hf s.key)

theorem get_burn {l : List (Byte × Nat)} {o : Nat} : ∀ {m : SMap Byte} {i : Nat},
    m.get i 0 &&& (l.foldl (fun (m : SMap Byte) x => m.upd (o + x.2) 0 fun b => b ||| x.1) m).get i 0 = m.get i 0 := by
  induction l with
  | nil => exact fun {_ _} => BitVec.and_self
  | cons x r ih =>
    intro m i
    refine and_kept ?_ ih
    unfold SMap.upd
    by_cases h : i = o + x.2
    · subst h
      rw [get_set_same]
      ext j hj
      simp
      exact fun h1 => .inl h1
    · rw [get_set_ne h, BitVec.and_self]

theorem kept_otpBurn {k0 s : State} {o : Nat} {l : List Byte} (h : Kept k0 s) : Kept k0 (otpBurn s o l) :=
  h.trans ⟨rfl, id, id, id, Nat.le_refl _, Nat.le_refl _, fun _ => get_burn⟩

end Sys2Proof.Laws
end

