-- ==== Sys2Proof/Laws/KeptFlags.lean ====
section
/-! SUPPORT. What the operations of Machine/Flags.lean keep. -/

namespace Sys2Proof.Laws

open Sys2Proof.Machine

theorem kept_setFld {k0 s : State} {f : RF} {v : Nat} (hk : Kept k0 s) :
    Kept k0 (setFld s f v) := by
  unfold setFld
  exact kept_setReg ‹_›

theorem kept_setFlag {k0 s : State} {f : RF} {b : Bool} (hk : Kept k0 s) :
    Kept k0 (setFlag s f b) := by
  unfold setFlag
  exact kept_setFld ‹_›

theorem kept_send {k0 s : State} {o : Out} (hk : Kept k0 s) :
    Kept k0 (send s o) := by
  unfold send
  exact .upd ‹_› rfl rfl rfl rfl

theorem kept_mirSend {k0 s : State} {msg : Nat} {body : List Byte} (hk : Kept k0 s) :
    Kept k0 (mirSend s msg body) := by
  unfold mirSend
  dsimp only
  exact kept_send (.upd ‹_› rfl rfl rfl rfl)

theorem kept_mirror {k0 s : State} {msg : Nat} {body : List Byte} (hk : Kept k0 s) :
    Kept k0 (mirror s msg body) := by
  unfold mirror
  exact Kept.ite (kept_mirSend ‹_›) ‹_›

theorem kept_raiseVec {k0 s : State} {v : Nat} (hk : Kept k0 s) :
    Kept k0 (raiseVec s v) := by
  unfold raiseVec
  dsimp only
  exact Kept.ite (kept_send ‹_›) (.upd ‹_› rfl rfl rfl rfl)

theorem kept_setErr {k0 s : State} {f : RF} (hk : Kept k0 s) :
    Kept k0 (setErr s f) := by
  unfold setErr
  apply Kept.ite
  assumption
  dsimp only
  split
  exact kept_setFld ‹_›
  exact Kept.ite (kept_raiseVec (kept_setFld ‹_›)) (kept_setFld ‹_›)

theorem kept_setErrs {k0 s : State} {fs : List RF} (hk : Kept k0 s) :
    Kept k0 (setErrs s fs) := by
  unfold setErrs
  exact Kept.foldl ‹_› (fun _ _ _ => (kept_setErr ‹_›))

theorem kept_countBy {k0 s : State} {f : RF} {k : Nat} (hk : Kept k0 s) :
    Kept k0 (countBy s f k) := by
  unfold countBy
  exact kept_setFld ‹_›

theorem kept_count1 {k0 s : State} {f : RF} (hk : Kept k0 s) :
    Kept k0 (count1 s f) := by
  unfold count1
  exact kept_countBy ‹_›

theorem kept_drawFree {k0 s : State} (hk : Kept k0 s) :
    Kept k0 (drawFree s) := by
  unfold drawFree
  exact .upd ‹_› rfl rfl rfl rfl

end Sys2Proof.Laws
end

