-- ==== Sys2Proof/Laws/KeptOps.lean ====
section
/-! SUPPORT. What the operations of Machine/Ops.lean keep. -/

namespace Sys2Proof.Laws

open Sys2Proof.Machine

theorem kept_setSq {k0 s : State} {n : Nat} {q : SqSt} (hk : Kept k0 s) :
    Kept k0 (setSq s n q) := by
  unfold setSq
  exact .upd ‹_› rfl rfl rfl rfl

theorem kept_setCq {k0 s : State} {n : Nat} {q : CqSt} (hk : Kept k0 s) :
    Kept k0 (setCq s n q) := by
  unfold setCq
  exact .upd ‹_› rfl rfl rfl rfl

theorem kept_setEq {k0 s : State} {n : Nat} {q : EqSt} (hk : Kept k0 s) :
    Kept k0 (setEq s n q) := by
  unfold setEq
  exact .upd ‹_› rfl rfl rfl rfl

theorem kept_cisUpd {k0 s : State} {f : CisSt → CisSt} (hk : Kept k0 s) :
    Kept k0 (cisUpd s f) := by
  unfold cisUpd
  exact .upd ‹_› rfl rfl rfl rfl

theorem kept_dropLive {k0 : State} {x0 : Nat} {x1 : Nat} {x2 : State} (hk : Kept k0 x2) :
    Kept k0 (dropLive x0 x1 x2) := by
  induction x0 generalizing x1 x2 with
  | zero =>
    unfold dropLive
    assumption
  | succ _ ih =>
    unfold dropLive
    split
    assumption
    apply Kept.ite
    assumption
    dsimp only
    apply ih
    exact Kept.ite (kept_cisUpd ‹_›) (kept_setErr (kept_count1 (kept_cisUpd ‹_›)))

theorem kept_livePut {k0 s : State} {r : CisRec} (hk : Kept k0 s) :
    Kept k0 (livePut s r) := by
  unfold livePut
  dsimp only
  exact kept_cisUpd (kept_count1 (kept_mirror (kept_dropLive ‹_›)))

theorem kept_auditPut {k0 : State} {s0 : State} {r : CisRec} (hk : Kept k0 s0) :
    Kept k0 (auditPut s0 r) := by
  unfold auditPut
  dsimp only
  exact Kept.ite (kept_cisUpd (kept_count1 (kept_mirror ‹_›))) (kept_cisUpd (kept_setErr (kept_count1 (kept_mirror ‹_›))))

theorem kept_setBucket {k0 s : State} {source : Nat} {b : Bucket} (hk : Kept k0 s) :
    Kept k0 (setBucket s source b) := by
  unfold setBucket
  exact kept_cisUpd ‹_›

theorem kept_stormSettle {k0 s : State} {s0 : State} (hk : Kept k0 s) :
    Kept k0 (stormSettle s0 s) := by
  unfold stormSettle
  try dsimp only
  repeat' first
    | with_reducible assumption
    | with_reducible apply Kept.ite
    | with_reducible apply kept_cisUpd
    | split
    | refine Kept.upd ?_ rfl rfl rfl rfl

theorem kept_stormTake {k0 s : State} {cls : Nat} {source : Nat} (hk : Kept k0 s) :
    Kept k0 (stormTake s cls source).1 := by
  unfold stormTake
  dsimp only
  apply Kept.ite1
  dsimp only
  exact kept_setBucket ‹_›
  dsimp only
  exact kept_setErr (kept_count1 (kept_setBucket ‹_›))

theorem kept_recordAt {k0 s : State} {dt : Nat} {cls : Nat} {kind : Nat} {source : Nat} {payload : List Byte} (hk : Kept k0
  s) :
    Kept k0 (recordAt s dt cls kind source payload).1 := by
  unfold recordAt
  apply Kept.ite1
  split
  apply Kept.ite1
  dsimp only
  apply kept_livePut
  refine Kept.fst (by assumption) ?_
  apply Kept.ite1
  dsimp only
  assumption
  exact kept_stormTake ‹_›
  dsimp only
  refine Kept.fst (by assumption) ?_
  apply Kept.ite1
  dsimp only
  assumption
  exact kept_stormTake ‹_›
  dsimp only
  exact kept_auditPut ‹_›

theorem kept_record {k0 s : State} {cls : Nat} {kind : Nat} {source : Nat} {payload : List Byte} (hk : Kept k0 s) :
    Kept k0 (record s cls kind source payload) := by
  unfold record
  exact kept_recordAt ‹_›

theorem kept_eqPut {k0 s : State} {n : Nat} {r : EvRec} (hk : Kept k0 s) :
    Kept k0 (eqPut s n r) := by
  unfold eqPut
  dsimp only
  exact Kept.ite (kept_setEq ‹_›) (kept_setErr (kept_count1 (kept_setEq ‹_›)))

theorem kept_emitAt {k0 s : State} {dt : Nat} {code : Nat} {payload : List Byte} {ref : Option CmdRef} {status : Nat} {after
  : List Nat} (hk : Kept k0 s) :
    Kept k0 (emitAt s dt code payload ref status after) := by
  unfold emitAt
  dsimp only
  exact Kept.ite (kept_recordAt (Kept.ite (kept_eqPut ‹_›) ‹_›)) (Kept.ite (kept_eqPut ‹_›) ‹_›)

theorem kept_emit {k0 s : State} {code : Nat} {payload : List Byte} (hk : Kept k0 s) :
    Kept k0 (emit s code payload) := by
  unfold emit
  exact kept_emitAt ‹_›

theorem kept_emitOutcome {k0 s : State} {code : Nat} {payload : List Byte} {ref : Option CmdRef} {status : Nat} (hk : Kept k0
  s) :
    Kept k0 (emitOutcome s code payload ref status) := by
  unfold emitOutcome
  exact kept_emitAt ‹_›

theorem kept_emitBy {k0 s : State} {code : Nat} {payload : List Byte} {seq : Nat} (hk : Kept k0 s) :
    Kept k0 (emitBy s code payload seq) := by
  unfold emitBy
  exact kept_emitAt ‹_›

theorem kept_causedBy {k0 : State} {before : State} {s : State} {seq : Nat} (_hk : Kept k0 before) (hk1 : Kept k0 s) :
    Kept k0 (causedBy before s seq) := by
  unfold causedBy
  exact .upd ‹_› rfl rfl rfl rfl

theorem kept_faultAt {k0 s : State} {dt : Nat} {source : Nat} {fcode : Nat} {clear : Bool} {eph : Nat} {feeder : Nat} {detail
  : Nat} {count : Nat} {lost : Nat} (hk : Kept k0 s) :
    Kept k0 (faultAt s dt source fcode clear eph feeder detail count lost) := by
  unfold faultAt
  dsimp only
  exact Kept.ite (kept_emit (kept_recordAt ‹_›)) (kept_recordAt ‹_›)

theorem kept_fault {k0 s : State} {source : Nat} {fcode : Nat} {clear : Bool} {detail : Nat} (hk : Kept k0 s) :
    Kept k0 (fault s source fcode clear detail) := by
  unfold fault
  exact kept_faultAt ‹_›

theorem kept_drainCheck {k0 s : State} (hk : Kept k0 s) :
    Kept k0 (drainCheck s) := by
  unfold drainCheck
  exact Kept.ite (kept_setFld ‹_›) ‹_›

theorem kept_leaveSq {k0 s : State} {c : Cmd} {a : Answer} (hk : Kept k0 s) :
    Kept k0 (leaveSq s c a) := by
  unfold leaveSq
  dsimp only
  exact kept_setSq ‹_›

theorem kept_holdEntry {k0 s : State} {c : Cmd} {a : Answer} (hk : Kept k0 s) :
    Kept k0 (holdEntry s c a) := by
  unfold holdEntry
  dsimp only
  exact Kept.ite (.upd ‹_› rfl rfl rfl rfl) (Kept.ite ‹_› (kept_setCq ‹_›))

theorem kept_notifyDone {k0 s : State} {c : Cmd} {a : Answer} (hk : Kept k0 s) :
    Kept k0 (notifyDone s c a) := by
  unfold notifyDone
  exact Kept.ite (kept_eqPut ‹_›) ‹_›

theorem kept_complete {k0 s : State} {c : Cmd} {a : Answer} (hk : Kept k0 s) :
    Kept k0 (complete s c a) := by
  unfold complete
  exact kept_drainCheck (kept_notifyDone (kept_holdEntry (kept_leaveSq ‹_›)))

theorem kept_completeAll {k0 s : State} {cs : List Cmd} {a : Answer} (hk : Kept k0 s) :
    Kept k0 (completeAll s cs a) := by
  unfold completeAll
  exact Kept.foldl ‹_› (fun _ _ _ => (kept_complete ‹_›))

theorem kept_completeSeq {k0 s : State} {seq : Nat} {a : Answer} (hk : Kept k0 s) :
    Kept k0 (completeSeq s seq a) := by
  unfold completeSeq
  split
  exact kept_complete ‹_›
  assumption

theorem kept_keepHeld {k0 s : State} (hk : Kept k0 s) :
    Kept k0 (keepHeld s) := by
  unfold keepHeld
  exact .upd ‹_› rfl rfl rfl rfl

theorem kept_beginRecovery {k0 s : State} {causes : List RF} {errs : List RF} (hk : Kept k0 s) :
    Kept k0 (beginRecovery s causes errs) := by
  unfold beginRecovery
  dsimp only
  exact kept_completeAll (kept_setErrs (kept_keepHeld (kept_setFld (kept_setFld (Kept.foldl (kept_setReg ‹_›) (fun _ _ _ =>
    (kept_setFld ‹_›)))))))

theorem kept_enterRecovery {k0 s : State} {causes : List RF} {errs : List RF} (hk : Kept k0 s) :
    Kept k0 (enterRecovery s causes errs) := by
  unfold enterRecovery
  exact Kept.ite (kept_beginRecovery ‹_›) (Kept.ite (kept_setErrs (Kept.foldl ‹_› (fun _ _ _ => (kept_setFld ‹_›)))) ‹_›)

theorem kept_ringFault {k0 s : State} {kind : Nat} {ring : Nat} {n : Nat} (hk : Kept k0 s) :
    Kept k0 (ringFault s kind ring n) := by
  unfold ringFault
  dsimp only
  exact Kept.ite (kept_setFld (kept_setFld (kept_setFld (Kept.ite (kept_beginRecovery (.upd ‹_› rfl rfl rfl rfl))
    (kept_enterRecovery (.upd ‹_› rfl rfl rfl rfl)))))) (Kept.ite (kept_beginRecovery (.upd ‹_› rfl rfl rfl rfl))
    (kept_enterRecovery (.upd ‹_› rfl rfl rfl rfl)))

theorem kept_putCompletion {k0 s : State} {n : Nat} {h : Held} {r : List Held} (hk : Kept k0 s) :
    Kept k0 (putCompletion s n h r) := by
  unfold putCompletion
  dsimp only
  exact Kept.ite (kept_raiseVec (kept_setCq (kept_setFld (kept_setFld (kept_entryWrite ‹_›))))) (kept_setCq (kept_setFld
    (kept_setFld (kept_entryWrite ‹_›))))

theorem kept_putEvent {k0 s : State} {n : Nat} {r : EvRec} {rest : List EvRec} (hk : Kept k0 s) :
    Kept k0 (putEvent s n r rest) := by
  unfold putEvent
  dsimp only
  exact Kept.ite (kept_raiseVec (kept_setEq (kept_setFld (kept_setFld (kept_entryWrite ‹_›))))) (kept_setEq (kept_setFld
    (kept_setFld (kept_entryWrite ‹_›))))

theorem kept_tryCompletion {k0 s : State} {n : Nat} (hk : Kept k0 s) :
    Kept k0 (tryCompletion s n) := by
  unfold tryCompletion
  split
  assumption
  exact Kept.ite (kept_putCompletion ‹_›) ‹_›

theorem kept_drainEq {k0 : State} {x0 : Nat} {x1 : State} {x2 : Nat} (hk : Kept k0 x1) :
    Kept k0 (drainEq x0 x1 x2) := by
  induction x0 generalizing x1 x2 with
  | zero =>
    unfold drainEq
    assumption
  | succ _ ih =>
    unfold drainEq
    split
    assumption
    apply Kept.ite
    apply ih
    exact kept_putEvent ‹_›
    assumption

theorem kept_restoreKept {k0 : State} {x0 : List Held} {x1 : State} {x2 : Nat} (hk : Kept k0 x1) :
    Kept k0 (restoreKept x0 x1 x2).1 := by
  induction x0 generalizing x1 x2 with
  | nil =>
    unfold restoreKept
    dsimp only
    assumption
  | cons _ _ ih =>
    unfold restoreKept
    dsimp only
    apply Kept.ite1
    apply ih
    exact kept_tryCompletion (kept_setCq ‹_›)
    apply ih
    assumption

theorem kept_resumeNow {k0 s : State} (hk : Kept k0 s) :
    Kept k0 (resumeNow s) := by
  unfold resumeNow
  dsimp only
  exact kept_drainCheck (kept_setFld (kept_setFld (Kept.foldl (kept_restoreKept (.upd (Kept.foldl ‹_› (fun _ _ _ => (Kept.ite
    (kept_setSq ‹_›) ‹_›))) rfl rfl rfl rfl)) (fun _ _ _ => (Kept.ite (kept_drainEq (kept_eqPut (kept_drainEq ‹_›))) ‹_›)))))

theorem kept_resumeCheck {k0 s : State} (hk : Kept k0 s) :
    Kept k0 (resumeCheck s) := by
  unfold resumeCheck
  exact Kept.ite (kept_resumeNow ‹_›) ‹_›

end Sys2Proof.Laws
end

