-- ==== Sys2Proof/Laws/KeptCfgTables.lean ====
section
/-! SUPPORT. What the operations of Machine/CfgTables.lean keep. -/

namespace Sys2Proof.Laws

open Sys2Proof.Machine

theorem kept_setCfgTables {k0 s : State} {c : CfgTables} (hk : Kept k0 s) :
    Kept k0 (setCfgTables s c) := by
  unfold setCfgTables
  try dsimp only
  repeat' first
    | with_reducible assumption
    | with_reducible apply Kept.ite
    | with_reducible apply kept_setFld
    | split
    | refine Kept.upd ?_ rfl rfl rfl rfl

theorem kept_ckWrite {k0 s : State} (hk : Kept k0 s) :
    Kept k0 (ckWrite s) := by
  unfold ckWrite
  try dsimp only
  repeat' first
    | with_reducible assumption
    | refine Kept.upd ?_ rfl rfl rfl rfl

theorem kept_ckDrop {k0 s : State} (hk : Kept k0 s) :
    Kept k0 (ckDrop s) := by
  unfold ckDrop
  try dsimp only
  repeat' first
    | with_reducible assumption
    | refine Kept.upd ?_ rfl rfl rfl rfl

theorem kept_ckFallBack {k0 s : State} (hk : Kept k0 s) :
    Kept k0 (ckFallBack s) := by
  unfold ckFallBack
  try dsimp only
  repeat' first
    | with_reducible assumption
    | with_reducible apply Kept.ite
    | with_reducible apply kept_setCfgTables
    | split
    | refine Kept.upd ?_ rfl rfl rfl rfl

end Sys2Proof.Laws
end

