-- ==== Sys2Proof/Laws/KeptOperands.lean ====
section
/-! SUPPORT. What the operations of Machine/Operands.lean keep. -/

namespace Sys2Proof.Laws

open Sys2Proof.Machine

theorem kept_setDom {k0 s : State} {d : Nat} {v : Nat} (hk : Kept k0 s) :
    Kept k0 (setDom s d v) := by
  unfold setDom
  exact kept_setFld ‹_›

theorem kept_markStarted {k0 s : State} {c : Cmd} (hk : Kept k0 s) :
    Kept k0 (markStarted s c) := by
  unfold markStarted
  dsimp only
  exact kept_setSq ‹_›

theorem kept_completeJudged {k0 s : State} {c : Cmd} {a : Answer} (hk : Kept k0 s) :
    Kept k0 (completeJudged s c a) := by
  unfold completeJudged
  dsimp only
  exact kept_complete (Kept.ite (.upd ‹_› rfl rfl rfl rfl) ‹_›)

theorem kept_ckTables {k0 s : State} (hk : Kept k0 s) :
    Kept k0 (ckTables s) := by
  unfold ckTables
  try dsimp only
  repeat' first
    | with_reducible assumption
    | with_reducible apply Kept.ite
    | with_reducible refine Kept.foldl ?_ fun _ _ _ => ?_
    | with_reducible apply kept_mirror
    | split
    | refine Kept.upd ?_ rfl rfl rfl rfl

theorem kept_completeConfig {k0 s : State} {c : Cmd} {a : Answer} (hk : Kept k0 s) :
    Kept k0 (completeConfig s c a) := by
  unfold completeConfig
  dsimp only
  exact Kept.ite (kept_markStarted (.upd (kept_ckTables ‹_›) rfl rfl rfl rfl)) (kept_complete (kept_ckTables ‹_›))

theorem kept_completeConfigSeq {k0 s : State} {seq : Nat} {a : Answer} (hk : Kept k0 s) :
    Kept k0 (completeConfigSeq s seq a) := by
  unfold completeConfigSeq
  split
  exact kept_completeConfig ‹_›
  exact kept_ckTables ‹_›

theorem kept_runCmd {k0 : State} {s : State} {c : Cmd} {body : State → Cmd → Work} (h : Kept k0 s)
    (hbody : ∀ (t : State) (c : Cmd), Kept k0 t → WorkKept k0 (body t c)) : Kept k0 (runCmd s c body) := by
  have hb := hbody s c h
  unfold runCmd
  split
  · exact kept_completeJudged h
  · split <;> rename_i e <;> rw [e] at hb
    · split
      · exact kept_completeConfig hb
      · exact kept_complete hb
    · exact kept_markStarted hb
    · exact kept_complete h
    · exact kept_complete hb
    · exact kept_complete (kept_ringFault (kept_markStarted hb))

theorem kept_runRing {k0 s : State} {sq : Nat} {op : Nat} {body : State → Cmd → Work} (hk : Kept k0 s) (hbody : ∀ t c, Kept
  k0 t → WorkKept k0 (body t c)) :
    Kept k0 (runRing s sq op body) := by
  unfold runRing
  split
  apply kept_runCmd
  assumption
  intro _
  intro _
  intro _
  apply hbody
  assumption
  assumption

end Sys2Proof.Laws
end

