-- ==== Sys2Proof/Laws/KeptAdmin.lean ====
section
/-! SUPPORT. What the operations of Machine/Admin.lean keep. -/

namespace Sys2Proof.Laws

open Sys2Proof.Machine

theorem kept_bodyNop {k0 s : State} {c : Cmd} (hk : Kept k0 s) :
    WorkKept k0 (bodyNop s c) := by
  unfold bodyNop
  apply wk_checkOps
  apply wk_pure
  dsimp only
  assumption

theorem kept_execNop {k0 : State} {sq : Fin 16} {s : State} (hk : Kept k0 s) :
    OutKept k0 (execNop sq s) := by
  unfold execNop
  exact OutKept.next (kept_runRing ‹_› (fun _ _ _ => (kept_bodyNop ‹_›)))

theorem kept_bodyIdentify {k0 s : State} {c : Cmd} (hk : Kept k0 s) :
    WorkKept k0 (bodyIdentify s c) := by
  unfold bodyIdentify
  apply wk_checkOps
  apply wk_writeBuf
  assumption
  intro _
  intro _
  apply wk_pure
  dsimp only
  assumption

theorem kept_execIdentify {k0 : State} {sq : Fin 16} {s : State} (hk : Kept k0 s) :
    OutKept k0 (execIdentify sq s) := by
  unfold execIdentify
  exact OutKept.next (kept_runRing ‹_› (fun _ _ _ => (kept_bodyIdentify ‹_›)))

theorem kept_bodyEventRoute {k0 s : State} {c : Cmd} (hk : Kept k0 s) :
    WorkKept k0 (bodyEventRoute s c) := by
  unfold bodyEventRoute
  dsimp only
  apply wk_checkOps
  apply wk_pure
  dsimp only
  exact .upd ‹_› rfl rfl rfl rfl

theorem kept_execEventRoute {k0 : State} {sq : Fin 16} {s : State} (hk : Kept k0 s) :
    OutKept k0 (execEventRoute sq s) := by
  unfold execEventRoute
  exact OutKept.next (kept_runRing ‹_› (fun _ _ _ => (kept_bodyEventRoute ‹_›)))

theorem kept_bodyIntentForget {k0 s : State} {c : Cmd} (hk : Kept k0 s) :
    WorkKept k0 (bodyIntentForget s c) := by
  unfold bodyIntentForget
  dsimp only
  apply wk_checkOps
  apply wk_stopIf
  apply wk_pure
  dsimp only
  exact kept_setSq ‹_›

theorem kept_execIntentForget {k0 : State} {sq : Fin 16} {s : State} (hk : Kept k0 s) :
    OutKept k0 (execIntentForget sq s) := by
  unfold execIntentForget
  exact OutKept.next (kept_runRing ‹_› (fun _ _ _ => (kept_bodyIntentForget ‹_›)))

theorem kept_bodyStatsRead {k0 s : State} {c : Cmd} (hk : Kept k0 s) :
    WorkKept k0 (bodyStatsRead s c) := by
  unfold bodyStatsRead
  apply wk_checkOps
  apply wk_writeBuf
  assumption
  intro _
  intro _
  apply wk_pure
  dsimp only
  assumption

theorem kept_execStatsRead {k0 : State} {sq : Fin 16} {s : State} (hk : Kept k0 s) :
    OutKept k0 (execStatsRead sq s) := by
  unfold execStatsRead
  exact OutKept.next (kept_runRing ‹_› (fun _ _ _ => (kept_bodyStatsRead ‹_›)))

end Sys2Proof.Laws
end

