-- ==== Sys2Proof/Laws/KeptHif.lean ====
section
/-! SUPPORT. What the operations of Machine/Hif.lean keep. -/

namespace Sys2Proof.Laws

open Sys2Proof.Machine

theorem kept_badAccess {k0 s : State} {bar : Nat} {write : Bool} {off : Nat} (hk : Kept k0 s) :
    Kept k0 (badAccess s bar write off) := by
  unfold badAccess
  dsimp only
  exact kept_setErr (Kept.ite ‹_› (kept_setFld (kept_setFlag (kept_setFld ‹_›))))

theorem kept_pdAccess {k0 s : State} {write : Bool} {off : Nat} (hk : Kept k0 s) :
    Kept k0 (pdAccess s write off) := by
  unfold pdAccess
  dsimp only
  exact Kept.ite (kept_count1 (kept_setErr (Kept.ite ‹_› (kept_setFld (kept_setFlag (kept_setFld ‹_›)))))) (kept_setErr
    (Kept.ite ‹_› (kept_setFld (kept_setFlag (kept_setFld ‹_›)))))

theorem kept_ringCfgWrite {k0 s : State} {v : Nat} {size : RF} {en : RF} {err : RF} {others : List RF} {onEnable : State →
  State} (hk : Kept k0 s) (honEnable : ∀ t, Kept k0 t → Kept k0 (onEnable t)) :
    Kept k0 (ringCfgWrite s v size en err others onEnable) := by
  unfold ringCfgWrite
  dsimp only
  apply Kept.ite
  apply Kept.ite
  exact Kept.ite (Kept.foldl ‹_› (fun _ _ _ => (kept_setFld ‹_›))) (kept_setFld (Kept.foldl ‹_› (fun _ _ _ => (kept_setFld
    ‹_›))))
  apply Kept.ite
  apply honEnable
  exact kept_setFld (kept_setFld (Kept.ite (Kept.foldl ‹_› (fun _ _ _ => (kept_setFld ‹_›))) (kept_setFld (Kept.foldl ‹_›
    (fun _ _ _ => (kept_setFld ‹_›))))))
  exact kept_setFld (Kept.ite (Kept.foldl ‹_› (fun _ _ _ => (kept_setFld ‹_›))) (kept_setFld (Kept.foldl ‹_› (fun _ _ _ =>
    (kept_setFld ‹_›)))))
  exact kept_setFld (Kept.ite (Kept.foldl ‹_› (fun _ _ _ => (kept_setFld ‹_›))) (kept_setFld (Kept.foldl ‹_› (fun _ _ _ =>
    (kept_setFld ‹_›)))))

theorem kept_sqCfgWrite {k0 s : State} {n : Nat} {v : Nat} (hk : Kept k0 s) :
    Kept k0 (sqCfgWrite s n v) := by
  unfold sqCfgWrite
  exact kept_ringCfgWrite ‹_› (fun _ _ => (kept_setSq (kept_setFld ‹_›)))

theorem kept_cqCfgWrite {k0 s : State} {n : Nat} {v : Nat} (hk : Kept k0 s) :
    Kept k0 (cqCfgWrite s n v) := by
  unfold cqCfgWrite
  exact kept_ringCfgWrite ‹_› (fun _ _ => (kept_setCq (kept_setFld (kept_setFld ‹_›))))

theorem kept_eqCfgWrite {k0 s : State} {n : Nat} {v : Nat} (hk : Kept k0 s) :
    Kept k0 (eqCfgWrite s n v) := by
  unfold eqCfgWrite
  exact kept_ringCfgWrite ‹_› (fun _ _ => (kept_setEq (kept_setFld (kept_setFld ‹_›))))

theorem kept_execRingEnable {k0 : State} {r : RingSel} {v : Word} {s : State} (hk : Kept k0 s) :
    OutKept k0 (execRingEnable r v s) := by
  unfold execRingEnable
  apply OutKept.next
  split
  exact kept_sqCfgWrite ‹_›
  exact kept_cqCfgWrite ‹_›
  exact kept_eqCfgWrite ‹_›

theorem kept_hostActs {k0 s : State} {u : HostUpdate} (h : Kept k0 s) : Kept k0 (hostActs s u) :=
  ⟨h.pend, fun w => wf_writes (h.mem w), h.regs, h.dt, h.el, h.floor, h.burned⟩

theorem kept_sqDoorbell {k0 s : State} {n : Nat} {v : Nat} (hk : Kept k0 s) :
    Kept k0 (sqDoorbell s n v) := by
  unfold sqDoorbell
  exact Kept.ite (kept_badAccess ‹_›) (Kept.ite ‹_› (Kept.ite (kept_ringFault ‹_›) (kept_setSq ‹_›)))

theorem kept_execSqTailDoorbell {k0 : State} {n : Fin 16} {v : Word} {u : HostUpdate} {s : State} (hk : Kept k0 s) :
    OutKept k0 (execSqTailDoorbell n v u s) := by
  unfold execSqTailDoorbell
  exact OutKept.next (kept_sqDoorbell (kept_hostActs ‹_›))

theorem kept_cqDoorbell {k0 s : State} {n : Nat} {v : Nat} (hk : Kept k0 s) :
    Kept k0 (cqDoorbell s n v) := by
  unfold cqDoorbell
  exact Kept.ite (kept_badAccess ‹_›) (Kept.ite ‹_› (Kept.ite (kept_setCq ‹_›) (kept_ringFault ‹_›)))

theorem kept_eqDoorbell {k0 s : State} {n : Nat} {v : Nat} (hk : Kept k0 s) :
    Kept k0 (eqDoorbell s n v) := by
  unfold eqDoorbell
  exact Kept.ite (kept_badAccess ‹_›) (Kept.ite ‹_› (Kept.ite (kept_setEq ‹_›) (kept_ringFault ‹_›)))

theorem kept_execCqHeadDoorbell {k0 : State} {n : Fin 16} {v : Word} {s : State} (hk : Kept k0 s) :
    OutKept k0 (execCqHeadDoorbell n v s) := by
  unfold execCqHeadDoorbell
  exact OutKept.next (kept_cqDoorbell ‹_›)

theorem kept_execEqHeadDoorbell {k0 : State} {n : Fin 4} {v : Word} {s : State} (hk : Kept k0 s) :
    OutKept k0 (execEqHeadDoorbell n v s) := by
  unfold execEqHeadDoorbell
  exact OutKept.next (kept_eqDoorbell ‹_›)

theorem kept_fetchFrom {k0 s : State} {n : Nat} (hk : Kept k0 s) :
    Kept k0 (fetchFrom s n) := by
  unfold fetchFrom
  dsimp only
  exact Kept.ite (kept_ringFault (kept_hostUpd ‹_› (fun _ => rfl))) (Kept.ite (kept_ringFault (kept_hostUpd ‹_› (fun _ =>
    rfl))) (kept_hostUpd (kept_setSq (kept_setFld (kept_hostUpd ‹_› (fun _ => rfl)))) (fun _ => rfl)))

theorem kept_settle {k0 : State} {x0 : Nat} {x1 : State} (hk : Kept k0 x1) :
    Kept k0 (settle x0 x1) := by
  induction x0 generalizing x1 with
  | zero =>
    unfold settle
    assumption
  | succ _ ih =>
    unfold settle
    split
    apply ih
    exact kept_completeJudged ‹_›
    assumption

theorem kept_execDescriptorFetch {k0 s : State} (hk : Kept k0 s) :
    OutKept k0 (execDescriptorFetch s) := by
  unfold execDescriptorFetch
  dsimp only
  apply OutKept.next
  apply kept_settle
  split
  exact kept_fetchFrom ‹_›
  assumption

theorem kept_writeCompletion {k0 s : State} {n : Nat} (hk : Kept k0 s) :
    Kept k0 (writeCompletion s n) := by
  unfold writeCompletion
  split
  assumption
  exact Kept.ite ‹_› (Kept.ite (kept_ringFault ‹_›) (kept_drainCheck (kept_putCompletion ‹_›)))

theorem kept_execCompletionWrite {k0 : State} {n : Fin 16} {s : State} (hk : Kept k0 s) :
    OutKept k0 (execCompletionWrite n s) := by
  unfold execCompletionWrite
  exact OutKept.next (kept_writeCompletion ‹_›)

theorem kept_writeEvent {k0 s : State} {n : Nat} (hk : Kept k0 s) :
    Kept k0 (writeEvent s n) := by
  unfold writeEvent
  split
  assumption
  exact Kept.ite ‹_› (Kept.ite (kept_ringFault ‹_›) (kept_putEvent ‹_›))

theorem kept_execEventRecordWrite {k0 : State} {n : Fin 4} {s : State} (hk : Kept k0 s) :
    OutKept k0 (execEventRecordWrite n s) := by
  unfold execEventRecordWrite
  exact OutKept.next (kept_writeEvent ‹_›)

theorem kept_execCoalesceTimeout {k0 : State} {r : RingSel} {s : State} (hk : Kept k0 s) :
    OutKept k0 (execCoalesceTimeout r s) := by
  unfold execCoalesceTimeout
  apply OutKept.next
  split
  assumption
  dsimp only
  exact Kept.ite (kept_raiseVec (kept_setCq ‹_›)) ‹_›
  dsimp only
  exact Kept.ite (kept_raiseVec (kept_setEq ‹_›)) ‹_›

theorem kept_linkReset {k0 s : State} (hk : Kept k0 s) :
    Kept k0 (linkReset s) := by
  unfold linkReset
  exact kept_hostUpd (kept_dropRegs ‹_›) (fun _ => rfl)

theorem kept_linkLost {k0 s : State} (hk : Kept k0 s) :
    Kept k0 (linkLost s) := by
  unfold linkLost
  exact kept_setFld (kept_setFld (kept_setFld ‹_›))

theorem kept_execPerstAssert {k0 : State} {low : Nat} {s : State} (hk : Kept k0 s) :
    OutKept k0 (execPerstAssert low s) := by
  unfold execPerstAssert
  dsimp only
  exact OutKept.next (kept_hostUpd (kept_linkReset (kept_linkLost (kept_enterRecovery ‹_›))) (fun _ => rfl))

theorem kept_execHotReset {k0 s : State} (hk : Kept k0 s) :
    OutKept k0 (execHotReset s) := by
  unfold execHotReset
  exact OutKept.next (kept_linkReset (kept_linkLost (kept_enterRecovery ‹_›)))

theorem kept_funcReset {k0 s : State} (hk : Kept k0 s) :
    Kept k0 (funcReset s) := by
  unfold funcReset
  exact kept_linkReset (kept_enterRecovery ‹_›)

theorem kept_execFlr {k0 s : State} (hk : Kept k0 s) :
    OutKept k0 (execFlr s) := by
  unfold execFlr
  exact OutKept.next (kept_funcReset ‹_›)

theorem kept_execLinkDown {k0 s : State} (hk : Kept k0 s) :
    OutKept k0 (execLinkDown s) := by
  unfold execLinkDown
  exact OutKept.next (kept_linkLost (kept_enterRecovery ‹_›))

theorem kept_execLinkUp {k0 : State} {width : Nat} {gen : Nat} {s : State} (hk : Kept k0 s) :
    OutKept k0 (execLinkUp width gen s) := by
  unfold execLinkUp
  exact OutKept.next (kept_setFld (kept_setFld (kept_setFld ‹_›)))

theorem kept_enterD3hot {k0 s : State} (hk : Kept k0 s) :
    Kept k0 (enterD3hot s) := by
  unfold enterD3hot
  exact kept_hostUpd (kept_enterRecovery ‹_›) (fun _ => rfl)

theorem kept_execD3hotEntry {k0 s : State} (hk : Kept k0 s) :
    OutKept k0 (execD3hotEntry s) := by
  unfold execD3hotEntry
  exact OutKept.next (kept_enterD3hot ‹_›)

theorem kept_leaveD3hot {k0 s : State} (hk : Kept k0 s) :
    Kept k0 (leaveD3hot s) := by
  unfold leaveD3hot
  exact kept_hostUpd ‹_› (fun _ => rfl)

theorem kept_execD3hotExit {k0 s : State} (hk : Kept k0 s) :
    OutKept k0 (execD3hotExit s) := by
  unfold execD3hotExit
  exact OutKept.next (kept_leaveD3hot ‹_›)

theorem kept_aerDrawn {k0 s : State} (hk : Kept k0 s) :
    Kept k0 (aerDrawn s) := by
  unfold aerDrawn
  exact kept_drawFree (kept_drawFree (kept_drawFree ‹_›))

theorem kept_logUnc {k0 s : State} {b : Nat} (hk : Kept k0 s) :
    Kept k0 (logUnc s b) := by
  unfold logUnc
  exact kept_hostUpd (kept_aerDrawn ‹_›) (fun _ => rfl)

theorem kept_logCor {k0 s : State} {b : Nat} (hk : Kept k0 s) :
    Kept k0 (logCor s b) := by
  unfold logCor
  exact kept_hostUpd (kept_aerDrawn ‹_›) (fun _ => rfl)

theorem kept_execAerFatal {k0 s : State} (hk : Kept k0 s) :
    OutKept k0 (execAerFatal s) := by
  unfold execAerFatal
  dsimp only
  exact OutKept.next (Kept.ite ‹_› (kept_enterRecovery (kept_logUnc ‹_›)))

theorem kept_execAerCorrectable {k0 s : State} (hk : Kept k0 s) :
    OutKept k0 (execAerCorrectable s) := by
  unfold execAerCorrectable
  dsimp only
  exact OutKept.next (Kept.ite (kept_logCor ‹_›) (kept_logUnc ‹_›))

theorem kept_execRecoveryHalted {k0 s : State} (hk : Kept k0 s) :
    OutKept k0 (execRecoveryHalted s) := by
  unfold execRecoveryHalted
  exact OutKept.next (Kept.ite (kept_resumeCheck (kept_setFld ‹_›)) ‹_›)

theorem kept_hifEnableWrite {k0 s : State} {b : Bool} (hk : Kept k0 s) :
    Kept k0 (hifEnableWrite s b) := by
  unfold hifEnableWrite
  apply Kept.ite
  apply Kept.ite
  dsimp only
  exact kept_resumeCheck (Kept.ite (kept_setFld (kept_setFld ‹_›)) (kept_setFld ‹_›))
  assumption
  exact kept_drainCheck (kept_setFld ‹_›)

theorem kept_execHifEnableWrite {k0 : State} {b : Bool} {s : State} (hk : Kept k0 s) :
    OutKept k0 (execHifEnableWrite b s) := by
  unfold execHifEnableWrite
  exact OutKept.next (kept_hifEnableWrite ‹_›)

theorem kept_resumeWrite {k0 s : State} (hk : Kept k0 s) :
    Kept k0 (resumeWrite s) := by
  unfold resumeWrite
  exact Kept.ite (kept_resumeCheck (kept_setFld ‹_›)) ‹_›

theorem kept_execResume {k0 s : State} (hk : Kept k0 s) :
    OutKept k0 (execResume s) := by
  unfold execResume
  exact OutKept.next (kept_resumeWrite ‹_›)

theorem kept_flushMsix {k0 s : State} (hk : Kept k0 s) :
    Kept k0 (flushMsix s) := by
  unfold flushMsix
  apply Kept.foldl
  assumption
  intro _
  intro _
  intro _
  dsimp only
  exact Kept.ite (kept_send (kept_hostUpd ‹_› (fun _ => rfl))) ‹_›

theorem kept_execMsixConfigWrite {k0 : State} {w : MsixWrite} {s : State} (hk : Kept k0 s) :
    OutKept k0 (execMsixConfigWrite w s) := by
  unfold execMsixConfigWrite
  apply OutKept.next
  split
  exact Kept.ite (kept_flushMsix (kept_hostUpd ‹_› (fun _ => rfl))) (kept_hostUpd ‹_› (fun _ => rfl))
  exact kept_flushMsix (kept_hostUpd ‹_› (fun _ => rfl))

theorem kept_portRead {k0 s : State} {n : Nat} (hk : Kept k0 s) :
    Kept k0 (portRead s n) := by
  unfold portRead
  dsimp only
  exact Kept.ite (kept_hostUpd (kept_setFld (kept_setReg ‹_›)) (fun _ => rfl)) (kept_hostUpd (kept_setReg ‹_›) (fun _ =>
    rfl))

theorem kept_portFlush {k0 s : State} {n : Nat} (hk : Kept k0 s) :
    Kept k0 (portFlush s n) := by
  unfold portFlush
  dsimp only
  exact kept_hostUpd ‹_› (fun _ => rfl)

theorem kept_portPush {k0 s : State} {n : Nat} {w : Nat} (hk : Kept k0 s) :
    Kept k0 (portPush s n w) := by
  unfold portPush
  apply Kept.ite
  assumption
  dsimp only
  exact Kept.ite (kept_raiseVec (Kept.ite (kept_setErr (kept_count1 (kept_hostUpd ‹_› (fun _ => rfl)))) (kept_hostUpd ‹_›
    (fun _ => rfl)))) (Kept.ite (kept_setErr (kept_count1 (kept_hostUpd ‹_› (fun _ => rfl)))) (kept_hostUpd ‹_› (fun _ =>
    rfl)))

theorem kept_portWrite {k0 s : State} {n : Nat} {w : Nat} {how : RillWith} (hk : Kept k0 s) :
    Kept k0 (portWrite s n w how) := by
  unfold portWrite
  apply kept_portPush
  split
  assumption
  exact kept_portRead ‹_›
  exact kept_portFlush ‹_›

theorem kept_queueWrite {k0 s : State} {n : Nat} {w : Nat} {how : RillWith} (hk : Kept k0 s) :
    Kept k0 (queueWrite s n w how) := by
  unfold queueWrite
  dsimp only
  exact Kept.ite (kept_count1 (kept_hostUpd ‹_› (fun _ => rfl))) (kept_hostUpd ‹_› (fun _ => rfl))

theorem kept_execRillQueueWrite {k0 : State} {q : RillSel} {w : BitVec 64} {how : RillWith} {s : State} (hk : Kept k0 s) :
    OutKept k0 (execRillQueueWrite q w how s) := by
  unfold execRillQueueWrite
  apply OutKept.next
  split
  exact kept_queueWrite ‹_›
  exact kept_portWrite ‹_›

theorem kept_execHostPortDataRead {k0 : State} {n : Fin 8} {s : State} (hk : Kept k0 s) :
    OutKept k0 (execHostPortDataRead n s) := by
  unfold execHostPortDataRead
  exact OutKept.next (kept_portRead ‹_›)

theorem kept_execHostPortFlush {k0 : State} {n : Fin 8} {s : State} (hk : Kept k0 s) :
    OutKept k0 (execHostPortFlush n s) := by
  unfold execHostPortFlush
  exact OutKept.next (kept_portFlush ‹_›)

theorem kept_execGlbFenceRead {k0 s : State} (hk : Kept k0 s) :
    OutKept k0 (execGlbFenceRead s) := by
  unfold execGlbFenceRead
  exact OutKept.next (kept_hostUpd (kept_setFld ‹_›) (fun _ => rfl))

end Sys2Proof.Laws
end

