-- ==== Sys2Proof/Laws/KeptRadio.lean ====
section
/-! SUPPORT. What the operations of Machine/Radio.lean keep. -/

namespace Sys2Proof.Laws

open Sys2Proof.Machine

theorem kept_radUpd {k0 s : State} {f : RadSt → RadSt} (hk : Kept k0 s) :
    Kept k0 (radUpd s f) := by
  unfold radUpd
  exact .upd ‹_› rfl rfl rfl rfl

theorem kept_setChain {k0 s : State} {n : Nat} {c : ChainSt} (hk : Kept k0 s) :
    Kept k0 (setChain s n c) := by
  unfold setChain
  exact kept_radUpd ‹_›

theorem kept_setDemods {k0 s : State} {l : List Demod} (hk : Kept k0 s) :
    Kept k0 (setDemods s l) := by
  unfold setDemods
  exact kept_setFld (kept_radUpd ‹_›)

theorem kept_blank {k0 s : State} (hk : Kept k0 s) :
    Kept k0 (blank s) := by
  unfold blank
  dsimp only
  exact kept_countBy (kept_setDemods (kept_radUpd ‹_›))

theorem kept_rxOff {k0 s : State} (hk : Kept k0 s) :
    Kept k0 (rxOff s) := by
  unfold rxOff
  exact kept_setDemods (kept_radUpd ‹_›)

theorem kept_setDuty {k0 s : State} {n : Nat} {d : DutySt} (hk : Kept k0 s) :
    Kept k0 (setDuty s n d) := by
  unfold setDuty
  exact kept_setFld (kept_radUpd ‹_›)

theorem kept_dwellAdd {k0 s : State} {c : Nat} {win : Nat} {us : Nat} (hk : Kept k0 s) :
    Kept k0 (dwellAdd s c win us) := by
  unfold dwellAdd
  exact kept_radUpd ‹_›

theorem kept_dutyRefusal {k0 s : State} {i : Nat} {n : Nat} {us : Nat} (hk : Kept k0 s) :
    Kept k0 (dutyRefusal s i n us) := by
  unfold dutyRefusal
  dsimp only
  exact Kept.ite (kept_setFld ‹_›) (kept_emit (kept_radUpd (kept_setFld ‹_›)))

theorem kept_offerElse {k0 s : State} {ch : Nat} {wide : Bool} (hk : Kept k0 s) :
    Kept k0 (offerElse s ch wide) := by
  unfold offerElse
  split
  exact kept_setFld ‹_›
  assumption

theorem kept_refuse {k0 s : State} {n : Nat} {ch : Nat} {wide : Bool} {us : Nat} {w : Refused} (hk : Kept k0 s) :
    Kept k0 (refuse s n ch wide us w) := by
  unfold refuse
  dsimp only
  split
  exact kept_offerElse (kept_count1 ‹_›)
  exact kept_offerElse (kept_count1 ‹_›)
  exact kept_setErr (kept_offerElse (kept_count1 ‹_›))
  exact kept_setErr (kept_offerElse (kept_count1 ‹_›))
  exact kept_setErr (kept_offerElse (kept_count1 ‹_›))
  exact kept_setErr (kept_offerElse (kept_count1 ‹_›))
  exact kept_dutyRefusal (kept_setErr (kept_offerElse (kept_count1 ‹_›)))

theorem kept_chargeTx {k0 s : State} {n : Nat} {ch : Nat} {wide : Bool} {us : Nat} {i : Nat} {x : SubBand} {test : Option
  CmdRef} (hk : Kept k0 s) :
    Kept k0 (chargeTx s n ch wide us i x test) := by
  unfold chargeTx
  dsimp only
  exact kept_blank (kept_setFld (kept_setChain (Kept.ite (kept_radUpd (kept_setFld (kept_setDuty ‹_›))) (kept_dwellAdd
    (kept_radUpd (kept_setFld (kept_setDuty ‹_›)))))))

theorem kept_txStart {k0 s : State} {n : Nat} {want : Int} {r : TxReq} (hk : Kept k0 s) :
    Kept k0 (txStart s n want r).1 := by
  unfold txStart
  split
  dsimp only
  exact kept_refuse ‹_›
  dsimp only
  exact kept_send (kept_chargeTx ‹_›)

theorem kept_holdChain {k0 s : State} {n : Nat} {us : Nat} (hk : Kept k0 s) :
    Kept k0 (holdChain s n us) := by
  unfold holdChain
  exact kept_setChain ‹_›

theorem kept_execTxStart {k0 : State} {n : Fin 2} {r : AirFrame} {s : State} (hk : Kept k0 s) :
    OutKept k0 (execTxStart n r s) := by
  unfold execTxStart
  exact OutKept.next (Kept.ite ‹_› (kept_txStart ‹_›))

theorem kept_endTx {k0 s : State} {n : Nat} (hk : Kept k0 s) :
    Kept k0 (endTx s n) := by
  unfold endTx
  exact kept_setFld (kept_setChain ‹_›)

theorem kept_flkShed {k0 s : State} (hk : Kept k0 s) :
    Kept k0 (flkShed s) := by
  unfold flkShed
  exact Kept.ite (kept_setDom ‹_›) ‹_›

theorem kept_execTxEnd {k0 : State} {n : Fin 2} {s : State} (hk : Kept k0 s) :
    OutKept k0 (execTxEnd n s) := by
  unfold execTxEnd
  dsimp only
  exact OutKept.next (Kept.ite (kept_flkShed (kept_endTx ‹_›)) ‹_›)

theorem kept_closeBuckets {k0 s : State} (hk : Kept k0 s) :
    Kept k0 (closeBuckets s) := by
  unfold closeBuckets
  dsimp only
  exact kept_radUpd (Kept.foldl ‹_› (fun _ _ _ => (kept_setDuty ‹_›)))

theorem kept_execDutyBucketClose {k0 s : State} (hk : Kept k0 s) :
    OutKept k0 (execDutyBucketClose s) := by
  unfold execDutyBucketClose
  exact OutKept.next (Kept.ite (kept_closeBuckets ‹_›) ‹_›)

theorem kept_restoreDuty {k0 s : State} (hk : Kept k0 s) :
    Kept k0 (restoreDuty s) := by
  unfold restoreDuty
  split
  dsimp only
  exact Kept.ite (Kept.foldl (kept_radUpd ‹_›) (fun _ _ _ => (kept_setDuty ‹_›))) (kept_radUpd (Kept.foldl (kept_radUpd ‹_›)
    (fun _ _ _ => (kept_setDuty ‹_›))))

theorem kept_execDetection {k0 : State} {d : Signal} {s : State} (hk : Kept k0 s) :
    OutKept k0 (execDetection d s) := by
  unfold execDetection
  dsimp only
  apply OutKept.next
  apply Kept.ite
  split
  exact kept_radUpd (kept_count1 ‹_›)
  assumption
  assumption

theorem kept_execDemodAssign {k0 s : State} (hk : Kept k0 s) :
    OutKept k0 (execDemodAssign s) := by
  unfold execDemodAssign
  apply OutKept.next
  apply Kept.ite
  split
  exact kept_setDemods (kept_radUpd ‹_›)
  assumption
  assumption

theorem kept_execDetectionDrop {k0 s : State} (hk : Kept k0 s) :
    OutKept k0 (execDetectionDrop s) := by
  unfold execDetectionDrop
  dsimp only
  exact OutKept.next (Kept.ite ‹_› (kept_setErr (kept_countBy (kept_radUpd ‹_›))))

theorem kept_release {k0 s : State} {d : Demod} (hk : Kept k0 s) :
    Kept k0 (release s d) := by
  unfold release
  exact kept_setDemods ‹_›

theorem kept_execNoSfd {k0 : State} {c : Fin 80} {s : State} (hk : Kept k0 s) :
    OutKept k0 (execNoSfd c s) := by
  unfold execNoSfd
  apply OutKept.next
  split
  exact kept_count1 (kept_release ‹_›)
  assumption

theorem kept_toPorts {k0 s : State} {src : Nat} {w : Nat} (hk : Kept k0 s) :
    Kept k0 (toPorts s src w) := by
  unfold toPorts
  exact Kept.foldl ‹_› (fun _ _ _ => (Kept.ite (kept_portWrite ‹_›) ‹_›))

theorem kept_deliver {k0 s : State} {f : RxFrame} {len : Nat} (hk : Kept k0 s) :
    Kept k0 (deliver s f len) := by
  unfold deliver
  exact kept_toPorts (kept_radUpd ‹_›)

theorem kept_execDemodRelease {k0 : State} {c : Fin 80} {e : FrameEnd} {s : State} (hk : Kept k0 s) :
    OutKept k0 (execDemodRelease c e s) := by
  unfold execDemodRelease
  apply OutKept.next
  split
  assumption
  dsimp only
  exact Kept.ite ‹_› (Kept.ite (kept_count1 (kept_release ‹_›)) (Kept.ite (kept_count1 (kept_release ‹_›)) (kept_deliver
    (kept_count1 (kept_release ‹_›)))))

theorem kept_execRf24FrameRx {k0 : State} {e : FrameEnd} {s : State} (hk : Kept k0 s) :
    OutKept k0 (execRf24FrameRx e s) := by
  unfold execRf24FrameRx
  exact OutKept.next (Kept.ite (kept_deliver ‹_›) ‹_›)

theorem kept_bodyRadioProfileLoad {k0 s : State} {c : Cmd} (hk : Kept k0 s) :
    WorkKept k0 (bodyRadioProfileLoad s c) := by
  unfold bodyRadioProfileLoad
  apply wk_checkOps
  apply wk_readBuf
  assumption
  intro _
  dsimp only
  apply wk_checkOps
  apply wk_checkBuf
  apply wk_stopIf
  apply wk_pure
  dsimp only
  exact kept_setFld (kept_radUpd ‹_›)

theorem kept_execRadioProfileLoad {k0 : State} {sq : Fin 16} {s : State} (hk : Kept k0 s) :
    OutKept k0 (execRadioProfileLoad sq s) := by
  unfold execRadioProfileLoad
  exact OutKept.next (kept_runRing ‹_› (fun _ _ _ => (kept_bodyRadioProfileLoad ‹_›)))

theorem kept_bodyProfileSelect {k0 s : State} {c : Cmd} (hk : Kept k0 s) :
    WorkKept k0 (bodyProfileSelect s c) := by
  unfold bodyProfileSelect
  dsimp only
  apply wk_checkOps
  apply wk_stopIf
  apply wk_stopIf
  apply wk_pure
  dsimp only
  exact kept_setFld (kept_radUpd ‹_›)

theorem kept_execProfileSelect {k0 : State} {sq : Fin 16} {s : State} (hk : Kept k0 s) :
    OutKept k0 (execProfileSelect sq s) := by
  unfold execProfileSelect
  exact OutKept.next (kept_runRing ‹_› (fun _ _ _ => (kept_bodyProfileSelect ‹_›)))

theorem kept_bodyTxTest {k0 s : State} {c : Cmd} (hk : Kept k0 s) :
    WorkKept k0 (bodyTxTest s c) := by
  unfold bodyTxTest
  dsimp only
  apply wk_checkOps
  apply wk_stopIf
  apply wk_stopIf
  split
  exact wk_ansIn (kept_causedBy ‹_› (kept_refuse ‹_›))
  apply wk_pure
  dsimp only
  exact kept_send (kept_chargeTx ‹_›)

theorem kept_execTxTest {k0 : State} {sq : Fin 16} {s : State} (hk : Kept k0 s) :
    OutKept k0 (execTxTest sq s) := by
  unfold execTxTest
  exact OutKept.next (kept_runRing ‹_› (fun _ _ _ => (kept_bodyTxTest ‹_›)))

theorem kept_execTxTestDone {k0 s : State} {n : Fin 2} (hk : Kept k0 s) :
    OutKept k0 (execTxTestDone n s) := by
  unfold execTxTestDone
  try dsimp only
  repeat' first
    | with_reducible assumption
    | with_reducible refine OutKept.next ?_
    | with_reducible apply Kept.ite
    | with_reducible apply kept_flkShed
    | with_reducible apply kept_emitOutcome
    | with_reducible apply kept_endTx
    | with_reducible refine Kept.fst (by assumption) ?_
    | with_reducible refine Kept.snd (by assumption) ?_
    | split

theorem kept_bodyRxSurvey {k0 s : State} {c : Cmd} (hk : Kept k0 s) :
    WorkKept k0 (bodyRxSurvey s c) := by
  unfold bodyRxSurvey
  dsimp only
  apply wk_checkOps
  apply wk_stopIf
  apply wk_stopIf
  apply wk_pure
  dsimp only
  exact kept_radUpd ‹_›

theorem kept_execRxSurvey {k0 : State} {sq : Fin 16} {s : State} (hk : Kept k0 s) :
    OutKept k0 (execRxSurvey sq s) := by
  unfold execRxSurvey
  exact OutKept.next (kept_runRing ‹_› (fun _ _ _ => (kept_bodyRxSurvey ‹_›)))

theorem kept_execSurveyDone {k0 : State} {v : List (BitVec 16)} {s : State} (hk : Kept k0 s) :
    OutKept k0 (execSurveyDone v s) := by
  unfold execSurveyDone
  apply OutKept.next
  split
  apply Kept.ite
  dsimp only
  exact Kept.ite (kept_emitOutcome (kept_ringFault (.upd (kept_memWrite (kept_radUpd ‹_›)) rfl rfl rfl rfl)))
    (kept_emitOutcome (kept_memWrite (kept_radUpd ‹_›)))
  assumption
  assumption

end Sys2Proof.Laws
end

