-- ==== Sys2Proof/Laws/KeptCoop.lean ====
section
/-! SUPPORT. What the operations of Machine/Coop.lean keep. -/

namespace Sys2Proof.Laws

open Sys2Proof.Machine

theorem kept_otpShow {k0 s : State} (hk : Kept k0 s) :
    Kept k0 (otpShow s) := by
  unfold otpShow
  dsimp only
  exact Kept.foldl ‹_› (fun _ _ _ => (kept_setFld ‹_›))

theorem kept_useRefused {k0 s : State} (hk : Kept k0 s) :
    Kept k0 (useRefused s) := by
  unfold useRefused
  exact kept_setErr (kept_count1 ‹_›)

theorem kept_noise {k0 s : State} {n : Nat} (hk : Kept k0 s) :
    Kept k0 (noise s n).2 := by
  unfold noise
  try dsimp only
  repeat' first
    | with_reducible assumption
    | refine Kept.upd ?_ rfl rfl rfl rfl

theorem kept_drbgSeed {k0 s : State} (hk : Kept k0 s) :
    Kept k0 (drbgSeed s) := by
  unfold drbgSeed
  try dsimp only
  repeat' first
    | with_reducible assumption
    | with_reducible apply kept_noise
    | with_reducible refine kept_keyUpd ?_ fun _ => rfl
    | with_reducible refine Kept.fst (by assumption) ?_
    | with_reducible refine Kept.snd (by assumption) ?_
    | split
    | refine Kept.upd ?_ rfl rfl rfl rfl

theorem kept_random {k0 s : State} {n : Nat} (hk : Kept k0 s) :
    Kept k0 (random s n).2 := by
  unfold random
  try dsimp only
  repeat' first
    | with_reducible assumption
    | with_reducible apply Kept.ite1
    | with_reducible apply Kept.ite
    | with_reducible apply kept_noise
    | with_reducible refine kept_keyUpd ?_ fun _ => rfl
    | with_reducible refine Kept.fst (by assumption) ?_
    | with_reducible refine Kept.snd (by assumption) ?_
    | split
    | refine Kept.upd ?_ rfl rfl rfl rfl

theorem kept_debugShow {k0 s : State} (hk : Kept k0 s) :
    Kept k0 (debugShow s) := by
  unfold debugShow
  try dsimp only
  repeat' first
    | with_reducible assumption
    | with_reducible apply Kept.ite
    | with_reducible refine kept_keyUpd ?_ fun _ => rfl
    | split
    | refine Kept.upd ?_ rfl rfl rfl rfl

theorem kept_showSlots {k0 s : State} (hk : Kept k0 s) :
    Kept k0 (showSlots s) := by
  unfold showSlots
  exact kept_setFld ‹_›

theorem kept_putSlot {k0 s : State} {n : Nat} {attr : Nat} {value : List Byte} (hk : Kept k0 s) :
    Kept k0 (putSlot s n attr value) := by
  unfold putSlot
  try dsimp only
  repeat' first
    | with_reducible assumption
    | with_reducible apply kept_random
    | with_reducible refine kept_keyUpd ?_ fun _ => rfl
    | with_reducible refine Kept.fst (by assumption) ?_
    | with_reducible refine Kept.snd (by assumption) ?_
    | split
    | refine Kept.upd ?_ rfl rfl rfl rfl

theorem kept_setSlot {k0 s : State} {n : Nat} {attr : Nat} {value : List Byte} (hk : Kept k0 s) :
    Kept k0 (setSlot s n attr value) := by
  unfold setSlot
  try dsimp only
  repeat' first
    | with_reducible assumption
    | with_reducible apply Kept.ite
    | with_reducible refine kept_keyUpd ?_ fun _ => rfl
    | with_reducible apply kept_putSlot
    | with_reducible apply kept_debugShow
    | with_reducible apply kept_showSlots
    | split
    | refine Kept.upd ?_ rfl rfl rfl rfl

theorem kept_remask {k0 s : State} {n : Nat} (hk : Kept k0 s) :
    Kept k0 (remask s n) := by
  unfold remask
  try dsimp only
  repeat' first
    | with_reducible assumption
    | with_reducible apply Kept.ite
    | with_reducible apply kept_putSlot
    | split

theorem kept_verifyUnder {k0 s : State} {slot : Nat} {master : Nat} {msg : List Byte} {sig : List Byte} (hk : Kept k0 s) :
    Kept k0 (verifyUnder s slot master msg sig).1 := by
  unfold verifyUnder
  try dsimp only
  repeat' first
    | with_reducible assumption
    | with_reducible apply kept_remask
    | with_reducible apply kept_useRefused
    | with_reducible refine Kept.fst (by assumption) ?_
    | with_reducible refine Kept.snd (by assumption) ?_
    | split

theorem kept_storeWrite {k0 s : State} {salt : List Byte} (hk : Kept k0 s) :
    Kept k0 (storeWrite s salt) := by
  unfold storeWrite
  try dsimp only
  repeat' first
    | with_reducible assumption
    | with_reducible apply Kept.ite
    | with_reducible refine kept_keyUpd ?_ fun _ => rfl
    | split
    | refine Kept.upd ?_ rfl rfl rfl rfl

theorem kept_recWrite {k0 s : State} {counter : Nat} (hk : Kept k0 s) :
    Kept k0 (recWrite s counter) := by
  unfold recWrite
  try dsimp only
  repeat' first
    | with_reducible assumption
    | with_reducible apply Kept.ite
    | with_reducible refine Kept.foldl ?_ fun _ _ _ => ?_
    | with_reducible refine kept_keyUpd ?_ fun _ => rfl
    | with_reducible refine Kept.fst (by assumption) ?_
    | with_reducible refine Kept.snd (by assumption) ?_
    | split
    | refine Kept.upd ?_ rfl rfl rfl rfl

theorem kept_recClose {k0 s : State} (hk : Kept k0 s) :
    Kept k0 (recClose s) := by
  unfold recClose
  try dsimp only
  repeat' first
    | with_reducible assumption
    | with_reducible refine kept_keyUpd ?_ fun _ => rfl
    | with_reducible apply kept_setFld
    | with_reducible refine Kept.fst (by assumption) ?_
    | with_reducible refine Kept.snd (by assumption) ?_
    | split
    | refine Kept.upd ?_ rfl rfl rfl rfl

theorem kept_keyFaultRec {k0 s : State} {cause : Nat} (hk : Kept k0 s) :
    Kept k0 (keyFaultRec s cause) := by
  unfold keyFaultRec
  exact kept_record ‹_›

theorem kept_rootBuild {k0 s : State} {cells : Nat} (hk : Kept k0 s) :
    Kept k0 (rootBuild s cells) := by
  unfold rootBuild
  dsimp only
  exact Kept.ite (kept_keyFaultRec (kept_setFld (kept_keyUpd ‹_› (fun _ => rfl)))) (Kept.ite (kept_keyFaultRec (kept_setFld
    (kept_keyUpd ‹_› (fun _ => rfl)))) (Kept.ite (kept_setErr (kept_setFld (kept_setFld (kept_keyUpd ‹_› (fun _ => rfl)))))
    (kept_setFld (kept_setFld (kept_keyUpd ‹_› (fun _ => rfl))))))

theorem kept_keyAudit {k0 s : State} {op : Nat} {target : Nat} {status : Nat} {msgCounter : Nat} (hk : Kept k0 s) :
    Kept k0 (keyAudit s op target status msgCounter) := by
  unfold keyAudit
  exact kept_record ‹_›

theorem kept_lcBegin {k0 s : State} {n : Nat} {op : Nat} {counter : Nat} (hk : Kept k0 s) :
    Kept k0 (lcBegin s n op counter) := by
  unfold lcBegin
  try dsimp only
  repeat' first
    | with_reducible assumption
    | with_reducible apply kept_random
    | with_reducible apply kept_setFlag
    | with_reducible refine kept_keyUpd ?_ fun _ => rfl
    | with_reducible refine Kept.fst (by assumption) ?_
    | with_reducible refine Kept.snd (by assumption) ?_
    | split
    | refine Kept.upd ?_ rfl rfl rfl rfl

theorem kept_lcBurn {k0 s : State} {n : Nat} (hk : Kept k0 s) :
    Kept k0 (lcBurn s n) := by
  unfold lcBurn
  try dsimp only
  repeat' first
    | with_reducible assumption
    | with_reducible apply Kept.ite
    | with_reducible apply kept_otpBurn
    | split

theorem kept_lcZeroise {k0 s : State} {p : LcPend} (hk : Kept k0 s) :
    Kept k0 (lcZeroise s p) := by
  unfold lcZeroise
  try dsimp only
  repeat' first
    | with_reducible assumption
    | with_reducible apply Kept.ite
    | with_reducible refine Kept.foldl ?_ fun _ _ _ => ?_
    | with_reducible apply kept_setSlot
    | with_reducible apply kept_setFld
    | with_reducible apply kept_storeWrite
    | with_reducible apply kept_debugShow
    | with_reducible apply kept_rxOff
    | split

theorem kept_lcRecord {k0 s : State} {p : LcPend} (hk : Kept k0 s) :
    Kept k0 (lcRecord s p) := by
  unfold lcRecord
  try dsimp only
  repeat' first
    | with_reducible assumption
    | with_reducible refine kept_keyUpd ?_ fun _ => rfl
    | with_reducible apply kept_setFlag
    | with_reducible apply kept_recClose
    | with_reducible apply kept_recWrite
    | refine Kept.upd ?_ rfl rfl rfl rfl

theorem kept_lcResume {k0 s : State} (hk : Kept k0 s) :
    Kept k0 (lcResume s) := by
  unfold lcResume
  split
  · assumption
  · refine Kept.ite (kept_keyUpd ‹_› fun _ => rfl) ?_
    exact kept_keyAudit (kept_emit (kept_lcRecord (kept_lcZeroise ‹_›)))

theorem kept_loadSlots {k0 s : State} {b : List Byte} (hk : Kept k0 s) :
    Kept k0 (loadSlots s b) := by
  unfold loadSlots
  try dsimp only
  repeat' first
    | with_reducible assumption
    | with_reducible apply Kept.ite
    | with_reducible refine Kept.foldl ?_ fun _ _ _ => ?_
    | with_reducible apply kept_putSlot
    | split

theorem kept_emptyStore {k0 s : State} (hk : Kept k0 s) :
    Kept k0 (emptyStore s) := by
  unfold emptyStore
  try dsimp only
  repeat' first
    | with_reducible assumption
    | with_reducible apply kept_random
    | with_reducible refine kept_keyUpd ?_ fun _ => rfl
    | with_reducible refine Kept.fst (by assumption) ?_
    | with_reducible refine Kept.snd (by assumption) ?_
    | split
    | refine Kept.upd ?_ rfl rfl rfl rfl

theorem kept_storeLoad {k0 s : State} (hk : Kept k0 s) :
    Kept k0 (storeLoad s) := by
  unfold storeLoad
  try dsimp only
  repeat' first
    | with_reducible assumption
    | with_reducible apply kept_loadSlots
    | with_reducible apply kept_setErr
    | with_reducible apply kept_keyFaultRec
    | with_reducible refine Kept.fst (by assumption) ?_
    | with_reducible refine Kept.snd (by assumption) ?_
    | split

theorem kept_coopRestore {k0 s0 : State} (hk : Kept k0 s0) :
    Kept k0 (coopRestore s0) := by
  unfold coopRestore
  try dsimp only
  repeat' first
    | with_reducible assumption
    | with_reducible refine OutKept.next ?_
    | with_reducible apply Kept.ite
    | with_reducible apply Kept.ite1
    | with_reducible refine Kept.foldl ?_ fun _ _ _ => ?_
    | with_reducible apply kept_emptyStore
    | with_reducible apply kept_drbgSeed
    | with_reducible apply kept_otpShow
    | with_reducible apply kept_setFld
    | with_reducible apply kept_setErr
    | with_reducible apply kept_debugShow
    | with_reducible apply kept_lcResume
    | with_reducible apply kept_showSlots
    | with_reducible apply kept_storeLoad
    | with_reducible refine Kept.fst (by assumption) ?_
    | with_reducible refine Kept.snd (by assumption) ?_
    | split

end Sys2Proof.Laws
end

