-- ==== Sys2Proof/Laws/KeptCistern.lean ====
section
/-! SUPPORT. What the operations of Machine/Cistern.lean keep. -/

namespace Sys2Proof.Laws

open Sys2Proof.Machine

theorem kept_setFold {k0 s : State} {f : Nat} {c : FoldCase} (hk : Kept k0 s) :
    Kept k0 (setFold s f c) := by
  unfold setFold
  exact kept_cisUpd ‹_›

theorem kept_foldBegin {k0 s : State} {f : Nat} {bitv : Nat} (hk : Kept k0 s) :
    Kept k0 (foldBegin s f bitv) := by
  unfold foldBegin
  dsimp only
  exact Kept.ite (kept_setFold ‹_›) (kept_faultAt (kept_setFold (kept_cisUpd (kept_countBy ‹_›))))

theorem kept_foldEnd {k0 s : State} {f : Nat} {bitv : Nat} (hk : Kept k0 s) :
    Kept k0 (foldEnd s f bitv) := by
  unfold foldEnd
  dsimp only
  exact Kept.ite ‹_› (kept_setFold ‹_›)

theorem kept_foldCause {k0 s : State} {f : Nat} {bitv : Nat} {on : Bool} (hk : Kept k0 s) :
    Kept k0 (foldCause s f bitv on) := by
  unfold foldCause
  exact Kept.ite (Kept.ite (kept_foldBegin ‹_›) ‹_›) (kept_foldEnd ‹_›)

theorem kept_execFoldGraceEnd {k0 : State} {f : Fin 6} {s : State} (hk : Kept k0 s) :
    OutKept k0 (execFoldGraceEnd f s) := by
  unfold execFoldGraceEnd
  dsimp only
  exact OutKept.next (Kept.ite (kept_faultAt (kept_setFold ‹_›)) ‹_›)

theorem kept_powerLoss {k0 s : State} {eph : Nat} {feeder : Nat} {detail : Nat} (hk : Kept k0 s) :
    Kept k0 (powerLoss s eph feeder detail) := by
  unfold powerLoss
  dsimp only
  exact Kept.ite (kept_count1 (kept_setFold ‹_›)) (kept_cisUpd ‹_›)

theorem kept_execPowerLossHoldEnd {k0 s : State} (hk : Kept k0 s) :
    OutKept k0 (execPowerLossHoldEnd s) := by
  unfold execPowerLossHoldEnd
  apply OutKept.next
  split
  assumption
  exact Kept.ite (kept_faultAt (kept_cisUpd ‹_›)) ‹_›

theorem kept_foldLost {k0 s : State} {feeder : Nat} (h : Kept k0 s) : ∀ t, foldLost s feeder = some t → Kept k0 t := by
  intro t e
  unfold foldLost at e
  dsimp only at e
  split at e
  · cases e
    exact kept_setFold h
  · cases e

theorem kept_iteLost {k0 s t : State} {feeder : Nat} {p : Prop} [Decidable p] (h : Kept k0 s)
    (e : (if p then foldLost s feeder else none) = some t) : Kept k0 t := by
  split at e
  · exact kept_foldLost h _ e
  · cases e

theorem kept_stormSource {k0 s : State} {src : Nat} (hk : Kept k0 s) :
    Kept k0 (stormSource s src) := by
  unfold stormSource
  dsimp only
  exact Kept.ite (kept_setBucket ‹_›) (kept_emit (kept_record (kept_setBucket ‹_›)))

theorem kept_execStorm {k0 s : State} (hk : Kept k0 s) :
    OutKept k0 (execStorm s) := by
  unfold execStorm
  exact OutKept.next (Kept.ite ‹_› (Kept.foldl (kept_cisUpd ‹_›) (fun _ _ _ => (kept_stormSource ‹_›))))

theorem kept_skipRecs {k0 s : State} {k : Nat} (hk : Kept k0 s) :
    Kept k0 (skipRecs s k) := by
  unfold skipRecs
  exact Kept.ite ‹_› (kept_setErr (kept_countBy ‹_›))

theorem kept_skipTorn {k0 s : State} {l : List LiveRec} (hk : Kept k0 s) :
    Kept k0 (skipTorn s l) := by
  unfold skipTorn
  exact kept_skipRecs ‹_›

theorem kept_skipBad {k0 s : State} {ring : Nat} {l : List CisRec} (hk : Kept k0 s) :
    Kept k0 (skipBad s ring l) := by
  unfold skipBad
  exact kept_skipRecs ‹_›

theorem kept_liveArchive {k0 s : State} (hk : Kept k0 s) :
    Kept k0 (liveArchive s) := by
  unfold liveArchive
  dsimp only
  exact kept_cisUpd (kept_skipTorn ‹_›)

theorem kept_execLiveArchive {k0 s : State} (hk : Kept k0 s) :
    OutKept k0 (execLiveArchive s) := by
  unfold execLiveArchive
  exact OutKept.next (kept_liveArchive ‹_›)

theorem kept_framWrite {k0 s : State} (hk : Kept k0 s) :
    Kept k0 (framWrite s) := by
  unfold framWrite
  split
  assumption
  dsimp only
  exact Kept.ite (kept_cisUpd ‹_›) ‹_›

theorem kept_execAuditFramWrite {k0 s : State} (hk : Kept k0 s) :
    OutKept k0 (execAuditFramWrite s) := by
  unfold execAuditFramWrite
  exact OutKept.next (kept_framWrite ‹_›)

theorem kept_invalidateSnaps {k0 s : State} (hk : Kept k0 s) :
    Kept k0 (invalidateSnaps s) := by
  unfold invalidateSnaps
  exact Kept.foldl ‹_› (fun _ _ _ => (Kept.ite (kept_emit (kept_setErr (kept_count1 (kept_setFld ‹_›)))) ‹_›))

theorem kept_execAuditArchive {k0 s : State} (hk : Kept k0 s) :
    OutKept k0 (execAuditArchive s) := by
  unfold execAuditArchive
  try dsimp only
  repeat' first
    | with_reducible assumption
    | with_reducible refine OutKept.next ?_
    | with_reducible apply Kept.ite
    | with_reducible apply kept_cisUpd
    | with_reducible apply kept_skipBad
    | with_reducible apply kept_invalidateSnaps
    | with_reducible apply kept_setErr
    | split
    | refine Kept.upd ?_ rfl rfl rfl rfl

theorem kept_liveLatch {k0 s : State} (hk : Kept k0 s) :
    Kept k0 (liveLatch s) := by
  unfold liveLatch
  dsimp only
  exact kept_setFld (kept_setFld (kept_setFld (kept_setFld (kept_setFld ‹_›))))

theorem kept_liveFseqRead {k0 s : State} (hk : Kept k0 s) :
    Kept k0 (liveFseqRead s) := by
  unfold liveFseqRead
  dsimp only
  exact .upd (kept_liveLatch ‹_›) rfl rfl rfl rfl

theorem kept_execCisLiveFseqRead {k0 s : State} (hk : Kept k0 s) :
    OutKept k0 (execCisLiveFseqRead s) := by
  unfold execCisLiveFseqRead
  exact OutKept.next (kept_liveFseqRead ‹_›)

theorem kept_audLatch {k0 s : State} (hk : Kept k0 s) :
    Kept k0 (audLatch s) := by
  unfold audLatch
  exact kept_setFld (kept_setFld (kept_setFld ‹_›))

theorem kept_audOseqRead {k0 s : State} (hk : Kept k0 s) :
    Kept k0 (audOseqRead s) := by
  unfold audOseqRead
  dsimp only
  exact .upd (kept_audLatch ‹_›) rfl rfl rfl rfl

theorem kept_execCisAudOseqRead {k0 s : State} (hk : Kept k0 s) :
    OutKept k0 (execCisAudOseqRead s) := by
  unfold execCisAudOseqRead
  exact OutKept.next (kept_audOseqRead ‹_›)

theorem kept_bodyCisWinRead {k0 s : State} {c : Cmd} (hk : Kept k0 s) :
    WorkKept k0 (bodyCisWinRead s c) := by
  unfold bodyCisWinRead
  apply wk_checkOps
  apply wk_writeBuf
  assumption
  intro _
  intro _
  apply wk_pure
  dsimp only
  assumption

theorem kept_execCisWinRead {k0 : State} {sq : Fin 16} {s : State} (hk : Kept k0 s) :
    OutKept k0 (execCisWinRead sq s) := by
  unfold execCisWinRead
  exact OutKept.next (kept_runRing ‹_› (fun _ _ _ => (kept_bodyCisWinRead ‹_›)))

theorem kept_bodyCisRead {k0 s : State} {c : Cmd} (hk : Kept k0 s) :
    WorkKept k0 (bodyCisRead s c) := by
  unfold bodyCisRead
  dsimp only
  apply wk_checkOps
  apply wk_writeBuf
  exact kept_skipTorn (kept_skipBad ‹_›)
  intro _
  intro _
  apply wk_pure
  dsimp only
  assumption

theorem kept_execCisRead {k0 : State} {sq : Fin 16} {s : State} (hk : Kept k0 s) :
    OutKept k0 (execCisRead sq s) := by
  unfold execCisRead
  exact OutKept.next (kept_runRing ‹_› (fun _ _ _ => (kept_bodyCisRead ‹_›)))

theorem kept_bodyCisSnapPin {k0 s : State} {c : Cmd} (hk : Kept k0 s) :
    WorkKept k0 (bodyCisSnapPin s c) := by
  unfold bodyCisSnapPin
  dsimp only
  apply wk_checkOps
  apply wk_stopIf
  apply wk_stopIf
  apply wk_pure
  dsimp only
  exact kept_cisUpd (kept_setReg ‹_›)

theorem kept_execCisSnapPin {k0 : State} {sq : Fin 16} {s : State} (hk : Kept k0 s) :
    OutKept k0 (execCisSnapPin sq s) := by
  unfold execCisSnapPin
  exact OutKept.next (kept_runRing ‹_› (fun _ _ _ => (kept_bodyCisSnapPin ‹_›)))

theorem kept_bodyCisSnapRead {k0 s : State} {c : Cmd} (hk : Kept k0 s) :
    WorkKept k0 (bodyCisSnapRead s c) := by
  unfold bodyCisSnapRead
  dsimp only
  apply wk_checkOps
  apply wk_stopIf
  apply wk_stopIf
  apply wk_writeBuf
  exact kept_skipBad ‹_›
  intro _
  intro _
  apply wk_pure
  dsimp only
  assumption

theorem kept_execCisSnapRead {k0 : State} {sq : Fin 16} {s : State} (hk : Kept k0 s) :
    OutKept k0 (execCisSnapRead sq s) := by
  unfold execCisSnapRead
  exact OutKept.next (kept_runRing ‹_› (fun _ _ _ => (kept_bodyCisSnapRead ‹_›)))

theorem kept_bodyCisSnapRelease {k0 s : State} {c : Cmd} (hk : Kept k0 s) :
    WorkKept k0 (bodyCisSnapRelease s c) := by
  unfold bodyCisSnapRelease
  dsimp only
  apply wk_checkOps
  apply wk_stopIf
  apply wk_pure
  dsimp only
  exact kept_cisUpd (kept_setReg ‹_›)

theorem kept_execCisSnapRelease {k0 : State} {sq : Fin 16} {s : State} (hk : Kept k0 s) :
    OutKept k0 (execCisSnapRelease sq s) := by
  unfold execCisSnapRelease
  exact OutKept.next (kept_runRing ‹_› (fun _ _ _ => (kept_bodyCisSnapRelease ‹_›)))

theorem kept_bodyCisClearChallenge {k0 s : State} {c : Cmd} (hk : Kept k0 s) :
    WorkKept k0 (bodyCisClearChallenge s c) := by
  unfold bodyCisClearChallenge
  try dsimp only
  repeat' first
    | with_reducible assumption
    | with_reducible apply kept_random
    | with_reducible apply kept_cisUpd
    | with_reducible refine Kept.fst (by assumption) ?_
    | with_reducible refine Kept.snd (by assumption) ?_
    | with_reducible apply wk_checkOps
    | with_reducible apply wk_pure
    | split
    | refine Kept.upd ?_ rfl rfl rfl rfl

theorem kept_execCisClearChallenge {k0 : State} {sq : Fin 16} {s : State} (hk : Kept k0 s) :
    OutKept k0 (execCisClearChallenge sq s) := by
  unfold execCisClearChallenge
  exact OutKept.next (kept_runRing ‹_› (fun _ _ _ => (kept_bodyCisClearChallenge ‹_›)))

theorem kept_cisReset {k0 s : State} (hk : Kept k0 s) :
    Kept k0 (cisReset s) := by
  unfold cisReset
  try dsimp only
  repeat' first
    | with_reducible assumption
    | with_reducible apply kept_cisUpd
    | refine Kept.upd ?_ rfl rfl rfl rfl

theorem kept_cisResume {k0 s : State} (hk : Kept k0 s) :
    Kept k0 (cisResume s) := by
  unfold cisResume
  try dsimp only
  repeat' first
    | with_reducible assumption
    | with_reducible apply Kept.ite
    | with_reducible apply kept_audLatch
    | with_reducible apply kept_liveLatch
    | with_reducible apply kept_cisUpd
    | split
    | refine Kept.upd ?_ rfl rfl rfl rfl

theorem kept_cisBad {k0 s : State} {l : List (Nat × Nat)} (hk : Kept k0 s) :
    Kept k0 (cisBad s l) := by
  unfold cisBad
  try dsimp only
  repeat' first
    | with_reducible assumption
    | with_reducible apply Kept.ite1
    | with_reducible apply Kept.ite
    | with_reducible apply kept_cisUpd
    | with_reducible apply kept_audLatch
    | split
    | refine Kept.upd ?_ rfl rfl rfl rfl

theorem kept_restartRecord {k0 s : State} {cause : Nat} (hk : Kept k0 s) :
    Kept k0 (restartRecord s cause) := by
  unfold restartRecord
  dsimp only
  exact kept_cisUpd (kept_emit (kept_record ‹_›))

end Sys2Proof.Laws
end

