-- ==== Sys2Proof/Laws/KeptPins.lean ====
section
/-! SUPPORT. What the operations of Machine/Pins.lean keep. -/

namespace Sys2Proof.Laws

open Sys2Proof.Machine

theorem kept_showPad {k0 s : State} {p : Pad} (hk : Kept k0 s) :
    Kept k0 (showPad s p) := by
  unfold showPad
  try dsimp only
  repeat' first
    | with_reducible assumption
    | with_reducible apply Kept.ite
    | with_reducible apply kept_send
    | split
    | refine Kept.upd ?_ rfl rfl rfl rfl

theorem kept_showPads {k0 s : State} (hk : Kept k0 s) :
    Kept k0 (showPads s) := by
  unfold showPads
  try dsimp only
  repeat' first
    | with_reducible assumption
    | with_reducible refine Kept.foldl ?_ fun _ _ _ => ?_
    | with_reducible apply kept_showPad

theorem kept_drivePad {k0 s : State} {p : Pad} {v : Nat} (hk : Kept k0 s) :
    Kept k0 (drivePad s p v) := by
  unfold drivePad
  try dsimp only
  repeat' first
    | with_reducible assumption
    | with_reducible apply kept_showPad
    | refine Kept.upd ?_ rfl rfl rfl rfl

theorem kept_dropDrives {k0 s : State} {p : Pad → Bool} (hk : Kept k0 s) :
    Kept k0 (dropDrives s p) := by
  unfold dropDrives
  try dsimp only
  repeat' first
    | with_reducible assumption
    | with_reducible apply kept_showPads
    | refine Kept.upd ?_ rfl rfl rfl rfl

theorem kept_sendLine {k0 s : State} {idle : List (Pad × Nat)} {o : Out} (hk : Kept k0 s) :
    Kept k0 (sendLine s idle o) := by
  unfold sendLine
  try dsimp only
  repeat' first
    | with_reducible assumption
    | with_reducible apply Kept.ite1
    | with_reducible apply Kept.ite
    | with_reducible refine Kept.foldl ?_ fun _ _ _ => ?_
    | with_reducible apply kept_drivePad
    | with_reducible apply kept_send
    | split

theorem kept_setAin {k0 s : State} {l : List Word} (hk : Kept k0 s) :
    Kept k0 (setAin s l) := by
  unfold setAin
  try dsimp only
  repeat' first
    | with_reducible assumption
    | with_reducible apply Kept.ite
    | split
    | refine Kept.upd ?_ rfl rfl rfl rfl

theorem kept_execDinLevelAccept {k0 s : State} {n : Fin 24} {x : DinLevel} (hk : Kept k0 s) :
    OutKept k0 (execDinLevelAccept n x s) := by
  unfold execDinLevelAccept
  try dsimp only
  repeat' first
    | with_reducible assumption
    | with_reducible refine OutKept.next ?_
    | with_reducible apply Kept.ite
    | with_reducible apply kept_setFld
    | split

end Sys2Proof.Laws
end

