-- ==== Sys2Proof/Laws/KeptSpan.lean ====
section
/-! SUPPORT. What the operations of Machine/Span.lean keep. -/

namespace Sys2Proof.Laws

open Sys2Proof.Machine

theorem kept_fedUpd {k0 s : State} {f : FedSt → FedSt} (hk : Kept k0 s) :
    Kept k0 (fedUpd s f) := by
  unfold fedUpd
  exact .upd ‹_› rfl rfl rfl rfl

theorem kept_pairUpd {k0 s : State} {f : PairSt → PairSt} (hk : Kept k0 s) :
    Kept k0 (pairUpd s f) := by
  unfold pairUpd
  exact .upd ‹_› rfl rfl rfl rfl

theorem kept_portSend {k0 s : State} {p : Nat} {mac : List Byte} {m : SpanMsg} (hk : Kept k0 s) :
    Kept k0 (portSend s p mac m) := by
  unfold portSend
  try dsimp only
  repeat' first
    | with_reducible assumption
    | with_reducible apply kept_send

theorem kept_hopSend {k0 s : State} {hop : Nat} {m : SpanMsg} (hk : Kept k0 s) :
    Kept k0 (hopSend s hop m) := by
  unfold hopSend
  try dsimp only
  repeat' first
    | with_reducible assumption
    | with_reducible apply Kept.ite
    | with_reducible apply kept_send
    | with_reducible apply kept_portSend
    | with_reducible refine Kept.fst (by assumption) ?_
    | with_reducible refine Kept.snd (by assumption) ?_
    | split

theorem kept_noRoute {k0 s : State} (hk : Kept k0 s) :
    Kept k0 (noRoute s) := by
  unfold noRoute
  exact kept_setErr (kept_count1 ‹_›)

theorem kept_spanSend {k0 s : State} {dst : Nat} {msg : Nat} {body : List Byte} (hk : Kept k0 s) :
    Kept k0 (spanSend s dst msg body) := by
  unfold spanSend
  apply Kept.ite
  assumption
  dsimp only
  split
  exact kept_noRoute (kept_fedUpd ‹_›)
  exact kept_hopSend (kept_count1 (kept_fedUpd ‹_›))

theorem kept_spanBcast {k0 s : State} {ttl : Nat} {msg : Nat} {body : List Byte} (hk : Kept k0 s) :
    Kept k0 (spanBcast s ttl msg body) := by
  unfold spanBcast
  apply Kept.ite
  assumption
  dsimp only
  exact Kept.foldl (kept_count1 (kept_fedUpd ‹_›)) (fun _ _ _ => (kept_hopSend ‹_›))

theorem kept_spanForward {k0 s : State} {m : SpanMsg} (hk : Kept k0 s) :
    Kept k0 (spanForward s m) := by
  unfold spanForward
  split
  exact kept_noRoute ‹_›
  exact kept_hopSend (kept_count1 ‹_›)

theorem kept_spanRx {k0 s : State} {p : Nat} {l : List Byte} (hk : Kept k0 s) :
    Kept k0 (spanRx s p l).1 := by
  unfold spanRx
  try dsimp only
  repeat' first
    | with_reducible assumption
    | with_reducible apply Kept.ite1
    | with_reducible apply Kept.ite
    | with_reducible refine Kept.foldl ?_ fun _ _ _ => ?_
    | with_reducible apply kept_count1
    | with_reducible apply kept_fedUpd
    | with_reducible apply kept_setErr
    | with_reducible apply kept_hopSend
    | with_reducible apply kept_mirSend
    | with_reducible apply kept_spanForward
    | with_reducible refine Kept.fst (by assumption) ?_
    | with_reducible refine Kept.snd (by assumption) ?_
    | split
    | refine Kept.upd ?_ rfl rfl rfl rfl

end Sys2Proof.Laws
end

