-- ==== Sys2Proof/Laws/KeptFold.lean ====
section
/-! SUPPORT. What the operations of Machine/Fold.lean keep. -/

namespace Sys2Proof.Laws

open Sys2Proof.Machine

theorem kept_macUpd {k0 s : State} {f : TaminSt → TaminSt} (hk : Kept k0 s) :
    Kept k0 (macUpd s f) := by
  unfold macUpd
  exact .upd ‹_› rfl rfl rfl rfl

theorem kept_setEp {k0 s : State} {n : Nat} {x : EpSt} (hk : Kept k0 s) :
    Kept k0 (setEp s n x) := by
  unfold setEp
  exact kept_macUpd ‹_›

theorem kept_jrn {k0 s : State} {r : JrnRec} (hk : Kept k0 s) :
    Kept k0 (jrn s r) := by
  unfold jrn
  exact kept_macUpd ‹_›

theorem kept_setEnt {k0 s : State} {n : Nat} {e : FoldEntry} (hk : Kept k0 s) :
    Kept k0 (setEnt s n e) := by
  unfold setEnt
  dsimp only
  exact Kept.ite ‹_› (kept_mirror (Kept.ite (kept_jrn (Kept.ite (kept_jrn (Kept.ite (kept_setFld (kept_macUpd ‹_›)) (kept_jrn
    (kept_setFld (kept_macUpd ‹_›))))) (Kept.ite (kept_setFld (kept_macUpd ‹_›)) (kept_jrn (kept_setFld (kept_macUpd
    ‹_›)))))) (Kept.ite (kept_jrn (Kept.ite (kept_setFld (kept_macUpd ‹_›)) (kept_jrn (kept_setFld (kept_macUpd ‹_›)))))
    (Kept.ite (kept_setFld (kept_macUpd ‹_›)) (kept_jrn (kept_setFld (kept_macUpd ‹_›)))))))

theorem kept_updEnt {k0 s : State} {n : Nat} {f : FoldEntry → FoldEntry} (hk : Kept k0 s) :
    Kept k0 (updEnt s n f) := by
  unfold updEnt
  exact kept_setEnt ‹_›

theorem kept_forgetEp {k0 : State} {s0 : State} {n : Nat} (hk : Kept k0 s0) :
    Kept k0 (forgetEp s0 n) := by
  unfold forgetEp
  dsimp only
  exact kept_macUpd (.upd ‹_› rfl rfl rfl rfl)

theorem kept_streetUpd {k0 s : State} {f : StreetSt → StreetSt} (hk : Kept k0 s) :
    Kept k0 (streetUpd s f) := by
  unfold streetUpd
  exact .upd ‹_› rfl rfl rfl rfl

theorem kept_freeEnt {k0 s : State} {n : Nat} (hk : Kept k0 s) :
    Kept k0 (freeEnt s n) := by
  unfold freeEnt
  exact kept_streetUpd (kept_forgetEp (kept_setEnt ‹_›))

theorem kept_checkpointFold {k0 s : State} (hk : Kept k0 s) :
    Kept k0 (checkpointFold s) := by
  unfold checkpointFold
  exact kept_macUpd ‹_›

theorem kept_dropCheckpoint {k0 s : State} (hk : Kept k0 s) :
    Kept k0 (dropCheckpoint s) := by
  unfold dropCheckpoint
  exact kept_macUpd ‹_›

theorem kept_restoreFold {k0 s : State} (hk : Kept k0 s) :
    Kept k0 (restoreFold s) := by
  unfold restoreFold
  split
  dsimp only
  exact kept_checkpointFold (kept_setFld (kept_setFld (kept_macUpd ‹_›)))

theorem kept_useKey {k0 s : State} {eui : Nat} {e : Nat} (hk : Kept k0 s) :
    Kept k0 (useKey s eui e) := by
  unfold useKey
  try dsimp only
  repeat' first
    | with_reducible assumption
    | with_reducible apply Kept.ite
    | with_reducible apply kept_macUpd
    | with_reducible apply kept_remask
    | with_reducible apply kept_count1
    | with_reducible apply kept_useRefused
    | split
    | refine Kept.upd ?_ rfl rfl rfl rfl

theorem kept_useMaster {k0 s : State} (hk : Kept k0 s) :
    Kept k0 (useMaster s) := by
  unfold useMaster
  try dsimp only
  repeat' first
    | with_reducible assumption
    | with_reducible apply Kept.ite
    | with_reducible apply kept_remask
    | with_reducible apply kept_useRefused
    | split

theorem kept_queueDl {k0 s : State} {n : Nat} {i : DlItem} (hk : Kept k0 s) :
    Kept k0 (queueDl s n i) := by
  unfold queueDl
  exact kept_setEp ‹_›

theorem kept_startRekey {k0 s : State} {n : Nat} {ref : Option CmdRef} (hk : Kept k0 s) :
    Kept k0 (startRekey s n ref) := by
  unfold startRekey
  dsimp only
  exact Kept.ite ‹_› (Kept.ite (kept_setErr ‹_›) (kept_queueDl (kept_setEp (kept_setEnt (kept_useKey ‹_›)))))

theorem kept_takeDl {k0 s : State} {n : Nat} (hk : Kept k0 s) :
    Kept k0 (takeDl s n) := by
  unfold takeDl
  dsimp only
  exact Kept.ite (kept_startRekey (kept_updEnt (kept_useKey ‹_›))) (kept_updEnt (kept_useKey ‹_›))

theorem kept_sendOn {k0 s : State} {chain : Nat} {ch : Nat} {mode : Nat} {frame : List Byte} (hk : Kept k0 s) :
    Kept k0 (sendOn s chain ch mode frame).1 := by
  unfold sendOn
  dsimp only
  apply Kept.ite1
  dsimp only
  exact kept_holdChain (kept_txStart ‹_›)
  dsimp only
  exact kept_txStart ‹_›

theorem kept_sendDedicated {k0 s : State} {ch : Nat} {mode : Nat} {frame : List Byte} (hk : Kept k0 s) :
    Kept k0 (sendDedicated s ch mode frame).1 := by
  unfold sendDedicated
  split
  exact kept_sendOn ‹_›
  dsimp only
  assumption

theorem kept_startBcastRekey {k0 s : State} {actDt : Nat} {ref : Option CmdRef} (hk : Kept k0 s) :
    Kept k0 (startBcastRekey s actDt ref) := by
  unfold startBcastRekey
  try dsimp only
  repeat' first
    | with_reducible assumption
    | with_reducible apply Kept.ite
    | with_reducible refine Kept.foldl ?_ fun _ _ _ => ?_
    | with_reducible apply kept_macUpd
    | with_reducible apply kept_useMaster
    | with_reducible apply kept_queueDl
    | split
    | refine Kept.upd ?_ rfl rfl rfl rfl

theorem kept_takeBcnt {k0 s : State} (hk : Kept k0 s) :
    Kept k0 (takeBcnt s) := by
  unfold takeBcnt
  try dsimp only
  repeat' first
    | with_reducible assumption
    | with_reducible apply Kept.ite
    | with_reducible apply kept_setFld
    | with_reducible apply kept_useMaster
    | with_reducible apply kept_jrn
    | with_reducible apply kept_setErr
    | with_reducible apply kept_drawFree
    | with_reducible apply kept_startBcastRekey
    | split

theorem kept_sendBroadcastOn {k0 s : State} {chain : Option Nat} {ftype : Nat} {ch : Nat} {mode : Nat} {fwd : Bool} {payload
  : List Byte} (hk : Kept k0 s) :
    Kept k0 (sendBroadcastOn s chain ftype ch mode fwd payload).1 := by
  unfold sendBroadcastOn
  split
  dsimp only
  assumption
  apply Kept.ite1
  dsimp only
  assumption
  split
  apply Kept.ite1
  dsimp only
  apply kept_takeBcnt
  refine Kept.fst (by assumption) ?_
  exact kept_sendOn ‹_›
  dsimp only
  refine Kept.fst (by assumption) ?_
  exact kept_sendOn ‹_›

theorem kept_sendBroadcast {k0 s : State} {ftype : Nat} {ch : Nat} {mode : Nat} {fwd : Bool} {payload : List Byte} (hk : Kept
  k0 s) :
    Kept k0 (sendBroadcast s ftype ch mode fwd payload).1 := by
  unfold sendBroadcast
  exact kept_sendBroadcastOn ‹_›

theorem kept_ackLater {k0 s : State} {n : Nat} {fcnt : Nat} (hk : Kept k0 s) :
    Kept k0 (ackLater s n fcnt) := by
  unfold ackLater
  exact kept_macUpd (kept_updEnt ‹_›)

theorem kept_takeAcks {k0 s : State} {k : Nat} (hk : Kept k0 s) :
    Kept k0 (takeAcks s k).2 := by
  unfold takeAcks
  dsimp only
  exact kept_countBy (kept_macUpd (Kept.foldl ‹_› (fun _ _ _ => (kept_updEnt ‹_›))))

end Sys2Proof.Laws
end

