-- ==== Sys2Proof/Laws/KeptTime.lean ====
section
/-! SUPPORT. What the operations of Machine/Time.lean keep. -/

namespace Sys2Proof.Laws

open Sys2Proof.Machine

theorem kept_timeUpd {k0 s : State} {f : TimeSt → TimeSt} (hk : Kept k0 s) :
    Kept k0 (timeUpd s f) := by
  unfold timeUpd
  exact .upd ‹_› rfl rfl rfl rfl

theorem kept_setQual {k0 s : State} {q : Nat} {after : Option Nat} (hk : Kept k0 s) :
    Kept k0 (setQual s q after) := by
  unfold setQual
  dsimp only
  exact Kept.ite ‹_› (kept_emitAt (kept_timeUpd (kept_setFld ‹_›)))

theorem kept_sourceLost {k0 s : State} (hk : Kept k0 s) :
    Kept k0 (sourceLost s) := by
  unfold sourceLost
  dsimp only
  exact Kept.ite (kept_setQual (kept_setErr ‹_›)) (kept_setErr ‹_›)

theorem kept_timCtrlWrite {k0 s : State} {v : Nat} (hk : Kept k0 s) :
    Kept k0 (timCtrlWrite s v) := by
  unfold timCtrlWrite
  dsimp only
  exact Kept.ite (Kept.foldl ‹_› (fun _ _ _ => (kept_setFld ‹_›))) (Kept.ite (kept_sourceLost (kept_timeUpd (Kept.foldl ‹_›
    (fun _ _ _ => (kept_setFld ‹_›))))) (kept_timeUpd (Kept.foldl ‹_› (fun _ _ _ => (kept_setFld ‹_›)))))

theorem kept_execTimSrcWrite {k0 : State} {v : Word} {s : State} (hk : Kept k0 s) :
    OutKept k0 (execTimSrcWrite v s) := by
  unfold execTimSrcWrite
  exact OutKept.next (kept_timCtrlWrite ‹_›)

theorem kept_fireAlarm {k0 s : State} {n : Nat} {stepped : Bool} {after : Option Nat} (hk : Kept k0 s) :
    Kept k0 (fireAlarm s n stepped after) := by
  unfold fireAlarm
  dsimp only
  exact kept_emitAt (kept_setFld (kept_setFlag (kept_setFld ‹_›)))

theorem kept_execAlarm {k0 : State} {n : Fin 8} {s : State} (hk : Kept k0 s) :
    OutKept k0 (execAlarm n s) := by
  unfold execAlarm
  exact OutKept.next (Kept.ite (kept_fireAlarm ‹_›) ‹_›)

theorem kept_armAlarm {k0 s : State} {n : Nat} (hk : Kept k0 s) :
    Kept k0 (armAlarm s n) := by
  unfold armAlarm
  dsimp only
  exact Kept.ite (kept_setErr (Kept.ite (kept_setFlag (kept_setFld ‹_›)) (kept_timeUpd (kept_setFlag (kept_setFld ‹_›)))))
    (Kept.ite (kept_setFlag (kept_setFld ‹_›)) (kept_timeUpd (kept_setFlag (kept_setFld ‹_›))))

theorem kept_execAlarmArm {k0 : State} {n : Fin 8} {s : State} (hk : Kept k0 s) :
    OutKept k0 (execAlarmArm n s) := by
  unfold execAlarmArm
  exact OutKept.next (kept_armAlarm ‹_›)

theorem kept_enableWake {k0 s : State} {n : Nat} (hk : Kept k0 s) :
    Kept k0 (enableWake s n) := by
  unfold enableWake
  apply Kept.ite
  assumption
  dsimp only
  exact kept_timeUpd (kept_setFld (kept_setFld ‹_›))

theorem kept_execWakeEnable {k0 : State} {n : Fin 4} {s : State} (hk : Kept k0 s) :
    OutKept k0 (execWakeEnable n s) := by
  unfold execWakeEnable
  exact OutKept.next (kept_enableWake ‹_›)

theorem kept_execWake {k0 : State} {n : Fin 4} {s : State} (hk : Kept k0 s) :
    OutKept k0 (execWake n s) := by
  unfold execWake
  dsimp only
  exact OutKept.next (Kept.ite (kept_emit (kept_timeUpd (kept_setFld ‹_›))) ‹_›)

theorem kept_stepClock {k0 s : State} {goal : Nat} {byHost : Bool} {after : Option Nat} (hk : Kept k0 s) :
    Kept k0 (stepClock s goal byHost after) := by
  unfold stepClock
  dsimp only
  apply kept_timeUpd
  apply Kept.foldl
  apply Kept.ite
  apply kept_setQual
  apply kept_emitAt
  refine Kept.clock ?_ rfl (Nat.le_refl _) rfl rfl
  assumption
  apply kept_emitAt
  refine Kept.clock ?_ rfl (Nat.le_refl _) rfl rfl
  assumption
  exact fun _ _ _ => (kept_fireAlarm ‹_›)

theorem kept_measure {k0 s : State} {off : Int} (hk : Kept k0 s) :
    Kept k0 (Sys2Proof.Machine.measure s off) := by
  unfold Sys2Proof.Machine.measure
  dsimp only
  exact Kept.ite (kept_setQual (kept_timeUpd ‹_›)) (kept_timeUpd ‹_›)

theorem kept_leapConflict {k0 s : State} (hk : Kept k0 s) :
    Kept k0 (leapConflict s) := by
  unfold leapConflict
  exact Kept.ite (kept_setErr ‹_›) ‹_›

theorem kept_execPtpSync {k0 : State} {port : Fin 4} {m : SyncMsg} {leap : Option LeapNotice} {s : State} (hk : Kept k0 s) :
    OutKept k0 (execPtpSync port m leap s) := by
  unfold execPtpSync
  apply OutKept.next
  apply Kept.ite
  dsimp only
  exact Kept.ite (kept_leapConflict (kept_timeUpd ‹_›)) (kept_measure (kept_leapConflict (kept_timeUpd ‹_›)))
  assumption

theorem kept_execPpsInEdge {k0 : State} {e : PpsEdge} {s : State} (hk : Kept k0 s) :
    OutKept k0 (execPpsInEdge e s) := by
  unfold execPpsInEdge
  exact OutKept.next (Kept.ite (kept_measure (kept_timeUpd ‹_›)) ‹_›)

theorem kept_execPtpSourceLost {k0 s : State} (hk : Kept k0 s) :
    OutKept k0 (execPtpSourceLost s) := by
  unfold execPtpSourceLost
  exact OutKept.next (Kept.ite (kept_sourceLost (kept_timeUpd ‹_›)) ‹_›)

theorem kept_execPpsWindowClose {k0 s : State} (hk : Kept k0 s) :
    OutKept k0 (execPpsWindowClose s) := by
  unfold execPpsWindowClose
  dsimp only
  exact OutKept.next (Kept.ite (Kept.ite (kept_sourceLost (kept_timeUpd (kept_timeUpd ‹_›))) (kept_timeUpd ‹_›)) ‹_›)

theorem kept_execHoldoverExpiry {k0 s : State} (hk : Kept k0 s) :
    OutKept k0 (execHoldoverExpiry s) := by
  unfold execHoldoverExpiry
  apply OutKept.next
  split
  exact Kept.ite (kept_setQual ‹_›) ‹_›
  assumption

theorem kept_execLeapSlewStart {k0 s : State} (hk : Kept k0 s) :
    OutKept k0 (execLeapSlewStart s) := by
  unfold execLeapSlewStart
  apply OutKept.next
  split
  exact Kept.ite (kept_timeUpd (kept_setFld ‹_›)) ‹_›
  assumption

theorem kept_execLeap {k0 s : State} (hk : Kept k0 s) :
    OutKept k0 (execLeap s) := by
  unfold execLeap
  apply OutKept.next
  split
  exact Kept.ite (kept_emit (kept_timeUpd (kept_setFld ‹_›))) ‹_›
  assumption

theorem kept_execPpsOutPulse {k0 s : State} (hk : Kept k0 s) :
    OutKept k0 (execPpsOutPulse s) := by
  unfold execPpsOutPulse
  try dsimp only
  repeat' first
    | with_reducible assumption
    | with_reducible refine OutKept.next ?_
    | with_reducible apply Kept.ite
    | with_reducible apply kept_drivePad
    | with_reducible apply kept_timeUpd
    | split
    | refine Kept.upd ?_ rfl rfl rfl rfl

theorem kept_latchSec {k0 s : State} (hk : Kept k0 s) :
    Kept k0 (latchSec s) := by
  unfold latchSec
  exact kept_setFld (kept_setFld ‹_›)

theorem kept_secLoRead {k0 s : State} (hk : Kept k0 s) :
    Kept k0 (secLoRead s) := by
  unfold secLoRead
  dsimp only
  exact .upd (kept_latchSec ‹_›) rfl rfl rfl rfl

theorem kept_execTimSecLoRead {k0 s : State} (hk : Kept k0 s) :
    OutKept k0 (execTimSecLoRead s) := by
  unfold execTimSecLoRead
  exact OutKept.next (kept_secLoRead ‹_›)

theorem kept_latchCal {k0 s : State} (hk : Kept k0 s) :
    Kept k0 (latchCal s) := by
  unfold latchCal
  dsimp only
  exact kept_setReg (kept_setReg (kept_setReg ‹_›))

theorem kept_calDateRead {k0 s : State} (hk : Kept k0 s) :
    Kept k0 (calDateRead s) := by
  unfold calDateRead
  dsimp only
  exact .upd (kept_latchCal ‹_›) rfl rfl rfl rfl

theorem kept_execTimCalDateRead {k0 s : State} (hk : Kept k0 s) :
    OutKept k0 (execTimCalDateRead s) := by
  unfold execTimCalDateRead
  exact OutKept.next (kept_calDateRead ‹_›)

theorem kept_stageWrite {k0 s : State} {time : Bool} {v : Nat} (hk : Kept k0 s) :
    Kept k0 (stageWrite s time v) := by
  unfold stageWrite
  apply Kept.ite
  exact kept_setErr ‹_›
  dsimp only
  exact kept_timeUpd ‹_›

theorem kept_execCalendarStageWrite {k0 : State} {time : Bool} {v : Word} {s : State} (hk : Kept k0 s) :
    OutKept k0 (execCalendarStageWrite time v s) := by
  unfold execCalendarStageWrite
  exact OutKept.next (kept_stageWrite ‹_›)

theorem kept_commitWrite {k0 s : State} {mode : Nat} (hk : Kept k0 s) :
    Kept k0 (commitWrite s mode) := by
  unfold commitWrite
  exact Kept.ite (kept_setErr ‹_›) (Kept.ite (kept_timeUpd (kept_setFld ‹_›)) ‹_›)

theorem kept_execTimCommitSet {k0 s : State} (hk : Kept k0 s) :
    OutKept k0 (execTimCommitSet s) := by
  unfold execTimCommitSet
  exact OutKept.next (kept_commitWrite ‹_›)

theorem kept_execTimCommitCalendar {k0 s : State} (hk : Kept k0 s) :
    OutKept k0 (execTimCommitCalendar s) := by
  unfold execTimCommitCalendar
  exact OutKept.next (kept_commitWrite ‹_›)

theorem kept_execTimCommitDiscard {k0 s : State} (hk : Kept k0 s) :
    OutKept k0 (execTimCommitDiscard s) := by
  unfold execTimCommitDiscard
  exact OutKept.next (kept_commitWrite ‹_›)

theorem kept_bodyTimeSet {k0 s : State} {c : Cmd} (hk : Kept k0 s) :
    WorkKept k0 (bodyTimeSet s c) := by
  unfold bodyTimeSet
  apply wk_checkOps
  apply wk_stopIf
  apply wk_pure
  dsimp only
  exact kept_timeUpd ‹_›

theorem kept_execTimeSet {k0 : State} {sq : Fin 16} {s : State} (hk : Kept k0 s) :
    OutKept k0 (execTimeSet sq s) := by
  unfold execTimeSet
  exact OutKept.next (kept_runRing ‹_› (fun _ _ _ => (kept_bodyTimeSet ‹_›)))

theorem kept_bodyTimeAdjust {k0 s : State} {c : Cmd} (hk : Kept k0 s) :
    WorkKept k0 (bodyTimeAdjust s c) := by
  unfold bodyTimeAdjust
  dsimp only
  apply wk_checkOps
  apply wk_stopIf
  apply wk_pure
  dsimp only
  exact kept_timeUpd ‹_›

theorem kept_execTimeAdjust {k0 : State} {sq : Fin 16} {s : State} (hk : Kept k0 s) :
    OutKept k0 (execTimeAdjust sq s) := by
  unfold execTimeAdjust
  exact OutKept.next (kept_runRing ‹_› (fun _ _ _ => (kept_bodyTimeAdjust ‹_›)))

theorem kept_bodyLeapSchedule {k0 s : State} {c : Cmd} (hk : Kept k0 s) :
    WorkKept k0 (bodyLeapSchedule s c) := by
  unfold bodyLeapSchedule
  dsimp only
  apply wk_checkOps
  apply wk_stopIf
  apply wk_stopIf
  apply wk_pure
  dsimp only
  exact kept_leapConflict (Kept.ite (kept_setFlag (kept_setFlag ‹_›)) (kept_setFld (kept_setFlag (kept_setFlag ‹_›))))

theorem kept_execLeapSchedule {k0 : State} {sq : Fin 16} {s : State} (hk : Kept k0 s) :
    OutKept k0 (execLeapSchedule sq s) := by
  unfold execLeapSchedule
  exact OutKept.next (kept_runRing ‹_› (fun _ _ _ => (kept_bodyLeapSchedule ‹_›)))

theorem kept_bodyLocalRuleSet {k0 s : State} {c : Cmd} (hk : Kept k0 s) :
    WorkKept k0 (bodyLocalRuleSet s c) := by
  unfold bodyLocalRuleSet
  dsimp only
  apply wk_checkOps
  apply wk_pure
  dsimp only
  exact kept_timeUpd ‹_›

theorem kept_execLocalRuleSet {k0 : State} {sq : Fin 16} {s : State} (hk : Kept k0 s) :
    OutKept k0 (execLocalRuleSet sq s) := by
  unfold execLocalRuleSet
  exact OutKept.next (kept_runRing ‹_› (fun _ _ _ => (kept_bodyLocalRuleSet ‹_›)))

theorem kept_applyRules {k0 s : State} (hk : Kept k0 s) :
    Kept k0 (applyRules s) := by
  unfold applyRules
  exact Kept.foldl (kept_timeUpd ‹_›) (fun _ _ _ => (kept_completeSeq (kept_setReg (kept_setReg (kept_setReg ‹_›)))))

end Sys2Proof.Laws
end

