-- ==== Sys2Proof/Laws/KeptTamin.lean ====
section
/-! SUPPORT. What the operations of Machine/Tamin.lean keep. -/

namespace Sys2Proof.Laws

open Sys2Proof.Machine

theorem kept_rejoinSent {k0 s : State} {n : Nat} (hk : Kept k0 s) :
    Kept k0 (rejoinSent s n) := by
  unfold rejoinSent
  dsimp only
  split
  exact Kept.ite (kept_setEnt (kept_setEp ‹_›)) (kept_setEp (kept_setEp ‹_›))
  exact kept_setEp ‹_›

theorem kept_statusSent {k0 s : State} {n : Nat} (hk : Kept k0 s) :
    Kept k0 (statusSent s n) := by
  unfold statusSent
  dsimp only
  exact kept_rejoinSent (kept_setEp ‹_›)

theorem kept_statusFailed {k0 s : State} {n : Nat} (hk : Kept k0 s) :
    Kept k0 (statusFailed s n) := by
  unfold statusFailed
  split
  exact kept_ackLater (kept_setEp ‹_›)
  assumption

theorem kept_prepare {k0 s : State} {n : Nat} (hk : Kept k0 s) :
    Kept k0 (prepare s n) := by
  unfold prepare
  dsimp only
  split
  exact kept_setEp ‹_›
  assumption

theorem kept_markSent {k0 s : State} {n : Nat} {k : Nat} (hk : Kept k0 s) :
    Kept k0 (markSent s n k) := by
  unfold markSent
  dsimp only
  split
  exact kept_updEnt (kept_countBy (kept_setEp ‹_›))
  exact kept_countBy (kept_setEp ‹_›)

theorem kept_itemOutcome {k0 s : State} {n : Nat} {ok : Bool} {i : DlItem} (hk : Kept k0 s) :
    Kept k0 (itemOutcome s n ok i) := by
  unfold itemOutcome
  dsimp only
  split
  exact kept_emitOutcome ‹_›
  exact kept_emitOutcome ‹_›
  exact Kept.ite ‹_› (Kept.ite (kept_emitOutcome (kept_setEp ‹_›)) (kept_setEp ‹_›))
  assumption

theorem kept_ackItems {k0 s : State} {n : Nat} (hk : Kept k0 s) :
    Kept k0 (ackItems s n) := by
  unfold ackItems
  dsimp only
  exact Kept.foldl (kept_setEp ‹_›) (fun _ _ _ => (kept_itemOutcome ‹_›))

theorem kept_failItems {k0 s : State} {n : Nat} (hk : Kept k0 s) :
    Kept k0 (failItems s n) := by
  unfold failItems
  dsimp only
  exact Kept.foldl (kept_setEp ‹_›) (fun _ _ _ => (kept_itemOutcome ‹_›))

theorem kept_dropItems {k0 s : State} {n : Nat} (hk : Kept k0 s) :
    Kept k0 (dropItems s n) := by
  unfold dropItems
  exact Kept.foldl (kept_setEp ‹_›) (fun _ _ _ => (kept_itemOutcome ‹_›))

theorem kept_sendLeaf {k0 : State} {s0 : State} {n : Nat} {m : Nat} {ch : Nat} {mode : Nat} (hk : Kept k0 s0) :
    Kept k0 (sendLeaf s0 n m ch mode) := by
  unfold sendLeaf
  dsimp only
  exact Kept.ite (kept_prepare (kept_failItems ‹_›)) (Kept.ite (Kept.ite (kept_statusSent (Kept.ite (kept_takeDl (kept_takeDl
    (kept_takeDl (kept_markSent (kept_sendDedicated (kept_prepare (kept_failItems ‹_›))))))) (kept_takeDl (kept_takeDl
    (kept_markSent (kept_sendDedicated (kept_prepare (kept_failItems ‹_›)))))))) (Kept.ite (kept_takeDl (kept_takeDl
    (kept_takeDl (kept_markSent (kept_sendDedicated (kept_prepare (kept_failItems ‹_›))))))) (kept_takeDl (kept_takeDl
    (kept_markSent (kept_sendDedicated (kept_prepare (kept_failItems ‹_›)))))))) (kept_sendDedicated (kept_prepare
    (kept_failItems ‹_›))))

theorem kept_sendWaiting {k0 : State} {s0 : State} {n : Nat} {ch : Nat} {mode : Nat} {status : Bool} (hk : Kept k0 s0) :
    Kept k0 (sendWaiting s0 n ch mode status) := by
  unfold sendWaiting
  dsimp only
  split
  exact kept_sendLeaf (kept_prepare (kept_failItems ‹_›))
  exact Kept.ite (kept_prepare (kept_failItems ‹_›)) (Kept.ite (Kept.ite (kept_statusSent (kept_takeDl (kept_markSent
    (kept_sendDedicated (kept_prepare (kept_failItems ‹_›)))))) (kept_takeDl (kept_markSent (kept_sendDedicated (kept_prepare
    (kept_failItems ‹_›)))))) (Kept.ite (kept_statusFailed (kept_sendDedicated (kept_prepare (kept_failItems ‹_›))))
    (kept_sendDedicated (kept_prepare (kept_failItems ‹_›)))))

theorem kept_execDedicatedDownlink {k0 s : State} (hk : Kept k0 s) :
    OutKept k0 (execDedicatedDownlink s) := by
  unfold execDedicatedDownlink
  dsimp only
  apply OutKept.next
  split
  exact Kept.ite (Kept.ite (kept_statusFailed (kept_macUpd ‹_›)) (kept_macUpd ‹_›)) (kept_sendWaiting (kept_macUpd ‹_›))
  apply Kept.ite
  assumption
  split
  exact kept_sendWaiting (kept_setEp ‹_›)
  assumption

theorem kept_respLost {k0 s : State} {r : RespPend} (hk : Kept k0 s) :
    Kept k0 (respLost s r) := by
  unfold respLost
  dsimp only
  exact Kept.ite (kept_ackLater (Kept.ite (kept_setEp ‹_›) ‹_›)) (Kept.ite (kept_setEp ‹_›) ‹_›)

theorem kept_respSent {k0 s : State} {r : RespPend} {dl : Bool} (hk : Kept k0 s) :
    Kept k0 (respSent s r dl) := by
  unfold respSent
  dsimp only
  exact Kept.ite (kept_macUpd (kept_rejoinSent (kept_setEp (kept_takeDl (kept_count1 ‹_›))))) (kept_rejoinSent (kept_setEp
    (kept_takeDl (kept_count1 ‹_›))))

theorem kept_sendResp {k0 s : State} {r : RespPend} (hk : Kept k0 s) :
    Kept k0 (sendResp s r) := by
  unfold sendResp
  dsimp only
  apply Kept.ite
  exact kept_respLost ‹_›
  split
  exact kept_respLost (kept_count1 ‹_›)
  exact Kept.ite (kept_respSent (kept_txStart ‹_›)) (kept_respLost (kept_count1 (kept_txStart ‹_›)))

theorem kept_execResp {k0 s : State} (hk : Kept k0 s) :
    OutKept k0 (execResp s) := by
  unfold execResp
  apply OutKept.next
  split
  exact kept_sendResp (kept_macUpd ‹_›)
  split
  exact Kept.ite (kept_sendResp (kept_setEp ‹_›)) ‹_›
  assumption

theorem kept_sendRf24 {k0 s : State} {frame : List Byte} (hk : Kept k0 s) :
    Kept k0 (sendRf24 s frame) := by
  unfold sendRf24
  exact kept_send ‹_›

theorem kept_execT1Poll {k0 s : State} (hk : Kept k0 s) :
    OutKept k0 (execT1Poll s) := by
  unfold execT1Poll
  apply OutKept.next
  apply Kept.ite
  split
  dsimp only
  exact kept_statusSent (kept_takeDl (kept_markSent (kept_sendRf24 (kept_prepare (kept_failItems (kept_setEp (Kept.ite
    (kept_updEnt ‹_›) ‹_›)))))))
  assumption
  assumption

theorem kept_execJoinAccept {k0 s : State} (hk : Kept k0 s) :
    OutKept k0 (execJoinAccept s) := by
  unfold execJoinAccept
  try dsimp only
  repeat' first
    | with_reducible assumption
    | with_reducible refine OutKept.next ?_
    | with_reducible apply Kept.ite
    | with_reducible apply kept_macUpd
    | with_reducible apply kept_setEp
    | with_reducible apply kept_takeDl
    | with_reducible apply kept_sendRf24
    | with_reducible apply kept_useMaster
    | with_reducible apply kept_sendDedicated
    | with_reducible refine Kept.fst (by assumption) ?_
    | with_reducible refine Kept.snd (by assumption) ?_
    | split
    | refine Kept.upd ?_ rfl rfl rfl rfl

theorem kept_dropJoin {k0 s : State} {n : Nat} (hk : Kept k0 s) :
    Kept k0 (dropJoin s n) := by
  unfold dropJoin
  try dsimp only
  repeat' first
    | with_reducible assumption
    | with_reducible apply kept_setEp
    | with_reducible apply kept_macUpd
    | refine Kept.upd ?_ rfl rfl rfl rfl

theorem kept_execJoinFailed {k0 s : State} (hk : Kept k0 s) :
    OutKept k0 (execJoinFailed s) := by
  unfold execJoinFailed
  try dsimp only
  repeat' first
    | with_reducible assumption
    | with_reducible refine OutKept.next ?_
    | with_reducible apply Kept.ite
    | with_reducible apply kept_dropJoin
    | with_reducible apply kept_freeEnt
    | with_reducible apply kept_setEnt
    | with_reducible apply kept_emit
    | with_reducible refine Kept.fst (by assumption) ?_
    | with_reducible refine Kept.snd (by assumption) ?_
    | split
    | refine Kept.upd ?_ rfl rfl rfl rfl

theorem kept_orphan {k0 s : State} {n : Nat} (hk : Kept k0 s) :
    Kept k0 (orphan s n) := by
  unfold orphan
  try dsimp only
  repeat' first
    | with_reducible assumption
    | with_reducible apply Kept.ite
    | with_reducible apply kept_macUpd
    | with_reducible apply kept_setEnt
    | split
    | refine Kept.upd ?_ rfl rfl rfl rfl

theorem kept_becomeLost {k0 s : State} {n : Nat} (hk : Kept k0 s) :
    Kept k0 (becomeLost s n) := by
  unfold becomeLost
  dsimp only
  have h2 := kept_emit (code := 0x0401) (payload := leBytes 3 n ++ [0] ++ leBytes 4 (entAt s n).lastRx)
    (kept_count1 (f := Reg.MAC_CNT_COUNT 9) (kept_dropJoin (n := n) (kept_setEnt (n := n) (e := { entAt s n with state := 4 }) hk)))
  refine Kept.foldl ?_ fun _ _ _ => Kept.ite (kept_orphan ‹_›) ‹_›
  split
  · exact kept_setEp (kept_iteLost h2 ‹_›)
  · exact kept_faultAt (kept_setEp h2)

theorem kept_execEndpointLost {k0 s : State} (hk : Kept k0 s) :
    OutKept k0 (execEndpointLost s) := by
  unfold execEndpointLost
  dsimp only
  exact OutKept.next (Kept.ite ‹_› (Kept.ite (kept_macUpd ‹_›) (Kept.foldl (kept_macUpd ‹_›) (fun _ _ _ => (Kept.ite
    (kept_becomeLost ‹_›) ‹_›)))))

theorem kept_planWins {k0 s : State} {k : Nat} (hk : Kept k0 s) :
    Kept k0 (planWins s k) := by
  unfold planWins
  dsimp only
  exact kept_macUpd ‹_›

theorem kept_execRooster {k0 s : State} (hk : Kept k0 s) :
    OutKept k0 (execRooster s) := by
  unfold execRooster
  try dsimp only
  repeat' first
    | with_reducible assumption
    | with_reducible refine OutKept.next ?_
    | with_reducible apply Kept.ite
    | with_reducible apply kept_planWins
    | with_reducible apply kept_macUpd
    | with_reducible apply kept_roosterPayload
    | with_reducible apply kept_sendOn
    | with_reducible apply kept_takeBcnt
    | with_reducible apply kept_takeAcks
    | with_reducible apply kept_count1
    | with_reducible refine Kept.fst (by assumption) ?_
    | with_reducible refine Kept.snd (by assumption) ?_
    | split
    | refine Kept.upd ?_ rfl rfl rfl rfl

theorem kept_takeWin {k0 s : State} {kind : Nat} {p : Win → Bool} (hk : Kept k0 s) :
    Kept k0 (takeWin s kind p).1 := by
  unfold takeWin
  dsimp only
  split
  dsimp only
  exact kept_macUpd (kept_macUpd ‹_›)
  dsimp only
  exact kept_macUpd ‹_›

theorem kept_sendAcks {k0 s : State} {w : Win} (hk : Kept k0 s) :
    Kept k0 (sendAcks s w) := by
  unfold sendAcks
  try dsimp only
  repeat' first
    | with_reducible assumption
    | with_reducible apply Kept.ite
    | with_reducible apply kept_takeAcks
    | with_reducible apply kept_sendBroadcast
    | split

theorem kept_execAckAgg {k0 s : State} (hk : Kept k0 s) :
    OutKept k0 (execAckAgg s) := by
  unfold execAckAgg
  apply OutKept.next
  apply Kept.ite
  assumption
  split
  apply kept_sendAcks
  refine Kept.fst (by assumption) ?_
  exact kept_takeWin ‹_›
  refine Kept.fst (by assumption) ?_
  exact kept_takeWin ‹_›

theorem kept_execMap {k0 s : State} (hk : Kept k0 s) :
    OutKept k0 (execMap s) := by
  unfold execMap
  apply OutKept.next
  apply Kept.ite
  assumption
  split
  split
  dsimp only
  apply Kept.ite
  apply kept_macUpd
  apply kept_sendBroadcast
  refine Kept.fst (by assumption) ?_
  exact kept_takeWin ‹_›
  apply kept_sendBroadcast
  refine Kept.fst (by assumption) ?_
  exact kept_takeWin ‹_›
  refine Kept.fst (by assumption) ?_
  exact kept_takeWin ‹_›
  refine Kept.fst (by assumption) ?_
  exact kept_takeWin ‹_›

theorem kept_execMapActive {k0 s : State} (hk : Kept k0 s) :
    OutKept k0 (execMapActive s) := by
  unfold execMapActive
  apply OutKept.next
  split
  dsimp only
  exact kept_emitOutcome (kept_ckTables (kept_setFld (kept_macUpd ‹_›)))
  assumption

theorem kept_execMapOldWindowEnd {k0 s : State} (hk : Kept k0 s) :
    OutKept k0 (execMapOldWindowEnd s) := by
  unfold execMapOldWindowEnd
  exact OutKept.next (kept_macUpd ‹_›)

theorem kept_execFoldCheckpoint {k0 s : State} (hk : Kept k0 s) :
    OutKept k0 (execFoldCheckpoint s) := by
  unfold execFoldCheckpoint
  exact OutKept.next (Kept.ite ‹_› (Kept.ite (kept_checkpointFold ‹_›) ‹_›))

theorem kept_execBcastKeyActive {k0 s : State} (hk : Kept k0 s) :
    OutKept k0 (execBcastKeyActive s) := by
  unfold execBcastKeyActive
  apply OutKept.next
  split
  apply Kept.ite
  dsimp only
  exact kept_emitOutcome (kept_jrn (kept_macUpd (kept_setFld (kept_setFld ‹_›))))
  assumption
  assumption

theorem kept_bodyFoldAdmit {k0 s : State} {c : Cmd} (hk : Kept k0 s) :
    WorkKept k0 (bodyFoldAdmit s c) := by
  unfold bodyFoldAdmit
  dsimp only
  apply wk_checkOps
  apply wk_stopIf
  split
  exact wk_ansIn (kept_setErr ‹_›)
  apply wk_stopIf
  apply wk_pure
  dsimp only
  exact kept_setEnt ‹_›

theorem kept_execFoldAdmit {k0 : State} {sq : Fin 16} {s : State} (hk : Kept k0 s) :
    OutKept k0 (execFoldAdmit sq s) := by
  unfold execFoldAdmit
  exact OutKept.next (kept_runRing ‹_› (fun _ _ _ => (kept_bodyFoldAdmit ‹_›)))

theorem kept_bodyFoldRemove {k0 s : State} {c : Cmd} (hk : Kept k0 s) :
    WorkKept k0 (bodyFoldRemove s c) := by
  unfold bodyFoldRemove
  dsimp only
  apply wk_checkOps
  apply wk_stopIf
  apply wk_stopIf
  apply wk_pure
  dsimp only
  exact kept_causedBy ‹_› (kept_freeEnt (kept_dropItems ‹_›))

theorem kept_execFoldRemove {k0 : State} {sq : Fin 16} {s : State} (hk : Kept k0 s) :
    OutKept k0 (execFoldRemove sq s) := by
  unfold execFoldRemove
  exact OutKept.next (kept_runRing ‹_› (fun _ _ _ => (kept_bodyFoldRemove ‹_›)))

theorem kept_bodyFoldRead {k0 s : State} {c : Cmd} (hk : Kept k0 s) :
    WorkKept k0 (bodyFoldRead s c) := by
  unfold bodyFoldRead
  dsimp only
  apply wk_checkOps
  apply wk_writeBuf
  assumption
  intro _
  intro _
  apply wk_pure
  dsimp only
  assumption

theorem kept_execFoldRead {k0 : State} {sq : Fin 16} {s : State} (hk : Kept k0 s) :
    OutKept k0 (execFoldRead sq s) := by
  unfold execFoldRead
  exact OutKept.next (kept_runRing ‹_› (fun _ _ _ => (kept_bodyFoldRead ‹_›)))

theorem kept_bodyFoldFind {k0 s : State} {c : Cmd} (hk : Kept k0 s) :
    WorkKept k0 (bodyFoldFind s c) := by
  unfold bodyFoldFind
  apply wk_checkOps
  apply wk_pure
  dsimp only
  assumption

theorem kept_execFoldFind {k0 : State} {sq : Fin 16} {s : State} (hk : Kept k0 s) :
    OutKept k0 (execFoldFind sq s) := by
  unfold execFoldFind
  exact OutKept.next (kept_runRing ‹_› (fun _ _ _ => (kept_bodyFoldFind ‹_›)))

theorem kept_bodyConnSet {k0 s : State} {c : Cmd} (hk : Kept k0 s) :
    WorkKept k0 (bodyConnSet s c) := by
  unfold bodyConnSet
  dsimp only
  apply wk_checkOps
  apply wk_stopIf
  apply wk_stopIf
  apply wk_stopIf
  apply wk_stopIf
  apply wk_ite
  apply wk_pure
  dsimp only
  exact kept_setEnt ‹_›
  apply wk_pure
  dsimp only
  exact kept_queueDl (kept_setEp ‹_›)

theorem kept_execConnSet {k0 : State} {sq : Fin 16} {s : State} (hk : Kept k0 s) :
    OutKept k0 (execConnSet sq s) := by
  unfold execConnSet
  exact OutKept.next (kept_runRing ‹_› (fun _ _ _ => (kept_bodyConnSet ‹_›)))

theorem kept_bodyMapSet {k0 s : State} {c : Cmd} (hk : Kept k0 s) :
    WorkKept k0 (bodyMapSet s c) := by
  unfold bodyMapSet
  dsimp only
  apply wk_checkOps
  apply wk_stopIf
  apply wk_stopIf
  apply wk_pure
  dsimp only
  exact kept_macUpd ‹_›

theorem kept_execMapSet {k0 : State} {sq : Fin 16} {s : State} (hk : Kept k0 s) :
    OutKept k0 (execMapSet sq s) := by
  unfold execMapSet
  exact OutKept.next (kept_runRing ‹_› (fun _ _ _ => (kept_bodyMapSet ‹_›)))

theorem kept_bodyDlSend {k0 s : State} {c : Cmd} (hk : Kept k0 s) :
    WorkKept k0 (bodyDlSend s c) := by
  unfold bodyDlSend
  dsimp only
  apply wk_checkOps
  apply wk_readBuf
  assumption
  intro _
  apply wk_stopIf
  apply wk_stopIf
  apply wk_pure
  dsimp only
  exact kept_queueDl ‹_›

theorem kept_execDlSend {k0 : State} {sq : Fin 16} {s : State} (hk : Kept k0 s) :
    OutKept k0 (execDlSend sq s) := by
  unfold execDlSend
  exact OutKept.next (kept_runRing ‹_› (fun _ _ _ => (kept_bodyDlSend ‹_›)))

theorem kept_bodyRekey {k0 s : State} {c : Cmd} (hk : Kept k0 s) :
    WorkKept k0 (bodyRekey s c) := by
  unfold bodyRekey
  dsimp only
  apply wk_checkOps
  apply wk_stopIf
  apply wk_stopIf
  apply wk_stopIf
  apply wk_pure
  dsimp only
  exact kept_startRekey ‹_›

theorem kept_execRekey {k0 : State} {sq : Fin 16} {s : State} (hk : Kept k0 s) :
    OutKept k0 (execRekey sq s) := by
  unfold execRekey
  exact OutKept.next (kept_runRing ‹_› (fun _ _ _ => (kept_bodyRekey ‹_›)))

theorem kept_bodyBcastRekey {k0 s : State} {c : Cmd} (hk : Kept k0 s) :
    WorkKept k0 (bodyBcastRekey s c) := by
  unfold bodyBcastRekey
  apply wk_checkOps
  apply wk_stopIf
  apply wk_pure
  dsimp only
  exact kept_startBcastRekey ‹_›

theorem kept_execBcastRekey {k0 : State} {sq : Fin 16} {s : State} (hk : Kept k0 s) :
    OutKept k0 (execBcastRekey sq s) := by
  unfold execBcastRekey
  exact OutKept.next (kept_runRing ‹_› (fun _ _ _ => (kept_bodyBcastRekey ‹_›)))

end Sys2Proof.Laws
end

