-- ==== Sys2Proof/Laws/KeptBasin.lean ====
section
/-! SUPPORT. What the operations of Machine/Basin.lean keep. -/

namespace Sys2Proof.Laws

open Sys2Proof.Machine

theorem kept_basUpd {k0 s : State} {f : BasinSt → BasinSt} (hk : Kept k0 s) :
    Kept k0 (basUpd s f) := by
  unfold basUpd
  exact .upd ‹_› rfl rfl rfl rfl

theorem kept_updChan {k0 s : State} {n : Nat} {f : BasChan → BasChan} (hk : Kept k0 s) :
    Kept k0 (updChan s n f) := by
  unfold updChan
  exact kept_basUpd ‹_›

theorem kept_updFdr {k0 s : State} {f : Nat} {g : Feeder → Feeder} (hk : Kept k0 s) :
    Kept k0 (updFdr s f g) := by
  unfold updFdr
  exact kept_basUpd ‹_›

theorem kept_updIntv {k0 s : State} {f : Nat} {g : OpenInterval → OpenInterval} (hk : Kept k0 s) :
    Kept k0 (updIntv s f g) := by
  unfold updIntv
  exact kept_updFdr ‹_›

theorem kept_chanEvent {k0 s : State} {n : Nat} {code : Nat} (hk : Kept k0 s) :
    Kept k0 (chanEvent s n code) := by
  unfold chanEvent
  exact kept_emit ‹_›

theorem kept_chanFault {k0 s : State} {n : Nat} {fcode : Nat} {clear : Bool} (hk : Kept k0 s) :
    Kept k0 (chanFault s n fcode clear) := by
  unfold chanFault
  exact kept_faultAt ‹_›

theorem kept_execChannelStuck {k0 : State} {n : Fin 42} {s : State} (hk : Kept k0 s) :
    OutKept k0 (execChannelStuck n s) := by
  unfold execChannelStuck
  apply OutKept.next
  apply Kept.ite
  dsimp only
  exact kept_chanFault (kept_chanEvent (kept_updIntv (kept_setErr (kept_count1 (kept_setFlag ‹_›)))))
  assumption

theorem kept_execChannelRecover {k0 : State} {n : Fin 42} {s : State} (hk : Kept k0 s) :
    OutKept k0 (execChannelRecover n s) := by
  unfold execChannelRecover
  exact OutKept.next (Kept.ite (kept_chanFault (kept_chanEvent (kept_setFlag ‹_›))) ‹_›)

theorem kept_execChannelDisabledWhileStuck {k0 : State} {n : Fin 42} {s : State} (hk : Kept k0 s) :
    OutKept k0 (execChannelDisabledWhileStuck n s) := by
  unfold execChannelDisabledWhileStuck
  exact OutKept.next (Kept.ite (kept_chanFault (kept_chanEvent (kept_setFlag ‹_›))) ‹_›)

theorem kept_driveClks {k0 s : State} (hk : Kept k0 s) :
    Kept k0 (driveClks s) := by
  unfold driveClks
  exact Kept.foldl ‹_› (fun _ _ _ => (kept_drivePad ‹_›))

theorem kept_overRange {k0 s : State} {n : Nat} (hk : Kept k0 s) :
    Kept k0 (overRange s n) := by
  unfold overRange
  dsimp only
  exact Kept.ite (kept_updIntv (kept_setErr (kept_count1 (kept_setFlag ‹_›)))) (kept_chanFault (kept_chanEvent (kept_updChan
    (kept_updIntv (kept_setErr (kept_count1 (kept_setFlag ‹_›)))))))

theorem kept_chanSample {k0 s : State} {n : Nat} {c : ChanIn} (hk : Kept k0 s) :
    Kept k0 (chanSample s n c) := by
  unfold chanSample
  dsimp only
  exact kept_updChan (Kept.ite (kept_overRange ‹_›) ‹_›)

theorem kept_endWindow {k0 s : State} {f : Nat} {freq : Option Nat} (hk : Kept k0 s) :
    Kept k0 (endWindow s f freq) := by
  unfold endWindow
  dsimp only
  exact kept_updFdr (kept_basUpd ‹_›)

theorem kept_cycleJudge {k0 s : State} {f : Nat} (hk : Kept k0 s) :
    Kept k0 (cycleJudge s f) := by
  unfold cycleJudge
  dsimp only
  split
  assumption
  apply Kept.ite
  exact kept_updFdr ‹_›
  split
  exact kept_updFdr (Kept.ite ‹_› (kept_basUpd ‹_›))
  exact Kept.ite (kept_updFdr (Kept.ite ‹_› (kept_basUpd ‹_›))) (Kept.ite (kept_updFdr (kept_updFdr (Kept.ite ‹_›
    (kept_basUpd ‹_›)))) (kept_updFdr (kept_endWindow (kept_updFdr (kept_updFdr (Kept.ite ‹_› (kept_basUpd ‹_›)))))))

theorem kept_windowCount {k0 s : State} {f : Nat} (hk : Kept k0 s) :
    Kept k0 (windowCount s f) := by
  unfold windowCount
  dsimp only
  exact Kept.ite (Kept.ite (kept_updFdr (kept_updFdr ‹_›)) (kept_updFdr ‹_›)) (Kept.ite (kept_endWindow (kept_updFdr
    (kept_updFdr ‹_›))) (kept_updFdr ‹_›))

theorem kept_feederHist {k0 s : State} {f : Nat} (hk : Kept k0 s) :
    Kept k0 (feederHist s f) := by
  unfold feederHist
  dsimp only
  exact kept_updFdr ‹_›

theorem kept_feederSample {k0 s : State} {f : Nat} (hk : Kept k0 s) :
    Kept k0 (feederSample s f) := by
  unfold feederSample
  dsimp only
  exact kept_windowCount (kept_cycleJudge (kept_updFdr (kept_feederHist ‹_›)))

theorem kept_feederIdle {k0 s : State} {f : Nat} (hk : Kept k0 s) :
    Kept k0 (feederIdle s f) := by
  unfold feederIdle
  exact kept_updFdr (kept_feederHist ‹_›)

theorem kept_openIntv {k0 s : State} {f : Nat} {start : Nat} {step : Bool} {gap : Bool} (hk : Kept k0 s) :
    Kept k0 (openIntv s f start step gap) := by
  unfold openIntv
  dsimp only
  exact kept_updFdr ‹_›

theorem kept_execBasinSample {k0 : State} {chans : List ChanIn} {s : State} (hk : Kept k0 s) :
    OutKept k0 (execBasinSample chans s) := by
  unfold execBasinSample
  dsimp only
  exact OutKept.next (Kept.ite ‹_› (Kept.foldl (Kept.foldl (kept_basUpd ‹_›) (fun _ _ _ => (kept_chanSample ‹_›))) (fun _ _ _
    => (Kept.ite (kept_feederSample (Kept.ite (kept_openIntv ‹_›) ‹_›)) (kept_feederIdle ‹_›)))))

theorem kept_rcAlarm {k0 s : State} {f : Nat} {x : Nat} {on : Bool} (hk : Kept k0 s) :
    Kept k0 (rcAlarm s f x on) := by
  unfold rcAlarm
  dsimp only
  exact kept_faultAt (kept_emit (Kept.ite (kept_setErr (kept_count1 (kept_setFlag (kept_setFlag ‹_›)))) (kept_setFlag ‹_›)))

theorem kept_execCycleEnd {k0 s : State} (hk : Kept k0 s) :
    OutKept k0 (execCycleEnd s) := by
  unfold execCycleEnd
  apply OutKept.next
  split
  assumption
  dsimp only
  exact Kept.ite (kept_rcAlarm (kept_updFdr (kept_basUpd ‹_›))) (Kept.ite (kept_rcAlarm (kept_updFdr (kept_basUpd ‹_›)))
    (kept_updFdr (kept_basUpd ‹_›)))

theorem kept_feederState {k0 s : State} {f : Nat} {dead : Bool} (hk : Kept k0 s) :
    Kept k0 (feederState s f dead) := by
  unfold feederState
  dsimp only
  exact kept_foldCause (kept_emit (Kept.ite (kept_updIntv (kept_setErr (kept_setFlag ‹_›))) (kept_setFlag ‹_›)))

theorem kept_execWindowEnd {k0 s : State} (hk : Kept k0 s) :
    OutKept k0 (execWindowEnd s) := by
  unfold execWindowEnd
  apply OutKept.next
  split
  assumption
  dsimp only
  exact Kept.ite (kept_feederState (Kept.ite (kept_setFld (kept_setFlag (kept_updFdr (Kept.ite (kept_basUpd ‹_›)
    (kept_drawFree (kept_basUpd ‹_›)))))) (kept_setErr (kept_setFld (kept_setFlag (kept_updFdr (Kept.ite (kept_basUpd ‹_›)
    (kept_drawFree (kept_basUpd ‹_›))))))))) (Kept.ite (kept_feederState (Kept.ite (kept_setFld (kept_setFlag (kept_updFdr
    (Kept.ite (kept_basUpd ‹_›) (kept_drawFree (kept_basUpd ‹_›)))))) (kept_setErr (kept_setFld (kept_setFlag (kept_updFdr
    (Kept.ite (kept_basUpd ‹_›) (kept_drawFree (kept_basUpd ‹_›))))))))) (Kept.ite (kept_setFld (kept_setFlag (kept_updFdr
    (Kept.ite (kept_basUpd ‹_›) (kept_drawFree (kept_basUpd ‹_›)))))) (kept_setErr (kept_setFld (kept_setFlag (kept_updFdr
    (Kept.ite (kept_basUpd ‹_›) (kept_drawFree (kept_basUpd ‹_›)))))))))

theorem kept_execTempUpdate {k0 : State} {conv : List Word} {s : State} (hk : Kept k0 s) :
    OutKept k0 (execTempUpdate conv s) := by
  unfold execTempUpdate
  dsimp only
  exact OutKept.next (Kept.ite ‹_› (Kept.foldl (Kept.ite (kept_setFlag (kept_setFld (kept_basUpd (kept_setAin ‹_›))))
    (kept_setErr (kept_setFlag (kept_setFld (kept_basUpd (kept_setAin ‹_›)))))) (fun _ _ _ => (Kept.ite (kept_setErr
    (kept_updChan (kept_updChan ‹_›))) (kept_updChan (kept_updChan ‹_›))))))

theorem kept_rollClose {k0 s : State} (hk : Kept k0 s) :
    Kept k0 (rollClose s) := by
  unfold rollClose
  exact Kept.ite ‹_› (Kept.foldl ‹_› (fun _ _ _ => (kept_updFdr ‹_›)))

theorem kept_rollOpen {k0 s : State} (hk : Kept k0 s) :
    Kept k0 (rollOpen s) := by
  unfold rollOpen
  apply Kept.ite
  assumption
  dsimp only
  exact Kept.foldl (kept_basUpd ‹_›) (fun _ _ _ => (kept_updIntv ‹_›))

theorem kept_addWait {k0 s : State} {w : ReconWait} (hk : Kept k0 s) :
    Kept k0 (addWait s w) := by
  unfold addWait
  try dsimp only
  repeat' first
    | with_reducible assumption
    | with_reducible apply kept_basUpd
    | refine Kept.upd ?_ rfl rfl rfl rfl

theorem kept_closeIntv {k0 s : State} {f : Nat} {at' : Nat} {step : Bool} (hk : Kept k0 s) :
    Kept k0 (closeIntv s f at' step) := by
  unfold closeIntv
  try dsimp only
  repeat' first
    | with_reducible assumption
    | with_reducible apply Kept.ite
    | with_reducible apply kept_updFdr
    | with_reducible apply kept_record
    | with_reducible apply kept_addWait
    | with_reducible refine Kept.fst (by assumption) ?_
    | with_reducible refine Kept.snd (by assumption) ?_
    | split
    | refine Kept.upd ?_ rfl rfl rfl rfl

theorem kept_closeAll {k0 s : State} {at' : Nat} {start : Nat} {step : Bool} (hk : Kept k0 s) :
    Kept k0 (closeAll s at' start step) := by
  unfold closeAll
  try dsimp only
  repeat' first
    | with_reducible assumption
    | with_reducible apply Kept.ite
    | with_reducible refine Kept.foldl ?_ fun _ _ _ => ?_
    | with_reducible apply kept_basUpd
    | with_reducible apply kept_closeIntv
    | with_reducible apply kept_openIntv
    | with_reducible refine Kept.fst (by assumption) ?_
    | with_reducible refine Kept.snd (by assumption) ?_
    | split
    | refine Kept.upd ?_ rfl rfl rfl rfl

theorem kept_execIntervalEnd {k0 s : State} (hk : Kept k0 s) :
    OutKept k0 (execIntervalEnd s) := by
  unfold execIntervalEnd
  try dsimp only
  repeat' first
    | with_reducible assumption
    | with_reducible refine OutKept.next ?_
    | with_reducible apply Kept.ite
    | with_reducible apply kept_rollOpen
    | with_reducible apply kept_closeAll
    | with_reducible apply kept_rollClose
    | with_reducible apply kept_basUpd
    | split
    | refine Kept.upd ?_ rfl rfl rfl rfl

theorem kept_basinStep {k0 s : State} {old : Nat} (hk : Kept k0 s) :
    Kept k0 (basinStep s old) := by
  unfold basinStep
  dsimp only
  exact kept_basUpd (Kept.ite ‹_› (kept_closeAll ‹_›))

theorem kept_intervalWrite {k0 s : State} {v : Nat} (hk : Kept k0 s) :
    Kept k0 (intervalWrite s v) := by
  unfold intervalWrite
  dsimp only
  exact Kept.ite (kept_setReg ‹_›) (kept_basUpd (kept_closeAll (kept_setReg (Kept.foldl ‹_› (fun _ _ _ => (kept_updIntv
    ‹_›))))))

theorem kept_commitBasin {k0 s : State} (hk : Kept k0 s) :
    Kept k0 (commitBasin s) := by
  unfold commitBasin
  dsimp only
  exact kept_count1 (kept_basUpd ‹_›)

theorem kept_execBasinCommit {k0 s : State} (hk : Kept k0 s) :
    OutKept k0 (execBasinCommit s) := by
  unfold execBasinCommit
  dsimp only
  exact OutKept.next (Kept.ite ‹_› (kept_commitBasin (kept_rollOpen (kept_rollClose (kept_basUpd ‹_›)))))

theorem kept_restoreBasin {k0 s : State} (hk : Kept k0 s) :
    Kept k0 (restoreBasin s) := by
  unfold restoreBasin
  dsimp only
  apply kept_emit
  apply Kept.ite
  apply kept_setErr
  apply kept_setFld
  split
  exact Kept.foldl ‹_› (fun _ _ _ => (kept_updFdr ‹_›))
  assumption
  apply Kept.ite
  apply kept_record
  apply kept_setErr
  apply kept_setFld
  split
  exact Kept.foldl ‹_› (fun _ _ _ => (kept_updFdr ‹_›))
  assumption
  apply kept_setFld
  split
  exact Kept.foldl ‹_› (fun _ _ _ => (kept_updFdr ‹_›))
  assumption

theorem kept_basinReset {k0 s : State} (hk : Kept k0 s) :
    Kept k0 (basinReset s) := by
  unfold basinReset
  exact kept_basUpd ‹_›

theorem kept_basinReport {k0 s : State} {n : Nat} {e1 : Nat} {t1 : Nat} {e2 : Nat} {t2 : Nat} (hk : Kept k0 s) :
    Kept k0 (basinReport s n e1 t1 e2 t2) := by
  unfold basinReport
  dsimp only
  exact Kept.ite (kept_basUpd ‹_›) (Kept.ite (Kept.ite (kept_count1 (Kept.ite (kept_count1 (kept_basUpd ‹_›)) (kept_basUpd
    ‹_›))) (Kept.ite (kept_count1 (kept_basUpd ‹_›)) (kept_basUpd ‹_›))) (kept_basUpd (Kept.ite (kept_count1 (Kept.ite
    (kept_count1 (kept_basUpd ‹_›)) (kept_basUpd ‹_›))) (Kept.ite (kept_count1 (kept_basUpd ‹_›)) (kept_basUpd ‹_›)))))

theorem kept_execReconciliationStart {k0 s : State} (hk : Kept k0 s) :
    OutKept k0 (execReconciliationStart s) := by
  unfold execReconciliationStart
  try dsimp only
  repeat' first
    | with_reducible assumption
    | with_reducible refine OutKept.next ?_
    | with_reducible apply Kept.ite
    | with_reducible apply kept_basUpd
    | with_reducible apply kept_setFlag
    | with_reducible refine Kept.fst (by assumption) ?_
    | with_reducible refine Kept.snd (by assumption) ?_
    | split
    | refine Kept.upd ?_ rfl rfl rfl rfl

theorem kept_execReconDone {k0 s : State} (hk : Kept k0 s) :
    OutKept k0 (execReconDone s) := by
  unfold execReconDone
  apply OutKept.next
  split
  assumption
  dsimp only
  exact kept_emit (kept_record (kept_countBy (kept_count1 (kept_setFlag (kept_basUpd ‹_›)))))

theorem kept_bodyBasTempTableLoad {k0 s : State} {c : Cmd} (hk : Kept k0 s) :
    WorkKept k0 (bodyBasTempTableLoad s c) := by
  unfold bodyBasTempTableLoad
  dsimp only
  apply wk_checkOps
  apply wk_readBuf
  assumption
  intro _
  apply wk_checkBuf
  apply wk_checkOps
  apply wk_checkBuf
  apply wk_stopIf
  apply wk_pure
  dsimp only
  exact kept_updIntv (kept_updChan ‹_›)

theorem kept_execBasTempTableLoad {k0 : State} {sq : Fin 16} {s : State} (hk : Kept k0 s) :
    OutKept k0 (execBasTempTableLoad sq s) := by
  unfold execBasTempTableLoad
  exact OutKept.next (kept_runRing ‹_› (fun _ _ _ => (kept_bodyBasTempTableLoad ‹_›)))

theorem kept_bodyBasValuesRead {k0 s : State} {c : Cmd} (hk : Kept k0 s) :
    WorkKept k0 (bodyBasValuesRead s c) := by
  unfold bodyBasValuesRead
  dsimp only
  apply wk_checkOps
  apply wk_stopIf
  apply wk_writeBuf
  assumption
  intro _
  intro _
  apply wk_pure
  dsimp only
  assumption

theorem kept_execBasValuesRead {k0 : State} {sq : Fin 16} {s : State} (hk : Kept k0 s) :
    OutKept k0 (execBasValuesRead sq s) := by
  unfold execBasValuesRead
  exact OutKept.next (kept_runRing ‹_› (fun _ _ _ => (kept_bodyBasValuesRead ‹_›)))

theorem kept_bodyBasEnergyRead {k0 s : State} {c : Cmd} (hk : Kept k0 s) :
    WorkKept k0 (bodyBasEnergyRead s c) := by
  unfold bodyBasEnergyRead
  apply wk_checkOps
  apply wk_writeBuf
  assumption
  intro _
  intro _
  apply wk_pure
  dsimp only
  assumption

theorem kept_execBasEnergyRead {k0 : State} {sq : Fin 16} {s : State} (hk : Kept k0 s) :
    OutKept k0 (execBasEnergyRead sq s) := by
  unfold execBasEnergyRead
  exact OutKept.next (kept_runRing ‹_› (fun _ _ _ => (kept_bodyBasEnergyRead ‹_›)))

theorem kept_bodyBasLanternSet {k0 s : State} {c : Cmd} (hk : Kept k0 s) :
    WorkKept k0 (bodyBasLanternSet s c) := by
  unfold bodyBasLanternSet
  dsimp only
  apply wk_checkOps
  apply wk_readBuf
  assumption
  intro _
  apply wk_checkBuf
  apply wk_pure
  dsimp only
  exact kept_basUpd ‹_›

theorem kept_execBasLanternSet {k0 : State} {sq : Fin 16} {s : State} (hk : Kept k0 s) :
    OutKept k0 (execBasLanternSet sq s) := by
  unfold execBasLanternSet
  exact OutKept.next (kept_runRing ‹_› (fun _ _ _ => (kept_bodyBasLanternSet ‹_›)))

theorem kept_bodyBasAllocRead {k0 s : State} {c : Cmd} (hk : Kept k0 s) :
    WorkKept k0 (bodyBasAllocRead s c) := by
  unfold bodyBasAllocRead
  dsimp only
  apply wk_checkOps
  split
  exact trivial
  apply wk_writeBuf
  assumption
  intro _
  intro _
  apply wk_pure
  dsimp only
  assumption

theorem kept_execBasAllocRead {k0 : State} {sq : Fin 16} {s : State} (hk : Kept k0 s) :
    OutKept k0 (execBasAllocRead sq s) := by
  unfold execBasAllocRead
  exact OutKept.next (kept_runRing ‹_› (fun _ _ _ => (kept_bodyBasAllocRead ‹_›)))

theorem kept_bodyBasReconRead {k0 s : State} {c : Cmd} (hk : Kept k0 s) :
    WorkKept k0 (bodyBasReconRead s c) := by
  unfold bodyBasReconRead
  apply wk_checkOps
  split
  exact trivial
  apply wk_writeBuf
  assumption
  intro _
  intro _
  apply wk_pure
  dsimp only
  assumption

theorem kept_execBasReconRead {k0 : State} {sq : Fin 16} {s : State} (hk : Kept k0 s) :
    OutKept k0 (execBasReconRead sq s) := by
  unfold execBasReconRead
  exact OutKept.next (kept_runRing ‹_› (fun _ _ _ => (kept_bodyBasReconRead ‹_›)))

end Sys2Proof.Laws
end

