-- ==== Sys2Proof/Laws/KeptCascade.lean ====
section
/-! SUPPORT. What the operations of Machine/Cascade.lean keep. -/

namespace Sys2Proof.Laws

open Sys2Proof.Machine

theorem kept_casUpd {k0 s : State} {f : CasSt → CasSt} (hk : Kept k0 s) :
    Kept k0 (casUpd s f) := by
  unfold casUpd
  exact .upd ‹_› rfl rfl rfl rfl

theorem kept_intakePut {k0 s : State} {e : PresEvent} (hk : Kept k0 s) :
    Kept k0 (intakePut s e) := by
  unfold intakePut
  exact Kept.ite (kept_casUpd ‹_›) (kept_setErr (kept_count1 (kept_casUpd ‹_›)))

theorem kept_holdItem {k0 s : State} {it : Item} (hk : Kept k0 s) :
    Kept k0 (holdItem s it) := by
  unfold holdItem
  dsimp only
  apply Kept.ite
  exact Kept.ite (kept_setFld (kept_casUpd ‹_›)) (kept_casUpd ‹_›)
  split
  assumption
  exact kept_setErr (kept_count1 (kept_casUpd ‹_›))

theorem kept_makeItem {k0 s : State} {v : Nat} {d : Nat} {eta : Nat} {t0 : Nat} {m : Nat} (hk : Kept k0 s) :
    Kept k0 (makeItem s v d eta t0 m) := by
  unfold makeItem
  dsimp only
  exact kept_holdItem (kept_count1 (kept_casUpd ‹_›))

theorem kept_spread {k0 s : State} {it : Item} {first : Nat} {nedge : Nat} (hk : Kept k0 s) :
    Kept k0 (spread s it first nedge) := by
  unfold spread
  apply Kept.foldl
  assumption
  intro _
  intro _
  intro _
  dsimp only
  exact Kept.ite (kept_makeItem ‹_›) ‹_›

theorem kept_arrive {k0 : State} {r : CasRun} {it : Item} (h : Kept k0 r.s) : Kept k0 (arrive r it).s := by
  unfold arrive
  dsimp only
  split
  · exact h
  · exact kept_spread (kept_casUpd h)

theorem kept_drainItems {k0 : State} {t budget fuel : Nat} {r : CasRun} (h : Kept k0 r.s) :
    Kept k0 (drainItems t budget fuel r).s := by
  induction fuel generalizing r with
  | zero => exact h
  | succ _ ih =>
    unfold drainItems
    split
    · exact h
    · dsimp only
      split
      · exact h
      · exact ih (kept_arrive (kept_count1 (kept_casUpd h)))

theorem kept_takeEvent {k0 : State} {s : State} {e : PresEvent} (h : Kept k0 s) : Kept k0 (takeEvent s e) := by
  unfold takeEvent
  dsimp only
  split
  · exact kept_setErr (kept_count1 h)
  · split
    · exact kept_makeItem (kept_count1 h)
    · exact kept_count1 h

theorem kept_takeBorder {k0 : State} {first : Nat} {s : State} {b : BorderItem} (hk : Kept k0 s) :
    Kept k0 (takeBorder first s b) := by
  unfold takeBorder
  dsimp only
  exact kept_makeItem (Kept.ite ‹_› (kept_setErr (kept_count1 ‹_›)))

theorem kept_sendBorders {k0 s : State} {t : Nat} {out : List (BorderLink × Item)} (hk : Kept k0 s) :
    Kept k0 (sendBorders s t out) := by
  unfold sendBorders
  dsimp only
  exact Kept.foldl ‹_› (fun _ _ _ => (Kept.foldl ‹_› (fun _ _ _ => (kept_countBy (kept_spanSend ‹_›)))))

theorem kept_casWipe {k0 s : State} (hk : Kept k0 s) :
    Kept k0 (casWipe s) := by
  unfold casWipe
  exact kept_casUpd ‹_›

theorem kept_actSettle {k0 s : State} (hk : Kept k0 s) :
    Kept k0 (actSettle s) := by
  unfold actSettle
  try dsimp only
  repeat' first
    | with_reducible assumption
    | with_reducible apply Kept.ite
    | with_reducible apply kept_setFlag
    | with_reducible apply kept_casUpd
    | split
    | refine Kept.upd ?_ rfl rfl rfl rfl

theorem kept_activateGraph {k0 s : State} {seq : Nat} (hk : Kept k0 s) :
    Kept k0 (activateGraph s seq) := by
  unfold activateGraph
  try dsimp only
  repeat' first
    | with_reducible assumption
    | with_reducible apply kept_casUpd
    | with_reducible apply kept_actSettle
    | with_reducible apply kept_completeConfigSeq
    | with_reducible apply kept_setFld
    | with_reducible apply kept_emitBy
    | with_reducible apply kept_ckWrite
    | refine Kept.upd ?_ rfl rfl rfl rfl

theorem kept_casSecond {k0 s : State} (hk : Kept k0 s) :
    Kept k0 (casSecond s) := by
  unfold casSecond
  dsimp only
  exact Kept.ite ‹_› (kept_casUpd (Kept.ite (kept_emit (Kept.ite (kept_emit ‹_›) ‹_›)) (Kept.ite (kept_emit ‹_›) ‹_›)))

theorem kept_casBegin {k0 s : State} (hk : Kept k0 s) :
    Kept k0 (casBegin s) := by
  unfold casBegin
  try dsimp only
  repeat' first
    | with_reducible assumption
    | with_reducible apply Kept.ite
    | with_reducible refine Kept.foldl ?_ fun _ _ _ => ?_
    | with_reducible apply kept_activateGraph
    | with_reducible apply kept_completeSeq
    | with_reducible apply kept_casUpd
    | with_reducible apply kept_casWipe
    | with_reducible refine Kept.fst (by assumption) ?_
    | with_reducible refine Kept.snd (by assumption) ?_
    | split
    | refine Kept.upd ?_ rfl rfl rfl rfl

theorem kept_casTake {k0 s : State} {first : Nat} (hk : Kept k0 s) :
    Kept k0 (casTake s first) := by
  unfold casTake
  dsimp only
  exact Kept.foldl (kept_casUpd (Kept.foldl (kept_casUpd ‹_›) (fun _ _ _ => (kept_takeBorder ‹_›)))) (fun _ _ _ =>
    (kept_takeEvent ‹_›))

theorem kept_casCarry {k0 s : State} {t : Nat} (hk : Kept k0 s) :
    Kept k0 (casCarry s t) := by
  unfold casCarry
  dsimp only
  exact Kept.ite ‹_› (kept_setErr (kept_countBy (kept_casUpd ‹_›)))

theorem kept_casShow {k0 s : State} {t : Nat} (hk : Kept k0 s) :
    Kept k0 (casShow s t) := by
  unfold casShow
  dsimp only
  exact kept_casUpd ‹_›

theorem kept_casWork {k0 s : State} {first : Nat} {t : Nat} {span : Nat} (hk : Kept k0 s) :
    Kept k0 (casWork s first t span) := by
  unfold casWork
  dsimp only
  apply kept_sendBorders
  apply kept_setFld
  apply Kept.ite
  apply kept_setFld
  apply kept_casShow
  apply kept_casCarry
  apply kept_drainItems
  dsimp only
  exact kept_casTake ‹_›
  apply kept_casShow
  apply kept_casCarry
  apply kept_drainItems
  dsimp only
  exact kept_casTake ‹_›

theorem kept_cascadeTick {k0 s : State} {first : Nat} {t : Nat} {span : Nat} (hk : Kept k0 s) :
    Kept k0 (cascadeTick s first t span) := by
  unfold cascadeTick
  apply Kept.ite
  assumption
  dsimp only
  exact Kept.ite (kept_casWork (kept_casBegin (kept_casSecond (Kept.ite (kept_casUpd (kept_casWipe ‹_›)) ‹_›)))) (kept_setFld
    (kept_casUpd (kept_casWipe (kept_casBegin (kept_casSecond (Kept.ite (kept_casUpd (kept_casWipe ‹_›)) ‹_›))))))

theorem kept_cascadeStep {k0 s : State} {d : Int} (hk : Kept k0 s) :
    Kept k0 (cascadeStep s d) := by
  unfold cascadeStep
  dsimp only
  exact kept_casUpd ‹_›

theorem kept_acceptBorder {k0 : State} {src : Nat} {s : State} {b : BorderItem} (hk : Kept k0 s) :
    Kept k0 (acceptBorder src s b) := by
  unfold acceptBorder
  exact Kept.ite (kept_casUpd (kept_count1 ‹_›)) (kept_setErr (kept_count1 ‹_›))

theorem kept_borderDemand {k0 s : State} {m : SpanMsg} (hk : Kept k0 s) :
    Kept k0 (borderDemand s m) := by
  unfold borderDemand
  exact Kept.foldl ‹_› (fun _ _ _ => (kept_acceptBorder ‹_›))

theorem kept_execBorderDemand {k0 : State} {p : Fin 4} {l : List Byte} {s : State} (hk : Kept k0 s) :
    OutKept k0 (execBorderDemand p l s) := by
  unfold execBorderDemand
  apply OutKept.next
  apply Kept.ite
  assumption
  split
  apply kept_borderDemand
  refine Kept.fst (by assumption) ?_
  exact kept_spanRx ‹_›
  refine Kept.fst (by assumption) ?_
  exact kept_spanRx ‹_›

theorem kept_bodyCasVertexLoad {k0 s : State} {c : Cmd} (hk : Kept k0 s) :
    WorkKept k0 (bodyCasVertexLoad s c) := by
  unfold bodyCasVertexLoad
  dsimp only
  apply wk_checkOps
  apply wk_readBuf
  assumption
  intro _
  apply wk_checkBuf
  apply wk_stopIf
  apply wk_pure
  dsimp only
  exact kept_casUpd ‹_›

theorem kept_execCasVertexLoad {k0 : State} {sq : Fin 16} {s : State} (hk : Kept k0 s) :
    OutKept k0 (execCasVertexLoad sq s) := by
  unfold execCasVertexLoad
  exact OutKept.next (kept_runRing ‹_› (fun _ _ _ => (kept_bodyCasVertexLoad ‹_›)))

theorem kept_bodyCasEdgeLoad {k0 s : State} {c : Cmd} (hk : Kept k0 s) :
    WorkKept k0 (bodyCasEdgeLoad s c) := by
  unfold bodyCasEdgeLoad
  dsimp only
  apply wk_checkOps
  apply wk_readBuf
  assumption
  intro _
  apply wk_checkBuf
  apply wk_stopIf
  apply wk_pure
  dsimp only
  exact kept_casUpd ‹_›

theorem kept_execCasEdgeLoad {k0 : State} {sq : Fin 16} {s : State} (hk : Kept k0 s) :
    OutKept k0 (execCasEdgeLoad sq s) := by
  unfold execCasEdgeLoad
  exact OutKept.next (kept_runRing ‹_› (fun _ _ _ => (kept_bodyCasEdgeLoad ‹_›)))

theorem kept_bodyCasStageSync {k0 s : State} {c : Cmd} (hk : Kept k0 s) :
    WorkKept k0 (bodyCasStageSync s c) := by
  unfold bodyCasStageSync
  apply wk_checkOps
  apply wk_stopIf
  apply wk_pure
  dsimp only
  exact kept_casUpd ‹_›

theorem kept_execCasStageSync {k0 : State} {sq : Fin 16} {s : State} (hk : Kept k0 s) :
    OutKept k0 (execCasStageSync sq s) := by
  unfold execCasStageSync
  exact OutKept.next (kept_runRing ‹_› (fun _ _ _ => (kept_bodyCasStageSync ‹_›)))

theorem kept_bodyCasGraphActivate {k0 s : State} {c : Cmd} (hk : Kept k0 s) :
    WorkKept k0 (bodyCasGraphActivate s c) := by
  unfold bodyCasGraphActivate
  apply wk_checkOps
  apply wk_stopIf
  split
  exact wk_ansIn (kept_setFld (kept_setFld (kept_setFld ‹_›)))
  apply wk_pure
  dsimp only
  exact kept_setFlag (kept_casUpd ‹_›)

theorem kept_execCasGraphActivate {k0 : State} {sq : Fin 16} {s : State} (hk : Kept k0 s) :
    OutKept k0 (execCasGraphActivate sq s) := by
  unfold execCasGraphActivate
  exact OutKept.next (kept_runRing ‹_› (fun _ _ _ => (kept_bodyCasGraphActivate ‹_›)))

theorem kept_bodyCasBorderSet {k0 s : State} {c : Cmd} (hk : Kept k0 s) :
    WorkKept k0 (bodyCasBorderSet s c) := by
  unfold bodyCasBorderSet
  dsimp only
  apply wk_checkOps
  apply wk_stopIf
  apply wk_pure
  dsimp only
  exact kept_casUpd ‹_›

theorem kept_execCasBorderSet {k0 : State} {sq : Fin 16} {s : State} (hk : Kept k0 s) :
    OutKept k0 (execCasBorderSet sq s) := by
  unfold execCasBorderSet
  exact OutKept.next (kept_runRing ‹_› (fun _ _ _ => (kept_bodyCasBorderSet ‹_›)))

theorem kept_bodyCasInject {k0 s : State} {c : Cmd} (hk : Kept k0 s) :
    WorkKept k0 (bodyCasInject s c) := by
  unfold bodyCasInject
  dsimp only
  apply wk_checkOps
  apply wk_stopIf
  apply wk_stopIf
  apply wk_pure
  dsimp only
  exact kept_intakePut ‹_›

theorem kept_execCasInject {k0 : State} {sq : Fin 16} {s : State} (hk : Kept k0 s) :
    OutKept k0 (execCasInject sq s) := by
  unfold execCasInject
  exact OutKept.next (kept_runRing ‹_› (fun _ _ _ => (kept_bodyCasInject ‹_›)))

theorem kept_bodyCasDemandRead {k0 s : State} {c : Cmd} (hk : Kept k0 s) :
    WorkKept k0 (bodyCasDemandRead s c) := by
  unfold bodyCasDemandRead
  dsimp only
  apply wk_checkOps
  apply wk_writeBuf
  assumption
  intro _
  intro _
  apply wk_pure
  dsimp only
  assumption

theorem kept_execCasDemandRead {k0 : State} {sq : Fin 16} {s : State} (hk : Kept k0 s) :
    OutKept k0 (execCasDemandRead sq s) := by
  unfold execCasDemandRead
  exact OutKept.next (kept_runRing ‹_› (fun _ _ _ => (kept_bodyCasDemandRead ‹_›)))

theorem kept_bodyCasGraphRead {k0 s : State} {c : Cmd} (hk : Kept k0 s) :
    WorkKept k0 (bodyCasGraphRead s c) := by
  unfold bodyCasGraphRead
  dsimp only
  apply wk_checkOps
  apply wk_writeBuf
  assumption
  intro _
  intro _
  apply wk_pure
  dsimp only
  assumption

theorem kept_execCasGraphRead {k0 : State} {sq : Fin 16} {s : State} (hk : Kept k0 s) :
    OutKept k0 (execCasGraphRead sq s) := by
  unfold execCasGraphRead
  exact OutKept.next (kept_runRing ‹_› (fun _ _ _ => (kept_bodyCasGraphRead ‹_›)))

theorem kept_bodyCasClear {k0 s : State} {c : Cmd} (hk : Kept k0 s) :
    WorkKept k0 (bodyCasClear s c) := by
  unfold bodyCasClear
  apply wk_checkOps
  apply wk_pure
  dsimp only
  exact kept_casUpd ‹_›

theorem kept_execCasClear {k0 : State} {sq : Fin 16} {s : State} (hk : Kept k0 s) :
    OutKept k0 (execCasClear sq s) := by
  unfold execCasClear
  exact OutKept.next (kept_runRing ‹_› (fun _ _ _ => (kept_bodyCasClear ‹_›)))

end Sys2Proof.Laws
end

