-- ==== Sys2Proof/Laws/KeptLanes.lean ====
section
/-! SUPPORT. What the operations of Machine/Lanes.lean keep. -/

namespace Sys2Proof.Laws

open Sys2Proof.Machine

theorem kept_bstUpd {k0 s : State} {f : BstSt → BstSt} (hk : Kept k0 s) :
    Kept k0 (bstUpd s f) := by
  unfold bstUpd
  exact .upd ‹_› rfl rfl rfl rfl

theorem kept_showDemods {k0 s : State} (hk : Kept k0 s) :
    Kept k0 (showDemods s) := by
  unfold showDemods
  dsimp only
  exact kept_setFld (kept_setFld ‹_›)

theorem kept_loseCas {k0 s : State} {t : Nat} (hk : Kept k0 s) :
    Kept k0 (loseCas s t) := by
  unfold loseCas
  apply Kept.ite
  exact kept_setFld (Kept.ite ‹_› (kept_bstUpd ‹_›))
  dsimp only
  split
  assumption
  exact kept_setErr (kept_setFld (kept_bstUpd (kept_casUpd ‹_›)))

theorem kept_loseWei {k0 s : State} {t : Nat} (hk : Kept k0 s) :
    Kept k0 (loseWei s t) := by
  unfold loseWei
  apply Kept.ite
  exact kept_setFld (Kept.ite ‹_› (kept_bstUpd ‹_›))
  apply Kept.ite
  assumption
  dsimp only
  exact kept_setErr (kept_setFld (kept_bstUpd ‹_›))

theorem kept_retireLane {k0 s : State} {t : Nat} (hk : Kept k0 s) :
    Kept k0 (retireLane s t) := by
  unfold retireLane
  apply Kept.ite
  assumption
  dsimp only
  exact kept_fault (kept_setErr (Kept.ite (kept_showDemods (kept_bstUpd ‹_›)) (Kept.ite (kept_loseCas (kept_bstUpd ‹_›))
    (kept_loseWei (kept_bstUpd ‹_›)))))

theorem kept_refFail {k0 s : State} {t : Nat} {dev : Int} (hk : Kept k0 s) :
    Kept k0 (refFail s t dev) := by
  unfold refFail
  exact kept_fault (kept_setErr ‹_›)

theorem kept_selfTest {k0 s : State} {failed : List (Nat × Int)} (hk : Kept k0 s) :
    Kept k0 (selfTest s failed) := by
  unfold selfTest
  dsimp only
  exact kept_setFld (Kept.foldl ‹_› (fun _ _ _ => (Kept.ite (kept_retireLane ‹_›) (kept_refFail ‹_›))))

end Sys2Proof.Laws
end

