-- ==== Sys2Proof/Laws/KeptCkpt.lean ====
section
/-! SUPPORT. What the operations of Machine/Ckpt.lean keep. -/

namespace Sys2Proof.Laws

open Sys2Proof.Machine

theorem kept_ckSave {k0 s : State} {off : Nat} (hk : Kept k0 s) :
    Kept k0 (ckSave s off) := by
  unfold ckSave
  dsimp only
  exact .upd ‹_› rfl rfl rfl rfl

theorem kept_ckLoad {k0 s : State} {p : Card → Bool} (hk : Kept k0 s) :
    Kept k0 (ckLoad s p) := by
  unfold ckLoad
  apply Kept.foldl
  assumption
  intro _
  intro _
  intro _
  split
  exact Kept.ite (kept_setReg ‹_›) ‹_›
  assumption

end Sys2Proof.Laws
end

