-- ==== Sys2Proof/Laws/KeptKeys.lean ====
section
/-! SUPPORT. What the operations of Machine/Keys.lean keep. -/

namespace Sys2Proof.Laws

open Sys2Proof.Machine

theorem kept_pufClear {k0 s : State} (hk : Kept k0 s) :
    Kept k0 (pufClear s) := by
  unfold pufClear
  exact Kept.ite (kept_setFlag (kept_setFld (kept_keyUpd ‹_› (fun _ => rfl)))) (kept_setErr ‹_›)

theorem kept_execPufClear {k0 s : State} (hk : Kept k0 s) :
    OutKept k0 (execPufClear s) := by
  unfold execPufClear
  exact OutKept.next (Kept.ite (kept_pufClear ‹_›) (kept_pdAccess ‹_›))

theorem kept_keyMsgStart {k0 s : State} {m : KeyMsg} {seq : Nat} (hk : Kept k0 s) :
    Kept k0 (keyMsgStart s m seq) := by
  unfold keyMsgStart
  try dsimp only
  repeat' first
    | with_reducible assumption
    | with_reducible apply Kept.ite
    | with_reducible apply kept_otpBurn
    | with_reducible refine kept_keyUpd ?_ fun _ => rfl
    | split
    | refine Kept.upd ?_ rfl rfl rfl rfl

theorem kept_keyDone {k0 s0 : State} {j : KeyJob} (hk : Kept k0 s0) :
    Kept k0 (keyDone s0 j) := by
  unfold keyDone
  try dsimp only
  repeat' first
    | with_reducible assumption
    | with_reducible apply Kept.ite
    | with_reducible apply kept_otpShow
    | with_reducible apply kept_completeSeq
    | with_reducible apply kept_keyAudit
    | with_reducible apply kept_count1
    | with_reducible apply kept_emitBy
    | split

theorem kept_keyStage {k0 s : State} {j : KeyJob} {g : KeyStage} (hk : Kept k0 s) :
    Kept k0 (keyStage s j g) := by
  cases g with
  | store => exact kept_storeWrite (Kept.ite (kept_setSlot ‹_›) (kept_setSlot ‹_›))
  | hash => exact Kept.ite ‹_› (kept_otpBurn ‹_›)
  | revoke => exact kept_otpBurn ‹_›
  | config => exact kept_otpBurn ‹_›
  | pend => exact kept_lcBegin ‹_›
  | burn => exact kept_lcBurn ‹_›
  | zeroise =>
    show Kept k0 (match s.key.lcPend with | some p => _ | none => s)
    split
    · exact kept_keyUpd (kept_lcZeroise ‹_›) fun _ => rfl
    · assumption
  | lcRecord =>
    show Kept k0 (match s.key.lcPend with | some p => _ | none => s)
    split
    · exact kept_lcRecord ‹_›
    · assumption
  | lcEvent => exact kept_emitBy ‹_›
  | record => exact kept_recWrite ‹_›
  | crc => exact kept_recClose ‹_›
  | done => exact kept_keyDone ‹_›

theorem kept_keyStep {k0 s : State} (hk : Kept k0 s) :
    Kept k0 (keyStep s) := by
  unfold keyStep
  split
  · assumption
  · split
    · assumption
    · exact kept_keyUpd (kept_keyStage ‹_›) fun _ => rfl

theorem kept_keyMsgFail {k0 s : State} {m : KeyMsg} {a : Answer} (hk : Kept k0 s) :
    Kept k0 (keyMsgFail s m a) := by
  unfold keyMsgFail
  exact kept_keyAudit (kept_setErr (kept_count1 ‹_›))

theorem kept_bodyKeyUpdate {k0 s : State} {burnOk : Bool} {c : Cmd} (hk : Kept k0 s) :
    WorkKept k0 (bodyKeyUpdate burnOk s c) := by
  unfold bodyKeyUpdate
  try dsimp only
  repeat' first
    | with_reducible assumption
    | with_reducible apply Kept.ite
    | with_reducible apply kept_keyMsgFail
    | with_reducible apply kept_setErr
    | with_reducible apply kept_keyMsgStart
    | with_reducible refine Kept.fst (by assumption) ?_
    | with_reducible refine Kept.snd (by assumption) ?_
    | with_reducible apply wk_checkOps
    | with_reducible refine wk_readBuf ?_ fun _ => ?_
    | with_reducible apply wk_ansIn
    | with_reducible apply wk_pure
    | with_reducible apply wk_ite
    | split

theorem kept_execKeyUpdate {k0 : State} {sq : Fin 16} {burnOk : Bool} {s : State} (hk : Kept k0 s) :
    OutKept k0 (execKeyUpdate sq burnOk s) := by
  unfold execKeyUpdate
  exact OutKept.next (kept_runRing ‹_› (fun _ _ _ => (kept_bodyKeyUpdate ‹_›)))

theorem kept_hostUse {k0 s : State} {c : Cmd} {usage : Nat} (hk : Kept k0 s) :
    ExKept k0 (fun v => Kept k0 v.1) (hostUse s c usage) := by
  unfold hostUse
  dsimp only
  split
  · exact trivial
  · split
    · exact trivial
    · exact kept_remask (kept_count1 ‹_›)

theorem kept_bodyKeyInfo {k0 s : State} {c : Cmd} (hk : Kept k0 s) :
    WorkKept k0 (bodyKeyInfo s c) := by
  unfold bodyKeyInfo
  apply wk_checkOps
  dsimp only
  apply wk_writeBuf
  assumption
  intro _
  intro _
  apply wk_pure
  dsimp only
  assumption

theorem kept_execKeyInfo {k0 : State} {sq : Fin 16} {s : State} (hk : Kept k0 s) :
    OutKept k0 (execKeyInfo sq s) := by
  unfold execKeyInfo
  exact OutKept.next (kept_runRing ‹_› (fun _ _ _ => (kept_bodyKeyInfo ‹_›)))

theorem kept_bodyKeyCipher {k0 s : State} {c : Cmd} (hk : Kept k0 s) :
    WorkKept k0 (bodyKeyCipher s c) := by
  unfold bodyKeyCipher
  dsimp only
  apply wk_checkOps
  apply wk_readBuf
  assumption
  intro _
  refine wk_bind (kept_hostUse ?_) ?_
  assumption
  intro _
  intro _
  apply wk_ite
  split
  exact wk_ansIn ‹_›
  apply wk_writeBuf
  assumption
  intro _
  intro _
  apply wk_pure
  dsimp only
  assumption
  apply wk_writeBuf
  assumption
  intro _
  intro _
  apply wk_pure
  dsimp only
  assumption

theorem kept_execKeyCipher {k0 : State} {sq : Fin 16} {s : State} (hk : Kept k0 s) :
    OutKept k0 (execKeyCipher sq s) := by
  unfold execKeyCipher
  exact OutKept.next (kept_runRing ‹_› (fun _ _ _ => (kept_bodyKeyCipher ‹_›)))

theorem kept_bodyKeyMac {k0 s : State} {c : Cmd} (hk : Kept k0 s) :
    WorkKept k0 (bodyKeyMac s c) := by
  unfold bodyKeyMac
  dsimp only
  apply wk_checkOps
  apply wk_readBuf
  assumption
  intro _
  refine wk_bind (kept_hostUse ?_) ?_
  assumption
  intro _
  intro _
  apply wk_writeBuf
  assumption
  intro _
  intro _
  apply wk_pure
  dsimp only
  assumption

theorem kept_execKeyMac {k0 : State} {sq : Fin 16} {s : State} (hk : Kept k0 s) :
    OutKept k0 (execKeyMac sq s) := by
  unfold execKeyMac
  exact OutKept.next (kept_runRing ‹_› (fun _ _ _ => (kept_bodyKeyMac ‹_›)))

theorem kept_bodyKeySign {k0 s : State} {c : Cmd} (hk : Kept k0 s) :
    WorkKept k0 (bodyKeySign s c) := by
  unfold bodyKeySign
  refine wk_checkOps (wk_readBuf ‹_› fun _ => wk_bind (kept_hostUse ‹_›) fun v hv => ?_)
  exact wk_writeBuf (kept_random hv) fun _ h => wk_pure h

theorem kept_execKeySign {k0 : State} {sq : Fin 16} {s : State} (hk : Kept k0 s) :
    OutKept k0 (execKeySign sq s) := by
  unfold execKeySign
  exact OutKept.next (kept_runRing ‹_› (fun _ _ _ => (kept_bodyKeySign ‹_›)))

theorem kept_bodyKeyVerify {k0 s : State} {c : Cmd} (hk : Kept k0 s) :
    WorkKept k0 (bodyKeyVerify s c) := by
  unfold bodyKeyVerify
  apply wk_checkOps
  apply wk_readBuf
  assumption
  intro _
  refine wk_bind (kept_hostUse ?_) ?_
  assumption
  intro _
  intro _
  split
  apply wk_ite
  apply wk_pure
  dsimp only
  assumption
  exact wk_ansIn ‹_›

theorem kept_execKeyVerify {k0 : State} {sq : Fin 16} {s : State} (hk : Kept k0 s) :
    OutKept k0 (execKeyVerify sq s) := by
  unfold execKeyVerify
  exact OutKept.next (kept_runRing ‹_› (fun _ _ _ => (kept_bodyKeyVerify ‹_›)))

theorem kept_bodyKeyDerive {k0 s : State} {c : Cmd} (hk : Kept k0 s) :
    WorkKept k0 (bodyKeyDerive s c) := by
  unfold bodyKeyDerive
  dsimp only
  apply wk_checkOps
  apply wk_readBuf
  assumption
  intro _
  refine wk_bind (kept_hostUse ?_) ?_
  assumption
  intro _
  intro _
  apply wk_writeBuf
  assumption
  intro _
  intro _
  apply wk_pure
  dsimp only
  assumption

theorem kept_execKeyDerive {k0 : State} {sq : Fin 16} {s : State} (hk : Kept k0 s) :
    OutKept k0 (execKeyDerive sq s) := by
  unfold execKeyDerive
  exact OutKept.next (kept_runRing ‹_› (fun _ _ _ => (kept_bodyKeyDerive ‹_›)))

theorem kept_bodyKeyRandom {k0 s : State} {c : Cmd} (hk : Kept k0 s) :
    WorkKept k0 (bodyKeyRandom s c) := by
  unfold bodyKeyRandom
  try dsimp only
  repeat' first
    | with_reducible assumption
    | with_reducible apply kept_random
    | with_reducible apply kept_count1
    | with_reducible refine Kept.fst (by assumption) ?_
    | with_reducible refine Kept.snd (by assumption) ?_
    | with_reducible apply wk_checkOps
    | with_reducible refine wk_writeBuf ?_ fun _ _ => ?_
    | with_reducible apply wk_pure
    | split

theorem kept_execKeyRandom {k0 : State} {sq : Fin 16} {s : State} (hk : Kept k0 s) :
    OutKept k0 (execKeyRandom sq s) := by
  unfold execKeyRandom
  exact OutKept.next (kept_runRing ‹_› (fun _ _ _ => (kept_bodyKeyRandom ‹_›)))

theorem kept_bodyKeyIdentity {k0 s : State} {c : Cmd} (hk : Kept k0 s) :
    WorkKept k0 (bodyKeyIdentity s c) := by
  unfold bodyKeyIdentity
  apply wk_checkOps
  apply wk_writeBuf
  assumption
  intro _
  intro _
  apply wk_pure
  dsimp only
  assumption

theorem kept_execKeyIdentity {k0 : State} {sq : Fin 16} {s : State} (hk : Kept k0 s) :
    OutKept k0 (execKeyIdentity sq s) := by
  unfold execKeyIdentity
  exact OutKept.next (kept_runRing ‹_› (fun _ _ _ => (kept_bodyKeyIdentity ‹_›)))

theorem kept_bodyKeyTkExport {k0 s : State} {c : Cmd} (hk : Kept k0 s) :
    WorkKept k0 (bodyKeyTkExport s c) := by
  unfold bodyKeyTkExport
  apply wk_checkOps
  apply wk_stopIf
  apply wk_stopIf
  apply wk_writeBuf
  exact kept_keyAudit ‹_›
  intro _
  intro _
  apply wk_pure
  dsimp only
  assumption

theorem kept_execKeyTkExport {k0 : State} {sq : Fin 16} {s : State} (hk : Kept k0 s) :
    OutKept k0 (execKeyTkExport sq s) := by
  unfold execKeyTkExport
  exact OutKept.next (kept_runRing ‹_› (fun _ _ _ => (kept_bodyKeyTkExport ‹_›)))

theorem kept_bodyKeyScrap {k0 s : State} {burnOk : Bool} {c : Cmd} (hk : Kept k0 s) :
    WorkKept k0 (bodyKeyScrap burnOk s c) := by
  unfold bodyKeyScrap
  try dsimp only
  repeat' first
    | with_reducible assumption
    | with_reducible apply Kept.ite
    | with_reducible refine kept_keyUpd ?_ fun _ => rfl
    | with_reducible apply kept_setErr
    | with_reducible apply wk_stopIf
    | with_reducible apply wk_checkOps
    | with_reducible apply wk_ansIn
    | with_reducible apply wk_pure
    | with_reducible apply wk_ite
    | split
    | refine Kept.upd ?_ rfl rfl rfl rfl

theorem kept_execKeyScrap {k0 : State} {sq : Fin 16} {burnOk : Bool} {s : State} (hk : Kept k0 s) :
    OutKept k0 (execKeyScrap sq burnOk s) := by
  unfold execKeyScrap
  exact OutKept.next (kept_runRing ‹_› (fun _ _ _ => (kept_bodyKeyScrap ‹_›)))

theorem kept_bodyOtpRead {k0 s : State} {c : Cmd} (hk : Kept k0 s) :
    WorkKept k0 (bodyOtpRead s c) := by
  unfold bodyOtpRead
  dsimp only
  apply wk_checkOps
  apply wk_writeBuf
  assumption
  intro _
  intro _
  apply wk_pure
  dsimp only
  assumption

theorem kept_execOtpRead {k0 : State} {sq : Fin 16} {s : State} (hk : Kept k0 s) :
    OutKept k0 (execOtpRead sq s) := by
  unfold execOtpRead
  exact OutKept.next (kept_runRing ‹_› (fun _ _ _ => (kept_bodyOtpRead ‹_›)))

theorem kept_bodyCisSecClear {k0 s : State} {c : Cmd} (hk : Kept k0 s) :
    WorkKept k0 (bodyCisSecClear s c) := by
  unfold bodyCisSecClear
  try dsimp only
  repeat' first
    | with_reducible assumption
    | with_reducible apply Kept.ite
    | with_reducible apply kept_useRefused
    | with_reducible apply kept_cisUpd
    | with_reducible apply kept_record
    | with_reducible apply kept_remask
    | with_reducible refine Kept.fst (by assumption) ?_
    | with_reducible refine Kept.snd (by assumption) ?_
    | with_reducible apply wk_stopIf
    | with_reducible apply wk_checkOps
    | with_reducible refine wk_readBuf ?_ fun _ => ?_
    | with_reducible apply wk_ansIn
    | with_reducible exact wk_ans
    | with_reducible apply wk_pure
    | with_reducible apply wk_ite
    | split
    | refine Kept.upd ?_ rfl rfl rfl rfl

theorem kept_execCisSecClear {k0 : State} {sq : Fin 16} {s : State} (hk : Kept k0 s) :
    OutKept k0 (execCisSecClear sq s) := by
  unfold execCisSecClear
  exact OutKept.next (kept_runRing ‹_› (fun _ _ _ => (kept_bodyCisSecClear ‹_›)))

end Sys2Proof.Laws
end

