-- ==== Sys2Proof/Laws/KeptWeir.lean ====
section
/-! SUPPORT. What the operations of Machine/Weir.lean keep. -/

namespace Sys2Proof.Laws

open Sys2Proof.Machine

theorem kept_weirUpd {k0 s : State} {f : WeirSt → WeirSt} (hk : Kept k0 s) :
    Kept k0 (weirUpd s f) := by
  unfold weirUpd
  exact .upd ‹_› rfl rfl rfl rfl

theorem kept_setLoop {k0 s : State} {n : Nat} {l : Loop} (hk : Kept k0 s) :
    Kept k0 (setLoop s n l) := by
  unfold setLoop
  exact kept_weirUpd ‹_›

theorem kept_updLoop {k0 s : State} {n : Nat} {f : Loop → Loop} (hk : Kept k0 s) :
    Kept k0 (updLoop s n f) := by
  unfold updLoop
  exact kept_setLoop ‹_›

theorem kept_drivePwm {k0 s : State} (hk : Kept k0 s) :
    Kept k0 (drivePwm s) := by
  unfold drivePwm
  exact kept_drivePad (kept_drivePad (kept_drivePad ‹_›))

theorem kept_showFast {k0 s : State} {n : Nat} (hk : Kept k0 s) :
    Kept k0 (showFast s n) := by
  unfold showFast
  exact Kept.ite (kept_setFld ‹_›) ‹_›

theorem kept_applyDests {k0 s : State} {due : List Nat} (hk : Kept k0 s) :
    Kept k0 (applyDests s due) := by
  unfold applyDests
  dsimp only
  apply kept_drivePwm
  apply Kept.foldl
  assumption
  intro _
  intro _
  intro _
  split
  apply Kept.ite
  split
  exact kept_weirUpd (kept_showFast ‹_›)
  exact kept_showFast ‹_›
  exact kept_showFast ‹_›
  exact kept_showFast ‹_›

theorem kept_countLoops {k0 s : State} (hk : Kept k0 s) :
    Kept k0 (countLoops s) := by
  unfold countLoops
  dsimp only
  exact kept_setFld (kept_setFld ‹_›)

theorem kept_groupApply {k0 s : State} {g : Nat} (hk : Kept k0 s) :
    Kept k0 (groupApply s g) := by
  unfold groupApply
  dsimp only
  exact kept_weirUpd (Kept.foldl ‹_› (fun _ _ _ => (kept_updLoop ‹_›)))

theorem kept_groupsDue {k0 s : State} {due : List Nat} (hk : Kept k0 s) :
    Kept k0 (groupsDue s due) := by
  unfold groupsDue
  apply Kept.foldl
  assumption
  intro _
  intro _
  intro _
  dsimp only
  exact Kept.ite (kept_groupApply ‹_›) ‹_›

theorem kept_weirEvent {k0 s : State} {code : Nat} {n : Nat} {tail : List Byte} (hk : Kept k0 s) :
    Kept k0 (weirEvent s code n tail) := by
  unfold weirEvent
  exact kept_emit ‹_›

theorem kept_injEnd {k0 s : State} {reason : Nat} (hk : Kept k0 s) :
    Kept k0 (injEnd s reason) := by
  unfold injEnd
  split
  assumption
  exact kept_emitOutcome (kept_setFlag (kept_weirUpd ‹_›))

theorem kept_injStep {k0 s : State} {n : Nat} (hk : Kept k0 s) :
    Kept k0 (injStep s n) := by
  unfold injStep
  split
  assumption
  dsimp only
  exact Kept.ite (kept_injEnd (kept_weirUpd ‹_›)) (kept_weirUpd ‹_›)

theorem kept_disableLoop {k0 s : State} {n : Nat} (hk : Kept k0 s) :
    Kept k0 (disableLoop s n) := by
  unfold disableLoop
  apply Kept.ite
  dsimp only
  exact kept_applyDests (kept_countLoops (Kept.ite (kept_injEnd (kept_updLoop ‹_›)) (kept_updLoop ‹_›)))
  assumption

theorem kept_loopFault {k0 s : State} {n : Nat} {sec : Nat} (hk : Kept k0 s) :
    Kept k0 (loopFault s n sec) := by
  unfold loopFault
  dsimp only
  exact kept_disableLoop (kept_weirEvent (kept_count1 (kept_setErr (kept_ckTables (kept_updLoop ‹_›)))))

theorem kept_syncSlow {k0 s : State} (hk : Kept k0 s) :
    Kept k0 (syncSlow s) := by
  unfold syncSlow
  apply Kept.foldl
  assumption
  intro _
  intro _
  intro _
  split
  exact Kept.ite ‹_› (kept_updLoop ‹_›)
  assumption

theorem kept_startFast {k0 s : State} (hk : Kept k0 s) :
    Kept k0 (startFast s) := by
  unfold startFast
  dsimp only
  exact Kept.foldl (kept_weirUpd ‹_›) (fun _ _ _ => (Kept.ite (kept_updLoop ‹_›) ‹_›))

theorem kept_startLoop {k0 s : State} {n : Nat} {manual : Bool} {init : Nat} (hk : Kept k0 s) :
    Kept k0 (startLoop s n manual init) := by
  unfold startLoop
  dsimp only
  split
  assumption
  exact kept_countLoops (kept_setLoop ‹_›)

theorem kept_holdLoop {k0 s : State} {n : Nat} {cause : Nat} (hk : Kept k0 s) :
    Kept k0 (holdLoop s n cause) := by
  unfold holdLoop
  dsimp only
  exact Kept.ite (kept_injEnd (Kept.ite ‹_› (kept_weirEvent (kept_count1 (kept_setErr (kept_updLoop ‹_›)))))) (Kept.ite ‹_›
    (kept_weirEvent (kept_count1 (kept_setErr (kept_updLoop ‹_›)))))

theorem kept_regionStep {k0 s : State} {n : Nat} {d : LoopDesc} {sv : Option Nat} (hk : Kept k0 s) :
    Kept k0 (regionStep s n d sv).1 := by
  unfold regionStep
  dsimp only
  split
  dsimp only
  assumption
  apply Kept.ite1
  dsimp only
  assumption
  dsimp only
  exact Kept.ite (kept_weirEvent (kept_weirUpd (kept_setLoop (kept_count1 ‹_›)))) (kept_weirUpd (kept_setLoop (kept_count1
    ‹_›)))

theorem kept_passOne {k0 : State} {src : State} {s : State} {n : Nat} (_hk : Kept k0 src) (hk1 : Kept k0 s) :
    Kept k0 (passOne src s n).1 := by
  unfold passOne
  split
  dsimp only
  split
  dsimp only
  assumption
  split
  dsimp only
  exact kept_holdLoop (kept_setLoop ‹_›)
  apply Kept.ite1
  dsimp only
  exact kept_loopFault (Kept.ite (kept_weirEvent (kept_setLoop ‹_›)) (kept_setLoop ‹_›))
  split
  dsimp only
  exact kept_loopFault (kept_regionStep (Kept.ite (kept_weirEvent (kept_setLoop ‹_›)) (kept_setLoop ‹_›)))
  dsimp only
  exact kept_regionStep (Kept.ite (kept_weirEvent (kept_setLoop ‹_›)) (kept_setLoop ‹_›))

theorem kept_competeIn {k0 : State} {ps : List Pass} {a : State × List (Nat × Nat)} {g : Nat} (hk : Kept k0 a.1) :
    Kept k0 (competeIn ps a g).1 := by
  unfold competeIn
  dsimp only
  split
  assumption
  dsimp only
  exact kept_weirUpd (Kept.foldl (Kept.ite (kept_count1 ‹_›) ‹_›) (fun _ _ _ => (kept_updLoop ‹_›)))

theorem kept_passTwo {k0 : State} {used : List (Nat × Nat)} {s : State} {p : Pass} (hk : Kept k0 s) :
    Kept k0 (passTwo used s p) := by
  unfold passTwo
  dsimp only
  split
  assumption
  split
  exact kept_loopFault (kept_updLoop ‹_›)
  exact Kept.ite (kept_count1 (kept_setLoop ‹_›)) (kept_setLoop ‹_›)

theorem kept_capEnd {k0 s : State} {stopped : Nat} (hk : Kept k0 s) :
    Kept k0 (capEnd s stopped) := by
  unfold capEnd
  exact kept_emitOutcome (kept_setFld (kept_weirUpd ‹_›))

theorem kept_capture {k0 s : State} {ps : List Pass} {rep : List Nat} (hk : Kept k0 s) :
    Kept k0 (capture s ps rep) := by
  unfold capture
  apply Kept.ite
  assumption
  dsimp only
  exact Kept.ite (kept_capEnd (kept_setFld (Kept.ite (kept_setFld (kept_weirUpd ‹_›)) (kept_weirUpd ‹_›)))) (kept_setFld
    (Kept.ite (kept_setFld (kept_weirUpd ‹_›)) (kept_weirUpd ‹_›)))

theorem kept_mirrorSlow {k0 s : State} {l : List Nat} (hk : Kept k0 s) :
    Kept k0 (mirrorSlow s l) := by
  unfold mirrorSlow
  apply Kept.foldl
  assumption
  intro _
  intro _
  intro _
  dsimp only
  exact kept_mirror ‹_›

theorem kept_weirBatch {k0 s : State} {due : List Nat} {late : List Nat} (hk : Kept k0 s) :
    Kept k0 (weirBatch s due late) := by
  unfold weirBatch
  dsimp only
  apply kept_mirrorSlow
  apply kept_applyDests
  apply Kept.foldl
  apply kept_capture
  apply Kept.foldl
  apply Kept.foldl1
  dsimp only
  apply Kept.foldl1
  dsimp only
  exact Kept.foldl (kept_groupsDue ‹_›) (fun _ _ _ => (kept_setErr (kept_count1 ‹_›)))
  intro _
  intro _
  intro _
  dsimp only
  exact kept_passOne (kept_groupsDue ‹_›) ‹_›
  exact fun _ _ _ => (kept_competeIn ‹_›)
  exact fun _ _ _ => (kept_passTwo ‹_›)
  exact fun _ _ _ => (kept_injStep ‹_›)

theorem kept_execSlowSample {k0 : State} {conv : List Word} {late : List (Fin 4096)} {s : State} (hk : Kept k0 s) :
    OutKept k0 (execSlowSample conv late s) := by
  unfold execSlowSample
  apply OutKept.next
  apply Kept.ite
  assumption
  dsimp only
  exact Kept.ite ‹_› (kept_weirBatch (Kept.foldl (kept_setAin ‹_›) (fun _ _ _ => (kept_updLoop ‹_›))))

theorem kept_execFastSample {k0 : State} {x : FastIn} {late : List (Fin 16)} {s : State} (hk : Kept k0 s) :
    OutKept k0 (execFastSample x late s) := by
  unfold execFastSample
  apply OutKept.next
  apply Kept.ite
  assumption
  split
  assumption
  dsimp only
  exact Kept.ite ‹_› (kept_weirBatch (.upd (kept_setFld (Kept.foldl (kept_setAin ‹_›) (fun _ _ _ => (kept_updLoop ‹_›)))) rfl
    rfl rfl rfl))

theorem kept_weirStart {k0 s : State} (hk : Kept k0 s) :
    Kept k0 (weirStart s) := by
  unfold weirStart
  apply Kept.foldl
  assumption
  intro _
  intro _
  intro _
  split
  exact Kept.ite (kept_startLoop ‹_›) ‹_›
  assumption

theorem kept_weirTakeover {k0 s : State} (hk : Kept k0 s) :
    Kept k0 (weirTakeover s) := by
  unfold weirTakeover
  apply kept_syncSlow
  apply Kept.foldl
  assumption
  intro _
  intro _
  intro _
  split
  assumption
  exact Kept.ite (kept_disableLoop ‹_›) (Kept.ite (kept_startLoop ‹_›) (Kept.ite ‹_› (kept_startLoop ‹_›)))

theorem kept_weirReset {k0 s : State} (hk : Kept k0 s) :
    Kept k0 (weirReset s) := by
  unfold weirReset
  dsimp only
  exact kept_weirUpd (Kept.foldl ‹_› (fun _ _ _ => (kept_groupApply ‹_›)))

theorem kept_bodyWeiLoopLoad {k0 s : State} {c : Cmd} (hk : Kept k0 s) :
    WorkKept k0 (bodyWeiLoopLoad s c) := by
  unfold bodyWeiLoopLoad
  dsimp only
  apply wk_checkOps
  apply wk_readBuf
  assumption
  intro _
  apply wk_checkBuf
  apply wk_checkOps
  apply wk_checkBuf
  apply wk_stopIf
  apply wk_pure
  dsimp only
  exact kept_updLoop ‹_›

theorem kept_execWeiLoopLoad {k0 : State} {sq : Fin 16} {s : State} (hk : Kept k0 s) :
    OutKept k0 (execWeiLoopLoad sq s) := by
  unfold execWeiLoopLoad
  exact OutKept.next (kept_runRing ‹_› (fun _ _ _ => (kept_bodyWeiLoopLoad ‹_›)))

theorem kept_bodyWeiLoopEnable {k0 s : State} {c : Cmd} (hk : Kept k0 s) :
    WorkKept k0 (bodyWeiLoopEnable s c) := by
  unfold bodyWeiLoopEnable
  dsimp only
  apply wk_checkOps
  split
  exact trivial
  apply wk_stopIf
  apply wk_pure
  dsimp only
  exact kept_causedBy ‹_› (Kept.ite (kept_disableLoop (kept_updLoop ‹_›)) (Kept.ite (kept_updLoop (kept_updLoop ‹_›))
    (kept_startLoop (kept_updLoop ‹_›))))

theorem kept_execWeiLoopEnable {k0 : State} {sq : Fin 16} {s : State} (hk : Kept k0 s) :
    OutKept k0 (execWeiLoopEnable sq s) := by
  unfold execWeiLoopEnable
  exact OutKept.next (kept_runRing ‹_› (fun _ _ _ => (kept_bodyWeiLoopEnable ‹_›)))

theorem kept_bodyWeiCoefSet {k0 s : State} {c : Cmd} (hk : Kept k0 s) :
    WorkKept k0 (bodyWeiCoefSet s c) := by
  unfold bodyWeiCoefSet
  dsimp only
  apply wk_checkOps
  apply wk_readBuf
  assumption
  intro _
  apply wk_stopIf
  apply wk_checkBuf
  apply wk_pure
  dsimp only
  exact kept_setLoop ‹_›

theorem kept_execWeiCoefSet {k0 : State} {sq : Fin 16} {s : State} (hk : Kept k0 s) :
    OutKept k0 (execWeiCoefSet sq s) := by
  unfold execWeiCoefSet
  exact OutKept.next (kept_runRing ‹_› (fun _ _ _ => (kept_bodyWeiCoefSet ‹_›)))

theorem kept_bodyWeiGroupSet {k0 s : State} {c : Cmd} (hk : Kept k0 s) :
    WorkKept k0 (bodyWeiGroupSet s c) := by
  unfold bodyWeiGroupSet
  dsimp only
  apply wk_checkOps
  apply wk_stopIf
  apply wk_stopIf
  apply wk_pure
  dsimp only
  exact kept_groupsDue (kept_weirUpd ‹_›)

theorem kept_execWeiGroupSet {k0 : State} {sq : Fin 16} {s : State} (hk : Kept k0 s) :
    OutKept k0 (execWeiGroupSet sq s) := by
  unfold execWeiGroupSet
  exact OutKept.next (kept_runRing ‹_› (fun _ _ _ => (kept_bodyWeiGroupSet ‹_›)))

theorem kept_bodyWeiInject {k0 s : State} {c : Cmd} (hk : Kept k0 s) :
    WorkKept k0 (bodyWeiInject s c) := by
  unfold bodyWeiInject
  dsimp only
  apply wk_checkOps
  apply wk_readBuf
  assumption
  intro _
  apply wk_checkOps
  apply wk_checkBuf
  apply wk_stopIf
  apply wk_stopIf
  apply wk_pure
  dsimp only
  exact kept_setFld (kept_setFlag (kept_weirUpd ‹_›))

theorem kept_execWeiInject {k0 : State} {sq : Fin 16} {s : State} (hk : Kept k0 s) :
    OutKept k0 (execWeiInject sq s) := by
  unfold execWeiInject
  exact OutKept.next (kept_runRing ‹_› (fun _ _ _ => (kept_bodyWeiInject ‹_›)))

theorem kept_bodyWeiInjectStop {k0 s : State} {c : Cmd} (hk : Kept k0 s) :
    WorkKept k0 (bodyWeiInjectStop s c) := by
  unfold bodyWeiInjectStop
  apply wk_checkOps
  apply wk_stopIf
  apply wk_pure
  dsimp only
  exact kept_causedBy ‹_› (kept_injEnd ‹_›)

theorem kept_execWeiInjectStop {k0 : State} {sq : Fin 16} {s : State} (hk : Kept k0 s) :
    OutKept k0 (execWeiInjectStop sq s) := by
  unfold execWeiInjectStop
  exact OutKept.next (kept_runRing ‹_› (fun _ _ _ => (kept_bodyWeiInjectStop ‹_›)))

theorem kept_bodyWeiCaptureSet {k0 s : State} {c : Cmd} (hk : Kept k0 s) :
    WorkKept k0 (bodyWeiCaptureSet s c) := by
  unfold bodyWeiCaptureSet
  apply wk_checkOps
  apply wk_readBuf
  assumption
  intro _
  dsimp only
  apply wk_checkBuf
  apply wk_stopIf
  apply wk_pure
  dsimp only
  exact kept_setFld (kept_setFld (kept_weirUpd ‹_›))

theorem kept_execWeiCaptureSet {k0 : State} {sq : Fin 16} {s : State} (hk : Kept k0 s) :
    OutKept k0 (execWeiCaptureSet sq s) := by
  unfold execWeiCaptureSet
  exact OutKept.next (kept_runRing ‹_› (fun _ _ _ => (kept_bodyWeiCaptureSet ‹_›)))

theorem kept_bodyWeiCaptureRead {k0 s : State} {c : Cmd} (hk : Kept k0 s) :
    WorkKept k0 (bodyWeiCaptureRead s c) := by
  unfold bodyWeiCaptureRead
  dsimp only
  apply wk_checkOps
  apply wk_stopIf
  apply wk_writeBuf
  assumption
  intro _
  intro _
  apply wk_pure
  dsimp only
  assumption

theorem kept_execWeiCaptureRead {k0 : State} {sq : Fin 16} {s : State} (hk : Kept k0 s) :
    OutKept k0 (execWeiCaptureRead sq s) := by
  unfold execWeiCaptureRead
  exact OutKept.next (kept_runRing ‹_› (fun _ _ _ => (kept_bodyWeiCaptureRead ‹_›)))

theorem kept_bodyWeiLoopRead {k0 s : State} {c : Cmd} (hk : Kept k0 s) :
    WorkKept k0 (bodyWeiLoopRead s c) := by
  unfold bodyWeiLoopRead
  apply wk_checkOps
  apply wk_writeBuf
  assumption
  intro _
  intro _
  apply wk_pure
  dsimp only
  assumption

theorem kept_execWeiLoopRead {k0 : State} {sq : Fin 16} {s : State} (hk : Kept k0 s) :
    OutKept k0 (execWeiLoopRead sq s) := by
  unfold execWeiLoopRead
  exact OutKept.next (kept_runRing ‹_› (fun _ _ _ => (kept_bodyWeiLoopRead ‹_›)))

theorem kept_bodyWeiCaptureStop {k0 s : State} {c : Cmd} (hk : Kept k0 s) :
    WorkKept k0 (bodyWeiCaptureStop s c) := by
  unfold bodyWeiCaptureStop
  apply wk_checkOps
  apply wk_stopIf
  apply wk_pure
  dsimp only
  exact kept_causedBy ‹_› (kept_capEnd ‹_›)

theorem kept_execWeiCaptureStop {k0 : State} {sq : Fin 16} {s : State} (hk : Kept k0 s) :
    OutKept k0 (execWeiCaptureStop sq s) := by
  unfold execWeiCaptureStop
  exact OutKept.next (kept_runRing ‹_› (fun _ _ _ => (kept_bodyWeiCaptureStop ‹_›)))

end Sys2Proof.Laws
end

