-- ==== Sys2Proof/Laws/KeptFountain.lean ====
section
/-! SUPPORT. What the operations of Machine/Fountain.lean keep. -/

namespace Sys2Proof.Laws

open Sys2Proof.Machine

theorem kept_ftnUpd {k0 s : State} {f : FtnSt → FtnSt} (hk : Kept k0 s) :
    Kept k0 (ftnUpd s f) := by
  unfold ftnUpd
  exact .upd ‹_› rfl rfl rfl rfl

theorem kept_setJet {k0 s : State} {j : Nat} {x : Jet} (hk : Kept k0 s) :
    Kept k0 (setJet s j x) := by
  unfold setJet
  dsimp only
  exact kept_setFld (kept_setFld (kept_setFld (kept_ftnUpd ‹_›)))

theorem kept_driveSinks {k0 s : State} (hk : Kept k0 s) :
    Kept k0 (driveSinks s) := by
  unfold driveSinks
  apply Kept.foldl
  assumption
  intro _
  intro _
  intro _
  split
  exact kept_drivePad ‹_›

theorem kept_outputsCheck {k0 s : State} (hk : Kept k0 s) :
    Kept k0 (outputsCheck s) := by
  unfold outputsCheck
  exact Kept.ite (kept_driveSinks ‹_›) (kept_driveSinks (kept_drivePad (kept_ftnUpd ‹_›)))

theorem kept_takePins {k0 s : State} {pins : List (Fin 16 × Nat)} (hk : Kept k0 s) :
    Kept k0 (takePins s pins) := by
  unfold takePins
  exact kept_ftnUpd ‹_›

theorem kept_latchSink {k0 s : State} {k : Nat} {fcode : Nat} {detail : Nat} {fs : List RF} (hk : Kept k0 s) :
    Kept k0 (latchSink s k fcode detail fs) := by
  unfold latchSink
  exact kept_driveSinks (kept_fault (kept_setErr (Kept.foldl ‹_› (fun _ _ _ => (kept_setFlag ‹_›)))))

theorem kept_execOpenString {k0 : State} {n : Fin 16} {s : State} (hk : Kept k0 s) :
    OutKept k0 (execOpenString n s) := by
  unfold execOpenString
  exact OutKept.next (Kept.ite (kept_latchSink ‹_›) ‹_›)

theorem kept_execLedShort {k0 : State} {n : Fin 16} {s : State} (hk : Kept k0 s) :
    OutKept k0 (execLedShort n s) := by
  unfold execLedShort
  dsimp only
  exact OutKept.next (Kept.ite (kept_latchSink ‹_›) ‹_›)

theorem kept_execOvertemp {k0 : State} {g : Fin 4} {t : Int} {s : State} (hk : Kept k0 s) :
    OutKept k0 (execOvertemp g t s) := by
  unfold execOvertemp
  dsimp only
  exact OutKept.next (Kept.ite ‹_› (Kept.ite (Kept.foldl ‹_› (fun _ _ _ => (Kept.ite ‹_› (kept_latchSink ‹_›)))) (Kept.ite
    (kept_driveSinks (Kept.foldl ‹_› (fun _ _ _ => (Kept.ite (kept_fault (kept_setFlag ‹_›)) ‹_›)))) ‹_›)))

theorem kept_driveTest {k0 s : State} {k : Nat} {on : Bool} (hk : Kept k0 s) :
    Kept k0 (driveTest s k on) := by
  unfold driveTest
  exact kept_drivePad ‹_›

theorem kept_pinTestDrive {k0 s : State} {k : Nat} (hk : Kept k0 s) :
    Kept k0 (pinTestDrive s k) := by
  unfold pinTestDrive
  dsimp only
  exact kept_driveSinks (kept_driveTest (kept_driveTest (kept_driveTest (kept_driveTest (kept_driveTest ‹_›)))))

theorem kept_execPinTest {k0 : State} {low : Bool} {s : State} (hk : Kept k0 s) :
    OutKept k0 (execPinTest low s) := by
  unfold execPinTest
  dsimp only
  apply OutKept.next
  apply Kept.ite
  assumption
  apply Kept.ite
  assumption
  split
  exact kept_ftnUpd (Kept.ite (kept_ftnUpd ‹_›) ‹_›)
  exact Kept.ite (kept_latchSink (kept_pinTestDrive (kept_ftnUpd (Kept.ite (kept_ftnUpd ‹_›) ‹_›)))) (kept_pinTestDrive
    (kept_ftnUpd (Kept.ite (kept_ftnUpd ‹_›) ‹_›)))

theorem kept_execBoostPeriod {k0 : State} {vsense : Nat} {csCut : Option (BitVec 16)} {vmaxCut : Option (BitVec 16)} {s :
  State} (hk : Kept k0 s) :
    OutKept k0 (execBoostPeriod vsense csCut vmaxCut s) := by
  unfold execBoostPeriod
  apply OutKept.next
  apply Kept.ite
  assumption
  dsimp only
  exact kept_drivePad (Kept.ite (kept_count1 (Kept.ite (kept_count1 (kept_setFlag (kept_setFlag (kept_setFld (kept_ftnUpd
    ‹_›))))) (kept_setFlag (kept_setFlag (kept_setFld (kept_ftnUpd ‹_›)))))) (Kept.ite (kept_count1 (kept_setFlag
    (kept_setFlag (kept_setFld (kept_ftnUpd ‹_›))))) (kept_setFlag (kept_setFlag (kept_setFld (kept_ftnUpd ‹_›))))))

theorem kept_solveFix {k0 s : State} {n : Nat} {f : Fixture} {t : Nat × Nat × Nat} (hk : Kept k0 s) :
    Kept k0 (solveFix s n f t).1 := by
  unfold solveFix
  dsimp only
  split
  apply Kept.ite1
  dsimp only
  exact kept_setErr (kept_count1 (kept_ftnUpd (kept_count1 ‹_›)))
  apply Kept.ite1
  dsimp only
  exact kept_ftnUpd (kept_count1 ‹_›)
  dsimp only
  exact .upd (kept_ftnUpd (kept_count1 ‹_›)) rfl rfl rfl rfl
  dsimp only
  exact kept_setErr (kept_count1 (kept_ftnUpd (kept_count1 ‹_›)))

theorem kept_execFixtureTempUpdate {k0 s : State} (hk : Kept k0 s) :
    OutKept k0 (execFixtureTempUpdate s) := by
  unfold execFixtureTempUpdate
  dsimp only
  apply OutKept.next
  apply Kept.ite
  assumption
  apply Kept.foldl
  exact kept_ftnUpd ‹_›
  intro _
  intro _
  intro _
  split
  split
  exact kept_solveFix ‹_›
  assumption
  assumption

theorem kept_stopJet {k0 s : State} {j : Nat} {cause : Nat} (hk : Kept k0 s) :
    Kept k0 (stopJet s j cause) := by
  unfold stopJet
  dsimp only
  exact kept_emit (kept_setJet ‹_›)

theorem kept_jetFixtures {k0 s : State} {p : JetProg} {x : Jet} (hk : Kept k0 s) :
    Kept k0 (jetFixtures s p x) := by
  unfold jetFixtures
  apply Kept.ite
  assumption
  apply Kept.foldl
  assumption
  intro _
  intro _
  intro _
  split
  assumption
  dsimp only
  apply kept_solveFix
  split
  split
  dsimp only
  assumption
  dsimp only
  exact .upd ‹_› rfl rfl rfl rfl
  dsimp only
  assumption

theorem kept_runJet {k0 s : State} {j : Nat} (hk : Kept k0 s) :
    Kept k0 (runJet s j) := by
  unfold runJet
  dsimp only
  split
  assumption
  apply Kept.ite
  assumption
  split
  exact kept_stopJet (kept_setJet ‹_›)
  exact kept_jetFixtures (kept_setJet ‹_›)

theorem kept_beginJet {k0 s : State} {j : Nat} (hk : Kept k0 s) :
    Kept k0 (beginJet s j) := by
  unfold beginJet
  dsimp only
  exact Kept.ite (kept_setJet ‹_›) ‹_›

theorem kept_updFlb {k0 s : State} {p : Nat} {f : FlbSt → FlbSt} (hk : Kept k0 s) :
    Kept k0 (updFlb s p f) := by
  unfold updFlb
  exact kept_ftnUpd ‹_›

theorem kept_busFault {k0 s : State} {p : Nat} {a : Nat} {status : Nat} (hk : Kept k0 s) :
    Kept k0 (busFault s p a status) := by
  unfold busFault
  exact Kept.ite ‹_› (kept_fault (kept_setErr (kept_updFlb ‹_›)))

theorem kept_busMiss {k0 s : State} {p : Nat} {a : Nat} (hk : Kept k0 s) :
    Kept k0 (busMiss s p a) := by
  unfold busMiss
  dsimp only
  exact Kept.ite (kept_busFault (kept_updFlb ‹_›)) (kept_updFlb ‹_›)

theorem kept_busTimeout {k0 s : State} {p : Nat} (hk : Kept k0 s) :
    Kept k0 (busTimeout s p) := by
  unfold busTimeout
  split
  exact kept_busMiss (kept_count1 ‹_›)
  assumption

theorem kept_execStatus {k0 : State} {p : Fin 2} {frame : Option (List Byte)} {s : State} (hk : Kept k0 s) :
    OutKept k0 (execStatus p frame s) := by
  unfold execStatus
  apply OutKept.next
  split
  assumption
  exact kept_busTimeout ‹_›
  dsimp only
  exact Kept.ite (kept_busMiss (kept_count1 ‹_›)) (Kept.ite (Kept.ite (kept_updFlb ‹_›) (kept_busFault (kept_updFlb ‹_›)))
    (kept_busMiss ‹_›))

theorem kept_sendFlb {k0 s : State} {p : Nat} {b : List Byte} (hk : Kept k0 s) :
    Kept k0 (sendFlb s p b) := by
  unfold sendFlb
  try dsimp only
  repeat' first
    | with_reducible assumption
    | with_reducible apply kept_sendLine

theorem kept_sendDriver {k0 s : State} {p : Nat} {d : Nat} (hk : Kept k0 s) :
    Kept k0 (sendDriver p s d) := by
  unfold sendDriver
  try dsimp only
  repeat' first
    | with_reducible assumption
    | with_reducible refine Kept.foldl ?_ fun _ _ _ => ?_
    | with_reducible apply kept_sendFlb
    | with_reducible apply kept_ftnUpd
    | refine Kept.upd ?_ rfl rfl rfl rfl

theorem kept_addressedFrame {k0 s0 : State} {p : Nat} (hk : Kept k0 s0) :
    Kept k0 (addressedFrame s0 p) := by
  unfold addressedFrame
  try dsimp only
  repeat' first
    | with_reducible assumption
    | with_reducible apply Kept.ite
    | with_reducible refine Kept.foldl ?_ fun _ _ _ => ?_
    | with_reducible apply kept_busTimeout
    | with_reducible apply kept_sendFlb
    | with_reducible apply kept_sendDriver
    | with_reducible apply kept_updFlb
    | split
    | refine Kept.upd ?_ rfl rfl rfl rfl

theorem kept_portFrame {k0 s : State} {p : Nat} (hk : Kept k0 s) :
    Kept k0 (portFrame s p) := by
  unfold portFrame
  try dsimp only
  repeat' first
    | with_reducible assumption
    | with_reducible apply Kept.ite
    | with_reducible apply kept_addressedFrame
    | with_reducible apply kept_sendFlb
    | split

theorem kept_latchSinks {k0 s : State} (hk : Kept k0 s) :
    Kept k0 (latchSinks s) := by
  unfold latchSinks
  exact kept_ftnUpd ‹_›

theorem kept_execSuperframe {k0 : State} {pins : List (Fin 16 × Nat)} {s : State} (hk : Kept k0 s) :
    OutKept k0 (execSuperframe pins s) := by
  unfold execSuperframe
  dsimp only
  exact OutKept.next (Kept.ite ‹_› (Kept.foldl (Kept.foldl (Kept.ite (kept_portFrame (kept_portFrame (kept_driveSinks
    (kept_ftnUpd (kept_latchSinks (kept_takePins (kept_ftnUpd ‹_›))))))) (kept_driveSinks (kept_ftnUpd (kept_latchSinks
    (kept_takePins (kept_ftnUpd ‹_›)))))) (fun _ _ _ => (kept_beginJet ‹_›))) (fun _ _ _ => (kept_runJet ‹_›))))

theorem kept_autostart {k0 s : State} (hk : Kept k0 s) :
    Kept k0 (autostart s) := by
  unfold autostart
  apply Kept.foldl
  assumption
  intro _
  intro _
  intro _
  split
  exact Kept.ite (kept_setJet ‹_›) ‹_›
  assumption

theorem kept_ftnReset {k0 s : State} (hk : Kept k0 s) :
    Kept k0 (ftnReset s) := by
  unfold ftnReset
  dsimp only
  exact kept_driveSinks (Kept.foldl (Kept.foldl (kept_ftnUpd ‹_›) (fun _ _ _ => (Kept.foldl ‹_› (fun _ _ _ => (kept_setFlag
    ‹_›))))) (fun _ _ _ => (kept_setJet ‹_›)))

theorem kept_bodyFtnFixtureLoad {k0 s : State} {c : Cmd} (hk : Kept k0 s) :
    WorkKept k0 (bodyFtnFixtureLoad s c) := by
  unfold bodyFtnFixtureLoad
  dsimp only
  apply wk_checkOps
  apply wk_readBuf
  assumption
  intro _
  apply wk_checkBuf
  apply wk_stopIf
  apply wk_stopIf
  apply wk_pure
  dsimp only
  exact kept_ftnUpd ‹_›

theorem kept_execFtnFixtureLoad {k0 : State} {sq : Fin 16} {s : State} (hk : Kept k0 s) :
    OutKept k0 (execFtnFixtureLoad sq s) := by
  unfold execFtnFixtureLoad
  exact OutKept.next (kept_runRing ‹_› (fun _ _ _ => (kept_bodyFtnFixtureLoad ‹_›)))

theorem kept_bodyFtnFixtureSet {k0 s : State} {c : Cmd} (hk : Kept k0 s) :
    WorkKept k0 (bodyFtnFixtureSet s c) := by
  unfold bodyFtnFixtureSet
  dsimp only
  apply wk_checkOps
  apply wk_stopIf
  split
  exact trivial
  apply wk_pure
  dsimp only
  exact kept_solveFix ‹_›

theorem kept_execFtnFixtureSet {k0 : State} {sq : Fin 16} {s : State} (hk : Kept k0 s) :
    OutKept k0 (execFtnFixtureSet sq s) := by
  unfold execFtnFixtureSet
  exact OutKept.next (kept_runRing ‹_› (fun _ _ _ => (kept_bodyFtnFixtureSet ‹_›)))

theorem kept_bodyFtnChanSet {k0 s : State} {c : Cmd} (hk : Kept k0 s) :
    WorkKept k0 (bodyFtnChanSet s c) := by
  unfold bodyFtnChanSet
  dsimp only
  apply wk_checkOps
  apply wk_stopIf
  apply wk_pure
  dsimp only
  exact kept_ftnUpd ‹_›

theorem kept_execFtnChanSet {k0 : State} {sq : Fin 16} {s : State} (hk : Kept k0 s) :
    OutKept k0 (execFtnChanSet sq s) := by
  unfold execFtnChanSet
  exact OutKept.next (kept_runRing ‹_› (fun _ _ _ => (kept_bodyFtnChanSet ‹_›)))

theorem kept_bodyFtnColorSet {k0 s : State} {c : Cmd} (hk : Kept k0 s) :
    WorkKept k0 (bodyFtnColorSet s c) := by
  unfold bodyFtnColorSet
  apply wk_checkOps
  apply wk_pure
  dsimp only
  exact kept_ftnUpd ‹_›

theorem kept_execFtnColorSet {k0 : State} {sq : Fin 16} {s : State} (hk : Kept k0 s) :
    OutKept k0 (execFtnColorSet sq s) := by
  unfold execFtnColorSet
  exact OutKept.next (kept_runRing ‹_› (fun _ _ _ => (kept_bodyFtnColorSet ‹_›)))

theorem kept_bodyFtnJetLoad {k0 s : State} {c : Cmd} (hk : Kept k0 s) :
    WorkKept k0 (bodyFtnJetLoad s c) := by
  unfold bodyFtnJetLoad
  dsimp only
  apply wk_checkOps
  apply wk_readBuf
  assumption
  intro _
  apply wk_checkBuf
  apply wk_checkOps
  apply wk_checkBuf
  apply wk_stopIf
  apply wk_pure
  dsimp only
  exact kept_setJet ‹_›

theorem kept_execFtnJetLoad {k0 : State} {sq : Fin 16} {s : State} (hk : Kept k0 s) :
    OutKept k0 (execFtnJetLoad sq s) := by
  unfold execFtnJetLoad
  exact OutKept.next (kept_runRing ‹_› (fun _ _ _ => (kept_bodyFtnJetLoad ‹_›)))

theorem kept_bodyFtnJetStart {k0 s : State} {c : Cmd} (hk : Kept k0 s) :
    WorkKept k0 (bodyFtnJetStart s c) := by
  unfold bodyFtnJetStart
  dsimp only
  apply wk_checkOps
  split
  exact trivial
  apply wk_stopIf
  apply wk_stopIf
  apply wk_pure
  dsimp only
  exact kept_setJet ‹_›

theorem kept_execFtnJetStart {k0 : State} {sq : Fin 16} {s : State} (hk : Kept k0 s) :
    OutKept k0 (execFtnJetStart sq s) := by
  unfold execFtnJetStart
  exact OutKept.next (kept_runRing ‹_› (fun _ _ _ => (kept_bodyFtnJetStart ‹_›)))

theorem kept_bodyFtnJetStop {k0 s : State} {c : Cmd} (hk : Kept k0 s) :
    WorkKept k0 (bodyFtnJetStop s c) := by
  unfold bodyFtnJetStop
  dsimp only
  apply wk_checkOps
  apply wk_stopIf
  apply wk_pure
  dsimp only
  exact kept_emitBy (kept_setJet ‹_›)

theorem kept_execFtnJetStop {k0 : State} {sq : Fin 16} {s : State} (hk : Kept k0 s) :
    OutKept k0 (execFtnJetStop sq s) := by
  unfold execFtnJetStop
  exact OutKept.next (kept_runRing ‹_› (fun _ _ _ => (kept_bodyFtnJetStop ‹_›)))

theorem kept_bodyFtnJetEvent {k0 s : State} {c : Cmd} (hk : Kept k0 s) :
    WorkKept k0 (bodyFtnJetEvent s c) := by
  unfold bodyFtnJetEvent
  dsimp only
  apply wk_checkOps
  apply wk_stopIf
  apply wk_pure
  dsimp only
  exact kept_setJet ‹_›

theorem kept_execFtnJetEvent {k0 : State} {sq : Fin 16} {s : State} (hk : Kept k0 s) :
    OutKept k0 (execFtnJetEvent sq s) := by
  unfold execFtnJetEvent
  exact OutKept.next (kept_runRing ‹_› (fun _ _ _ => (kept_bodyFtnJetEvent ‹_›)))

theorem kept_bodyFtnFaultClear {k0 s : State} {c : Cmd} (hk : Kept k0 s) :
    WorkKept k0 (bodyFtnFaultClear s c) := by
  unfold bodyFtnFaultClear
  dsimp only
  apply wk_checkOps
  apply wk_ite
  apply wk_stopIf
  apply wk_pure
  dsimp only
  exact kept_driveSinks (Kept.foldl ‹_› (fun _ _ _ => (kept_setFlag ‹_›)))
  apply wk_stopIf
  apply wk_pure
  dsimp only
  exact kept_updFlb ‹_›

theorem kept_execFtnFaultClear {k0 : State} {sq : Fin 16} {s : State} (hk : Kept k0 s) :
    OutKept k0 (execFtnFaultClear sq s) := by
  unfold execFtnFaultClear
  exact OutKept.next (kept_runRing ‹_› (fun _ _ _ => (kept_bodyFtnFaultClear ‹_›)))

end Sys2Proof.Laws
end

