-- ==== Sys2Proof/Laws/KeptStreet.lean ====
section
/-! SUPPORT. What the operations of Machine/Street.lean keep. -/

namespace Sys2Proof.Laws

open Sys2Proof.Machine

theorem kept_fireStep {k0 s : State} {f : Fired} {cause : Nat} {dt : Nat} (hk : Kept k0 s) :
    Kept k0 (fireStep s f cause dt) := by
  unfold fireStep
  dsimp only
  exact kept_emit (kept_streetUpd ‹_›)

theorem kept_stepsSeen {k0 s : State} (hk : Kept k0 s) :
    Kept k0 (stepsSeen s) := by
  unfold stepsSeen
  try dsimp only
  repeat' first
    | with_reducible assumption
    | with_reducible apply kept_streetUpd
    | refine Kept.upd ?_ rfl rfl rfl rfl

theorem kept_fireAmbient {k0 s : State} {f : Fired} {cause : Nat} {dt : Nat} (hk : Kept k0 s) :
    Kept k0 (fireAmbient s f cause dt) := by
  unfold fireAmbient
  dsimp only
  exact Kept.ite ‹_› (kept_fireStep (Kept.ite (kept_setErr (kept_streetUpd ‹_›)) (kept_streetUpd ‹_›)))

theorem kept_fireCrossed {k0 s : State} {cause : Nat} (hk : Kept k0 s) :
    Kept k0 (fireCrossed s cause) := by
  unfold fireCrossed
  try dsimp only
  repeat' first
    | with_reducible assumption
    | with_reducible apply Kept.ite
    | with_reducible refine Kept.foldl ?_ fun _ _ _ => ?_
    | with_reducible apply kept_fireAmbient
    | with_reducible apply kept_fireStep
    | with_reducible apply kept_stepsSeen
    | split

theorem kept_fireSteps {k0 s : State} (hk : Kept k0 s) :
    Kept k0 (fireSteps s) := by
  unfold fireSteps
  try dsimp only
  repeat' first
    | with_reducible assumption
    | with_reducible apply kept_fireCrossed

theorem kept_execStepFired {k0 s : State} (hk : Kept k0 s) :
    OutKept k0 (execStepFired s) := by
  unfold execStepFired
  exact OutKept.next (Kept.ite (kept_fireSteps ‹_›) (kept_streetUpd ‹_›))

theorem kept_execAmbientStepFire {k0 s : State} (hk : Kept k0 s) :
    OutKept k0 (execAmbientStepFire s) := by
  unfold execAmbientStepFire
  try dsimp only
  repeat' first
    | with_reducible assumption
    | with_reducible refine OutKept.next ?_
    | with_reducible apply Kept.ite
    | with_reducible refine Kept.foldl ?_ fun _ _ _ => ?_
    | with_reducible apply kept_fireAmbient
    | with_reducible apply kept_fireSteps
    | with_reducible apply kept_stepsSeen
    | split

theorem kept_ambientReport {k0 s : State} {n : Nat} {lux : Nat} (hk : Kept k0 s) :
    Kept k0 (ambientReport s n lux) := by
  unfold ambientReport
  dsimp only
  exact Kept.foldl (kept_macUpd ‹_›) (fun _ _ _ => (Kept.ite (kept_streetUpd ‹_›) ‹_›))

theorem kept_takeForce {k0 s : State} {pr : Nat} (hk : Kept k0 s) :
    Kept k0 (takeForce s pr) := by
  unfold takeForce
  exact kept_streetUpd ‹_›

theorem kept_updCommit {k0 s : State} {id : Nat} {f : CommitEnt → CommitEnt} (hk : Kept k0 s) :
    Kept k0 (updCommit s id f) := by
  unfold updCommit
  dsimp only
  split
  exact kept_mirror (kept_streetUpd ‹_›)
  exact kept_streetUpd ‹_›

theorem kept_planWindow {k0 s : State} {c : CommitEnt} {t : Nat} (hk : Kept k0 s) :
    Kept k0 (planWindow s c t) := by
  unfold planWindow
  dsimp only
  exact kept_macUpd (kept_streetUpd ‹_›)

theorem kept_queueCommit {k0 s : State} {c : CommitEnt} {n : Nat} (hk : Kept k0 s) :
    Kept k0 (queueCommit s c n) := by
  unfold queueCommit
  exact Kept.ite (kept_queueDl ‹_›) ‹_›

theorem kept_oweCommits {k0 s : State} {n : Nat} {p : CommitEnt → Bool} (hk : Kept k0 s) :
    Kept k0 (oweCommits s n p) := by
  unfold oweCommits
  try dsimp only
  repeat' first
    | with_reducible assumption
    | with_reducible refine Kept.foldl ?_ fun _ _ _ => ?_
    | with_reducible apply kept_queueCommit

theorem kept_owedCommits {k0 s : State} {n : Nat} (hk : Kept k0 s) :
    Kept k0 (owedCommits s n) := by
  unfold owedCommits
  exact Kept.foldl ‹_› (fun _ _ _ => (kept_queueCommit ‹_›))

theorem kept_planCommits {k0 s : State} (hk : Kept k0 s) :
    Kept k0 (planCommits s) := by
  unfold planCommits
  try dsimp only
  repeat' first
    | with_reducible assumption
    | with_reducible refine Kept.foldl ?_ fun _ _ _ => ?_
    | with_reducible apply kept_planWindow
    | with_reducible apply kept_queueCommit
    | with_reducible apply kept_macUpd
    | refine Kept.upd ?_ rfl rfl rfl rfl

theorem kept_issueId {k0 s : State} (hk : Kept k0 s) :
    Kept k0 (issueId s) := by
  unfold issueId
  exact kept_streetUpd ‹_›

theorem kept_acceptCommit {k0 s : State} {kind : Nat} {group : Nat} {policy : Nat} {actDt : Nat} {all : Bool} {body : List
  Byte} {ref : Option CmdRef} (hk : Kept k0 s) :
    Kept k0 (acceptCommit s kind group policy actDt all body ref).1 := by
  unfold acceptCommit
  dsimp only
  exact Kept.foldl (Kept.foldl (kept_mirror (kept_record (kept_streetUpd (kept_issueId ‹_›)))) (fun _ _ _ => (kept_planWindow
    ‹_›))) (fun _ _ _ => (kept_queueCommit ‹_›))

theorem kept_execCommit {k0 s : State} (hk : Kept k0 s) :
    OutKept k0 (execCommit s) := by
  unfold execCommit
  apply OutKept.next
  split
  refine Kept.fst (by assumption) ?_
  apply Kept.ite1
  exact kept_takeWin ‹_›
  dsimp only
  assumption
  split
  refine Kept.fst (by assumption) ?_
  apply Kept.ite1
  exact kept_takeWin ‹_›
  dsimp only
  assumption
  dsimp only
  apply Kept.ite
  apply Kept.ite
  apply kept_streetUpd
  apply kept_updCommit
  apply kept_count1
  apply Kept.ite1
  apply kept_sendBroadcast
  refine Kept.fst (by assumption) ?_
  apply Kept.ite1
  exact kept_takeWin ‹_›
  dsimp only
  assumption
  dsimp only
  refine Kept.fst (by assumption) ?_
  apply Kept.ite1
  exact kept_takeWin ‹_›
  dsimp only
  assumption
  apply kept_updCommit
  apply kept_count1
  apply Kept.ite1
  apply kept_sendBroadcast
  refine Kept.fst (by assumption) ?_
  apply Kept.ite1
  exact kept_takeWin ‹_›
  dsimp only
  assumption
  dsimp only
  refine Kept.fst (by assumption) ?_
  apply Kept.ite1
  exact kept_takeWin ‹_›
  dsimp only
  assumption
  apply Kept.ite1
  apply kept_sendBroadcast
  refine Kept.fst (by assumption) ?_
  apply Kept.ite1
  exact kept_takeWin ‹_›
  dsimp only
  assumption
  dsimp only
  refine Kept.fst (by assumption) ?_
  apply Kept.ite1
  exact kept_takeWin ‹_›
  dsimp only
  assumption

theorem kept_dropCommitElems {k0 s : State} {id : Nat} (hk : Kept k0 s) :
    Kept k0 (dropCommitElems s id) := by
  unfold dropCommitElems
  apply Kept.foldl
  assumption
  intro _
  intro _
  intro _
  dsimp only
  exact Kept.ite (kept_setEp ‹_›) ‹_›

theorem kept_levelDue {k0 s : State} {c : CommitEnt} (hk : Kept k0 s) :
    Kept k0 (levelDue s c) := by
  unfold levelDue
  dsimp only
  exact Kept.foldl ‹_› (fun _ _ _ => (Kept.ite (kept_streetUpd (kept_updEnt (kept_setEp ‹_›))) ‹_›))

theorem kept_timingDue {k0 s : State} {c : CommitEnt} (hk : Kept k0 s) :
    Kept k0 (timingDue s c) := by
  unfold timingDue
  exact kept_ckTables (kept_streetUpd ‹_›)

theorem kept_commitDue {k0 s : State} {c : CommitEnt} (hk : Kept k0 s) :
    Kept k0 (commitDue s c) := by
  unfold commitDue
  dsimp only
  exact Kept.ite (kept_levelDue (kept_macUpd (kept_updCommit (kept_dropCommitElems ‹_›)))) (Kept.ite (kept_timingDue
    (kept_macUpd (kept_updCommit (kept_dropCommitElems ‹_›)))) (kept_macUpd (kept_updCommit (kept_dropCommitElems ‹_›))))

theorem kept_dueCommits {k0 s : State} (hk : Kept k0 s) :
    Kept k0 (dueCommits s) := by
  unfold dueCommits
  dsimp only
  exact Kept.foldl ‹_› (fun _ _ _ => (kept_commitDue ‹_›))

theorem kept_execCommitDue {k0 s : State} (hk : Kept k0 s) :
    OutKept k0 (execCommitDue s) := by
  unfold execCommitDue
  exact OutKept.next (Kept.ite (kept_dueCommits ‹_›) ‹_›)

theorem kept_writeDone {k0 s : State} {c : CommitEnt} {cancelled : Bool} (hk : Kept k0 s) :
    Kept k0 (writeDone s c cancelled) := by
  unfold writeDone
  dsimp only
  exact kept_emitOutcome (kept_streetUpd ‹_›)

theorem kept_execCommitDone {k0 s : State} (hk : Kept k0 s) :
    OutKept k0 (execCommitDone s) := by
  unfold execCommitDone
  dsimp only
  exact OutKept.next (Kept.foldl ‹_› (fun _ _ _ => (kept_writeDone ‹_›)))

theorem kept_execCommitEntryFree {k0 s : State} (hk : Kept k0 s) :
    OutKept k0 (execCommitEntryFree s) := by
  unfold execCommitEntryFree
  exact OutKept.next (kept_streetUpd ‹_›)

theorem kept_repairLantern {k0 s : State} {n : Nat} (hk : Kept k0 s) :
    Kept k0 (repairLantern s n) := by
  unfold repairLantern
  exact Kept.ite (kept_streetUpd ‹_›) ‹_›

theorem kept_commitStatus {k0 s : State} {n : Nat} {id : Nat} {st : Nat} (hk : Kept k0 s) :
    Kept k0 (commitStatus s n id st) := by
  unfold commitStatus
  apply Kept.ite
  split
  exact kept_updCommit (kept_count1 ‹_›)
  exact kept_repairLantern (kept_updCommit (kept_count1 ‹_›))
  exact kept_updCommit (kept_count1 ‹_›)
  assumption
  assumption

theorem kept_judgeReport {k0 s : State} {n : Nat} {level : Nat} (hk : Kept k0 s) :
    Kept k0 (judgeReport s n level) := by
  unfold judgeReport
  split
  apply Kept.ite
  dsimp only
  exact Kept.ite (kept_repairLantern (kept_updCommit (kept_setErr (kept_count1 (kept_streetUpd ‹_›))))) (kept_streetUpd ‹_›)
  assumption
  assumption

theorem kept_sendMember {k0 s : State} {n : Nat} {m : Member} {ref : Option CmdRef} (hk : Kept k0 s) :
    Kept k0 (sendMember s n m ref) := by
  unfold sendMember
  dsimp only
  exact Kept.foldl (kept_queueDl ‹_›) (fun _ _ _ => (Kept.ite ‹_› (kept_queueDl (kept_issueId ‹_›))))

theorem kept_deliverMarked {k0 s : State} {n : Nat} (hk : Kept k0 s) :
    Kept k0 (deliverMarked s n) := by
  unfold deliverMarked
  split
  exact Kept.ite (kept_sendMember (kept_streetUpd ‹_›)) ‹_›
  assumption

theorem kept_bodyMemberSet {k0 s : State} {c : Cmd} (hk : Kept k0 s) :
    WorkKept k0 (bodyMemberSet s c) := by
  unfold bodyMemberSet
  try dsimp only
  repeat' first
    | with_reducible assumption
    | with_reducible apply Kept.ite
    | with_reducible apply kept_streetUpd
    | with_reducible apply kept_updEnt
    | with_reducible apply kept_oweCommits
    | with_reducible apply kept_sendMember
    | with_reducible apply wk_stopIf
    | with_reducible apply wk_checkOps
    | with_reducible apply wk_checkBuf
    | with_reducible refine wk_readBuf ?_ fun _ => ?_
    | with_reducible apply wk_pure
    | with_reducible apply wk_ite
    | split
    | refine Kept.upd ?_ rfl rfl rfl rfl

theorem kept_execMemberSet {k0 : State} {sq : Fin 16} {s : State} (hk : Kept k0 s) :
    OutKept k0 (execMemberSet sq s) := by
  unfold execMemberSet
  exact OutKept.next (kept_runRing ‹_› (fun _ _ _ => (kept_bodyMemberSet ‹_›)))

theorem kept_bodyGroupCfg {k0 s : State} {c : Cmd} (hk : Kept k0 s) :
    WorkKept k0 (bodyGroupCfg s c) := by
  unfold bodyGroupCfg
  dsimp only
  apply wk_checkOps
  apply wk_stopIf
  apply wk_stopIf
  apply wk_stopIf
  apply wk_ite
  apply wk_pure
  dsimp only
  exact kept_acceptCommit (kept_streetUpd ‹_›)
  apply wk_pure
  dsimp only
  exact kept_streetUpd ‹_›

theorem kept_execGroupCfg {k0 : State} {sq : Fin 16} {s : State} (hk : Kept k0 s) :
    OutKept k0 (execGroupCfg sq s) := by
  unfold execGroupCfg
  exact OutKept.next (kept_runRing ‹_› (fun _ _ _ => (kept_bodyGroupCfg ‹_›)))

theorem kept_bodyScheduleProfileLoad {k0 s : State} {c : Cmd} (hk : Kept k0 s) :
    WorkKept k0 (bodyScheduleProfileLoad s c) := by
  unfold bodyScheduleProfileLoad
  dsimp only
  apply wk_checkOps
  apply wk_readBuf
  assumption
  intro _
  apply wk_checkOps
  apply wk_checkBuf
  apply wk_pure
  dsimp only
  exact kept_takeForce (kept_streetUpd ‹_›)

theorem kept_execScheduleProfileLoad {k0 : State} {sq : Fin 16} {s : State} (hk : Kept k0 s) :
    OutKept k0 (execScheduleProfileLoad sq s) := by
  unfold execScheduleProfileLoad
  exact OutKept.next (kept_runRing ‹_› (fun _ _ _ => (kept_bodyScheduleProfileLoad ‹_›)))

theorem kept_bodyExceptionSet {k0 s : State} {c : Cmd} (hk : Kept k0 s) :
    WorkKept k0 (bodyExceptionSet s c) := by
  unfold bodyExceptionSet
  dsimp only
  apply wk_checkOps
  apply wk_stopIf
  apply wk_pure
  dsimp only
  exact kept_streetUpd ‹_›

theorem kept_execExceptionSet {k0 : State} {sq : Fin 16} {s : State} (hk : Kept k0 s) :
    OutKept k0 (execExceptionSet sq s) := by
  unfold execExceptionSet
  exact OutKept.next (kept_runRing ‹_› (fun _ _ _ => (kept_bodyExceptionSet ‹_›)))

theorem kept_bodySceneStore {k0 s : State} {c : Cmd} (hk : Kept k0 s) :
    WorkKept k0 (bodySceneStore s c) := by
  unfold bodySceneStore
  dsimp only
  apply wk_checkOps
  apply wk_readBuf
  assumption
  intro _
  apply wk_checkOps
  apply wk_checkBuf
  apply wk_stopIf
  apply wk_pure
  dsimp only
  exact kept_streetUpd ‹_›

theorem kept_execSceneStore {k0 : State} {sq : Fin 16} {s : State} (hk : Kept k0 s) :
    OutKept k0 (execSceneStore sq s) := by
  unfold execSceneStore
  exact OutKept.next (kept_runRing ‹_› (fun _ _ _ => (kept_bodySceneStore ‹_›)))

theorem kept_sceneCommits {k0 s : State} {policy : Nat} {actDt : Nat} {ref : CmdRef} {x4 : List SceneEnt} (hk : Kept k0 s) :
    Kept k0 (sceneCommits s policy actDt ref x4) := by
  induction x4 generalizing s policy actDt ref with
  | nil =>
    unfold sceneCommits
    assumption
  | cons _ _ ih =>
    unfold sceneCommits
    split
    apply ih
    refine Kept.fst (by assumption) ?_
    exact kept_acceptCommit ‹_›

theorem kept_recallScene {k0 s : State} {n : Nat} {policy : Nat} {actDt : Nat} {ref : CmdRef} (hk : Kept k0 s) :
    Kept k0 (recallScene s n policy actDt ref).1 := by
  unfold recallScene
  dsimp only
  apply Kept.ite1
  dsimp only
  exact kept_streetUpd ‹_›
  dsimp only
  exact kept_sceneCommits (kept_streetUpd ‹_›)

theorem kept_bodySceneRecall {k0 s : State} {c : Cmd} (hk : Kept k0 s) :
    WorkKept k0 (bodySceneRecall s c) := by
  unfold bodySceneRecall
  dsimp only
  apply wk_checkOps
  apply wk_stopIf
  apply wk_stopIf
  apply wk_stopIf
  split
  apply wk_pure
  dsimp only
  refine Kept.fst (by assumption) ?_
  exact kept_recallScene ‹_›
  apply wk_pure
  dsimp only
  refine Kept.fst (by assumption) ?_
  exact kept_recallScene ‹_›

theorem kept_execSceneRecall {k0 : State} {sq : Fin 16} {s : State} (hk : Kept k0 s) :
    OutKept k0 (execSceneRecall sq s) := by
  unfold execSceneRecall
  exact OutKept.next (kept_runRing ‹_› (fun _ _ _ => (kept_bodySceneRecall ‹_›)))

theorem kept_releaseScene {k0 s : State} {n : Nat} (hk : Kept k0 s) :
    Kept k0 (releaseScene s n) := by
  unfold releaseScene
  exact kept_streetUpd ‹_›

theorem kept_bodySceneRelease {k0 s : State} {c : Cmd} (hk : Kept k0 s) :
    WorkKept k0 (bodySceneRelease s c) := by
  unfold bodySceneRelease
  dsimp only
  apply wk_checkOps
  apply wk_stopIf
  apply wk_pure
  dsimp only
  exact kept_releaseScene ‹_›

theorem kept_execSceneRelease {k0 : State} {sq : Fin 16} {s : State} (hk : Kept k0 s) :
    OutKept k0 (execSceneRelease sq s) := by
  unfold execSceneRelease
  exact OutKept.next (kept_runRing ‹_› (fun _ _ _ => (kept_bodySceneRelease ‹_›)))

theorem kept_bodyCommitLevel {k0 s : State} {c : Cmd} (hk : Kept k0 s) :
    WorkKept k0 (bodyCommitLevel s c) := by
  unfold bodyCommitLevel
  dsimp only
  apply wk_checkOps
  apply wk_stopIf
  apply wk_stopIf
  apply wk_pure
  dsimp only
  exact kept_acceptCommit ‹_›

theorem kept_execCommitLevel {k0 : State} {sq : Fin 16} {s : State} (hk : Kept k0 s) :
    OutKept k0 (execCommitLevel sq s) := by
  unfold execCommitLevel
  exact OutKept.next (kept_runRing ‹_› (fun _ _ _ => (kept_bodyCommitLevel ‹_›)))

theorem kept_cancelCommit {k0 s : State} {k : CommitEnt} {ref : Option CmdRef} (hk : Kept k0 s) :
    Kept k0 (cancelCommit s k ref) := by
  unfold cancelCommit
  dsimp only
  exact kept_acceptCommit (kept_writeDone (kept_macUpd (kept_updCommit (kept_dropCommitElems ‹_›))))

theorem kept_bodyCommitCancel {k0 s : State} {c : Cmd} (hk : Kept k0 s) :
    WorkKept k0 (bodyCommitCancel s c) := by
  unfold bodyCommitCancel
  apply wk_checkOps
  split
  exact trivial
  apply wk_stopIf
  apply wk_pure
  dsimp only
  exact kept_causedBy ‹_› (kept_cancelCommit ‹_›)

theorem kept_execCommitCancel {k0 : State} {sq : Fin 16} {s : State} (hk : Kept k0 s) :
    OutKept k0 (execCommitCancel sq s) := by
  unfold execCommitCancel
  exact OutKept.next (kept_runRing ‹_› (fun _ _ _ => (kept_bodyCommitCancel ‹_›)))

theorem kept_bodyCommitRead {k0 s : State} {c : Cmd} (hk : Kept k0 s) :
    WorkKept k0 (bodyCommitRead s c) := by
  unfold bodyCommitRead
  apply wk_checkOps
  split
  exact trivial
  apply wk_writeBuf
  assumption
  intro _
  intro _
  apply wk_pure
  dsimp only
  assumption

theorem kept_execCommitRead {k0 : State} {sq : Fin 16} {s : State} (hk : Kept k0 s) :
    OutKept k0 (execCommitRead sq s) := by
  unfold execCommitRead
  exact OutKept.next (kept_runRing ‹_› (fun _ _ _ => (kept_bodyCommitRead ‹_›)))

theorem kept_bodyComposeRead {k0 s : State} {c : Cmd} (hk : Kept k0 s) :
    WorkKept k0 (bodyComposeRead s c) := by
  unfold bodyComposeRead
  dsimp only
  apply wk_checkOps
  apply wk_writeBuf
  assumption
  intro _
  intro _
  apply wk_pure
  dsimp only
  assumption

theorem kept_execComposeRead {k0 : State} {sq : Fin 16} {s : State} (hk : Kept k0 s) :
    OutKept k0 (execComposeRead sq s) := by
  unfold execComposeRead
  exact OutKept.next (kept_runRing ‹_› (fun _ _ _ => (kept_bodyComposeRead ‹_›)))

theorem kept_bodySolarRead {k0 s : State} {c : Cmd} (hk : Kept k0 s) :
    WorkKept k0 (bodySolarRead s c) := by
  unfold bodySolarRead
  apply wk_checkOps
  dsimp only
  apply wk_writeBuf
  assumption
  intro _
  intro _
  apply wk_pure
  dsimp only
  assumption

theorem kept_execSolarRead {k0 : State} {sq : Fin 16} {s : State} (hk : Kept k0 s) :
    OutKept k0 (execSolarRead sq s) := by
  unfold execSolarRead
  exact OutKept.next (kept_runRing ‹_› (fun _ _ _ => (kept_bodySolarRead ‹_›)))

theorem kept_execLevelVector {k0 s : State} (hk : Kept k0 s) :
    OutKept k0 (execLevelVector s) := by
  unfold execLevelVector
  dsimp only
  apply OutKept.next
  split
  assumption
  exact Kept.ite ‹_› (Kept.ite (kept_countBy (kept_count1 (kept_streetUpd (Kept.foldl (kept_sendBroadcast (kept_streetUpd
    ‹_›)) (fun _ _ _ => (kept_updEnt (kept_streetUpd ‹_›))))))) (kept_sendBroadcast (kept_streetUpd ‹_›)))

end Sys2Proof.Laws
end

