-- ==== Sys2Proof/Laws/KeptCompose.lean ====
section
/-! SUPPORT. What the operations of Machine/Compose.lean keep. -/

namespace Sys2Proof.Laws

open Sys2Proof.Machine

theorem kept_floorCheck {k0 s : State} {n : Nat} {c : CompIn} (hk : Kept k0 s) :
    Kept k0 (floorCheck s n c) := by
  unfold floorCheck
  dsimp only
  exact Kept.ite (kept_emit (kept_setErr (kept_count1 (kept_streetUpd ‹_›)))) (kept_streetUpd ‹_›)

theorem kept_queueLevel {k0 s : State} {n : Nat} {level : Nat} {forced : Bool} (hk : Kept k0 s) :
    Kept k0 (queueLevel s n level forced) := by
  unfold queueLevel
  dsimp only
  exact kept_streetUpd ‹_›

theorem kept_composeOne {k0 : State} {forced : List Nat} {s : State} {n : Nat} (hk : Kept k0 s) :
    Kept k0 (composeOne forced s n) := by
  unfold composeOne
  split
  apply Kept.ite
  dsimp only
  exact Kept.ite (kept_queueLevel (kept_floorCheck (kept_streetUpd ‹_›))) (kept_floorCheck (kept_streetUpd ‹_›))
  assumption
  assumption

theorem kept_toUnicast {k0 s : State} (hk : Kept k0 s) :
    Kept k0 (toUnicast s) := by
  unfold toUnicast
  apply Kept.foldl
  assumption
  intro _
  intro _
  intro _
  dsimp only
  split
  exact Kept.ite (kept_queueDl (kept_streetUpd (kept_setEp ‹_›))) ‹_›
  assumption

theorem kept_compose {k0 s : State} {forced : List Nat} (hk : Kept k0 s) :
    Kept k0 (compose s forced) := by
  unfold compose
  exact kept_toUnicast (Kept.foldl ‹_› (fun _ _ _ => (kept_composeOne ‹_›)))

theorem kept_activateScene {k0 s : State} {n : Nat} (hk : Kept k0 s) :
    Kept k0 (activateScene s n) := by
  unfold activateScene
  exact Kept.foldl ‹_› (fun _ _ _ => (kept_streetUpd ‹_›))

theorem kept_activateScenes {k0 s : State} (hk : Kept k0 s) :
    Kept k0 (activateScenes s).1 := by
  unfold activateScenes
  dsimp only
  exact Kept.foldl (kept_streetUpd ‹_›) (fun _ _ _ => (kept_activateScene ‹_›))

theorem kept_planSteps {k0 s : State} (hk : Kept k0 s) :
    Kept k0 (planSteps s) := by
  unfold planSteps
  dsimp only
  apply Kept.foldl
  exact kept_streetUpd ‹_›
  intro _
  intro _
  intro _
  split
  exact Kept.ite ‹_› (kept_streetUpd (kept_acceptCommit ‹_›))
  assumption

theorem kept_newDay {k0 s : State} (hk : Kept k0 s) :
    Kept k0 (newDay s) := by
  unfold newDay
  dsimp only
  exact Kept.ite ‹_› (Kept.ite (kept_setErr (kept_streetUpd ‹_›)) (kept_streetUpd ‹_›))

theorem kept_tickPeriod {k0 s : State} (hk : Kept k0 s) :
    Kept k0 (tickPeriod s) := by
  unfold tickPeriod
  dsimp only
  exact Kept.ite (.upd (kept_casUpd ‹_›) rfl rfl rfl rfl) (.upd ‹_› rfl rfl rfl rfl)

theorem kept_runTick {k0 s : State} {first : Nat} {last : Nat} {span : Nat} (hk : Kept k0 s) :
    Kept k0 (runTick s first last span) := by
  unfold runTick
  dsimp only
  exact kept_casUpd (kept_cascadeTick (Kept.ite (kept_compose (kept_activateScenes (Kept.ite (kept_planSteps (kept_newDay
    (Kept.ite (kept_fireSteps (kept_dueCommits ‹_›)) (kept_streetUpd ‹_›)))) (kept_newDay (Kept.ite (kept_fireSteps
    (kept_dueCommits ‹_›)) (kept_streetUpd ‹_›)))))) (kept_activateScenes (Kept.ite (kept_planSteps (kept_newDay (Kept.ite
    (kept_fireSteps (kept_dueCommits ‹_›)) (kept_streetUpd ‹_›)))) (kept_newDay (Kept.ite (kept_fireSteps (kept_dueCommits
    ‹_›)) (kept_streetUpd ‹_›)))))))

theorem kept_execTickBoundary {k0 s : State} (hk : Kept k0 s) :
    OutKept k0 (execTickBoundary s) := by
  unfold execTickBoundary
  dsimp only
  exact OutKept.next (Kept.ite (kept_tickPeriod ‹_›) (Kept.ite (kept_runTick (kept_tickPeriod ‹_›)) (kept_runTick
    (kept_tickPeriod ‹_›))))

end Sys2Proof.Laws
end

