-- ==== Sys2Proof/Laws/KeptOx.lean ====
section
/-! SUPPORT. What the operations of Machine/Ox.lean keep. -/

namespace Sys2Proof.Laws

open Sys2Proof.Machine

theorem kept_oxUpd {k0 s : State} {f : OxSt → OxSt} (hk : Kept k0 s) :
    Kept k0 (oxUpd s f) := by
  unfold oxUpd
  exact .upd ‹_› rfl rfl rfl rfl

theorem kept_oxFault {k0 s : State} {code : Nat} {clear : Bool} {detail : Nat} (hk : Kept k0 s) :
    Kept k0 (oxFault s code clear detail) := by
  unfold oxFault
  exact kept_fault ‹_›

theorem kept_applyForces {k0 s : State} (hk : Kept k0 s) :
    Kept k0 (applyForces s) := by
  unfold applyForces
  dsimp only
  exact kept_oxUpd ‹_›

theorem kept_oxDrive {k0 s : State} (hk : Kept k0 s) :
    Kept k0 (oxDrive s) := by
  unfold oxDrive
  exact Kept.foldl (kept_drivePwm (kept_drivePad ‹_›)) (fun _ _ _ => (kept_foldCause ‹_›))

theorem kept_oxCommit {k0 s : State} (hk : Kept k0 s) :
    Kept k0 (oxCommit s) := by
  unfold oxCommit
  exact kept_oxUpd ‹_›

theorem kept_oxSafe {k0 s : State} (hk : Kept k0 s) :
    Kept k0 (oxSafe s) := by
  unfold oxSafe
  dsimp only
  exact kept_oxDrive (kept_oxUpd ‹_›)

theorem kept_retCommit {k0 s : State} {from' : SMap Nat} (hk : Kept k0 s) :
    Kept k0 (retCommit s from') := by
  unfold retCommit
  dsimp only
  exact kept_oxUpd ‹_›

theorem kept_setPort {k0 s : State} {p : Nat} {x : RioPort} (hk : Kept k0 s) :
    Kept k0 (setPort s p x) := by
  unfold setPort
  exact kept_oxUpd ‹_›

theorem kept_rioNext {k0 s : State} {p : Nat} {start : Bool} (hk : Kept k0 s) :
    Kept k0 (rioNext s p start) := by
  unfold rioNext
  try dsimp only
  repeat' first
    | with_reducible assumption
    | with_reducible apply Kept.ite
    | with_reducible apply kept_setPort
    | with_reducible apply kept_sendLine
    | with_reducible refine Kept.fst (by assumption) ?_
    | with_reducible refine Kept.snd (by assumption) ?_
    | split

theorem kept_rioKick {k0 s : State} {output : Bool} (hk : Kept k0 s) :
    Kept k0 (rioKick s output) := by
  unfold rioKick
  exact Kept.foldl ‹_› (fun _ _ _ => (Kept.ite (kept_rioNext ‹_›) ‹_›))

theorem kept_rioShow {k0 s : State} (hk : Kept k0 s) :
    Kept k0 (rioShow s) := by
  unfold rioShow
  dsimp only
  exact kept_setFlag (kept_setFlag (kept_setFld (kept_setFld ‹_›)))

theorem kept_setRio {k0 s : State} {i : Nat} {x : RioEnt} (hk : Kept k0 s) :
    Kept k0 (setRio s i x) := by
  unfold setRio
  exact kept_rioShow (kept_oxUpd ‹_›)

theorem kept_rioGood {k0 s : State} {i : Nat} {e : RioCfg} {words : List Nat} (hk : Kept k0 s) :
    Kept k0 (rioGood s i e words) := by
  unfold rioGood
  dsimp only
  exact Kept.ite (kept_oxFault (kept_setRio ‹_›)) (kept_setRio ‹_›)

theorem kept_rioFail {k0 s : State} {i : Nat} {e : RioCfg} (hk : Kept k0 s) :
    Kept k0 (rioFail s i e) := by
  unfold rioFail
  dsimp only
  exact Kept.ite (kept_oxFault (kept_setErr (kept_setRio ‹_›))) (kept_setRio ‹_›)

theorem kept_execAnswer {k0 : State} {p : Fin 2} {b : List Byte} {s : State} (hk : Kept k0 s) :
    OutKept k0 (execAnswer p b s) := by
  unfold execAnswer
  apply OutKept.next
  apply Kept.ite
  assumption
  split
  assumption
  split
  exact kept_rioNext (kept_rioGood ‹_›)
  exact kept_setPort (kept_count1 ‹_›)

theorem kept_execRioTimeout {k0 : State} {p : Fin 2} {s : State} (hk : Kept k0 s) :
    OutKept k0 (execRioTimeout p s) := by
  unfold execRioTimeout
  apply OutKept.next
  apply Kept.ite
  assumption
  split
  assumption
  dsimp only
  exact kept_rioNext (kept_rioFail (Kept.ite ‹_› (kept_count1 ‹_›)))

theorem kept_setDali {k0 s : State} {p : Nat} {x : DaliPort} (hk : Kept k0 s) :
    Kept k0 (setDali s p x) := by
  unfold setDali
  exact kept_oxUpd ‹_›

theorem kept_daliOutput {k0 s : State} {p : Nat} (hk : Kept k0 s) :
    Kept k0 (daliOutput s p) := by
  unfold daliOutput
  try dsimp only
  repeat' first
    | with_reducible assumption
    | with_reducible apply Kept.ite
    | with_reducible refine Kept.foldl ?_ fun _ _ _ => ?_
    | with_reducible apply kept_setErr
    | with_reducible apply kept_count1
    | with_reducible apply kept_setDali
    | with_reducible apply kept_sendLine
    | split
    | refine Kept.upd ?_ rfl rfl rfl rfl

theorem kept_execDaliReceive {k0 : State} {p : Fin 2} {r : DaliResult} {s : State} (hk : Kept k0 s) :
    OutKept k0 (execDaliReceive p r s) := by
  unfold execDaliReceive
  dsimp only
  apply OutKept.next
  apply Kept.ite
  assumption
  split
  assumption
  exact kept_setDali ‹_›

theorem kept_oxInput {k0 s : State} (hk : Kept k0 s) :
    Kept k0 (oxInput s) := by
  unfold oxInput
  dsimp only
  exact kept_applyForces (kept_oxUpd (kept_weirUpd ‹_›))

theorem kept_oxAfter {k0 s : State} {c : Cpu} (hk : Kept k0 s) :
    Kept k0 (oxAfter s c) := by
  unfold oxAfter
  dsimp only
  exact Kept.foldl (kept_oxUpd (.upd ‹_› rfl rfl rfl rfl)) (fun _ _ _ => (Kept.ite ‹_› (kept_setErr (kept_countBy ‹_›))))

theorem kept_oxBegin {k0 s : State} {conv : List Word} (hk : Kept k0 s) :
    Kept k0 (oxBegin s conv) := by
  unfold oxBegin
  dsimp only
  exact kept_oxInput (kept_oxUpd (kept_setAin ‹_›))

theorem kept_oxSend {k0 s : State} {sent : List Nat} (hk : Kept k0 s) :
    Kept k0 (oxSend s sent) := by
  unfold oxSend
  try dsimp only
  repeat' first
    | with_reducible assumption
    | with_reducible refine Kept.foldl ?_ fun _ _ _ => ?_
    | with_reducible apply kept_oxUpd
    | with_reducible apply kept_mirSend
    | refine Kept.upd ?_ rfl rfl rfl rfl

theorem kept_oxFlush {k0 s : State} (hk : Kept k0 s) :
    Kept k0 (oxFlush s) := by
  unfold oxFlush
  try dsimp only
  repeat' first
    | with_reducible assumption
    | with_reducible apply Kept.ite
    | with_reducible refine Kept.foldl ?_ fun _ _ _ => ?_
    | with_reducible apply kept_oxSend
    | split

theorem kept_oxMirror {k0 s : State} (hk : Kept k0 s) :
    Kept k0 (oxMirror s) := by
  unfold oxMirror
  try dsimp only
  repeat' first
    | with_reducible assumption
    | with_reducible apply Kept.ite
    | with_reducible apply kept_oxSend
    | with_reducible apply kept_setErr
    | with_reducible apply kept_countBy
    | split

theorem kept_oxShow {k0 s : State} (hk : Kept k0 s) :
    Kept k0 (oxShow s) := by
  unfold oxShow
  exact kept_setFld (kept_setFld (kept_setFlag (kept_setFld ‹_›)))

theorem kept_oxStopsDone {k0 s : State} (hk : Kept k0 s) :
    Kept k0 (oxStopsDone s) := by
  unfold oxStopsDone
  exact Kept.foldl (kept_oxUpd ‹_›) (fun _ _ _ => (kept_completeSeq ‹_›))

theorem kept_oxHalt {k0 s : State} {state : Nat} (hk : Kept k0 s) :
    Kept k0 (oxHalt s state) := by
  unfold oxHalt
  exact kept_rioKick (kept_retCommit (kept_oxSafe (kept_setFld ‹_›)))

theorem kept_oxStopNow {k0 s : State} {sw : Bool} (hk : Kept k0 s) :
    Kept k0 (oxStopNow s sw) := by
  unfold oxStopNow
  try dsimp only
  repeat' first
    | with_reducible assumption
    | with_reducible apply kept_oxMirror
    | with_reducible apply kept_oxHalt
    | with_reducible apply kept_oxStopsDone
    | with_reducible apply kept_emit
    | with_reducible apply kept_drawFree

theorem kept_oxOverrun {k0 s : State} {c : Cpu} (hk : Kept k0 s) :
    Kept k0 (oxOverrun s c) := by
  unfold oxOverrun
  dsimp only
  apply kept_oxShow
  split
  exact kept_completeSeq (kept_oxStopsDone (kept_oxUpd (Kept.ite (kept_emit (kept_oxFault (kept_emit (kept_oxFault
    (kept_setErr (kept_count1 (kept_setFld (kept_oxMirror (kept_oxHalt (kept_oxAfter ‹_›)))))))))) (kept_emit (kept_oxFault
    (kept_setErr (kept_count1 (kept_setFld (kept_oxMirror (kept_oxHalt (kept_oxAfter ‹_›)))))))))))
  exact kept_oxStopsDone (kept_oxUpd (Kept.ite (kept_emit (kept_oxFault (kept_emit (kept_oxFault (kept_setErr (kept_count1
    (kept_setFld (kept_oxMirror (kept_oxHalt (kept_oxAfter ‹_›)))))))))) (kept_emit (kept_oxFault (kept_setErr (kept_count1
    (kept_setFld (kept_oxMirror (kept_oxHalt (kept_oxAfter ‹_›))))))))))

theorem kept_execWdogOverrun {k0 : State} {conv : List Word} {inUs : Fin 31} {s : State} (hk : Kept k0 s) :
    OutKept k0 (execWdogOverrun conv inUs s) := by
  unfold execWdogOverrun
  dsimp only
  exact OutKept.next (Kept.ite (kept_oxOverrun (kept_oxBegin ‹_›)) ‹_›)

theorem kept_oxSwitchNow {k0 s : State} (hk : Kept k0 s) :
    Kept k0 (oxSwitchNow s).1 := by
  unfold oxSwitchNow
  try dsimp only
  repeat' first
    | with_reducible assumption
    | with_reducible apply Kept.ite1
    | with_reducible apply Kept.ite
    | with_reducible refine Kept.foldl ?_ fun _ _ _ => ?_
    | with_reducible apply kept_oxUpd
    | with_reducible apply kept_setFld
    | with_reducible apply kept_applyForces
    | with_reducible apply kept_ckWrite
    | with_reducible apply kept_rioShow
    | with_reducible apply kept_oxDrive
    | with_reducible apply kept_oxFault
    | with_reducible apply kept_oxShow
    | with_reducible apply kept_emit
    | with_reducible apply kept_rioKick
    | with_reducible apply kept_oxMirror
    | with_reducible refine Kept.fst (by assumption) ?_
    | with_reducible refine Kept.snd (by assumption) ?_
    | split
    | refine Kept.upd ?_ rfl rfl rfl rfl

theorem kept_sceneOutput {k0 s : State} (hk : Kept k0 s) :
    Kept k0 (sceneOutput s) := by
  unfold sceneOutput
  dsimp only
  apply Kept.ite
  assumption
  apply kept_oxUpd
  apply Kept.ite1
  apply Kept.ite1
  dsimp only
  exact kept_releaseScene ‹_›
  dsimp only
  assumption
  apply Kept.ite1
  dsimp only
  assumption
  dsimp only
  exact kept_recallScene ‹_›

theorem kept_otherOutput {k0 s : State} (hk : Kept k0 s) :
    Kept k0 (otherOutput s) := by
  unfold otherOutput
  exact Kept.foldl ‹_› (fun _ _ _ => (Kept.ite (kept_setFld ‹_›) ‹_›))

theorem kept_oxOutput {k0 : State} {s0 : State} {us : Nat} (hk : Kept k0 s0) :
    Kept k0 (oxOutput s0 us) := by
  unfold oxOutput
  dsimp only
  split
  exact kept_completeConfigSeq (kept_oxSwitchNow (Kept.ite (kept_oxUpd (Kept.ite (kept_retCommit (kept_oxMirror (kept_setFld
    (kept_count1 (kept_setFld (kept_sceneOutput (kept_otherOutput (kept_rioKick (kept_daliOutput (kept_daliOutput
    (kept_oxDrive (kept_oxCommit (kept_applyForces ‹_›))))))))))))) (kept_oxMirror (kept_setFld (kept_count1 (kept_setFld
    (kept_sceneOutput (kept_otherOutput (kept_rioKick (kept_daliOutput (kept_daliOutput (kept_oxDrive (kept_oxCommit
    (kept_applyForces ‹_›)))))))))))))) (kept_oxStopNow (kept_oxUpd (Kept.ite (kept_retCommit (kept_oxMirror (kept_setFld
    (kept_count1 (kept_setFld (kept_sceneOutput (kept_otherOutput (kept_rioKick (kept_daliOutput (kept_daliOutput
    (kept_oxDrive (kept_oxCommit (kept_applyForces ‹_›))))))))))))) (kept_oxMirror (kept_setFld (kept_count1 (kept_setFld
    (kept_sceneOutput (kept_otherOutput (kept_rioKick (kept_daliOutput (kept_daliOutput (kept_oxDrive (kept_oxCommit
    (kept_applyForces ‹_›)))))))))))))))))
  exact Kept.ite (kept_oxUpd (Kept.ite (kept_retCommit (kept_oxMirror (kept_setFld (kept_count1 (kept_setFld
    (kept_sceneOutput (kept_otherOutput (kept_rioKick (kept_daliOutput (kept_daliOutput (kept_oxDrive (kept_oxCommit
    (kept_applyForces ‹_›))))))))))))) (kept_oxMirror (kept_setFld (kept_count1 (kept_setFld (kept_sceneOutput
    (kept_otherOutput (kept_rioKick (kept_daliOutput (kept_daliOutput (kept_oxDrive (kept_oxCommit (kept_applyForces
    ‹_›)))))))))))))) (kept_oxStopNow (kept_oxUpd (Kept.ite (kept_retCommit (kept_oxMirror (kept_setFld (kept_count1
    (kept_setFld (kept_sceneOutput (kept_otherOutput (kept_rioKick (kept_daliOutput (kept_daliOutput (kept_oxDrive
    (kept_oxCommit (kept_applyForces ‹_›))))))))))))) (kept_oxMirror (kept_setFld (kept_count1 (kept_setFld (kept_sceneOutput
    (kept_otherOutput (kept_rioKick (kept_daliOutput (kept_daliOutput (kept_oxDrive (kept_oxCommit (kept_applyForces
    ‹_›)))))))))))))))

theorem kept_execOxCycle {k0 : State} {conv : List Word} {inUs : Fin 31} {outUs : Fin 31} {s : State} (hk : Kept k0 s) :
    OutKept k0 (execOxCycle conv inUs outUs s) := by
  unfold execOxCycle
  dsimp only
  exact OutKept.next (Kept.ite (kept_oxOutput (kept_oxAfter (kept_oxBegin ‹_›))) ‹_›)

theorem kept_oxStart {k0 s : State} (hk : Kept k0 s) :
    Kept k0 (oxStart s) := by
  unfold oxStart
  exact kept_oxUpd (kept_setFld ‹_›)

theorem kept_retRestore {k0 s : State} (hk : Kept k0 s) :
    Kept k0 (retRestore s) := by
  unfold retRestore
  dsimp only
  exact kept_emit (Kept.ite (kept_setErr (kept_oxUpd (kept_setFld ‹_›))) (Kept.ite (kept_setErr (kept_oxUpd (kept_setFld
    ‹_›))) (kept_oxUpd (kept_setFld ‹_›))))

theorem kept_oxReset {k0 s : State} {bank : Nat} (hk : Kept k0 s) :
    Kept k0 (oxReset s bank) := by
  unfold oxReset
  dsimp only
  exact kept_setFld (kept_oxUpd ‹_›)

theorem kept_oxRestore {k0 s : State} (hk : Kept k0 s) :
    Kept k0 (oxRestore s) := by
  unfold oxRestore
  apply Kept.ite
  dsimp only
  exact Kept.ite (kept_rioKick (Kept.ite (kept_oxStart (kept_rioShow (kept_oxShow (kept_oxSafe (kept_retRestore ‹_›)))))
    (kept_setFld (kept_rioShow (kept_oxShow (kept_oxSafe (kept_retRestore ‹_›))))))) (kept_setFld (kept_rioShow (kept_oxShow
    (kept_oxSafe (kept_retRestore ‹_›)))))
  exact kept_rioShow (kept_oxShow (Kept.ite ‹_› (kept_setFld ‹_›)))

theorem kept_oxTakeover {k0 s : State} (hk : Kept k0 s) :
    Kept k0 (oxTakeover s) := by
  unfold oxTakeover
  try dsimp only
  repeat' first
    | with_reducible assumption
    | with_reducible apply Kept.ite
    | with_reducible refine Kept.foldl ?_ fun _ _ _ => ?_
    | with_reducible apply kept_setFld
    | with_reducible apply kept_oxUpd
    | with_reducible apply kept_rioKick
    | with_reducible apply kept_oxDrive
    | with_reducible apply kept_rioShow
    | with_reducible apply kept_oxShow
    | with_reducible apply kept_oxStart
    | split
    | refine Kept.upd ?_ rfl rfl rfl rfl

theorem kept_oxDemote {k0 s : State} (hk : Kept k0 s) :
    Kept k0 (oxDemote s) := by
  unfold oxDemote
  try dsimp only
  repeat' first
    | with_reducible assumption
    | with_reducible apply Kept.ite
    | with_reducible apply kept_oxStopsDone
    | with_reducible apply kept_oxUpd
    | with_reducible apply kept_setFld
    | with_reducible apply kept_oxShow
    | with_reducible apply kept_completeSeq
    | with_reducible refine Kept.fst (by assumption) ?_
    | with_reducible refine Kept.snd (by assumption) ?_
    | split
    | refine Kept.upd ?_ rfl rfl rfl rfl

theorem kept_oxFollowRole {k0 s : State} (hk : Kept k0 s) :
    Kept k0 (oxFollowRole s) := by
  unfold oxFollowRole
  try dsimp only
  repeat' first
    | with_reducible assumption
    | with_reducible apply Kept.ite
    | with_reducible apply kept_oxTakeover
    | with_reducible apply kept_oxDemote
    | split

theorem kept_setBank {k0 s : State} {n : Nat} {b : OxBank} (hk : Kept k0 s) :
    Kept k0 (setBank s n b) := by
  unfold setBank
  exact kept_oxShow (kept_oxUpd ‹_›)

theorem kept_bodyOxLoad {k0 s : State} {c : Cmd} (hk : Kept k0 s) :
    WorkKept k0 (bodyOxLoad s c) := by
  unfold bodyOxLoad
  dsimp only
  apply wk_checkOps
  apply wk_readBuf
  assumption
  intro _
  apply wk_stopIf
  apply wk_pure
  dsimp only
  exact kept_setBank ‹_›

theorem kept_execOxLoad {k0 : State} {sq : Fin 16} {s : State} (hk : Kept k0 s) :
    OutKept k0 (execOxLoad sq s) := by
  unfold execOxLoad
  exact OutKept.next (kept_runRing ‹_› (fun _ _ _ => (kept_bodyOxLoad ‹_›)))

theorem kept_bodyOxValidate {k0 s : State} {c : Cmd} (hk : Kept k0 s) :
    WorkKept k0 (bodyOxValidate s c) := by
  unfold bodyOxValidate
  apply wk_checkOps
  apply wk_stopIf
  apply wk_stopIf
  dsimp only
  apply wk_stopIf
  apply wk_ite
  apply wk_ansIn
  apply Kept.ite1
  exact kept_verifyUnder ‹_›
  dsimp only
  assumption
  split
  apply wk_ansIn
  apply Kept.ite1
  exact kept_verifyUnder ‹_›
  dsimp only
  assumption
  apply wk_pure
  dsimp only
  apply kept_setBank
  apply Kept.ite1
  exact kept_verifyUnder ‹_›
  dsimp only
  assumption

theorem kept_execOxValidate {k0 : State} {sq : Fin 16} {s : State} (hk : Kept k0 s) :
    OutKept k0 (execOxValidate sq s) := by
  unfold execOxValidate
  exact OutKept.next (kept_runRing ‹_› (fun _ _ _ => (kept_bodyOxValidate ‹_›)))

theorem kept_bodyOxSwitch {k0 s : State} {c : Cmd} (hk : Kept k0 s) :
    WorkKept k0 (bodyOxSwitch s c) := by
  unfold bodyOxSwitch
  apply wk_checkOps
  apply wk_stopIf
  apply wk_stopIf
  apply wk_stopIf
  apply wk_ite
  apply wk_pure
  dsimp only
  exact kept_oxShow (kept_oxUpd ‹_›)
  split
  apply wk_pure
  dsimp only
  apply kept_causedBy
  assumption
  refine Kept.fst (by assumption) ?_
  exact kept_oxSwitchNow ‹_›

theorem kept_execOxSwitch {k0 : State} {sq : Fin 16} {s : State} (hk : Kept k0 s) :
    OutKept k0 (execOxSwitch sq s) := by
  unfold execOxSwitch
  exact OutKept.next (kept_runRing ‹_› (fun _ _ _ => (kept_bodyOxSwitch ‹_›)))

theorem kept_bodyOxStart {k0 s : State} {c : Cmd} (hk : Kept k0 s) :
    WorkKept k0 (bodyOxStart s c) := by
  unfold bodyOxStart
  apply wk_checkOps
  apply wk_stopIf
  apply wk_stopIf
  apply wk_stopIf
  apply wk_pure
  dsimp only
  exact kept_oxStart ‹_›

theorem kept_execOxStart {k0 : State} {sq : Fin 16} {s : State} (hk : Kept k0 s) :
    OutKept k0 (execOxStart sq s) := by
  unfold execOxStart
  exact OutKept.next (kept_runRing ‹_› (fun _ _ _ => (kept_bodyOxStart ‹_›)))

theorem kept_bodyOxStop {k0 s : State} {c : Cmd} (hk : Kept k0 s) :
    WorkKept k0 (bodyOxStop s c) := by
  unfold bodyOxStop
  apply wk_checkOps
  apply wk_stopIf
  apply wk_pure
  dsimp only
  exact kept_oxUpd ‹_›

theorem kept_execOxStop {k0 : State} {sq : Fin 16} {s : State} (hk : Kept k0 s) :
    OutKept k0 (execOxStop sq s) := by
  unfold execOxStop
  exact OutKept.next (kept_runRing ‹_› (fun _ _ _ => (kept_bodyOxStop ‹_›)))

theorem kept_bodyOxForceSet {k0 s : State} {c : Cmd} (hk : Kept k0 s) :
    WorkKept k0 (bodyOxForceSet s c) := by
  unfold bodyOxForceSet
  dsimp only
  apply wk_checkOps
  apply wk_stopIf
  split
  exact trivial
  apply wk_pure
  dsimp only
  exact Kept.ite (kept_oxShow (kept_oxUpd ‹_›)) (kept_applyForces (kept_oxShow (kept_oxUpd ‹_›)))

theorem kept_execOxForceSet {k0 : State} {sq : Fin 16} {s : State} (hk : Kept k0 s) :
    OutKept k0 (execOxForceSet sq s) := by
  unfold execOxForceSet
  exact OutKept.next (kept_runRing ‹_› (fun _ _ _ => (kept_bodyOxForceSet ‹_›)))

theorem kept_bodyOxForceClear {k0 s : State} {c : Cmd} (hk : Kept k0 s) :
    WorkKept k0 (bodyOxForceClear s c) := by
  unfold bodyOxForceClear
  apply wk_checkOps
  dsimp only
  apply wk_stopIf
  apply wk_pure
  dsimp only
  exact kept_oxShow (kept_oxUpd ‹_›)

theorem kept_execOxForceClear {k0 : State} {sq : Fin 16} {s : State} (hk : Kept k0 s) :
    OutKept k0 (execOxForceClear sq s) := by
  unfold execOxForceClear
  exact OutKept.next (kept_runRing ‹_› (fun _ _ _ => (kept_bodyOxForceClear ‹_›)))

theorem kept_bodyOxRead {k0 s : State} {c : Cmd} (hk : Kept k0 s) :
    WorkKept k0 (bodyOxRead s c) := by
  unfold bodyOxRead
  dsimp only
  apply wk_checkOps
  apply wk_writeBuf
  assumption
  intro _
  intro _
  apply wk_pure
  dsimp only
  assumption

theorem kept_execOxRead {k0 : State} {sq : Fin 16} {s : State} (hk : Kept k0 s) :
    OutKept k0 (execOxRead sq s) := by
  unfold execOxRead
  exact OutKept.next (kept_runRing ‹_› (fun _ _ _ => (kept_bodyOxRead ‹_›)))

theorem kept_bodyOxWrite {k0 s : State} {c : Cmd} (hk : Kept k0 s) :
    WorkKept k0 (bodyOxWrite s c) := by
  unfold bodyOxWrite
  dsimp only
  apply wk_checkOps
  apply wk_readBuf
  assumption
  intro _
  apply wk_stopIf
  apply wk_stopIf
  apply wk_pure
  dsimp only
  exact kept_oxUpd ‹_›

theorem kept_execOxWrite {k0 : State} {sq : Fin 16} {s : State} (hk : Kept k0 s) :
    OutKept k0 (execOxWrite sq s) := by
  unfold execOxWrite
  exact OutKept.next (kept_runRing ‹_› (fun _ _ _ => (kept_bodyOxWrite ‹_›)))

end Sys2Proof.Laws
end

