-- ==== Sys2Proof/Laws/KeptUpdates.lean ====
section
/-! SUPPORT. What the operations of Machine/Updates.lean keep. -/

namespace Sys2Proof.Laws

open Sys2Proof.Machine

theorem kept_updShow {k0 s : State} (hk : Kept k0 s) :
    Kept k0 (updShow s) := by
  unfold updShow
  dsimp only
  exact kept_setFlag (kept_setFlag (kept_setFlag (kept_setFld (kept_setFld (kept_setFlag (kept_setFld (kept_setFld
    (kept_setFld (Kept.foldl ‹_› (fun _ _ _ => (kept_setFld (kept_setFld (kept_setFld ‹_›)))))))))))))

theorem kept_setUSlot {k0 s : State} {n : Nat} {x : UpdSlot} (hk : Kept k0 s) :
    Kept k0 (setUSlot s n x) := by
  unfold setUSlot
  exact kept_updShow (kept_updUpd ‹_› (fun _ => rfl))

theorem kept_setCamp {k0 s : State} {k : Nat} {c : Campaign} (hk : Kept k0 s) :
    Kept k0 (setCamp s k c) := by
  unfold setCamp
  exact kept_updShow (kept_updUpd ‹_› (fun _ => rfl))

theorem kept_keyUsed {k0 s : State} {n : Nat} {key : Option (List Byte)} (hk : Kept k0 s) :
    Kept k0 (keyUsed s n key) := by
  unfold keyUsed
  try dsimp only
  repeat' first
    | with_reducible assumption
    | with_reducible apply Kept.ite
    | with_reducible apply kept_remask
    | with_reducible apply kept_useRefused
    | split

theorem kept_checkLoaded {k0 s : State} {n : Nat} {x : UpdSlot} {key : Option (List Byte)} (hk : Kept k0 s) :
    Kept k0 (checkLoaded s n x key).1 := by
  unfold checkLoaded
  try dsimp only
  repeat' first
    | with_reducible assumption
    | with_reducible apply Kept.ite1
    | with_reducible apply Kept.ite
    | with_reducible apply kept_keyUsed
    | split

theorem kept_checkDelivered {k0 s : State} {n : Nat} {x : UpdSlot} {key : Option (List Byte)} (hk : Kept k0 s) :
    Kept k0 (checkDelivered s n x key).1 := by
  unfold checkDelivered
  try dsimp only
  repeat' first
    | with_reducible assumption
    | with_reducible apply Kept.ite1
    | with_reducible apply Kept.ite
    | with_reducible apply kept_keyUsed
    | split

theorem kept_checkImage {k0 s : State} {n : Nat} {key : Option (List Byte)} (hk : Kept k0 s) :
    Kept k0 (checkImage s n key).1 := by
  unfold checkImage
  try dsimp only
  repeat' first
    | with_reducible assumption
    | with_reducible apply Kept.ite1
    | with_reducible apply Kept.ite
    | with_reducible apply kept_checkDelivered
    | with_reducible apply kept_checkLoaded
    | split

theorem kept_updAudit {k0 s : State} {action : Nat} {n : Nat} {counts : List Nat} (hk : Kept k0 s) :
    Kept k0 (updAudit s action n counts) := by
  unfold updAudit
  dsimp only
  exact kept_record ‹_›

theorem kept_bodyUpdOpen {k0 s : State} {c : Cmd} (hk : Kept k0 s) :
    WorkKept k0 (bodyUpdOpen s c) := by
  unfold bodyUpdOpen
  dsimp only
  apply wk_checkOps
  apply wk_stopIf
  apply wk_stopIf
  apply wk_ite
  apply wk_pure
  dsimp only
  assumption
  apply wk_pure
  dsimp only
  exact kept_setUSlot ‹_›

theorem kept_execUpdOpen {k0 : State} {sq : Fin 16} {s : State} (hk : Kept k0 s) :
    OutKept k0 (execUpdOpen sq s) := by
  unfold execUpdOpen
  exact OutKept.next (kept_runRing ‹_› (fun _ _ _ => (kept_bodyUpdOpen ‹_›)))

theorem kept_storePiece {k0 s : State} {n : Nat} {i : Nat} {crc : Nat} {b : List Byte} {ok : Bool} (hk : Kept k0 s) :
    Kept k0 (storePiece s n i crc b ok).1 := by
  unfold storePiece
  dsimp only
  apply Kept.ite1
  dsimp only
  exact kept_count1 ‹_›
  apply Kept.ite1
  dsimp only
  exact kept_count1 ‹_›
  apply Kept.ite1
  dsimp only
  exact kept_setErr ‹_›
  dsimp only
  exact kept_setUSlot (kept_count1 ‹_›)

theorem kept_bodyUpdPiece {k0 : State} {ok : Bool} {s : State} {c : Cmd} (hk : Kept k0 s) :
    WorkKept k0 (bodyUpdPiece ok s c) := by
  unfold bodyUpdPiece
  dsimp only
  apply wk_checkOps
  apply wk_readBuf
  assumption
  intro _
  apply wk_stopIf
  apply wk_stopIf
  apply wk_ite
  apply wk_pure
  dsimp only
  exact kept_storePiece ‹_›
  exact wk_ansIn (kept_storePiece ‹_›)

theorem kept_execUpdPiece {k0 : State} {sq : Fin 16} {ok : Bool} {s : State} (hk : Kept k0 s) :
    OutKept k0 (execUpdPiece sq ok s) := by
  unfold execUpdPiece
  exact OutKept.next (kept_runRing ‹_› (fun _ _ _ => (kept_bodyUpdPiece ‹_›)))

theorem kept_bodyUpdVerify {k0 s : State} {c : Cmd} (hk : Kept k0 s) :
    WorkKept k0 (bodyUpdVerify s c) := by
  unfold bodyUpdVerify
  dsimp only
  apply wk_checkOps
  apply wk_stopIf
  apply wk_stopIf
  apply wk_pure
  dsimp only
  exact kept_updShow (kept_updUpd ‹_› (fun _ => rfl))

theorem kept_execUpdVerify {k0 : State} {sq : Fin 16} {s : State} (hk : Kept k0 s) :
    OutKept k0 (execUpdVerify sq s) := by
  unfold execUpdVerify
  exact OutKept.next (kept_runRing ‹_› (fun _ _ _ => (kept_bodyUpdVerify ‹_›)))

theorem kept_execImageVerified {k0 s : State} (hk : Kept k0 s) :
    OutKept k0 (execImageVerified s) := by
  unfold execImageVerified
  apply OutKept.next
  split
  assumption
  dsimp only
  apply kept_emitOutcome
  split
  dsimp only
  exact kept_setErr (kept_setUSlot (kept_checkImage (kept_updUpd ‹_› (fun _ => rfl))))
  dsimp only
  exact kept_updAudit (kept_setUSlot (kept_checkImage (kept_updUpd ‹_› (fun _ => rfl))))

theorem kept_bodyUpdErase {k0 s : State} {c : Cmd} (hk : Kept k0 s) :
    WorkKept k0 (bodyUpdErase s c) := by
  unfold bodyUpdErase
  dsimp only
  apply wk_checkOps
  apply wk_stopIf
  apply wk_stopIf
  apply wk_pure
  dsimp only
  exact kept_setUSlot ‹_›

theorem kept_execUpdErase {k0 : State} {sq : Fin 16} {s : State} (hk : Kept k0 s) :
    OutKept k0 (execUpdErase sq s) := by
  unfold execUpdErase
  exact OutKept.next (kept_runRing ‹_› (fun _ _ _ => (kept_bodyUpdErase ‹_›)))

theorem kept_armSlot {k0 s : State} {n actDt : Nat} (h : Kept k0 s) : ∀ t, armSlot s n actDt = .ok t → Kept k0 t := by
  intro t e
  unfold armSlot at e
  dsimp only at e
  split at e
  · cases e
  · split at e
    · cases e
    · split at e
      · cases e
      · cases e
        exact kept_updAudit (kept_setUSlot (kept_updUpd h fun _ => rfl))

theorem kept_bodyUpdActivate {k0 s : State} {c : Cmd} (hk : Kept k0 s) :
    WorkKept k0 (bodyUpdActivate s c) := by
  unfold bodyUpdActivate
  dsimp only
  apply wk_checkOps
  split
  apply wk_pure
  dsimp only
  refine kept_armSlot ?_ _ (by assumption)
  assumption
  exact trivial

theorem kept_execUpdActivate {k0 : State} {sq : Fin 16} {s : State} (hk : Kept k0 s) :
    OutKept k0 (execUpdActivate sq s) := by
  unfold execUpdActivate
  exact OutKept.next (kept_runRing ‹_› (fun _ _ _ => (kept_bodyUpdActivate ‹_›)))

theorem kept_actCross {k0 s : State} {old : Nat} {new : Nat} (hk : Kept k0 s) :
    Kept k0 (actCross s old new) := by
  unfold actCross
  exact kept_updUpd ‹_› (fun _ => rfl)

theorem kept_bodyUpdCancel {k0 s : State} {c : Cmd} (hk : Kept k0 s) :
    WorkKept k0 (bodyUpdCancel s c) := by
  unfold bodyUpdCancel
  apply wk_checkOps
  split
  exact trivial
  apply wk_stopIf
  apply wk_pure
  dsimp only
  exact kept_setUSlot (kept_updUpd ‹_› (fun _ => rfl))

theorem kept_execUpdCancel {k0 : State} {sq : Fin 16} {s : State} (hk : Kept k0 s) :
    OutKept k0 (execUpdCancel sq s) := by
  unfold execUpdCancel
  exact OutKept.next (kept_runRing ‹_› (fun _ _ _ => (kept_bodyUpdCancel ‹_›)))

theorem kept_bodyUpdConfirm {k0 s : State} {c : Cmd} (hk : Kept k0 s) :
    WorkKept k0 (bodyUpdConfirm s c) := by
  unfold bodyUpdConfirm
  apply wk_checkOps
  apply wk_stopIf
  apply wk_pure
  dsimp only
  exact kept_updUpd ‹_› (fun _ => rfl)

theorem kept_execUpdConfirm {k0 : State} {sq : Fin 16} {s : State} (hk : Kept k0 s) :
    OutKept k0 (execUpdConfirm sq s) := by
  unfold execUpdConfirm
  exact OutKept.next (kept_runRing ‹_› (fun _ _ _ => (kept_bodyUpdConfirm ‹_›)))

theorem kept_execImageConfirmed {k0 s : State} (hk : Kept k0 s) : OutKept k0 (execImageConfirmed s) := by
  unfold execImageConfirmed
  refine OutKept.next ?_
  split
  · refine Kept.ite (kept_emit (kept_updAudit (kept_setUSlot ?_))) hk
    exact hk.trans ⟨rfl, id, id, id, Nat.le_refl _, Nat.le_max_left _ _, fun _ => BitVec.and_self⟩
  · exact hk

theorem kept_announceWin {k0 s : State} {k : Nat} {sec : Nat} {ch : Nat} {n : Nat} (hk : Kept k0 s) :
    Kept k0 (announceWin s k sec ch n) := by
  unfold announceWin
  exact kept_macUpd (kept_streetUpd ‹_›)

theorem kept_dropWins {k0 s : State} {k : Nat} {p : Win → Bool} (hk : Kept k0 s) :
    Kept k0 (dropWins s k p) := by
  unfold dropWins
  exact kept_macUpd ‹_›

theorem kept_planImage {k0 s : State} {k : Nat} {sec : Nat} (hk : Kept k0 s) :
    Kept k0 (planImage s k sec) := by
  unfold planImage
  dsimp only
  apply Kept.ite
  assumption
  split
  exact kept_setCamp ‹_›
  exact kept_setCamp (kept_announceWin (kept_dropWins ‹_›))

theorem kept_announceAhead {k0 s : State} {k : Nat} (hk : Kept k0 s) :
    Kept k0 (announceAhead s k) := by
  unfold announceAhead
  dsimp only
  apply Kept.ite
  split
  exact kept_setCamp (kept_announceWin ‹_›)
  assumption
  assumption

theorem kept_imageTick {k0 s : State} (hk : Kept k0 s) :
    Kept k0 (imageTick s) := by
  unfold imageTick
  apply Kept.foldl
  assumption
  intro _
  intro _
  intro _
  dsimp only
  exact Kept.ite (kept_planImage (kept_dropWins ‹_›)) (kept_announceAhead (kept_dropWins ‹_›))

theorem kept_roundsDone {k0 s : State} {k : Nat} (hk : Kept k0 s) :
    Kept k0 (roundsDone s k) := by
  unfold roundsDone
  dsimp only
  exact kept_emitOutcome (kept_dropWins (kept_setCamp ‹_›))

theorem kept_startRound {k0 s : State} {k : Nat} (hk : Kept k0 s) :
    Kept k0 (startRound s k) := by
  unfold startRound
  dsimp only
  exact Kept.ite (kept_roundsDone ‹_›) (kept_planImage (kept_count1 (kept_setCamp ‹_›)))

theorem kept_execRoundStart {k0 s : State} (hk : Kept k0 s) :
    OutKept k0 (execRoundStart s) := by
  unfold execRoundStart
  apply OutKept.next
  split
  exact kept_startRound ‹_›
  assumption

theorem kept_sendBlock {k0 s : State} {k : Nat} {b : Nat} {w : ImgWin} (hk : Kept k0 s) :
    Kept k0 (sendBlock s k b w).1 := by
  unfold sendBlock
  apply Kept.ite1
  dsimp only
  exact kept_sendBroadcastOn ‹_›
  dsimp only
  assumption

theorem kept_useWindow {k0 s : State} {k : Nat} {w : ImgWin} (hk : Kept k0 s) :
    Kept k0 (useWindow s k w) := by
  unfold useWindow
  dsimp only
  exact kept_setCamp ‹_›

theorem kept_noteBlock {k0 : State} {p : State × Bool} (hk : Kept k0 p.1) :
    Kept k0 (noteBlock p) := by
  unfold noteBlock
  exact Kept.ite (kept_count1 ‹_›) ‹_›

theorem kept_sendDue {k0 s : State} {k : Nat} {w : ImgWin} (hk : Kept k0 s) :
    Kept k0 (sendDue s k w) := by
  unfold sendDue
  exact kept_noteBlock (kept_sendBlock (kept_useWindow ‹_›))

theorem kept_execImageBlock {k0 s : State} (hk : Kept k0 s) :
    OutKept k0 (execImageBlock s) := by
  unfold execImageBlock
  apply OutKept.next
  split
  assumption
  exact kept_sendDue ‹_›

theorem kept_imageStatus {k0 s : State} {n : Nat} {v : List Byte} (hk : Kept k0 s) :
    Kept k0 (imageStatus s n v) := by
  unfold imageStatus
  dsimp only
  exact kept_updUpd (kept_count1 (kept_updEnt ‹_›)) (fun _ => rfl)

theorem kept_imageCommitStatus {k0 s : State} {n : Nat} {id : Nat} {st : Nat} (hk : Kept k0 s) :
    Kept k0 (imageCommitStatus s n id st) := by
  unfold imageCommitStatus
  apply Kept.ite
  dsimp only
  exact kept_updUpd ‹_› (fun _ => rfl)
  assumption

theorem kept_execEpActivationDone {k0 s : State} (hk : Kept k0 s) :
    OutKept k0 (execEpActivationDone s) := by
  unfold execEpActivationDone
  apply OutKept.next
  split
  assumption
  dsimp only
  exact kept_emitOutcome (kept_updAudit (kept_setCamp ‹_›))

theorem kept_bodyUpdEpOffer {k0 s : State} {c : Cmd} (hk : Kept k0 s) :
    WorkKept k0 (bodyUpdEpOffer s c) := by
  unfold bodyUpdEpOffer
  dsimp only
  apply wk_checkOps
  apply wk_stopIf
  apply wk_stopIf
  apply wk_stopIf
  apply wk_stopIf
  apply wk_stopIf
  apply wk_pure
  dsimp only
  exact kept_setCamp (kept_acceptCommit ‹_›)

theorem kept_execUpdEpOffer {k0 : State} {sq : Fin 16} {s : State} (hk : Kept k0 s) :
    OutKept k0 (execUpdEpOffer sq s) := by
  unfold execUpdEpOffer
  exact OutKept.next (kept_runRing ‹_› (fun _ _ _ => (kept_bodyUpdEpOffer ‹_›)))

theorem kept_bodyUpdEpActivate {k0 s : State} {c : Cmd} (hk : Kept k0 s) :
    WorkKept k0 (bodyUpdEpActivate s c) := by
  unfold bodyUpdEpActivate
  dsimp only
  apply wk_checkOps
  apply wk_stopIf
  apply wk_stopIf
  apply wk_stopIf
  apply wk_pure
  dsimp only
  exact kept_setCamp (kept_acceptCommit ‹_›)

theorem kept_execUpdEpActivate {k0 : State} {sq : Fin 16} {s : State} (hk : Kept k0 s) :
    OutKept k0 (execUpdEpActivate sq s) := by
  unfold execUpdEpActivate
  exact OutKept.next (kept_runRing ‹_› (fun _ _ _ => (kept_bodyUpdEpActivate ‹_›)))

theorem kept_bodyUpdEpStop {k0 s : State} {c : Cmd} (hk : Kept k0 s) :
    WorkKept k0 (bodyUpdEpStop s c) := by
  unfold bodyUpdEpStop
  dsimp only
  apply wk_checkOps
  apply wk_stopIf
  apply wk_ite
  apply wk_stopIf
  apply wk_pure
  dsimp only
  apply kept_causedBy
  assumption
  apply kept_acceptCommit
  split
  exact kept_cancelCommit (Kept.ite (kept_roundsDone ‹_›) (kept_setCamp ‹_›))
  exact Kept.ite (kept_roundsDone ‹_›) (kept_setCamp ‹_›)
  apply wk_pure
  dsimp only
  exact kept_causedBy ‹_› (Kept.ite (kept_roundsDone ‹_›) (kept_setCamp ‹_›))

theorem kept_execUpdEpStop {k0 : State} {sq : Fin 16} {s : State} (hk : Kept k0 s) :
    OutKept k0 (execUpdEpStop sq s) := by
  unfold execUpdEpStop
  exact OutKept.next (kept_runRing ‹_› (fun _ _ _ => (kept_bodyUpdEpStop ‹_›)))

theorem kept_bodyUpdEpStatus {k0 s : State} {c : Cmd} (hk : Kept k0 s) :
    WorkKept k0 (bodyUpdEpStatus s c) := by
  unfold bodyUpdEpStatus
  dsimp only
  apply wk_checkOps
  apply wk_writeBuf
  assumption
  intro _
  intro _
  apply wk_pure
  dsimp only
  assumption

theorem kept_execUpdEpStatus {k0 : State} {sq : Fin 16} {s : State} (hk : Kept k0 s) :
    OutKept k0 (execUpdEpStatus sq s) := by
  unfold execUpdEpStatus
  exact OutKept.next (kept_runRing ‹_› (fun _ _ _ => (kept_bodyUpdEpStatus ‹_›)))

end Sys2Proof.Laws
end

