-- ==== Sys2Proof/Laws/KeptUplink.lean ====
section
/-! SUPPORT. What the operations of Machine/Uplink.lean keep. -/

namespace Sys2Proof.Laws

open Sys2Proof.Machine

theorem kept_badFrame {k0 s : State} (hk : Kept k0 s) :
    Kept k0 (badFrame s) := by
  unfold badFrame
  exact kept_count1 ‹_›

theorem kept_getKey {k0 s : State} {eui : Nat} {ep : Nat} (hk : Kept k0 s) :
    Kept k0 (getKey s eui ep).1 := by
  unfold getKey
  dsimp only
  exact kept_useKey ‹_›

theorem kept_openUp {k0 s : State} {h : UpHead} {ep : Nat} (hk : Kept k0 s) :
    Kept k0 (openUp s h ep).1 := by
  unfold openUp
  split
  split
  dsimp only
  refine Kept.fst (by assumption) ?_
  exact kept_getKey ‹_›
  dsimp only
  apply kept_count1
  refine Kept.fst (by assumption) ?_
  exact kept_getKey ‹_›

theorem kept_screen {k0 s : State} {h : UpHead} (hk : Kept k0 s) :
    Kept k0 (screen s h).1 := by
  unfold screen
  split
  dsimp only
  exact kept_count1 ‹_›
  dsimp only
  apply Kept.ite1
  dsimp only
  exact kept_count1 ‹_›
  apply Kept.ite1
  dsimp only
  exact kept_badFrame ‹_›
  apply Kept.ite1
  dsimp only
  exact kept_count1 ‹_›
  split
  dsimp only
  exact kept_openUp ‹_›
  apply Kept.ite1
  dsimp only
  exact kept_openUp ‹_›
  apply Kept.ite1
  dsimp only
  exact kept_count1 (kept_openUp ‹_›)
  apply Kept.ite1
  dsimp only
  exact kept_count1 (kept_openUp ‹_›)
  apply Kept.ite1
  apply Kept.ite1
  dsimp only
  exact kept_count1 (kept_openUp ‹_›)
  dsimp only
  exact kept_count1 (kept_openUp ‹_›)
  dsimp only
  exact kept_openUp ‹_›

theorem kept_answer {k0 s : State} {n : Nat} {f : UpFrame} {start : Nat} {ofs : Int} {acc : Bool} {ack : Bool} (hk : Kept k0
  s) :
    Kept k0 (answer s n f start ofs acc ack) := by
  unfold answer
  dsimp only
  exact Kept.ite (Kept.ite (kept_macUpd ‹_›) (Kept.ite (Kept.ite (kept_setEp ‹_›) (kept_macUpd (kept_setEp ‹_›))) (kept_setEp
    ‹_›))) ‹_›

theorem kept_appUp {k0 s : State} {n : Nat} {v : List Byte} (hk : Kept k0 s) :
    Kept k0 (appUp s n v) := by
  unfold appUp
  dsimp only
  exact Kept.foldl (kept_emit ‹_›) (fun _ _ _ => (Kept.ite (Kept.foldl (kept_macUpd ‹_›) (fun _ _ _ => (kept_portWrite ‹_›)))
    ‹_›))

theorem kept_presence {k0 s : State} {t25 : Nat} {v : List Byte} (hk : Kept k0 s) :
    Kept k0 (presence s t25 v) := by
  unfold presence
  dsimp only
  exact kept_intakePut ‹_›

theorem kept_endpointFault {k0 s : State} {n : Nat} {code : Nat} {detail : Nat} (hk : Kept k0 s) :
    Kept k0 (endpointFault s n code detail) := by
  unfold endpointFault
  dsimp only
  exact Kept.ite (kept_faultAt (kept_updEnt ‹_›)) (Kept.ite (kept_powerLoss (kept_updEnt ‹_›)) (kept_faultAt (kept_updEnt
    ‹_›)))

theorem kept_deliverElem {k0 : State} {pres : Bool} {n : Nat} {t25 : Nat} {s : State} {x : Nat × List Byte} (hk : Kept k0 s)
  :
    Kept k0 (deliverElem pres n t25 s x) := by
  unfold deliverElem
  dsimp only
  exact Kept.ite ‹_› (Kept.ite (kept_basinReport (kept_judgeReport (kept_updEnt ‹_›))) (Kept.ite (Kept.ite (kept_presence
    ‹_›) ‹_›) (Kept.ite (kept_endpointFault ‹_›) (Kept.ite (kept_imageCommitStatus (kept_commitStatus ‹_›)) (Kept.ite
    (kept_imageStatus ‹_›) (Kept.ite (kept_ambientReport ‹_›) (Kept.ite (kept_appUp ‹_›) ‹_›)))))))

theorem kept_deliverAll {k0 s : State} {pres : Bool} {n : Nat} {t25 : Nat} {payload : List Byte} (hk : Kept k0 s) :
    Kept k0 (deliverAll s pres n t25 payload) := by
  unfold deliverAll
  split
  dsimp only
  exact Kept.ite (kept_badFrame (Kept.foldl ‹_› (fun _ _ _ => (kept_deliverElem ‹_›)))) (Kept.foldl ‹_› (fun _ _ _ =>
    (kept_deliverElem ‹_›)))

theorem kept_rekeyDone {k0 s : State} {n : Nat} (hk : Kept k0 s) :
    Kept k0 (rekeyDone s n) := by
  unfold rekeyDone
  dsimp only
  exact kept_emitOutcome (kept_setEp ‹_›)

theorem kept_becameActive {k0 s : State} {n : Nat} {was : Nat} (hk : Kept k0 s) :
    Kept k0 (becameActive s n was) := by
  unfold becameActive
  try dsimp only
  repeat' first
    | with_reducible assumption
    | with_reducible apply Kept.ite
    | with_reducible apply kept_owedCommits
    | with_reducible apply kept_deliverMarked
    | with_reducible apply kept_emit
    | with_reducible apply kept_dropJoin
    | with_reducible apply kept_setEp
    | with_reducible apply kept_faultAt
    | with_reducible apply kept_repairLantern
    | split

theorem kept_acceptEntry {k0 s : State} {f : UpFrame} {evt : Option Resolved} (hk : Kept k0 s) :
    Kept k0 (acceptEntry s f evt) := by
  unfold acceptEntry
  dsimp only
  apply Kept.ite
  apply kept_updEnt
  apply kept_becameActive
  apply Kept.ite
  apply kept_startRekey
  apply Kept.ite
  apply kept_rekeyDone
  split
  exact kept_setEp (kept_setEnt ‹_›)
  exact kept_setEp (kept_setEnt ‹_›)
  split
  exact kept_setEp (kept_setEnt ‹_›)
  exact kept_setEp (kept_setEnt ‹_›)
  apply Kept.ite
  apply kept_rekeyDone
  split
  exact kept_setEp (kept_setEnt ‹_›)
  exact kept_setEp (kept_setEnt ‹_›)
  split
  exact kept_setEp (kept_setEnt ‹_›)
  exact kept_setEp (kept_setEnt ‹_›)
  apply kept_becameActive
  apply Kept.ite
  apply kept_startRekey
  apply Kept.ite
  apply kept_rekeyDone
  split
  exact kept_setEp (kept_setEnt ‹_›)
  exact kept_setEp (kept_setEnt ‹_›)
  split
  exact kept_setEp (kept_setEnt ‹_›)
  exact kept_setEp (kept_setEnt ‹_›)
  apply Kept.ite
  apply kept_rekeyDone
  split
  exact kept_setEp (kept_setEnt ‹_›)
  exact kept_setEp (kept_setEnt ‹_›)
  split
  exact kept_setEp (kept_setEnt ‹_›)
  exact kept_setEp (kept_setEnt ‹_›)

theorem kept_connDone {k0 s : State} {n : Nat} (hk : Kept k0 s) :
    Kept k0 (connDone s n) := by
  unfold connDone
  dsimp only
  split
  exact Kept.ite (kept_emitOutcome (kept_setEp ‹_›)) (kept_setEp ‹_›)
  assumption

theorem kept_connAgain {k0 s : State} {n : Nat} (hk : Kept k0 s) :
    Kept k0 (connAgain s n) := by
  unfold connAgain
  try dsimp only
  repeat' first
    | with_reducible assumption
    | with_reducible apply Kept.ite
    | with_reducible apply kept_failItems
    | with_reducible apply kept_queueDl
    | with_reducible apply kept_setEp
    | with_reducible refine Kept.fst (by assumption) ?_
    | with_reducible refine Kept.snd (by assumption) ?_
    | split
    | refine Kept.upd ?_ rfl rfl rfl rfl

theorem kept_mapUpdate {k0 s : State} {n : Nat} (hk : Kept k0 s) :
    Kept k0 (mapUpdate s n) := by
  unfold mapUpdate
  dsimp only
  exact Kept.ite (kept_queueDl (kept_setEp ‹_›)) ‹_›

theorem kept_accept {k0 s : State} {f : UpFrame} {evt : Option Resolved} {pres : Bool} (hk : Kept k0 s) :
    Kept k0 (accept s f evt pres) := by
  unfold accept
  try dsimp only
  repeat' first
    | with_reducible assumption
    | with_reducible apply Kept.ite
    | with_reducible apply kept_acceptEntry
    | with_reducible apply kept_setEnt
    | with_reducible apply kept_ackItems
    | with_reducible apply kept_connDone
    | with_reducible apply kept_connAgain
    | with_reducible apply kept_setEp
    | with_reducible apply kept_mapUpdate
    | with_reducible apply kept_deliverAll
    | split

theorem kept_clearGuard {k0 s : State} {n : Nat} (hk : Kept k0 s) :
    Kept k0 (clearGuard s n) := by
  unfold clearGuard
  exact Kept.ite (kept_setEp (kept_updEnt ‹_›)) ‹_›

theorem kept_outOfWindow {k0 s : State} {n : Nat} (hk : Kept k0 s) :
    Kept k0 (outOfWindow s n) := by
  unfold outOfWindow
  dsimp only
  exact Kept.ite (kept_count1 ‹_›) (kept_updEnt (kept_macUpd (kept_count1 ‹_›)))

theorem kept_denyJoin {k0 s : State} {reason : Nat} {eui : Nat} (hk : Kept k0 s) :
    Kept k0 (denyJoin s reason eui) := by
  unfold denyJoin
  dsimp only
  exact kept_emit (kept_setErr (kept_count1 ‹_›))

theorem kept_acceptJoin {k0 s : State} {x : RxFrame} {h : UpHead} {q : List Byte} {n : Nat} {o : FoldEntry} {sp : Nat} {anchor : Nat} {ofs : Int} {via : JoinVia} (hk : Kept k0 s) :
    Kept k0 (acceptJoin s x h q n o sp anchor ofs via) := by
  unfold acceptJoin
  try dsimp only
  repeat' first
    | with_reducible assumption
    | with_reducible apply Kept.ite
    | with_reducible apply kept_setEnt
    | with_reducible apply kept_drawFree
    | with_reducible apply kept_setEp
    | with_reducible apply kept_rekeyDone
    | with_reducible apply kept_macUpd
    | with_reducible apply kept_queueDl
    | with_reducible apply kept_useMaster
    | with_reducible refine Kept.fst (by assumption) ?_
    | with_reducible refine Kept.snd (by assumption) ?_
    | split
    | refine Kept.upd ?_ rfl rfl rfl rfl

theorem kept_joinReq {k0 s : State} {x : RxFrame} {h : UpHead} {via : JoinVia} (hk : Kept k0 s) :
    Kept k0 (joinReq s x h via) := by
  unfold joinReq
  dsimp only
  apply Kept.ite
  exact kept_count1 ‹_›
  apply Kept.ite
  exact kept_badFrame ‹_›
  apply Kept.ite
  exact kept_denyJoin ‹_›
  apply Kept.ite
  exact kept_denyJoin ‹_›
  apply Kept.ite
  exact kept_count1 (kept_getKey ‹_›)
  apply Kept.ite
  exact kept_denyJoin (kept_getKey ‹_›)
  apply Kept.ite
  exact kept_count1 (kept_getKey ‹_›)
  split
  exact kept_denyJoin (kept_setErr (kept_getKey ‹_›))
  split
  exact kept_denyJoin (kept_getKey ‹_›)
  exact kept_acceptJoin (kept_getKey ‹_›)

theorem kept_hear {k0 s : State} {f : UpFrame} (hk : Kept k0 s) :
    Kept k0 (hear s f) := by
  unfold hear
  dsimp only
  exact Kept.ite (.upd ‹_› rfl rfl rfl rfl) (Kept.foldl (.upd ‹_› rfl rfl rfl rfl) (fun _ _ _ => (kept_presence ‹_›)))

theorem kept_relayed {k0 : State} {x0 : Nat} {x1 : State} {x2 : UpFrame} (hk : Kept k0 x1) :
    Kept k0 (relayed x0 x1 x2) := by
  induction x0 generalizing x1 x2 with
  | zero =>
    unfold relayed
    exact kept_count1 ‹_›
  | succ _ ih =>
    unfold relayed
    split
    exact kept_badFrame ‹_›
    apply Kept.ite
    exact kept_badFrame ‹_›
    apply Kept.ite
    exact Kept.ite ‹_› (kept_joinReq ‹_›)
    split
    dsimp only
    apply Kept.ite
    apply Kept.ite
    apply ih
    apply kept_hear
    refine Kept.fst (by assumption) ?_
    exact kept_screen ‹_›
    apply kept_hear
    refine Kept.fst (by assumption) ?_
    exact kept_screen ‹_›
    apply Kept.ite
    apply kept_outOfWindow
    apply kept_clearGuard
    refine Kept.fst (by assumption) ?_
    exact kept_screen ‹_›
    apply Kept.ite
    apply ih
    apply Kept.ite
    apply kept_ackLater
    apply kept_accept
    apply kept_clearGuard
    refine Kept.fst (by assumption) ?_
    exact kept_screen ‹_›
    apply kept_accept
    apply kept_clearGuard
    refine Kept.fst (by assumption) ?_
    exact kept_screen ‹_›
    apply Kept.ite
    apply kept_ackLater
    apply kept_accept
    apply kept_clearGuard
    refine Kept.fst (by assumption) ?_
    exact kept_screen ‹_›
    apply kept_accept
    apply kept_clearGuard
    refine Kept.fst (by assumption) ?_
    exact kept_screen ‹_›
    apply Kept.ite
    refine Kept.fst (by assumption) ?_
    exact kept_screen ‹_›
    dsimp only
    apply Kept.ite
    apply kept_ackLater
    apply kept_updEnt
    refine Kept.fst (by assumption) ?_
    exact kept_screen ‹_›
    apply kept_updEnt
    refine Kept.fst (by assumption) ?_
    exact kept_screen ‹_›
    apply Kept.ite
    refine Kept.fst (by assumption) ?_
    exact kept_screen ‹_›
    apply kept_setEp
    refine Kept.fst (by assumption) ?_
    exact kept_screen ‹_›
    refine Kept.fst (by assumption) ?_
    exact kept_screen ‹_›

theorem kept_resolveAccept {k0 : State} {s0 : State} {f : UpFrame} (hk : Kept k0 s0) :
    Kept k0 (resolveAccept s0 f) := by
  unfold resolveAccept
  dsimp only
  apply Kept.ite
  exact kept_answer (Kept.ite (kept_setEp (kept_outOfWindow (Kept.ite ‹_› (kept_clearGuard ‹_›)))) (kept_outOfWindow
    (Kept.ite ‹_› (kept_clearGuard ‹_›))))
  apply Kept.ite
  exact kept_answer (kept_accept (kept_drawFree (Kept.ite ‹_› (kept_clearGuard ‹_›))))
  split
  exact kept_answer (Kept.ite (kept_setEp (kept_outOfWindow (Kept.ite ‹_› (kept_clearGuard ‹_›)))) (kept_outOfWindow
    (Kept.ite ‹_› (kept_clearGuard ‹_›))))
  exact kept_answer (kept_accept (Kept.ite (kept_count1 (Kept.ite ‹_› (kept_clearGuard ‹_›))) (Kept.ite ‹_› (kept_clearGuard
    ‹_›))))

theorem kept_directUp {k0 s : State} {x : RxFrame} {h : UpHead} (hk : Kept k0 s) :
    Kept k0 (directUp s x h) := by
  unfold directUp
  dsimp only
  split
  refine Kept.fst (by assumption) ?_
  exact kept_screen ‹_›
  apply Kept.ite
  refine Kept.fst (by assumption) ?_
  exact kept_screen ‹_›
  apply kept_answer
  refine Kept.fst (by assumption) ?_
  exact kept_screen ‹_›
  apply Kept.ite
  refine Kept.fst (by assumption) ?_
  exact kept_screen ‹_›
  apply kept_answer
  apply kept_setEp
  refine Kept.fst (by assumption) ?_
  exact kept_screen ‹_›
  apply Kept.ite
  refine Kept.fst (by assumption) ?_
  exact kept_screen ‹_›
  apply kept_answer
  apply kept_updEnt
  refine Kept.fst (by assumption) ?_
  exact kept_screen ‹_›
  apply Kept.ite
  apply Kept.ite
  apply kept_relayed
  apply kept_hear
  refine Kept.fst (by assumption) ?_
  exact kept_screen ‹_›
  apply kept_hear
  refine Kept.fst (by assumption) ?_
  exact kept_screen ‹_›
  apply Kept.ite
  apply kept_relayed
  apply kept_resolveAccept
  refine Kept.fst (by assumption) ?_
  exact kept_screen ‹_›
  apply kept_resolveAccept
  refine Kept.fst (by assumption) ?_
  exact kept_screen ‹_›

theorem kept_withFrame {k0 s : State} {p : RxFrame → Bool} {work : State → RxFrame → UpHead → State} (hk : Kept k0 s) (hwork
  : ∀ t a0 a1, Kept k0 t → Kept k0 (work t a0 a1)) :
    Kept k0 (withFrame s p work) := by
  unfold withFrame
  split
  assumption
  dsimp only
  apply Kept.ite
  exact kept_radUpd ‹_›
  split
  exact kept_badFrame (kept_radUpd ‹_›)
  apply Kept.ite
  apply hwork
  exact kept_radUpd ‹_›
  exact kept_badFrame (kept_radUpd ‹_›)

theorem kept_execJoinReq {k0 s : State} (hk : Kept k0 s) :
    OutKept k0 (execJoinReq s) := by
  unfold execJoinReq
  exact OutKept.next (kept_withFrame ‹_› (fun _ _ _ _ => (Kept.ite ‹_› (kept_joinReq ‹_›))))

theorem kept_execDataUp {k0 s : State} (hk : Kept k0 s) :
    OutKept k0 (execDataUp s) := by
  unfold execDataUp
  exact OutKept.next (kept_withFrame ‹_› (fun _ _ _ _ => (kept_directUp ‹_›)))

theorem kept_execRelayUp {k0 s : State} (hk : Kept k0 s) :
    OutKept k0 (execRelayUp s) := by
  unfold execRelayUp
  exact OutKept.next (kept_withFrame ‹_› (fun _ _ _ _ => (kept_directUp ‹_›)))

end Sys2Proof.Laws
end

