-- ==== Sys2Proof/Laws/KeptPairBase.lean ====
section
/-! SUPPORT. What the operations of Machine/PairBase.lean keep. -/

namespace Sys2Proof.Laws

open Sys2Proof.Machine

theorem kept_holdOut {k0 s : State} {b : Bool} (hk : Kept k0 s) :
    Kept k0 (holdOut s b) := by
  unfold holdOut
  exact kept_drivePad (kept_setFlag ‹_›)

theorem kept_gateCheck {k0 s : State} (hk : Kept k0 s) :
    Kept k0 (gateCheck s) := by
  unfold gateCheck
  try dsimp only
  repeat' first
    | with_reducible assumption
    | with_reducible apply Kept.ite
    | with_reducible apply kept_showPads
    | with_reducible apply kept_pairUpd
    | split
    | refine Kept.upd ?_ rfl rfl rfl rfl

theorem kept_toggleAct {k0 s : State} (hk : Kept k0 s) :
    Kept k0 (toggleAct s) := by
  unfold toggleAct
  dsimp only
  exact kept_gateCheck (kept_drivePad (kept_setFlag (kept_pairUpd ‹_›)))

theorem kept_sendBulk {k0 s0 : State} {msg : Nat} (hk : Kept k0 s0) :
    Kept k0 (sendBulk s0 msg) := by
  unfold sendBulk
  try dsimp only
  repeat' first
    | with_reducible assumption
    | with_reducible apply Kept.ite
    | with_reducible refine Kept.foldl ?_ fun _ _ _ => ?_
    | with_reducible apply kept_ckTables
    | with_reducible apply kept_mirSend
    | split

theorem kept_partnerEvent {k0 s : State} {k : Nat} (hk : Kept k0 s) :
    Kept k0 (partnerEvent s k) := by
  unfold partnerEvent
  exact kept_emit ‹_›

theorem kept_unsync {k0 s : State} (hk : Kept k0 s) :
    Kept k0 (unsync s) := by
  unfold unsync
  exact Kept.ite (kept_partnerEvent (kept_setFld ‹_›)) ‹_›

theorem kept_requestBulk {k0 s : State} {msg : Nat} (hk : Kept k0 s) :
    Kept k0 (requestBulk s msg) := by
  unfold requestBulk
  dsimp only
  exact kept_mirSend (kept_pairUpd (kept_unsync ‹_›))

theorem kept_abortSwitchover {k0 s : State} (hk : Kept k0 s) :
    Kept k0 (abortSwitchover s) := by
  unfold abortSwitchover
  exact kept_completeAll ‹_›

theorem kept_setRole {k0 s : State} {new : Nat} {cause : Nat} {frames : Nat} (hk : Kept k0 s) :
    Kept k0 (setRole s new cause frames) := by
  unfold setRole
  dsimp only
  exact kept_emit (kept_setFld ‹_›)

theorem kept_standDown {k0 s : State} {new : Nat} {cause : Nat} (hk : Kept k0 s) :
    Kept k0 (standDown s new cause) := by
  unfold standDown
  try dsimp only
  repeat' first
    | with_reducible assumption
    | with_reducible apply Kept.ite
    | with_reducible apply kept_macUpd
    | with_reducible apply kept_oxDemote
    | with_reducible apply kept_abortSwitchover
    | with_reducible apply kept_setRole
    | with_reducible apply kept_outputsCheck
    | with_reducible apply kept_gateCheck
    | with_reducible apply kept_holdOut
    | split
    | refine Kept.upd ?_ rfl rfl rfl rfl

theorem kept_releaseRole {k0 s : State} (hk : Kept k0 s) :
    Kept k0 (releaseRole s) := by
  unfold releaseRole
  try dsimp only
  repeat' first
    | with_reducible assumption
    | with_reducible apply kept_oxFlush
    | with_reducible apply kept_pairUpd
    | with_reducible apply kept_holdOut
    | with_reducible apply kept_abortSwitchover
    | with_reducible apply kept_mirSend
    | with_reducible apply kept_standDown
    | refine Kept.upd ?_ rfl rfl rfl rfl

theorem kept_applyHeard {k0 s : State} (hk : Kept k0 s) :
    Kept k0 (applyHeard s).1 := by
  unfold applyHeard
  dsimp only
  apply Kept.foldl1
  dsimp only
  exact kept_pairUpd ‹_›
  intro _
  intro _
  intro _
  apply Kept.ite1
  dsimp only
  assumption
  dsimp only
  exact kept_count1 (Kept.ite (kept_ackLater (kept_accept ‹_›)) (kept_accept ‹_›))

theorem kept_leapCounters {k0 s : State} (hk : Kept k0 s) :
    Kept k0 (leapCounters s) := by
  unfold leapCounters
  dsimp only
  exact kept_jrn (kept_setFld (Kept.foldl ‹_› (fun _ _ _ => (Kept.ite ‹_› (kept_updEnt ‹_›)))))

theorem kept_rebuildCommits {k0 s : State} (hk : Kept k0 s) :
    Kept k0 (rebuildCommits s) := by
  unfold rebuildCommits
  try dsimp only
  repeat' first
    | with_reducible assumption
    | with_reducible apply kept_streetUpd
    | with_reducible apply kept_planCommits
    | with_reducible refine Kept.fst (by assumption) ?_
    | with_reducible refine Kept.snd (by assumption) ?_
    | split
    | refine Kept.upd ?_ rfl rfl rfl rfl

theorem kept_rebuildSteps {k0 s : State} (hk : Kept k0 s) :
    Kept k0 (rebuildSteps s) := by
  unfold rebuildSteps
  dsimp only
  exact Kept.foldl (kept_streetUpd ‹_›) (fun _ _ _ => (kept_takeForce ‹_›))

theorem kept_rebuildCampaigns {k0 s : State} (hk : Kept k0 s) :
    Kept k0 (rebuildCampaigns s) := by
  unfold rebuildCampaigns
  apply Kept.foldl
  assumption
  intro _
  intro _
  intro _
  dsimp only
  exact Kept.ite ‹_› (Kept.ite (.upd (kept_setCamp ‹_›) rfl rfl rfl rfl) (Kept.ite (.upd (kept_setCamp ‹_›) rfl rfl rfl rfl)
    (kept_setCamp ‹_›)))

theorem kept_ringsGoOn {k0 s : State} (hk : Kept k0 s) :
    Kept k0 (ringsGoOn s) := by
  unfold ringsGoOn
  exact kept_cisUpd ‹_›

theorem kept_becomeActive {k0 s00 : State} {cause : Nat} (hk : Kept k0 s00) :
    Kept k0 (becomeActive s00 cause) := by
  unfold becomeActive
  try dsimp only
  repeat' first
    | with_reducible assumption
    | with_reducible apply Kept.ite
    | with_reducible refine Kept.foldl ?_ fun _ _ _ => ?_
    | with_reducible apply kept_ringsGoOn
    | with_reducible apply kept_setFld
    | with_reducible apply kept_setErr
    | with_reducible apply kept_count1
    | with_reducible apply kept_applyHeard
    | with_reducible apply kept_leapCounters
    | with_reducible apply kept_planCommits
    | with_reducible apply kept_rebuildCampaigns
    | with_reducible apply kept_rebuildCommits
    | with_reducible apply kept_rebuildSteps
    | with_reducible apply kept_updIntv
    | with_reducible apply kept_fedUpd
    | with_reducible apply kept_weirStart
    | with_reducible apply kept_weirTakeover
    | with_reducible apply kept_oxTakeover
    | with_reducible apply kept_autostart
    | with_reducible apply kept_ftnReset
    | with_reducible apply kept_ckLoad
    | with_reducible apply kept_toggleAct
    | with_reducible apply kept_pairUpd
    | with_reducible apply kept_emit
    | with_reducible refine Kept.fst (by assumption) ?_
    | with_reducible refine Kept.snd (by assumption) ?_
    | split
    | refine Kept.upd ?_ rfl rfl rfl rfl

end Sys2Proof.Laws
end

