-- ==== Sys2Proof/Laws/KeptPower.lean ====
section
/-! SUPPORT. What the operations of Machine/Power.lean keep. -/

namespace Sys2Proof.Laws

open Sys2Proof.Machine

theorem kept_pwrUpd {k0 s : State} {f : PwrSt → PwrSt} (hk : Kept k0 s) :
    Kept k0 (pwrUpd s f) := by
  unfold pwrUpd
  exact .upd ‹_› rfl rfl rfl rfl

theorem kept_resetRegs {k0 s : State} {d : Depth} (hk : Kept k0 s) :
    Kept k0 (resetRegs s d) := by
  unfold resetRegs
  dsimp only
  exact Kept.foldl (kept_dropRegs ‹_›) (fun _ _ _ => (kept_setFld ‹_›))

theorem kept_releasePads {k0 s : State} (hk : Kept k0 s) :
    Kept k0 (releasePads s) := by
  unfold releasePads
  try dsimp only
  repeat' first
    | with_reducible assumption
    | with_reducible apply kept_dropDrives
    | refine Kept.upd ?_ rfl rfl rfl rfl

theorem kept_resetBlocks {k0 s : State} {d : Depth} (h : Kept k0 s) : Kept k0 (resetBlocks s d) := by
  refine ⟨h.pend, h.mem, h.regs, fun w => ?_, h.el, h.floor, ?_⟩
  · have := h.dt w
    unfold resetBlocks
    dsimp only
    split <;> omega
  · unfold resetBlocks
    dsimp only
    split
    · exact h.burned
    · exact h.burned

theorem kept_wipe {k0 s0 : State} {d : Depth} (hk : Kept k0 s0) :
    Kept k0 (wipe s0 d) := by
  unfold wipe
  try dsimp only
  repeat' first
    | with_reducible assumption
    | with_reducible apply Kept.ite
    | with_reducible apply kept_ckFallBack
    | with_reducible apply kept_resetBlocks
    | with_reducible apply kept_resetRegs
    | with_reducible apply kept_releasePads
    | with_reducible apply kept_oxReset
    | with_reducible apply kept_ftnReset
    | with_reducible apply kept_weirReset
    | with_reducible apply kept_basinReset
    | with_reducible apply kept_cisReset
    | with_reducible apply kept_sourceLost
    | split

theorem kept_jetStops {k0 s : State} {jets : List (Nat × Nat)} (hk : Kept k0 s) :
    Kept k0 (jetStops s jets) := by
  unfold jetStops
  try dsimp only
  repeat' first
    | with_reducible assumption
    | with_reducible refine Kept.foldl ?_ fun _ _ _ => ?_
    | with_reducible apply kept_emit

theorem kept_afresh {k0 s : State} {s0 : State} (hk : Kept k0 s) :
    Kept k0 (afresh s0 s) := by
  unfold afresh
  try dsimp only
  repeat' first
    | with_reducible assumption
    | with_reducible apply kept_jetStops
    | with_reducible apply kept_cisResume

theorem kept_markSlot {k0 s : State} {n : Nat} {v : Nat} (hk : Kept k0 s) :
    Kept k0 (markSlot s n v) := by
  unfold markSlot
  exact kept_setUSlot ‹_›

theorem kept_selectSlot {k0 s : State} {again : Bool} {health : Bool} (hk : Kept k0 s) :
    Kept k0 (selectSlot s again health).1 := by
  unfold selectSlot
  split
  dsimp only
  assumption
  apply Kept.ite1
  dsimp only
  exact kept_markSlot (Kept.ite (kept_markSlot (kept_updUpd ‹_› (fun _ => rfl))) (kept_updUpd ‹_› (fun _ => rfl)))
  apply Kept.ite1
  dsimp only
  exact kept_updUpd ‹_› (fun _ => rfl)
  dsimp only
  exact kept_markSlot (kept_markSlot (kept_updUpd ‹_› (fun _ => rfl)))

theorem kept_slotFailed {k0 s : State} {n : Nat} (hk : Kept k0 s) :
    Kept k0 (slotFailed s n) := by
  unfold slotFailed
  try dsimp only
  repeat' first
    | with_reducible assumption
    | with_reducible apply Kept.ite
    | with_reducible refine kept_updUpd ?_ fun _ => rfl
    | with_reducible apply kept_setErr
    | with_reducible apply kept_markSlot
    | split
    | refine Kept.upd ?_ rfl rfl rfl rfl

theorem kept_bootRom {k0 s : State} {again : Bool} {health : Bool} (hk : Kept k0 s) :
    Kept k0 (bootRom s again health).1 := by
  unfold bootRom
  try dsimp only
  repeat' first
    | with_reducible assumption
    | with_reducible apply Kept.ite1
    | with_reducible apply Kept.ite
    | with_reducible apply kept_selectSlot
    | with_reducible apply kept_checkImage
    | with_reducible apply kept_updShow
    | with_reducible refine kept_updUpd ?_ fun _ => rfl
    | with_reducible apply kept_slotFailed
    | with_reducible apply kept_markSlot
    | with_reducible apply kept_setErr
    | with_reducible refine Kept.fst (by assumption) ?_
    | with_reducible refine Kept.snd (by assumption) ?_
    | split
    | refine Kept.upd ?_ rfl rfl rfl rfl

theorem kept_fellBack {k0 s : State} {n : Nat} {cause : Nat} (hk : Kept k0 s) :
    Kept k0 (fellBack s n cause) := by
  unfold fellBack
  dsimp only
  exact kept_emit (kept_updAudit (kept_setErr (kept_count1 ‹_›)))

theorem kept_takeBoot {k0 s : State} {b : Boot} {cause : Nat} (hk : Kept k0 s) :
    Kept k0 (takeBoot s b cause) := by
  unfold takeBoot
  try dsimp only
  repeat' first
    | with_reducible assumption
    | with_reducible refine Kept.foldl ?_ fun _ _ _ => ?_
    | with_reducible apply kept_setFld
    | with_reducible apply kept_drivePad

theorem kept_coldSteps {k0 s : State} {b : Boot} {warned : Bool} (hk : Kept k0 s) :
    Kept k0 (coldSteps s b warned) := by
  unfold coldSteps
  dsimp only
  apply kept_rootBuild
  apply kept_otpShow
  apply kept_latchCal
  apply kept_latchSec
  apply Kept.ite
  apply kept_setQual
  apply Kept.ite
  apply kept_setErr
  split
  exact kept_setFlag (kept_setFld ‹_›)
  assumption
  split
  exact kept_setFlag (kept_setFld ‹_›)
  assumption
  apply Kept.ite
  apply kept_setErr
  split
  exact kept_setFlag (kept_setFld ‹_›)
  assumption
  split
  exact kept_setFlag (kept_setFld ‹_›)
  assumption

theorem kept_startRole {k0 s : State} (hk : Kept k0 s) :
    Kept k0 (startRole s) := by
  unfold startRole
  dsimp only
  exact Kept.ite (kept_setFld (kept_pairUpd ‹_›)) (kept_pairUpd ‹_›)

theorem kept_stampLastRx {k0 s : State} (hk : Kept k0 s) :
    Kept k0 (stampLastRx s) := by
  unfold stampLastRx
  exact kept_macUpd ‹_›

theorem kept_radioStep {k0 s : State} {bare : Bool} (hk : Kept k0 s) :
    Kept k0 (radioStep s bare) := by
  unfold radioStep
  try dsimp only
  repeat' first
    | with_reducible assumption
    | with_reducible apply Kept.ite
    | with_reducible refine Kept.foldl ?_ fun _ _ _ => ?_
    | with_reducible apply kept_ckLoad
    | with_reducible apply kept_setFld
    | with_reducible apply kept_restoreDuty
    | with_reducible apply kept_setFlag
    | with_reducible apply kept_startRole
    | with_reducible apply kept_stampLastRx
    | with_reducible apply kept_driveClks
    | with_reducible apply kept_takeForce
    | with_reducible apply kept_autostart
    | with_reducible apply kept_planCommits
    | with_reducible apply kept_weirStart
    | with_reducible apply kept_oxRestore
    | with_reducible apply kept_syncSlow
    | with_reducible apply kept_startFast
    | split

theorem kept_tamperRecord {k0 s : State} {inputs : Nat} (hk : Kept k0 s) :
    Kept k0 (tamperRecord s inputs) := by
  unfold tamperRecord
  exact kept_record ‹_›

theorem kept_hostRings {k0 s : State} {cause : Nat} {fb : List (Nat × Nat)} (hk : Kept k0 s) :
    Kept k0 (hostRings s cause fb) := by
  unfold hostRings
  dsimp only
  exact Kept.foldl (kept_pwrUpd (Kept.foldl (kept_restartRecord (kept_setFld (kept_setFld ‹_›))) (fun _ _ _ =>
    (kept_tamperRecord ‹_›)))) (fun _ _ _ => (kept_fellBack ‹_›))

theorem kept_takeBad {k0 s : State} {l : List BadCrc} (hk : Kept k0 s) :
    Kept k0 (takeBad s l) := by
  unfold takeBad
  try dsimp only
  repeat' first
    | with_reducible assumption
    | with_reducible apply Kept.ite
    | with_reducible refine Kept.foldl ?_ fun _ _ _ => ?_
    | with_reducible apply kept_basUpd
    | with_reducible apply kept_oxUpd
    | with_reducible refine kept_keyUpd ?_ fun _ => rfl
    | with_reducible apply kept_record
    | with_reducible apply kept_cisBad
    | with_reducible refine Kept.fst (by assumption) ?_
    | with_reducible refine Kept.snd (by assumption) ?_
    | split
    | refine Kept.upd ?_ rfl rfl rfl rfl

theorem kept_firstSteps {k0 s : State} {b : Boot} {cause : Nat} {warned : Bool} (hk : Kept k0 s) :
    Kept k0 (firstSteps s b cause warned) := by
  unfold firstSteps
  dsimp only
  exact kept_selfTest (Kept.ite (kept_coldSteps (kept_takeBoot (kept_takeBad ‹_›))) (kept_takeBoot (kept_takeBad ‹_›)))

theorem kept_lastSteps {k0 : State} {p : State × List (Nat × Nat)} {bare : Bool} {cause : Nat} (hk : Kept k0 p.1) :
    Kept k0 (lastSteps p bare cause) := by
  unfold lastSteps
  dsimp only
  exact kept_hostRings (kept_radioStep (kept_restoreBasin (kept_restoreFold (kept_setFld ‹_›))))

theorem kept_startUp {k0 s : State} {b : Boot} {cause : Nat} {warned : Bool} {again : Bool} {health : Bool} (hk : Kept k0 s)
  :
    Kept k0 (startUp s b cause warned again health) := by
  unfold startUp
  dsimp only
  exact kept_lastSteps (kept_bootRom (kept_coopRestore (kept_ckLoad (Kept.ite (kept_setFld (kept_firstSteps ‹_›))
    (kept_firstSteps ‹_›)))))

theorem kept_modReset {k0 s : State} {b : Boot} {cause : Nat} {health : Bool} (hk : Kept k0 s) :
    Kept k0 (modReset s b cause health) := by
  unfold modReset
  try dsimp only
  repeat' first
    | with_reducible assumption
    | with_reducible apply kept_startUp
    | with_reducible apply kept_afresh
    | with_reducible apply kept_wipe
    | with_reducible apply kept_count1

theorem kept_coldStart {k0 s : State} {b : Boot} {cause : Nat} (hk : Kept k0 s) :
    Kept k0 (coldStart s b cause) := by
  unfold coldStart
  try dsimp only
  repeat' first
    | with_reducible assumption
    | with_reducible apply Kept.ite
    | with_reducible apply kept_wipe
    | with_reducible apply kept_startUp
    | with_reducible apply kept_pwrUpd
    | with_reducible apply kept_afresh
    | with_reducible refine Kept.fst (by assumption) ?_
    | with_reducible refine Kept.snd (by assumption) ?_
    | split
    | refine Kept.upd ?_ rfl rfl rfl rfl

theorem kept_execRstN {k0 : State} {b : Boot} {s : State} (hk : Kept k0 s) :
    OutKept k0 (execRstN b s) := by
  unfold execRstN
  exact OutKept.next (Kept.ite (kept_modReset ‹_›) ‹_›)

theorem kept_execWatchdog {k0 : State} {b : Boot} {s : State} (hk : Kept k0 s) :
    OutKept k0 (execWatchdog b s) := by
  unfold execWatchdog
  exact OutKept.next (Kept.ite (kept_modReset ‹_›) ‹_›)

theorem kept_execHealthWindowExpiry {k0 : State} {b : Boot} {s : State} (hk : Kept k0 s) :
    OutKept k0 (execHealthWindowExpiry b s) := by
  unfold execHealthWindowExpiry
  apply OutKept.next
  split
  exact Kept.ite (kept_modReset ‹_›) ‹_›
  assumption

theorem kept_execVinGood {k0 s : State} {b : Boot} (hk : Kept k0 s) :
    OutKept k0 (execVinGood b s) := by
  unfold execVinGood
  try dsimp only
  repeat' first
    | with_reducible assumption
    | with_reducible refine OutKept.next ?_
    | with_reducible apply Kept.ite
    | with_reducible apply kept_coldStart
    | with_reducible apply kept_setFld
    | with_reducible refine Kept.fst (by assumption) ?_
    | with_reducible refine Kept.snd (by assumption) ?_
    | split

theorem kept_execVinDip {k0 : State} {b : Boot} {s : State} (hk : Kept k0 s) :
    OutKept k0 (execVinDip b s) := by
  unfold execVinDip
  apply OutKept.next
  dsimp only
  exact Kept.ite (kept_coldStart (kept_count1 ‹_›)) ‹_›

theorem kept_execBrownOut {k0 s : State} (hk : Kept k0 s) :
    OutKept k0 (execBrownOut s) := by
  unfold execBrownOut
  try dsimp only
  repeat' first
    | with_reducible assumption
    | with_reducible refine OutKept.next ?_
    | with_reducible apply kept_setFld
    | with_reducible apply kept_wipe
    | with_reducible apply kept_count1
    | with_reducible apply kept_pwrUpd
    | with_reducible apply kept_dropDrives
    | with_reducible refine Kept.fst (by assumption) ?_
    | with_reducible refine Kept.snd (by assumption) ?_
    | split
    | refine Kept.upd ?_ rfl rfl rfl rfl

theorem kept_execClockFault {k0 s : State} (hk : Kept k0 s) :
    OutKept k0 (execClockFault s) := by
  unfold execClockFault
  try dsimp only
  repeat' first
    | with_reducible assumption
    | with_reducible refine OutKept.next ?_
    | with_reducible apply kept_pwrUpd
    | with_reducible apply kept_wipe
    | with_reducible refine Kept.fst (by assumption) ?_
    | with_reducible refine Kept.snd (by assumption) ?_
    | split
    | refine Kept.upd ?_ rfl rfl rfl rfl

theorem kept_execClockRecover {k0 : State} {b : Boot} {s : State} (hk : Kept k0 s) :
    OutKept k0 (execClockRecover b s) := by
  unfold execClockRecover
  exact OutKept.next (Kept.ite (kept_coldStart ‹_›) ‹_›)

theorem kept_execTestNAssert {k0 s : State} (hk : Kept k0 s) :
    OutKept k0 (execTestNAssert s) := by
  unfold execTestNAssert
  exact OutKept.next (Kept.ite ‹_› (Kept.ite (kept_pwrUpd (kept_wipe (kept_count1 ‹_›))) (kept_count1 ‹_›)))

end Sys2Proof.Laws
end

