-- ==== Sys2Proof/Laws/KeptBst.lean ====
section
/-! SUPPORT. What the operations of Machine/Bst.lean keep. -/

namespace Sys2Proof.Laws

open Sys2Proof.Machine

theorem kept_failNeed {k0 s : State} {sq : Nat} {detail : Nat} (hk : Kept k0 s) :
    Kept k0 (failNeed s sq detail) := by
  unfold failNeed
  split
  exact kept_complete ‹_›
  assumption

theorem kept_rebuildEntry {k0 s : State} {n : Nat} (hk : Kept k0 s) :
    Kept k0 (rebuildEntry s n) := by
  unfold rebuildEntry
  exact kept_setEnt ‹_›

theorem kept_zeroRing {k0 s : State} {o : Nat} (hk : Kept k0 s) :
    Kept k0 (zeroRing s o) := by
  unfold zeroRing
  exact kept_cisUpd ‹_›

theorem kept_rebuildTile {k0 s : State} {t : Nat} (hk : Kept k0 s) :
    Kept k0 (rebuildTile s t).1 := by
  unfold rebuildTile
  apply Kept.ite1
  dsimp only
  exact kept_rebuildEntry (kept_rebuildEntry ‹_›)
  split
  dsimp only
  exact kept_casUpd ‹_›
  dsimp only
  assumption
  dsimp only
  exact kept_zeroRing ‹_›
  dsimp only
  assumption
  dsimp only
  assumption
  dsimp only
  assumption

theorem kept_contentLost {k0 s : State} {t : Nat} {need : Option (Fin 16)} {b : Boot} (hk : Kept k0 s) :
    Kept k0 (contentLost s t need b) := by
  unfold contentLost
  try dsimp only
  repeat' first
    | with_reducible assumption
    | with_reducible apply Kept.ite
    | with_reducible apply kept_modReset
    | with_reducible apply kept_failNeed
    | with_reducible refine Kept.fst (by assumption) ?_
    | with_reducible refine Kept.snd (by assumption) ?_
    | split

theorem kept_retireTile {k0 s : State} {t : Nat} {need : Option (Fin 16)} {b : Boot} (hk : Kept k0 s) :
    Kept k0 (retireTile s t need b) := by
  unfold retireTile
  try dsimp only
  repeat' first
    | with_reducible assumption
    | with_reducible apply Kept.ite
    | with_reducible apply kept_setErr
    | with_reducible apply kept_zeroRing
    | with_reducible apply kept_contentLost
    | with_reducible apply kept_bstUpd
    | with_reducible apply kept_setFld
    | with_reducible apply kept_rebuildTile
    | with_reducible apply kept_fault
    | with_reducible apply kept_ckWrite
    | with_reducible refine Kept.fst (by assumption) ?_
    | with_reducible refine Kept.snd (by assumption) ?_
    | split
    | refine Kept.upd ?_ rfl rfl rfl rfl

theorem kept_tileRead {k0 s : State} {t : Nat} {r : TileRead} {need : Option (Fin 16)} {b : Boot} (hk : Kept k0 s) :
    Kept k0 (tileRead s t r need b) := by
  unfold tileRead
  split
  assumption
  assumption
  exact kept_count1 ‹_›
  exact kept_count1 ‹_›
  exact kept_retireTile ‹_›
  exact kept_retireTile (kept_retireTile ‹_›)

theorem kept_execTileFill {k0 : State} {t : Nat} {r : TileRead} {need : Option (Fin 16)} {b : Boot} {s : State} (hk : Kept k0
  s) :
    OutKept k0 (execTileFill t r need b s) := by
  unfold execTileFill
  exact OutKept.next (Kept.ite (kept_tileRead ‹_›) ‹_›)

theorem kept_execPatrolRead {k0 : State} {r : TileRead} {b : Boot} {s : State} (hk : Kept k0 s) :
    OutKept k0 (execPatrolRead r b s) := by
  unfold execPatrolRead
  apply OutKept.next
  dsimp only
  exact Kept.ite ‹_› (kept_tileRead (kept_bstUpd ‹_›))

theorem kept_sramFault {k0 s : State} {b : Boot} {f : SramFault} (hk : Kept k0 s) :
    Kept k0 (sramFault b s f) := by
  unfold sramFault
  try dsimp only
  repeat' first
    | with_reducible assumption
    | with_reducible apply kept_setErr
    | with_reducible apply kept_count1
    | with_reducible apply kept_actSettle
    | with_reducible apply kept_completeAll
    | with_reducible apply kept_modReset
    | with_reducible refine Kept.fst (by assumption) ?_
    | with_reducible refine Kept.snd (by assumption) ?_
    | split

theorem kept_execSramScrub {k0 : State} {ce : Nat} {ue : List SramFault} {b : Boot} {s : State} (hk : Kept k0 s) :
    OutKept k0 (execSramScrub ce ue b s) := by
  unfold execSramScrub
  exact OutKept.next (Kept.ite ‹_› (Kept.foldl (kept_countBy (kept_bstUpd ‹_›)) (fun _ _ _ => (kept_sramFault ‹_›))))

theorem kept_execNandRefresh {k0 s : State} {r : NandRead} (hk : Kept k0 s) :
    OutKept k0 (execNandRefresh r s) := by
  unfold execNandRefresh
  try dsimp only
  repeat' first
    | with_reducible assumption
    | with_reducible refine OutKept.next ?_
    | with_reducible apply Kept.ite
    | with_reducible apply kept_count1
    | with_reducible apply kept_dropCheckpoint
    | with_reducible apply kept_ckDrop
    | with_reducible apply kept_failNeed
    | with_reducible apply kept_drawFree
    | with_reducible refine Kept.fst (by assumption) ?_
    | with_reducible refine Kept.snd (by assumption) ?_
    | split

theorem kept_judgeRun {k0 s : State} {t : Nat} {r : TestRun} (hk : Kept k0 s) :
    Kept k0 (judgeRun s t r).1 := by
  unfold judgeRun
  split
  dsimp only
  apply Kept.ite1
  dsimp only
  exact kept_countBy ‹_›
  apply Kept.ite1
  dsimp only
  exact kept_fault (kept_count1 (kept_countBy ‹_›))
  dsimp only
  exact kept_retireLane (kept_countBy ‹_›)
  apply Kept.ite1
  dsimp only
  exact kept_count1 ‹_›
  dsimp only
  apply Kept.ite1
  dsimp only
  exact kept_refFail (kept_countBy ‹_›)
  dsimp only
  exact kept_countBy ‹_›

theorem kept_stampTest {k0 s : State} {t : Nat} (hk : Kept k0 s) :
    Kept k0 (stampTest s t) := by
  unfold stampTest
  exact kept_bstUpd ‹_›

theorem kept_execLaneTest {k0 : State} {t : Nat} {r : TestRun} {s : State} (hk : Kept k0 s) :
    OutKept k0 (execLaneTest t r s) := by
  unfold execLaneTest
  exact OutKept.next (Kept.ite (kept_judgeRun (kept_stampTest ‹_›)) ‹_›)

theorem kept_execRefCheck {k0 : State} {t : Nat} {r : TestRun} {s : State} (hk : Kept k0 s) :
    OutKept k0 (execRefCheck t r s) := by
  unfold execRefCheck
  exact OutKept.next (Kept.ite (kept_judgeRun (kept_stampTest ‹_›)) ‹_›)

theorem kept_showTests {k0 s : State} (hk : Kept k0 s) :
    Kept k0 (showTests s) := by
  unfold showTests
  dsimp only
  split
  exact kept_setFld (kept_setFlag ‹_›)
  exact kept_setFlag ‹_›

theorem kept_bodyBstTest {k0 s : State} {again : Bool} {c : Cmd} (hk : Kept k0 s) :
    WorkKept k0 (bodyBstTest again s c) := by
  unfold bodyBstTest
  try dsimp only
  repeat' first
    | with_reducible assumption
    | with_reducible apply kept_driveSinks
    | with_reducible apply kept_showTests
    | with_reducible apply kept_bstUpd
    | with_reducible apply wk_stopIf
    | with_reducible apply wk_checkOps
    | with_reducible apply wk_pure
    | split
    | refine Kept.upd ?_ rfl rfl rfl rfl

theorem kept_execBstRun {k0 : State} {sq : Fin 16} {s : State} (hk : Kept k0 s) :
    OutKept k0 (execBstRun sq s) := by
  unfold execBstRun
  exact OutKept.next (kept_runRing ‹_› (fun _ _ _ => (kept_bodyBstTest ‹_›)))

theorem kept_execBstRecover {k0 : State} {sq : Fin 16} {s : State} (hk : Kept k0 s) :
    OutKept k0 (execBstRecover sq s) := by
  unfold execBstRecover
  exact OutKept.next (kept_runRing ‹_› (fun _ _ _ => (kept_bodyBstTest ‹_›)))

theorem kept_execBstResult {k0 s : State} {r : TestRun} (hk : Kept k0 s) :
    OutKept k0 (execBstResult r s) := by
  unfold execBstResult
  try dsimp only
  repeat' first
    | with_reducible assumption
    | with_reducible refine OutKept.next ?_
    | with_reducible apply Kept.ite
    | with_reducible apply kept_judgeRun
    | with_reducible apply kept_driveSinks
    | with_reducible apply kept_showTests
    | with_reducible apply kept_stampTest
    | with_reducible apply kept_bstUpd
    | with_reducible apply kept_emitOutcome
    | with_reducible refine Kept.fst (by assumption) ?_
    | with_reducible refine Kept.snd (by assumption) ?_
    | split
    | refine Kept.upd ?_ rfl rfl rfl rfl

theorem kept_bodyBstTileRead {k0 s : State} {c : Cmd} (hk : Kept k0 s) :
    WorkKept k0 (bodyBstTileRead s c) := by
  unfold bodyBstTileRead
  dsimp only
  apply wk_checkOps
  apply wk_writeBuf
  assumption
  intro _
  intro _
  apply wk_pure
  dsimp only
  assumption

theorem kept_execBstTileRead {k0 : State} {sq : Fin 16} {s : State} (hk : Kept k0 s) :
    OutKept k0 (execBstTileRead sq s) := by
  unfold execBstTileRead
  exact OutKept.next (kept_runRing ‹_› (fun _ _ _ => (kept_bodyBstTileRead ‹_›)))

end Sys2Proof.Laws
end

