-- ==== Sys2Proof/Laws/KeptCfgSpace.lean ====
section
/-! SUPPORT. What the operations of Machine/CfgSpace.lean keep. -/

namespace Sys2Proof.Laws

open Sys2Proof.Machine

theorem kept_linkUpd {k0 s : State} {f : LinkSt → LinkSt} (hk : Kept k0 s) :
    Kept k0 (linkUpd s f) := by
  unfold linkUpd
  exact kept_hostUpd ‹_› (fun _ => rfl)

theorem kept_cfgWrite {k0 s : State} {off : Nat} {v : Nat} (hk : Kept k0 s) :
    Kept k0 (cfgWrite s off v) := by
  unfold cfgWrite
  dsimp only
  exact Kept.ite (kept_linkUpd ‹_›) (Kept.ite (kept_linkUpd ‹_›) (Kept.ite (kept_linkUpd ‹_›) (Kept.ite (kept_linkUpd ‹_›)
    (Kept.ite (kept_linkUpd ‹_›) (Kept.ite (Kept.ite (kept_enterD3hot ‹_›) (Kept.ite (kept_leaveD3hot ‹_›) ‹_›)) (Kept.ite
    (Kept.ite (kept_funcReset ‹_›) (kept_linkUpd ‹_›)) (Kept.ite (kept_flushMsix (kept_hostUpd ‹_› (fun _ => rfl))) (Kept.ite
    (kept_linkUpd ‹_›) (Kept.ite (kept_linkUpd ‹_›) (Kept.ite (kept_linkUpd ‹_›) ‹_›))))))))))

theorem kept_execConfigRequest {k0 : State} {q : CfgReq} {s : State} (hk : Kept k0 s) :
    OutKept k0 (execConfigRequest q s) := by
  unfold execConfigRequest
  apply OutKept.next
  apply Kept.ite
  dsimp only
  split
  exact kept_hostUpd (kept_hostUpd ‹_› (fun _ => rfl)) (fun _ => rfl)
  exact kept_cfgWrite (kept_hostUpd ‹_› (fun _ => rfl))
  exact kept_hostUpd ‹_› (fun _ => rfl)

end Sys2Proof.Laws
end

