-- ==== Sys2Proof/Laws/KeptEffects.lean ====
section
/-! SUPPORT. What the operations of Machine/Effects.lean keep. -/

namespace Sys2Proof.Laws

open Sys2Proof.Machine

theorem kept_mapShow {k0 s : State} {f : Nat} (hk : Kept k0 s) :
    Kept k0 (mapShow s f) := by
  unfold mapShow
  try dsimp only
  repeat' first
    | with_reducible assumption
    | with_reducible apply Kept.ite
    | with_reducible apply kept_foldCause
    | with_reducible apply kept_setFlag
    | split

theorem kept_mapShowAll {k0 s : State} (hk : Kept k0 s) :
    Kept k0 (mapShowAll s) := by
  unfold mapShowAll
  try dsimp only
  repeat' first
    | with_reducible assumption
    | with_reducible refine Kept.foldl ?_ fun _ _ _ => ?_
    | with_reducible apply kept_mapShow

theorem kept_markCal {k0 s : State} {f : Nat} (hk : Kept k0 s) :
    Kept k0 (markCal s f) := by
  unfold markCal
  try dsimp only
  repeat' first
    | with_reducible assumption
    | with_reducible apply kept_updIntv
    | refine Kept.upd ?_ rfl rfl rfl rfl

theorem kept_regEffect {k0 s : State} {s0 : State} {base : Nat} {n : Nat} (hk : Kept k0 s) :
    Kept k0 (regEffect s0 s base n) := by
  unfold regEffect
  try dsimp only
  repeat' first
    | with_reducible assumption
    | with_reducible apply Kept.ite
    | with_reducible refine kept_hostUpd ?_ fun _ => rfl
    | with_reducible apply kept_leapConflict
    | with_reducible apply kept_rxOff
    | with_reducible apply kept_casUpd
    | with_reducible apply kept_syncSlow
    | with_reducible apply kept_startFast
    | with_reducible apply kept_driveClks
    | with_reducible apply kept_basUpd
    | with_reducible apply kept_markCal
    | with_reducible apply kept_feederState
    | with_reducible apply kept_mapShow
    | with_reducible apply kept_stormSettle
    | with_reducible apply kept_outputsCheck
    | with_reducible apply kept_driveSinks
    | with_reducible refine Kept.fst (by assumption) ?_
    | with_reducible refine Kept.snd (by assumption) ?_
    | split
    | refine Kept.upd ?_ rfl rfl rfl rfl

end Sys2Proof.Laws
end

