-- ==== Sys2Proof/Laws/KeptPair.lean ====
section
/-! SUPPORT. What the operations of Machine/Pair.lean keep. -/

namespace Sys2Proof.Laws

open Sys2Proof.Machine

theorem kept_execLeaseSend {k0 s : State} (hk : Kept k0 s) :
    OutKept k0 (execLeaseSend s) := by
  unfold execLeaseSend
  dsimp only
  exact OutKept.next (Kept.ite ‹_› (Kept.ite (Kept.ite (kept_toggleAct ‹_›) ‹_›) (Kept.ite ‹_› (Kept.ite (kept_mirSend
    (kept_pairUpd ‹_›)) (Kept.ite (kept_toggleAct (kept_mirSend (kept_pairUpd ‹_›))) (kept_mirSend (kept_mirSend
    (kept_toggleAct (kept_mirSend (kept_pairUpd ‹_›))))))))))

theorem kept_takeoverCheck {k0 s : State} (hk : Kept k0 s) :
    Kept k0 (takeoverCheck s) := by
  unfold takeoverCheck
  apply Kept.ite
  assumption
  dsimp only
  exact Kept.ite (kept_becomeActive ‹_›) (Kept.ite (Kept.ite (kept_becomeActive ‹_›) (kept_pairUpd ‹_›)) (kept_pairUpd ‹_›))

theorem kept_stepDown {k0 s : State} (hk : Kept k0 s) :
    Kept k0 (stepDown s) := by
  unfold stepDown
  exact kept_requestBulk (kept_setErr (kept_standDown ‹_›))

theorem kept_mirRx {k0 s : State} {msg : Nat} {l : List Byte} (hk : Kept k0 s) :
    Kept k0 (mirRx s msg l).1 := by
  unfold mirRx
  split
  dsimp only
  assumption
  dsimp only
  exact kept_setErr (kept_count1 ‹_›)

theorem kept_announce {k0 s : State} {k : Nat} {seq : Nat} (hk : Kept k0 s) :
    Kept k0 (announce s k seq) := by
  unfold announce
  exact kept_pairUpd ‹_›

theorem kept_holdHigh {k0 s : State} (hk : Kept k0 s) :
    Kept k0 (holdHigh s) := by
  unfold holdHigh
  try dsimp only
  repeat' first
    | with_reducible assumption
    | with_reducible apply kept_pairUpd
    | with_reducible apply kept_holdOut
    | refine Kept.upd ?_ rfl rfl rfl rfl

theorem kept_holdBack {k0 s : State} (hk : Kept k0 s) :
    Kept k0 (holdBack s) := by
  unfold holdBack
  try dsimp only
  repeat' first
    | with_reducible assumption
    | with_reducible apply Kept.ite
    | with_reducible apply kept_pairUpd
    | with_reducible apply kept_holdOut
    | split
    | refine Kept.upd ?_ rfl rfl rfl rfl

theorem kept_partnerPresent {k0 s : State} {mismatch : Bool} (hk : Kept k0 s) :
    Kept k0 (partnerPresent s mismatch) := by
  unfold partnerPresent
  dsimp only
  exact Kept.ite (kept_pairUpd ‹_›) (Kept.ite (kept_setErr (kept_partnerEvent (kept_setFld (kept_pairUpd ‹_›))))
    (kept_partnerEvent (kept_setFld (kept_pairUpd ‹_›))))

theorem kept_nowSynced {k0 s : State} (hk : Kept k0 s) :
    Kept k0 (nowSynced s) := by
  unfold nowSynced
  dsimp only
  split
  exact kept_partnerEvent (kept_setFld ‹_›)
  exact kept_pairUpd (Kept.foldl (kept_setFld ‹_›) (fun _ _ _ => (kept_emitOutcome ‹_›)))

theorem kept_partnerSynced {k0 s : State} {b : Bool} (hk : Kept k0 s) :
    Kept k0 (partnerSynced s b) := by
  unfold partnerSynced
  exact Kept.ite (Kept.ite ‹_› (kept_nowSynced ‹_›)) (kept_unsync ‹_›)

theorem kept_leaseIn {k0 s0 : State} {m : SpanMsg} (hk : Kept k0 s0) :
    Kept k0 (leaseIn s0 m) := by
  unfold leaseIn
  try dsimp only
  repeat' first
    | with_reducible assumption
    | with_reducible apply Kept.ite
    | with_reducible refine Kept.foldl ?_ fun _ _ _ => ?_
    | with_reducible apply kept_pairUpd
    | with_reducible apply kept_partnerPresent
    | with_reducible apply kept_setFld
    | with_reducible apply kept_requestBulk
    | with_reducible apply kept_stepDown
    | with_reducible apply kept_partnerSynced
    | with_reducible apply kept_announce
    | with_reducible apply kept_release
    | with_reducible apply kept_takeoverCheck
    | with_reducible apply kept_holdHigh
    | with_reducible apply kept_holdBack
    | with_reducible refine Kept.fst (by assumption) ?_
    | with_reducible refine Kept.snd (by assumption) ?_
    | split
    | refine Kept.upd ?_ rfl rfl rfl rfl

theorem kept_execLease {k0 : State} {l : List Byte} {s : State} (hk : Kept k0 s) :
    OutKept k0 (execLease l s) := by
  unfold execLease
  apply OutKept.next
  apply Kept.ite
  assumption
  split
  apply Kept.ite
  apply kept_leaseIn
  refine Kept.fst (by assumption) ?_
  exact kept_mirRx ‹_›
  refine Kept.fst (by assumption) ?_
  exact kept_mirRx ‹_›
  refine Kept.fst (by assumption) ?_
  exact kept_mirRx ‹_›

theorem kept_execActInEdge {k0 s : State} (hk : Kept k0 s) :
    OutKept k0 (execActInEdge s) := by
  unfold execActInEdge
  try dsimp only
  repeat' first
    | with_reducible assumption
    | with_reducible refine OutKept.next ?_
    | with_reducible apply Kept.ite
    | with_reducible apply kept_pairUpd
    | with_reducible apply kept_holdBack
    | with_reducible apply kept_gateCheck
    | with_reducible apply kept_setFld
    | split
    | refine Kept.upd ?_ rfl rfl rfl rfl

theorem kept_execActInSilent {k0 s : State} (hk : Kept k0 s) :
    OutKept k0 (execActInSilent s) := by
  unfold execActInSilent
  try dsimp only
  repeat' first
    | with_reducible assumption
    | with_reducible refine OutKept.next ?_
    | with_reducible apply Kept.ite
    | with_reducible apply kept_holdHigh
    | split

theorem kept_execActOwnLapse {k0 s : State} (hk : Kept k0 s) :
    OutKept k0 (execActOwnLapse s) := by
  unfold execActOwnLapse
  exact OutKept.next (Kept.ite (kept_gateCheck (kept_setFld ‹_›)) ‹_›)

theorem kept_execActInLapse {k0 s : State} (hk : Kept k0 s) :
    OutKept k0 (execActInLapse s) := by
  unfold execActInLapse
  exact OutKept.next (Kept.ite (kept_takeoverCheck (kept_gateCheck (kept_pairUpd (kept_setFld ‹_›)))) ‹_›)

theorem kept_execHeartbeatMissing {k0 s : State} (hk : Kept k0 s) :
    OutKept k0 (execHeartbeatMissing s) := by
  unfold execHeartbeatMissing
  apply OutKept.next
  apply Kept.ite
  dsimp only
  exact kept_takeoverCheck (Kept.ite (kept_unsync (kept_partnerEvent (kept_setFld ‹_›))) (kept_partnerEvent (kept_setFld
    ‹_›)))
  assumption

theorem kept_execLeaseExpiry {k0 s : State} (hk : Kept k0 s) :
    OutKept k0 (execLeaseExpiry s) := by
  unfold execLeaseExpiry
  exact OutKept.next (Kept.ite (kept_partnerEvent (kept_setErr (kept_pairUpd ‹_›))) ‹_›)

theorem kept_execTakeoverGuardEnd {k0 s : State} (hk : Kept k0 s) :
    OutKept k0 (execTakeoverGuardEnd s) := by
  unfold execTakeoverGuardEnd
  exact OutKept.next (Kept.ite (kept_takeoverCheck ‹_›) ‹_›)

theorem kept_execStartWait {k0 s : State} (hk : Kept k0 s) :
    OutKept k0 (execStartWait s) := by
  unfold execStartWait
  exact OutKept.next (Kept.ite (kept_becomeActive ‹_›) ‹_›)

theorem kept_execFenced {k0 s : State} (hk : Kept k0 s) :
    OutKept k0 (execFenced s) := by
  unfold execFenced
  exact OutKept.next (Kept.ite (kept_setErr (kept_standDown ‹_›)) ‹_›)

theorem kept_execHoldOutEnd {k0 s : State} (hk : Kept k0 s) :
    OutKept k0 (execHoldOutEnd s) := by
  unfold execHoldOutEnd
  exact OutKept.next (Kept.ite (kept_holdOut ‹_›) ‹_›)

theorem kept_execPartnerLostReset {k0 : State} {b : Boot} {s : State} (hk : Kept k0 s) :
    OutKept k0 (execPartnerLostReset b s) := by
  unfold execPartnerLostReset
  apply OutKept.next
  apply Kept.ite
  dsimp only
  exact kept_modReset (kept_setErr (kept_partnerEvent (kept_drawFree ‹_›)))
  assumption

theorem kept_pairOn {k0 s : State} (hk : Kept k0 s) :
    Kept k0 (pairOn s) := by
  unfold pairOn
  dsimp only
  exact kept_outputsCheck (kept_gateCheck (kept_pairUpd (kept_setFld (kept_oxDemote (kept_abortSwitchover ‹_›)))))

theorem kept_pairOff {k0 s : State} (hk : Kept k0 s) :
    Kept k0 (pairOff s) := by
  unfold pairOff
  try dsimp only
  repeat' first
    | with_reducible assumption
    | with_reducible apply Kept.ite
    | with_reducible apply kept_holdOut
    | with_reducible apply kept_pairUpd
    | with_reducible apply kept_setFld
    | with_reducible apply kept_ringsGoOn
    | with_reducible apply kept_outputsCheck
    | with_reducible apply kept_gateCheck
    | with_reducible apply kept_oxTakeover
    | with_reducible apply kept_weirTakeover
    | split
    | refine Kept.upd ?_ rfl rfl rfl rfl

theorem kept_afterWrite {k0 s : State} {s0 : State} {base : Nat} {n : Nat} (hk : Kept k0 s) :
    Kept k0 (afterWrite s0 s base n) := by
  unfold afterWrite
  try dsimp only
  repeat' first
    | with_reducible assumption
    | with_reducible apply Kept.ite
    | with_reducible apply kept_regEffect
    | with_reducible apply kept_pairOn
    | with_reducible apply kept_pairOff
    | split

theorem kept_execMirLink {k0 : State} {up : Bool} {s : State} (hk : Kept k0 s) :
    OutKept k0 (execMirLink up s) := by
  unfold execMirLink
  apply OutKept.next
  apply Kept.ite
  assumption
  dsimp only
  exact Kept.ite (kept_pairOn (kept_ckSave (kept_setFld (kept_setFlag ‹_›)))) (kept_setFlag ‹_›)

theorem kept_gapFound {k0 s : State} {k : Nat} (hk : Kept k0 s) :
    Kept k0 (gapFound s k) := by
  unfold gapFound
  exact kept_requestBulk (kept_setErr (kept_count1 (kept_unsync ‹_›)))

theorem kept_streamIn {k0 s : State} {k : Nat} {l : List Byte} {apply : State → List Byte → State} (hk : Kept k0 s) (happly :
  ∀ t a0, Kept k0 t → Kept k0 (apply t a0)) :
    Kept k0 (streamIn s k l apply) := by
  unfold streamIn
  apply Kept.ite
  assumption
  split
  refine Kept.fst (by assumption) ?_
  exact kept_mirRx ‹_›
  dsimp only
  apply Kept.ite
  refine Kept.fst (by assumption) ?_
  exact kept_mirRx ‹_›
  apply happly
  apply Kept.ite
  apply kept_gapFound
  apply kept_pairUpd
  refine Kept.fst (by assumption) ?_
  exact kept_mirRx ‹_›
  apply kept_pairUpd
  refine Kept.fst (by assumption) ?_
  exact kept_mirRx ‹_›

theorem kept_applyFold {k0 s : State} {b : List Byte} (hk : Kept k0 s) :
    Kept k0 (applyFold s b) := by
  unfold applyFold
  try dsimp only
  repeat' first
    | with_reducible assumption
    | with_reducible apply Kept.ite
    | with_reducible apply kept_setEnt
    | with_reducible apply kept_basinReport
    | split

theorem kept_applyOx {k0 s : State} {b : List Byte} (hk : Kept k0 s) :
    Kept k0 (applyOx s b) := by
  unfold applyOx
  try dsimp only
  repeat' first
    | with_reducible assumption
    | with_reducible apply Kept.ite
    | with_reducible refine Kept.foldl ?_ fun _ _ _ => ?_
    | with_reducible apply kept_oxShow
    | with_reducible apply kept_oxUpd
    | with_reducible refine Kept.fst (by assumption) ?_
    | with_reducible refine Kept.snd (by assumption) ?_
    | split
    | refine Kept.upd ?_ rfl rfl rfl rfl

theorem kept_applyBas {k0 s : State} {b : List Byte} (hk : Kept k0 s) :
    Kept k0 (applyBas s b) := by
  unfold applyBas
  try dsimp only
  repeat' first
    | with_reducible assumption
    | with_reducible apply Kept.ite
    | with_reducible refine Kept.foldl ?_ fun _ _ _ => ?_
    | with_reducible apply kept_addWait
    | with_reducible apply kept_updFdr
    | with_reducible refine Kept.fst (by assumption) ?_
    | with_reducible refine Kept.snd (by assumption) ?_
    | split
    | refine Kept.upd ?_ rfl rfl rfl rfl

theorem kept_slowLoops {k0 : State} {x0 : Nat} {x1 : List Byte} {x2 : State} (hk : Kept k0 x2) :
    Kept k0 (slowLoops x0 x1 x2) := by
  induction x0 generalizing x1 x2 with
  | zero =>
    unfold slowLoops
    assumption
  | succ _ ih =>
    unfold slowLoops
    dsimp only
    split
    assumption
    apply ih
    exact kept_updLoop ‹_›

theorem kept_applySlow {k0 s : State} {b : List Byte} (hk : Kept k0 s) :
    Kept k0 (applySlow s b) := by
  unfold applySlow
  exact kept_countLoops (kept_slowLoops ‹_›)

theorem kept_applyFast {k0 s : State} {b : List Byte} (hk : Kept k0 s) :
    Kept k0 (applyFast s b) := by
  unfold applyFast
  exact Kept.foldl ‹_› (fun _ _ _ => (Kept.ite (kept_updLoop ‹_›) ‹_›))

theorem kept_noteMirrored {k0 s : State} {ring : Nat} {seq : Nat} (hk : Kept k0 s) :
    Kept k0 (noteMirrored s ring seq) := by
  unfold noteMirrored
  exact kept_cisUpd ‹_›

theorem kept_applyCis {k0 s : State} {b : List Byte} (hk : Kept k0 s) :
    Kept k0 (applyCis s b) := by
  unfold applyCis
  dsimp only
  exact Kept.ite (Kept.ite (kept_noteMirrored ‹_›) (kept_cisUpd (kept_livePut (kept_cisUpd (kept_noteMirrored ‹_›)))))
    (Kept.ite (kept_noteMirrored ‹_›) (kept_cisUpd (kept_auditPut (kept_cisUpd (kept_noteMirrored ‹_›)))))

theorem kept_applyCommit {k0 s : State} {b : List Byte} (hk : Kept k0 s) :
    Kept k0 (applyCommit s b) := by
  unfold applyCommit
  dsimp only
  exact kept_streetUpd ‹_›

theorem kept_segRefused {k0 s : State} {off : Nat} {v : Word} (hk : Kept k0 s) :
    Kept k0 (segRefused s off v) := by
  unfold segRefused
  try dsimp only
  repeat' first
    | with_reducible assumption
    | with_reducible apply kept_pairUpd
    | with_reducible apply kept_setFld
    | with_reducible apply kept_setErr
    | with_reducible apply kept_partnerEvent
    | with_reducible apply kept_holdOut
    | with_reducible refine Kept.fst (by assumption) ?_
    | with_reducible refine Kept.snd (by assumption) ?_
    | split
    | refine Kept.upd ?_ rfl rfl rfl rfl

theorem kept_applyReg {k0 s : State} {off : Nat} {v : Word} (hk : Kept k0 s) :
    Kept k0 (applyReg s off v) := by
  unfold applyReg
  try dsimp only
  repeat' first
    | with_reducible assumption
    | with_reducible apply Kept.ite
    | with_reducible apply kept_segRefused
    | with_reducible apply kept_ckSave
    | with_reducible apply kept_afterWrite
    | with_reducible apply kept_setReg
    | with_reducible refine Kept.fst (by assumption) ?_
    | with_reducible refine Kept.snd (by assumption) ?_
    | split

theorem kept_applyTables {k0 s : State} {t : CfgTables} (hk : Kept k0 s) :
    Kept k0 (applyTables s t) := by
  unfold applyTables
  try dsimp only
  repeat' first
    | with_reducible assumption
    | with_reducible apply Kept.ite
    | with_reducible apply kept_setCfgTables
    | with_reducible apply kept_rioShow
    | with_reducible apply kept_oxShow
    | with_reducible apply kept_oxUpd
    | split
    | refine Kept.upd ?_ rfl rfl rfl rfl

theorem kept_applyCfg {k0 s : State} {b : List Byte} (hk : Kept k0 s) :
    Kept k0 (applyCfg s b) := by
  unfold applyCfg
  try dsimp only
  repeat' first
    | with_reducible assumption
    | with_reducible apply Kept.ite
    | with_reducible apply kept_applyReg
    | with_reducible apply kept_applyTables
    | with_reducible refine Kept.fst (by assumption) ?_
    | with_reducible refine Kept.snd (by assumption) ?_
    | split
    | refine Kept.upd ?_ rfl rfl rfl rfl

theorem kept_execFoldStream {k0 : State} {l : List Byte} {s : State} (hk : Kept k0 s) :
    OutKept k0 (execFoldStream l s) := by
  unfold execFoldStream
  exact OutKept.next (kept_streamIn ‹_› (fun _ _ _ => (kept_applyFold ‹_›)))

theorem kept_execOxStream {k0 : State} {l : List Byte} {s : State} (hk : Kept k0 s) :
    OutKept k0 (execOxStream l s) := by
  unfold execOxStream
  exact OutKept.next (kept_streamIn ‹_› (fun _ _ _ => (kept_applyOx ‹_›)))

theorem kept_execBasStream {k0 : State} {l : List Byte} {s : State} (hk : Kept k0 s) :
    OutKept k0 (execBasStream l s) := by
  unfold execBasStream
  exact OutKept.next (kept_streamIn ‹_› (fun _ _ _ => (kept_applyBas ‹_›)))

theorem kept_execWeiSlowStream {k0 : State} {l : List Byte} {s : State} (hk : Kept k0 s) :
    OutKept k0 (execWeiSlowStream l s) := by
  unfold execWeiSlowStream
  exact OutKept.next (kept_streamIn ‹_› (fun _ _ _ => (kept_applySlow ‹_›)))

theorem kept_execWeiFastStream {k0 : State} {l : List Byte} {s : State} (hk : Kept k0 s) :
    OutKept k0 (execWeiFastStream l s) := by
  unfold execWeiFastStream
  exact OutKept.next (kept_streamIn ‹_› (fun _ _ _ => (kept_applyFast ‹_›)))

theorem kept_execCisStream {k0 : State} {l : List Byte} {s : State} (hk : Kept k0 s) :
    OutKept k0 (execCisStream l s) := by
  unfold execCisStream
  exact OutKept.next (kept_streamIn ‹_› (fun _ _ _ => (kept_applyCis ‹_›)))

theorem kept_execCommitStream {k0 : State} {l : List Byte} {s : State} (hk : Kept k0 s) :
    OutKept k0 (execCommitStream l s) := by
  unfold execCommitStream
  exact OutKept.next (kept_streamIn ‹_› (fun _ _ _ => (kept_applyCommit ‹_›)))

theorem kept_execCfgStream {k0 : State} {l : List Byte} {s : State} (hk : Kept k0 s) :
    OutKept k0 (execCfgStream l s) := by
  unfold execCfgStream
  exact OutKept.next (kept_streamIn ‹_› (fun _ _ _ => (kept_mirSend (kept_applyCfg ‹_›))))

theorem kept_execSyncReq {k0 : State} {l : List Byte} {s : State} (hk : Kept k0 s) :
    OutKept k0 (execSyncReq l s) := by
  unfold execSyncReq
  apply OutKept.next
  apply Kept.ite
  assumption
  split
  dsimp only
  apply Kept.ite
  apply kept_oxUpd
  apply Kept.foldl
  refine Kept.fst (by assumption) ?_
  exact kept_mirRx ‹_›
  exact fun _ _ _ => (kept_sendBulk ‹_›)
  apply Kept.foldl
  refine Kept.fst (by assumption) ?_
  exact kept_mirRx ‹_›
  exact fun _ _ _ => (kept_sendBulk ‹_›)
  refine Kept.fst (by assumption) ?_
  exact kept_mirRx ‹_›

theorem kept_endWait {k0 s : State} {w : CfgWait} (hk : Kept k0 s) :
    Kept k0 (endWait s w) := by
  unfold endWait
  try dsimp only
  repeat' first
    | with_reducible assumption
    | with_reducible apply kept_actSettle
    | with_reducible apply kept_completeSeq
    | with_reducible apply kept_pairUpd
    | refine Kept.upd ?_ rfl rfl rfl rfl

theorem kept_execCfgAck {k0 : State} {l : List Byte} {s : State} (hk : Kept k0 s) :
    OutKept k0 (execCfgAck l s) := by
  unfold execCfgAck
  apply OutKept.next
  apply Kept.ite
  assumption
  split
  apply Kept.foldl
  refine Kept.fst (by assumption) ?_
  exact kept_mirRx ‹_›
  exact fun _ _ _ => (kept_endWait ‹_›)
  refine Kept.fst (by assumption) ?_
  exact kept_mirRx ‹_›

theorem kept_execCfgAckTimeout {k0 s : State} (hk : Kept k0 s) :
    OutKept k0 (execCfgAckTimeout s) := by
  unfold execCfgAckTimeout
  exact OutKept.next (Kept.foldl ‹_› (fun _ _ _ => (kept_endWait (kept_count1 (kept_setErr (kept_unsync ‹_›))))))

theorem kept_execSyncGapTimeout {k0 s : State} (hk : Kept k0 s) :
    OutKept k0 (execSyncGapTimeout s) := by
  unfold execSyncGapTimeout
  exact OutKept.next (Kept.ite ‹_› (Kept.foldl ‹_› (fun _ _ _ => (kept_gapFound ‹_›))))

theorem kept_dropStale {k0 s : State} {k : Nat} (hk : Kept k0 s) :
    Kept k0 (dropStale s k) := by
  unfold dropStale
  try dsimp only
  repeat' first
    | with_reducible assumption
    | with_reducible refine Kept.foldl ?_ fun _ _ _ => ?_
    | with_reducible apply kept_freeEnt
    | with_reducible apply kept_oxUpd
    | with_reducible apply kept_cisUpd
    | with_reducible apply kept_streetUpd
    | with_reducible apply kept_applyReg
    | with_reducible refine Kept.fst (by assumption) ?_
    | with_reducible refine Kept.snd (by assumption) ?_
    | split
    | refine Kept.upd ?_ rfl rfl rfl rfl

theorem kept_execBulkCopyDone {k0 s : State} (hk : Kept k0 s) :
    OutKept k0 (execBulkCopyDone s) := by
  unfold execBulkCopyDone
  try dsimp only
  repeat' first
    | with_reducible assumption
    | with_reducible refine OutKept.next ?_
    | with_reducible apply Kept.ite
    | with_reducible refine Kept.foldl ?_ fun _ _ _ => ?_
    | with_reducible apply kept_dropStale
    | with_reducible apply kept_takeoverCheck
    | with_reducible apply kept_pairUpd
    | with_reducible apply kept_nowSynced
    | split
    | refine Kept.upd ?_ rfl rfl rfl rfl

theorem kept_bodyParSwitch {k0 s : State} {c : Cmd} (hk : Kept k0 s) :
    WorkKept k0 (bodyParSwitch s c) := by
  unfold bodyParSwitch
  apply wk_checkOps
  apply wk_stopIf
  apply wk_stopIf
  apply wk_pure
  dsimp only
  assumption

theorem kept_execParSwitch {k0 s : State} {sq : Fin 16} (hk : Kept k0 s) :
    OutKept k0 (execParSwitch sq s) := by
  unfold execParSwitch
  try dsimp only
  repeat' first
    | with_reducible assumption
    | with_reducible refine OutKept.next ?_
    | with_reducible apply kept_runCmd
    | with_reducible apply kept_bodyParSwitch
    | with_reducible apply kept_causedBy
    | with_reducible apply kept_requestBulk
    | with_reducible apply kept_releaseRole
    | with_reducible refine Kept.fst (by assumption) ?_
    | with_reducible refine Kept.snd (by assumption) ?_
    | split

theorem kept_bodyParResync {k0 s : State} {c : Cmd} (hk : Kept k0 s) :
    WorkKept k0 (bodyParResync s c) := by
  unfold bodyParResync
  apply wk_checkOps
  apply wk_stopIf
  dsimp only
  apply wk_pure
  dsimp only
  exact kept_pairUpd (kept_causedBy ‹_› (Kept.ite (Kept.foldl (kept_unsync ‹_›) (fun _ _ _ => (kept_sendBulk ‹_›)))
    (kept_requestBulk ‹_›)))

theorem kept_execParResync {k0 : State} {sq : Fin 16} {s : State} (hk : Kept k0 s) :
    OutKept k0 (execParResync sq s) := by
  unfold execParResync
  exact OutKept.next (kept_runRing ‹_› (fun _ _ _ => (kept_bodyParResync ‹_›)))

end Sys2Proof.Laws
end

