-- ==== Sys2Proof/Laws/KeptFed.lean ====
section
/-! SUPPORT. What the operations of Machine/Fed.lean keep. -/

namespace Sys2Proof.Laws

open Sys2Proof.Machine

theorem kept_badBody {k0 s : State} (hk : Kept k0 s) :
    Kept k0 (badBody s) := by
  unfold badBody
  exact kept_setErr (kept_count1 ‹_›)

theorem kept_handoverIn {k0 s : State} {b : List Byte} (hk : Kept k0 s) :
    Kept k0 (handoverIn s b).1 := by
  unfold handoverIn
  try dsimp only
  repeat' first
    | with_reducible assumption
    | with_reducible apply Kept.ite1
    | with_reducible apply Kept.ite
    | with_reducible apply kept_setEnt
    | with_reducible apply kept_freeEnt
    | with_reducible refine Kept.fst (by assumption) ?_
    | with_reducible refine Kept.snd (by assumption) ?_
    | split

theorem kept_actHandover {k0 s : State} {m : SpanMsg} (hk : Kept k0 s) :
    Kept k0 (actHandover s m) := by
  unfold actHandover
  apply Kept.ite
  exact kept_badBody ‹_›
  dsimp only
  exact kept_spanSend (kept_handoverIn ‹_›)

theorem kept_handoverDone {k0 s : State} {h : Handing} {result : Nat} {eph : Nat} (hk : Kept k0 s) :
    Kept k0 (handoverDone s h result eph) := by
  unfold handoverDone
  exact kept_emitOutcome (kept_fedUpd ‹_›)

theorem kept_actHandoverAck {k0 s : State} {m : SpanMsg} (hk : Kept k0 s) :
    Kept k0 (actHandoverAck s m) := by
  unfold actHandoverAck
  apply Kept.ite
  exact kept_badBody ‹_›
  dsimp only
  split
  assumption
  exact kept_handoverDone (Kept.ite (kept_setEp ‹_›) ‹_›)

theorem kept_offerPiece {k0 s : State} {p : Part} {data : List Byte} {ok : Bool} (hk : Kept k0 s) :
    Kept k0 (offerPiece s p data ok) := by
  unfold offerPiece
  split
  dsimp only
  exact Kept.ite (kept_storePiece ‹_›) (kept_setErr (kept_count1 ‹_›))
  exact kept_setErr (kept_count1 ‹_›)

theorem kept_actPiecePart {k0 s : State} {m : SpanMsg} {ok : Bool} (hk : Kept k0 s) :
    Kept k0 (actPiecePart s m ok) := by
  unfold actPiecePart
  dsimp only
  exact Kept.ite (kept_badBody ‹_›) (Kept.ite (kept_offerPiece (kept_fedUpd ‹_›)) (kept_fedUpd ‹_›))

theorem kept_actActivate {k0 s : State} {m : SpanMsg} (hk : Kept k0 s) :
    Kept k0 (actActivate s m) := by
  unfold actActivate
  dsimp only
  apply Kept.ite
  exact kept_badBody ‹_›
  apply Kept.ite
  assumption
  apply Kept.ite
  exact kept_count1 ‹_›
  split
  refine kept_armSlot ?_ _ (by assumption)
  assumption
  exact kept_count1 ‹_›

theorem kept_actFeederState {k0 s : State} {m : SpanMsg} (hk : Kept k0 s) :
    Kept k0 (actFeederState s m) := by
  unfold actFeederState
  exact Kept.ite (kept_badBody ‹_›) (kept_mapShowAll (kept_fedUpd ‹_›))

theorem kept_actValue {k0 s : State} {m : SpanMsg} (hk : Kept k0 s) :
    Kept k0 (actValue s m) := by
  unfold actValue
  exact Kept.ite (kept_badBody ‹_›) (kept_fedUpd ‹_›)

theorem kept_dupCheck {k0 s : State} {m : SpanMsg} (hk : Kept k0 s) :
    Kept k0 (dupCheck s m) := by
  unfold dupCheck
  try dsimp only
  repeat' first
    | with_reducible assumption
    | with_reducible apply Kept.ite
    | with_reducible apply kept_fedUpd
    | with_reducible apply kept_setErr
    | with_reducible apply kept_count1
    | split
    | refine Kept.upd ?_ rfl rfl rfl rfl

theorem kept_actHello {k0 s : State} {p : Nat} {mac : List Byte} {m : SpanMsg} (hk : Kept k0 s) :
    Kept k0 (actHello s p mac m) := by
  unfold actHello
  try dsimp only
  repeat' first
    | with_reducible assumption
    | with_reducible apply Kept.ite
    | with_reducible apply kept_badBody
    | with_reducible apply kept_fedUpd
    | with_reducible apply kept_dupCheck
    | with_reducible apply kept_setFld
    | split
    | refine Kept.upd ?_ rfl rfl rfl rfl

theorem kept_spanAct {k0 s : State} {m : SpanMsg} {ok : Bool} (hk : Kept k0 s) :
    Kept k0 (spanAct s m ok) := by
  unfold spanAct
  try dsimp only
  repeat' first
    | with_reducible assumption
    | with_reducible apply Kept.ite
    | with_reducible apply kept_badBody
    | with_reducible apply kept_dupCheck
    | with_reducible apply kept_borderDemand
    | with_reducible apply kept_actHandover
    | with_reducible apply kept_actHandoverAck
    | with_reducible apply kept_actPiecePart
    | with_reducible apply kept_actActivate
    | with_reducible apply kept_actFeederState
    | with_reducible apply kept_actValue
    | with_reducible refine Kept.fst (by assumption) ?_
    | with_reducible refine Kept.snd (by assumption) ?_
    | split

theorem kept_spanIn {k0 : State} {msg : Nat} {p : Nat} {l : List Byte} {ok : Bool} {s : State} (hk : Kept k0 s) :
    Kept k0 (spanIn msg p l ok s) := by
  unfold spanIn
  apply Kept.ite
  assumption
  split
  apply kept_spanAct
  refine Kept.fst (by assumption) ?_
  exact kept_spanRx ‹_›
  refine Kept.fst (by assumption) ?_
  exact kept_spanRx ‹_›

theorem kept_execHandover {k0 : State} {p : Fin 4} {l : List Byte} {s : State} (hk : Kept k0 s) :
    OutKept k0 (execHandover p l s) := by
  unfold execHandover
  exact OutKept.next (kept_spanIn ‹_›)

theorem kept_execHandoverAck {k0 : State} {p : Fin 4} {l : List Byte} {s : State} (hk : Kept k0 s) :
    OutKept k0 (execHandoverAck p l s) := by
  unfold execHandoverAck
  exact OutKept.next (kept_spanIn ‹_›)

theorem kept_execPiecePart {k0 : State} {p : Fin 4} {l : List Byte} {ok : Bool} {s : State} (hk : Kept k0 s) :
    OutKept k0 (execPiecePart p l ok s) := by
  unfold execPiecePart
  exact OutKept.next (kept_spanIn ‹_›)

theorem kept_execActivate {k0 : State} {p : Fin 4} {l : List Byte} {s : State} (hk : Kept k0 s) :
    OutKept k0 (execActivate p l s) := by
  unfold execActivate
  exact OutKept.next (kept_spanIn ‹_›)

theorem kept_execFeederStateMsg {k0 : State} {p : Fin 4} {l : List Byte} {s : State} (hk : Kept k0 s) :
    OutKept k0 (execFeederStateMsg p l s) := by
  unfold execFeederStateMsg
  exact OutKept.next (kept_spanIn ‹_›)

theorem kept_execValue {k0 : State} {p : Fin 4} {l : List Byte} {s : State} (hk : Kept k0 s) :
    OutKept k0 (execValue p l s) := by
  unfold execValue
  exact OutKept.next (kept_spanIn ‹_›)

theorem kept_execHello {k0 s : State} {p : Fin 4} {l : HelloFrame} (hk : Kept k0 s) :
    OutKept k0 (execHello p l s) := by
  unfold execHello
  try dsimp only
  repeat' first
    | with_reducible assumption
    | with_reducible refine OutKept.next ?_
    | with_reducible apply Kept.ite
    | with_reducible apply kept_spanRx
    | with_reducible apply kept_actHello
    | with_reducible refine Kept.fst (by assumption) ?_
    | with_reducible refine Kept.snd (by assumption) ?_
    | split

theorem kept_execSpanForward {k0 : State} {p : Fin 4} {l : List Byte} {s : State} (hk : Kept k0 s) :
    OutKept k0 (execSpanForward p l s) := by
  unfold execSpanForward
  apply OutKept.next
  split
  exact Kept.ite ‹_› (kept_spanRx ‹_›)
  exact kept_spanRx ‹_›

theorem kept_execSpanCopy {k0 : State} {l : List Byte} {ok : Bool} {s : State} (hk : Kept k0 s) :
    OutKept k0 (execSpanCopy l ok s) := by
  unfold execSpanCopy
  apply OutKept.next
  apply Kept.ite
  assumption
  split
  refine Kept.fst (by assumption) ?_
  exact kept_mirRx ‹_›
  split
  apply kept_badBody
  refine Kept.fst (by assumption) ?_
  exact kept_mirRx ‹_›
  dsimp only
  apply Kept.ite
  apply kept_count1
  refine Kept.fst (by assumption) ?_
  exact kept_mirRx ‹_›
  apply kept_spanAct
  apply kept_fedUpd
  apply kept_count1
  refine Kept.fst (by assumption) ?_
  exact kept_mirRx ‹_›

theorem kept_execHelloSend {k0 s : State} (hk : Kept k0 s) :
    OutKept k0 (execHelloSend s) := by
  unfold execHelloSend
  try dsimp only
  repeat' first
    | with_reducible assumption
    | with_reducible refine OutKept.next ?_
    | with_reducible apply Kept.ite
    | with_reducible refine Kept.foldl ?_ fun _ _ _ => ?_
    | with_reducible apply kept_portSend
    | with_reducible apply kept_count1
    | with_reducible apply kept_fedUpd
    | with_reducible refine Kept.fst (by assumption) ?_
    | with_reducible refine Kept.snd (by assumption) ?_
    | split
    | refine Kept.upd ?_ rfl rfl rfl rfl

theorem kept_execHandoverTimeout {k0 s : State} (hk : Kept k0 s) :
    OutKept k0 (execHandoverTimeout s) := by
  unfold execHandoverTimeout
  exact OutKept.next (Kept.foldl ‹_› (fun _ _ _ => (kept_handoverDone ‹_›)))

theorem kept_execHandoverSupervisionEnd {k0 s : State} (hk : Kept k0 s) :
    OutKept k0 (execHandoverSupervisionEnd s) := by
  unfold execHandoverSupervisionEnd
  exact OutKept.next (Kept.foldl ‹_› (fun _ _ _ => (kept_updEnt (kept_setEp ‹_›))))

theorem kept_sendPiece {k0 s : State} {j : PieceJob} (hk : Kept k0 s) :
    Kept k0 (sendPiece s j) := by
  unfold sendPiece
  dsimp only
  exact Kept.foldl ‹_› (fun _ _ _ => (Kept.ite (kept_spanBcast ‹_›) (kept_spanSend ‹_›)))

theorem kept_execPiecePartSend {k0 s : State} (hk : Kept k0 s) :
    OutKept k0 (execPiecePartSend s) := by
  unfold execPiecePartSend
  apply OutKept.next
  split
  assumption
  apply Kept.ite
  exact kept_emitOutcome (kept_fedUpd ‹_›)
  dsimp only
  exact Kept.ite ‹_› (kept_fedUpd (kept_sendPiece ‹_›))

theorem kept_execFeederStateSend {k0 s : State} (hk : Kept k0 s) :
    OutKept k0 (execFeederStateSend s) := by
  unfold execFeederStateSend
  apply OutKept.next
  split
  dsimp only
  exact Kept.ite ‹_› (kept_spanBcast (kept_fedUpd ‹_›))

theorem kept_execFeederStateStale {k0 s : State} (hk : Kept k0 s) :
    OutKept k0 (execFeederStateStale s) := by
  unfold execFeederStateStale
  apply OutKept.next
  split
  assumption
  exact kept_mapShowAll (kept_setErr (kept_fedUpd ‹_›))

theorem kept_execValuePublish {k0 s : State} (hk : Kept k0 s) :
    OutKept k0 (execValuePublish s) := by
  unfold execValuePublish
  apply OutKept.next
  apply Kept.ite
  assumption
  apply Kept.foldl
  exact kept_fedUpd ‹_›
  intro _
  intro _
  intro _
  split
  assumption
  split
  exact kept_spanSend ‹_›
  assumption

theorem kept_bodyFedRouteSet {k0 s : State} {c : Cmd} (hk : Kept k0 s) :
    WorkKept k0 (bodyFedRouteSet s c) := by
  unfold bodyFedRouteSet
  dsimp only
  apply wk_checkOps
  apply wk_readBuf
  assumption
  intro _
  apply wk_checkBuf
  apply wk_pure
  dsimp only
  exact kept_fedUpd ‹_›

theorem kept_execFedRouteSet {k0 : State} {sq : Fin 16} {s : State} (hk : Kept k0 s) :
    OutKept k0 (execFedRouteSet sq s) := by
  unfold execFedRouteSet
  exact OutKept.next (kept_runRing ‹_› (fun _ _ _ => (kept_bodyFedRouteSet ‹_›)))

theorem kept_bodyFedPeerSet {k0 s : State} {c : Cmd} (hk : Kept k0 s) :
    WorkKept k0 (bodyFedPeerSet s c) := by
  unfold bodyFedPeerSet
  dsimp only
  apply wk_checkOps
  apply wk_pure
  dsimp only
  exact kept_fedUpd ‹_›

theorem kept_execFedPeerSet {k0 : State} {sq : Fin 16} {s : State} (hk : Kept k0 s) :
    OutKept k0 (execFedPeerSet sq s) := by
  unfold execFedPeerSet
  exact OutKept.next (kept_runRing ‹_› (fun _ _ _ => (kept_bodyFedPeerSet ‹_›)))

theorem kept_bodyFedValuePub {k0 s : State} {c : Cmd} (hk : Kept k0 s) :
    WorkKept k0 (bodyFedValuePub s c) := by
  unfold bodyFedValuePub
  dsimp only
  apply wk_checkOps
  apply wk_pure
  dsimp only
  exact kept_fedUpd ‹_›

theorem kept_execFedValuePub {k0 : State} {sq : Fin 16} {s : State} (hk : Kept k0 s) :
    OutKept k0 (execFedValuePub sq s) := by
  unfold execFedValuePub
  exact OutKept.next (kept_runRing ‹_› (fun _ _ _ => (kept_bodyFedValuePub ‹_›)))

theorem kept_bodyFedFeederMap {k0 s : State} {c : Cmd} (hk : Kept k0 s) :
    WorkKept k0 (bodyFedFeederMap s c) := by
  unfold bodyFedFeederMap
  dsimp only
  apply wk_checkOps
  apply wk_stopIf
  apply wk_pure
  dsimp only
  exact kept_causedBy ‹_› (kept_mapShow (kept_fedUpd ‹_›))

theorem kept_execFedFeederMap {k0 : State} {sq : Fin 16} {s : State} (hk : Kept k0 s) :
    OutKept k0 (execFedFeederMap sq s) := by
  unfold execFedFeederMap
  exact OutKept.next (kept_runRing ‹_› (fun _ _ _ => (kept_bodyFedFeederMap ‹_›)))

theorem kept_bodyFedHandover {k0 s : State} {c : Cmd} (hk : Kept k0 s) :
    WorkKept k0 (bodyFedHandover s c) := by
  unfold bodyFedHandover
  dsimp only
  apply wk_checkOps
  apply wk_stopIf
  apply wk_stopIf
  apply wk_stopIf
  apply wk_pure
  dsimp only
  exact kept_fedUpd (kept_spanSend ‹_›)

theorem kept_execFedHandover {k0 : State} {sq : Fin 16} {s : State} (hk : Kept k0 s) :
    OutKept k0 (execFedHandover sq s) := by
  unfold execFedHandover
  exact OutKept.next (kept_runRing ‹_› (fun _ _ _ => (kept_bodyFedHandover ‹_›)))

theorem kept_bodyFedPieceSend {k0 s : State} {c : Cmd} (hk : Kept k0 s) :
    WorkKept k0 (bodyFedPieceSend s c) := by
  unfold bodyFedPieceSend
  dsimp only
  apply wk_checkOps
  apply wk_stopIf
  apply wk_stopIf
  apply wk_pure
  dsimp only
  exact kept_fedUpd ‹_›

theorem kept_execFedPieceSend {k0 : State} {sq : Fin 16} {s : State} (hk : Kept k0 s) :
    OutKept k0 (execFedPieceSend sq s) := by
  unfold execFedPieceSend
  exact OutKept.next (kept_runRing ‹_› (fun _ _ _ => (kept_bodyFedPieceSend ‹_›)))

theorem kept_bodyFedActSend {k0 s : State} {c : Cmd} (hk : Kept k0 s) :
    WorkKept k0 (bodyFedActSend s c) := by
  unfold bodyFedActSend
  apply wk_checkOps
  apply wk_stopIf
  dsimp only
  apply wk_pure
  dsimp only
  exact Kept.ite (kept_spanBcast ‹_›) (kept_spanSend ‹_›)

theorem kept_execFedActSend {k0 : State} {sq : Fin 16} {s : State} (hk : Kept k0 s) :
    OutKept k0 (execFedActSend sq s) := by
  unfold execFedActSend
  exact OutKept.next (kept_runRing ‹_› (fun _ _ _ => (kept_bodyFedActSend ‹_›)))

end Sys2Proof.Laws
end

