-- ==== Sys2Proof/Laws/KeptPowerOps.lean ====
section
/-! SUPPORT. What the operations of Machine/PowerOps.lean keep. -/

namespace Sys2Proof.Laws

open Sys2Proof.Machine

theorem kept_commitAll {k0 s : State} (hk : Kept k0 s) :
    Kept k0 (commitAll s) := by
  unfold commitAll
  dsimp only
  split
  exact Kept.ite (kept_retCommit (Kept.foldl (kept_commitBasin ‹_›) (fun _ _ _ => (kept_framWrite ‹_›)))) (Kept.foldl
    (kept_commitBasin ‹_›) (fun _ _ _ => (kept_framWrite ‹_›)))
  exact Kept.foldl (kept_commitBasin ‹_›) (fun _ _ _ => (kept_framWrite ‹_›))

theorem kept_shed {k0 s : State} (hk : Kept k0 s) :
    Kept k0 (shed s) := by
  unfold shed
  dsimp only
  exact Kept.ite (kept_releaseRole (kept_outputsCheck (kept_flkShed (kept_rxOff (kept_setDom (kept_setDom ‹_›))))))
    (kept_outputsCheck (kept_flkShed (kept_rxOff (kept_setDom (kept_setDom ‹_›)))))

theorem kept_readVin {k0 s : State} {mv : Nat} (hk : Kept k0 s) :
    Kept k0 (readVin s mv) := by
  unfold readVin
  try dsimp only
  repeat' first
    | with_reducible assumption
    | with_reducible apply Kept.ite
    | with_reducible apply kept_setFld
    | split

theorem kept_latchPf {k0 s : State} (hk : Kept k0 s) :
    Kept k0 (latchPf s) := by
  unfold latchPf
  try dsimp only
  repeat' first
    | with_reducible assumption
    | with_reducible apply kept_pwrUpd
    | with_reducible apply kept_setFlag
    | with_reducible apply kept_count1
    | refine Kept.upd ?_ rfl rfl rfl rfl

theorem kept_execPowerFailWarning {k0 s : State} {w : PfWarn} (hk : Kept k0 s) :
    OutKept k0 (execPowerFailWarning w s) := by
  unfold execPowerFailWarning
  try dsimp only
  repeat' first
    | with_reducible assumption
    | with_reducible refine OutKept.next ?_
    | with_reducible apply Kept.ite
    | with_reducible apply kept_readVin
    | with_reducible apply kept_pwrUpd
    | with_reducible apply kept_latchPf
    | with_reducible apply kept_shed
    | with_reducible apply kept_commitAll
    | with_reducible apply kept_drawFree
    | split
    | refine Kept.upd ?_ rfl rfl rfl rfl

theorem kept_supplyEvent {k0 s : State} {k : Nat} (hk : Kept k0 s) :
    Kept k0 (supplyEvent s k) := by
  unfold supplyEvent
  exact kept_emit ‹_›

theorem kept_execVbakLow {k0 : State} {mv : Nat} {s : State} (hk : Kept k0 s) :
    OutKept k0 (execVbakLow mv s) := by
  unfold execVbakLow
  apply OutKept.next
  split
  assumption
  exact kept_pwrUpd ‹_›
  exact kept_pwrUpd ‹_›
  dsimp only
  exact Kept.ite (kept_supplyEvent (kept_setErr (kept_setFld (kept_setFld ‹_›)))) (kept_setFld ‹_›)
  dsimp only
  exact Kept.ite (kept_supplyEvent (kept_setErr (kept_setFld (kept_setFld ‹_›)))) (kept_setFld ‹_›)

theorem kept_execVbakGood {k0 : State} {mv : Nat} {s : State} (hk : Kept k0 s) :
    OutKept k0 (execVbakGood mv s) := by
  unfold execVbakGood
  apply OutKept.next
  split
  assumption
  assumption
  exact kept_pwrUpd ‹_›
  dsimp only
  exact Kept.ite (kept_supplyEvent (kept_setFld (kept_setFld ‹_›))) (kept_setFld ‹_›)
  dsimp only
  exact Kept.ite (kept_supplyEvent (kept_setFld (kept_setFld ‹_›))) (kept_setFld ‹_›)

theorem kept_execThermal {k0 : State} {t : Int} {s : State} (hk : Kept k0 s) :
    OutKept k0 (execThermal t s) := by
  unfold execThermal
  apply OutKept.next
  apply Kept.ite
  assumption
  dsimp only
  exact Kept.ite (kept_supplyEvent (kept_setErr (kept_pwrUpd (kept_setFld ‹_›)))) (kept_setFld ‹_›)

theorem kept_execThermalClear {k0 : State} {t : Int} {s : State} (hk : Kept k0 s) :
    OutKept k0 (execThermalClear t s) := by
  unfold execThermalClear
  apply OutKept.next
  apply Kept.ite
  assumption
  dsimp only
  exact Kept.ite (kept_supplyEvent (kept_pwrUpd (kept_setFld ‹_›))) (kept_setFld ‹_›)

theorem kept_execTamper {k0 s0 : State} {x : TampIn} (hk : Kept k0 s0) :
    OutKept k0 (execTamper x s0) := by
  unfold execTamper
  try dsimp only
  repeat' first
    | with_reducible assumption
    | with_reducible refine OutKept.next ?_
    | with_reducible apply Kept.ite
    | with_reducible apply kept_setFld
    | with_reducible apply kept_pwrUpd
    | with_reducible apply kept_tamperRecord
    | split
    | refine Kept.upd ?_ rfl rfl rfl rfl

theorem kept_bodyPwrModeSet {k0 s : State} {c : Cmd} (hk : Kept k0 s) :
    WorkKept k0 (bodyPwrModeSet s c) := by
  unfold bodyPwrModeSet
  dsimp only
  apply wk_checkOps
  apply wk_stopIf
  apply wk_pure
  dsimp only
  exact Kept.ite (kept_outputsCheck (kept_pwrUpd (kept_setFld (kept_setFld ‹_›)))) (kept_emitBy (kept_outputsCheck
    (kept_pwrUpd (kept_setFld (kept_setFld ‹_›)))))

theorem kept_execPwrModeSet {k0 : State} {sq : Fin 16} {s : State} (hk : Kept k0 s) :
    OutKept k0 (execPwrModeSet sq s) := by
  unfold execPwrModeSet
  exact OutKept.next (kept_runRing ‹_› (fun _ _ _ => (kept_bodyPwrModeSet ‹_›)))

theorem kept_bodyPwrDomainSet {k0 s : State} {c : Cmd} (hk : Kept k0 s) :
    WorkKept k0 (bodyPwrDomainSet s c) := by
  unfold bodyPwrDomainSet
  dsimp only
  apply wk_checkOps
  apply wk_stopIf
  apply wk_stopIf
  apply wk_pure
  dsimp only
  exact kept_pwrUpd ‹_›

theorem kept_execPwrDomainSet {k0 : State} {sq : Fin 16} {s : State} (hk : Kept k0 s) :
    OutKept k0 (execPwrDomainSet sq s) := by
  unfold execPwrDomainSet
  exact OutKept.next (kept_runRing ‹_› (fun _ _ _ => (kept_bodyPwrDomainSet ‹_›)))

theorem kept_foldDead {k0 s : State} (hk : Kept k0 s) :
    Kept k0 (foldDead s) := by
  unfold foldDead
  exact Kept.foldl ‹_› (fun _ _ _ => (kept_foldCause ‹_›))

theorem kept_domReset {k0 s : State} {d : Nat} (hk : Kept k0 s) :
    Kept k0 (domReset s d) := by
  unfold domReset
  dsimp only
  exact Kept.foldl (Kept.ite (kept_foldDead (kept_restoreBasin (kept_basinReset (kept_ckLoad (kept_setFld (kept_dropRegs
    ‹_›)))))) (Kept.ite (kept_oxRestore (kept_oxReset (kept_ftnReset (kept_ckLoad (kept_setFld (kept_dropRegs ‹_›))))))
    (kept_ckLoad (kept_setFld (kept_dropRegs ‹_›))))) (fun _ _ _ => (kept_emit ‹_›))

theorem kept_domPads {k0 s : State} {d : Nat} {goal : Nat} (hk : Kept k0 s) :
    Kept k0 (domPads s d goal) := by
  unfold domPads
  try dsimp only
  repeat' first
    | with_reducible assumption
    | with_reducible apply Kept.ite
    | with_reducible apply kept_dropDrives
    | with_reducible apply kept_showPads
    | split

theorem kept_execDomainStateReached {k0 s : State} (hk : Kept k0 s) :
    OutKept k0 (execDomainStateReached s) := by
  unfold execDomainStateReached
  apply OutKept.next
  split
  · assumption
  · rename_i x r _
    dsimp only
    refine Kept.ite (kept_completeSeq (kept_pwrUpd ‹_›)) (kept_completeSeq ?_)
    have h2 := kept_setDom (d := x.dom) (v := x.goal) (kept_pwrUpd (f := fun p => { p with changes := r }) hk)
    have h3 := Kept.ite (p := domState s x.dom = 0 ∧ x.goal ≠ 0) (kept_domReset (d := x.dom) h2) h2
    have h4 := kept_domPads (d := x.dom) (goal := x.goal) (Kept.ite (p := x.dom = 10 ∧ x.goal ≠ 0) (kept_driveClks h3) h3)
    have h5 : ∀ (p : Prop) [Decidable p] t, Kept k0 t → Kept k0 ((if p then oxFollowRole else id) t) := by
      intro p _ t h
      split
      · exact kept_oxFollowRole h
      · exact h
    exact Kept.ite (h5 _ _ h4) (kept_emitBy (h5 _ _ h4))

theorem kept_flushHeld {k0 s : State} (hk : Kept k0 s) :
    Kept k0 (flushHeld s) := by
  unfold flushHeld
  exact Kept.foldl ‹_› (fun _ _ _ => (Kept.foldl ‹_› (fun _ _ _ => (kept_writeCompletion ‹_›))))

theorem kept_bodyModuleReset {k0 s : State} {c : Cmd} (hk : Kept k0 s) :
    WorkKept k0 (bodyModuleReset s c) := by
  unfold bodyModuleReset
  apply wk_checkOps
  apply wk_stopIf
  apply wk_pure
  dsimp only
  assumption

theorem kept_resetWhenWritten {k0 s : State} {seq : Nat} {b : Boot} (hk : Kept k0 s) :
    Kept k0 (resetWhenWritten s seq b) := by
  unfold resetWhenWritten
  exact Kept.ite (kept_hostUpd ‹_› (fun _ => rfl)) (kept_modReset ‹_›)

theorem kept_execModuleReset {k0 : State} {sq : Fin 16} {b : Boot} {s : State} (hk : Kept k0 s) :
    OutKept k0 (execModuleReset sq b s) := by
  unfold execModuleReset
  apply OutKept.next
  split
  exact kept_resetWhenWritten ‹_›
  split
  assumption
  dsimp only
  split
  exact Kept.ite (kept_resetWhenWritten (kept_flushHeld (kept_runCmd ‹_› (fun _ _ _ => (kept_bodyModuleReset ‹_›))))) ‹_›
  exact kept_runCmd ‹_› (fun _ _ _ => (kept_bodyModuleReset ‹_›))

theorem kept_stopForActivation {k0 s : State} {a : ActSched} (hk : Kept k0 s) :
    Kept k0 (stopForActivation s a) := by
  unfold stopForActivation
  dsimp only
  exact kept_updUpd (kept_completeAll ‹_›) (fun _ => rfl)

theorem kept_bootActivated {k0 s : State} {a : ActSched} {b : Boot} (hk : Kept k0 s) :
    Kept k0 (bootActivated s a b) := by
  unfold bootActivated
  dsimp only
  exact kept_modReset (kept_updUpd (Kept.foldl (kept_updAudit (kept_commitAll (kept_flushHeld ‹_›))) (fun _ _ _ =>
    (kept_framWrite ‹_›))) (fun _ => rfl))

theorem kept_execActivationDue {k0 : State} {b : Boot} {s : State} (hk : Kept k0 s) :
    OutKept k0 (execActivationDue b s) := by
  unfold execActivationDue
  apply OutKept.next
  split
  apply Kept.ite
  dsimp only
  exact Kept.ite (kept_bootActivated (Kept.ite ‹_› (kept_stopForActivation ‹_›))) (Kept.ite ‹_› (kept_stopForActivation ‹_›))
  assumption
  assumption

end Sys2Proof.Laws
end

