-- ==== Sys2Proof/Laws/KeptSteps.lean ====
section
/-! SUPPORT. What the operations of Machine/Steps.lean keep. -/

namespace Sys2Proof.Laws

open Sys2Proof.Machine

theorem kept_taminStep {k0 s : State} {d : Int} (hk : Kept k0 s) :
    Kept k0 (taminStep s d) := by
  unfold taminStep
  dsimp only
  exact kept_setFld (kept_macUpd ‹_›)

theorem kept_streetStep {k0 s : State} {old : Nat} (hk : Kept k0 s) :
    Kept k0 (streetStep s old) := by
  unfold streetStep
  try dsimp only
  repeat' first
    | with_reducible assumption
    | with_reducible apply Kept.ite
    | with_reducible apply kept_dueCommits
    | with_reducible apply kept_fireCrossed
    | with_reducible apply kept_stepsSeen
    | split

theorem kept_deliverStep {k0 s : State} {old : Nat} (hk : Kept k0 s) :
    Kept k0 (deliverStep s old) := by
  unfold deliverStep
  dsimp only
  exact kept_actCross (kept_syncSlow (kept_cascadeStep (kept_basinStep (kept_streetStep (kept_taminStep ‹_›)))))

theorem kept_takeStep {k0 s : State} {new : Nat} {byHost : Bool} {after : Option Nat} (hk : Kept k0 s) :
    Kept k0 (takeStep s new byHost after) := by
  unfold takeStep
  exact kept_deliverStep (kept_stepClock (kept_timeUpd ‹_›))

theorem kept_regCommit {k0 s : State} (hk : Kept k0 s) :
    Kept k0 (regCommit s).1 := by
  unfold regCommit
  dsimp only
  apply Kept.ite1
  dsimp only
  exact kept_timeUpd (kept_timeUpd (kept_setFld ‹_›))
  apply Kept.ite1
  dsimp only
  exact kept_setErr (kept_timeUpd (kept_setFld ‹_›))
  apply Kept.ite1
  dsimp only
  exact kept_takeStep (kept_timeUpd (kept_setFld ‹_›))
  apply Kept.ite1
  dsimp only
  exact kept_setErr (kept_timeUpd (kept_timeUpd (kept_setFld ‹_›)))
  dsimp only
  exact kept_takeStep (kept_timeUpd (kept_timeUpd (kept_setFld ‹_›)))

theorem kept_ringStep {k0 s : State} {r : RingStep} (hk : Kept k0 s) :
    Kept k0 (ringStep s r) := by
  unfold ringStep
  dsimp only
  apply Kept.ite
  exact kept_completeSeq (kept_timeUpd ‹_›)
  split
  exact kept_completeSeq (kept_takeStep (kept_timeUpd ‹_›))
  exact kept_completeSeq (kept_timeUpd ‹_›)

theorem kept_servoJump {k0 s : State} (hk : Kept k0 s) :
    Kept k0 (servoJump s) := by
  unfold servoJump
  split
  exact kept_takeStep ‹_›
  assumption

theorem kept_execStepBoundary {k0 s : State} (hk : Kept k0 s) :
    OutKept k0 (execStepBoundary s) := by
  unfold execStepBoundary
  apply OutKept.next
  apply Kept.ite
  assumption
  dsimp only
  apply kept_applyRules
  apply Kept.ite
  apply Kept.ite1
  dsimp only
  exact kept_timeUpd ‹_›
  exact kept_regCommit (kept_timeUpd ‹_›)
  split
  apply kept_ringStep
  apply Kept.ite1
  dsimp only
  exact kept_timeUpd ‹_›
  exact kept_regCommit (kept_timeUpd ‹_›)
  apply kept_servoJump
  apply Kept.ite1
  dsimp only
  exact kept_timeUpd ‹_›
  exact kept_regCommit (kept_timeUpd ‹_›)

end Sys2Proof.Laws
end

