-- ==== Sys2Proof/Laws/KeptHostAccess.lean ====
section
/-! SUPPORT. What the operations of Machine/HostAccess.lean keep. -/

namespace Sys2Proof.Laws

open Sys2Proof.Machine

theorem kept_putWord {k0 s : State} {c : Card} {off : Nat} {v : Nat} (hk : Kept k0 s) :
    Kept k0 (putWord s c off v) := by
  unfold putWord
  dsimp only
  exact kept_setReg ‹_›

theorem kept_ckFollow {k0 : State} {s0 : State} {s : State} {off : Nat} (_hk : Kept k0 s0) (hk1 : Kept k0 s) :
    Kept k0 (ckFollow s0 s off) := by
  unfold ckFollow
  apply Kept.ite
  assumption
  dsimp only
  exact kept_mirror (kept_ckSave ‹_›)

theorem kept_plainWrite {k0 s : State} {c : Card} {n : Nat} {off : Nat} {v : Nat} (hk : Kept k0 s) :
    Kept k0 (plainWrite s c n off v) := by
  unfold plainWrite
  try dsimp only
  repeat' first
    | with_reducible assumption
    | with_reducible apply Kept.ite
    | with_reducible apply kept_setErrs
    | with_reducible apply kept_putWord
    | with_reducible apply kept_ckFollow
    | with_reducible apply kept_afterWrite
    | with_reducible refine Kept.fst (by assumption) ?_
    | with_reducible refine Kept.snd (by assumption) ?_
    | split

theorem kept_keyCtrlWrite {k0 s : State} {v : Nat} (hk : Kept k0 s) :
    Kept k0 (keyCtrlWrite s v) := by
  unfold keyCtrlWrite
  dsimp only
  exact Kept.ite (kept_pufClear (Kept.ite (kept_setFld (Kept.ite (kept_setFld ‹_›) ‹_›)) (Kept.ite (kept_setFld ‹_›) ‹_›)))
    (Kept.ite (kept_setFld (Kept.ite (kept_setFld ‹_›) ‹_›)) (Kept.ite (kept_setFld ‹_›) ‹_›))

theorem kept_basIntervalWrite {k0 s : State} {v : Nat} (hk : Kept k0 s) :
    Kept k0 (basIntervalWrite s v) := by
  unfold basIntervalWrite
  exact kept_ckFollow ‹_› (kept_intervalWrite ‹_›)

theorem kept_execIntervalLenWrite {k0 : State} {v : Word} {s : State} (hk : Kept k0 s) :
    OutKept k0 (execIntervalLenWrite v s) := by
  unfold execIntervalLenWrite
  exact OutKept.next (Kept.ite (kept_basIntervalWrite ‹_›) (kept_pdAccess ‹_›))

theorem kept_regWrite {k0 s : State} {c : Card} {n : Nat} {off : Nat} {v : Nat} (hk : Kept k0 s) :
    Kept k0 (regWrite s c n off v) := by
  unfold regWrite
  split
  exact kept_hifEnableWrite ‹_›
  exact Kept.ite (kept_resumeWrite ‹_›) ‹_›
  exact kept_sqCfgWrite ‹_›
  exact kept_cqCfgWrite ‹_›
  exact kept_eqCfgWrite ‹_›
  exact Kept.ite (kept_setFlag (kept_setFld ‹_›)) (kept_plainWrite ‹_›)
  exact Kept.ite (kept_portFlush ‹_›) ‹_›
  exact kept_timCtrlWrite ‹_›
  exact kept_stageWrite ‹_›
  exact kept_stageWrite ‹_›
  exact kept_commitWrite ‹_›
  dsimp only
  exact Kept.ite (kept_armAlarm (Kept.ite (kept_setFld (kept_setFld ‹_›)) ‹_›)) (kept_setFld (Kept.ite (kept_setFld
    (kept_setFld ‹_›)) ‹_›))
  exact Kept.ite (kept_enableWake ‹_›) (kept_setFld ‹_›)
  exact kept_basIntervalWrite ‹_›
  exact kept_ftnUpd ‹_›
  apply Kept.ite
  dsimp only
  exact kept_ckFollow ‹_› (kept_setFlag ‹_›)
  exact kept_plainWrite ‹_›
  exact kept_keyCtrlWrite ‹_›
  exact kept_plainWrite ‹_›

theorem kept_bar0Write {k0 s : State} {off : Nat} {v : Nat} (hk : Kept k0 s) :
    Kept k0 (bar0Write s off v) := by
  unfold bar0Write
  split
  exact kept_badAccess ‹_›
  exact Kept.ite (kept_pdAccess ‹_›) (kept_regWrite ‹_›)

theorem kept_bar2Write {k0 s : State} {off : Nat} {v : Nat} (hk : Kept k0 s) :
    Kept k0 (bar2Write s off v) := by
  unfold bar2Write
  exact Kept.ite (kept_badAccess ‹_›) (Kept.ite (kept_sqDoorbell ‹_›) (Kept.ite (kept_cqDoorbell ‹_›) (Kept.ite
    (kept_eqDoorbell ‹_›) (Kept.ite (kept_flushMsix (kept_hostUpd ‹_› (fun _ => rfl))) (Kept.ite ‹_› (kept_badAccess
    ‹_›))))))

theorem kept_hostWrite1 {k0 s : State} {a : HostAccess} {off : Nat} {v : Nat} (hk : Kept k0 s) :
    Kept k0 (hostWrite1 s a off v) := by
  unfold hostWrite1
  exact Kept.ite (kept_badAccess ‹_›) (Kept.ite (kept_bar2Write ‹_›) (kept_bar0Write ‹_›))

theorem kept_hostWrite {k0 s : State} {a : HostAccess} {v : Nat} (hk : Kept k0 s) :
    Kept k0 (hostWrite s a v) := by
  unfold hostWrite
  dsimp only
  split
  exact kept_hostWrite1 (kept_hostWrite1 ‹_›)
  exact kept_hostWrite1 ‹_›

theorem kept_execRegisterWrite {k0 : State} {a : HostAccess} {v : Word} {s : State} (hk : Kept k0 s) :
    OutKept k0 (execRegisterWrite a v s) := by
  unfold execRegisterWrite
  exact OutKept.next (kept_hostWrite ‹_›)

theorem kept_clearRc {k0 s : State} {c : Card} {off : Nat} (hk : Kept k0 s) :
    Kept k0 (clearRc s c off) := by
  unfold clearRc
  dsimp only
  exact Kept.ite ‹_› (kept_setReg ‹_›)

theorem kept_answerRead {k0 s : State} {v : Nat} (hk : Kept k0 s) :
    Kept k0 (answerRead s v) := by
  unfold answerRead
  exact kept_hostUpd ‹_› (fun _ => rfl)

theorem kept_regRead {k0 s : State} {c : Card} {n : Nat} {off : Nat} (hk : Kept k0 s) :
    Kept k0 (regRead s c n off) := by
  unfold regRead
  split
  exact kept_portRead ‹_›
  exact kept_secLoRead ‹_›
  exact kept_calDateRead ‹_›
  exact kept_liveFseqRead ‹_›
  exact kept_audOseqRead ‹_›
  exact kept_clearRc (kept_answerRead ‹_›)

theorem kept_bar0Read {k0 s : State} {off : Nat} (hk : Kept k0 s) :
    Kept k0 (bar0Read s off) := by
  unfold bar0Read
  split
  exact kept_badAccess (kept_answerRead ‹_›)
  exact Kept.ite (kept_pdAccess (kept_answerRead ‹_›)) (kept_regRead ‹_›)

theorem kept_bar2Read {k0 s : State} {off : Nat} (hk : Kept k0 s) :
    Kept k0 (bar2Read s off) := by
  unfold bar2Read
  exact Kept.ite (kept_answerRead ‹_›) (Kept.ite (kept_answerRead ‹_›) (Kept.ite (kept_answerRead ‹_›) (Kept.ite
    (kept_answerRead ‹_›) (kept_badAccess (kept_answerRead ‹_›)))))

theorem kept_hostRead1 {k0 s : State} {a : HostAccess} {off : Nat} (hk : Kept k0 s) :
    Kept k0 (hostRead1 s a off) := by
  unfold hostRead1
  exact Kept.ite (kept_bar2Read ‹_›) (kept_bar0Read ‹_›)

theorem kept_hostRead {k0 s : State} {a : HostAccess} (hk : Kept k0 s) :
    Kept k0 (hostRead s a) := by
  unfold hostRead
  dsimp only
  split
  exact kept_answerRead (kept_hostRead1 (kept_hostRead1 ‹_›))
  exact kept_hostRead1 ‹_›

theorem kept_execReadClear {k0 : State} {a : HostAccess} {s : State} (hk : Kept k0 s) :
    OutKept k0 (execReadClear a s) := by
  unfold execReadClear
  exact OutKept.next (kept_hostRead ‹_›)

theorem kept_execLockSet {k0 : State} {w : LockSel} {s : State} (hk : Kept k0 s) :
    OutKept k0 (execLockSet w s) := by
  unfold execLockSet
  exact OutKept.next (Kept.ite (kept_setFld ‹_›) (kept_pdAccess ‹_›))

end Sys2Proof.Laws
end

