-- ==== Sys2Proof/Laws/KeptTick.lean ====
section
/-! SUPPORT. What the operations of Machine/Tick.lean keep. -/

namespace Sys2Proof.Laws

open Sys2Proof.Machine

theorem servoGain_ge {left : Int} {acc : Nat} : -1 ≤ (servoGain left acc).1 := by
  unfold servoGain
  split
  · simp
  · split
    · simp
    · split <;> simp

theorem slewGain_ge {g acc : Nat} {left : Int} : -1 ≤ (if g = 0 then (0, acc, left) else servoGain left acc).1 := by
  split
  · simp
  · exact servoGain_ge

theorem kept_tickClock {k0 s : State} (hk : Kept k0 s) : Kept k0 (tickClock s) := by
  have hd {d : Int} (h : -1 ≤ d) : s.el ≤ ((s.el : Int) + 1 + d).toNat := by omega
  unfold tickClock
  exact Kept.clock hk rfl (hd slewGain_ge) rfl rfl

theorem kept_newSecond {k0 s : State} (hk : Kept k0 s) :
    Kept k0 (newSecond s) := by
  unfold newSecond
  dsimp only
  exact kept_imageTick (kept_radUpd (Kept.ite (kept_setFld (kept_setFld ‹_›)) ‹_›))

theorem kept_rillDrain {k0 s : State} (hk : Kept k0 s) :
    Kept k0 (rillDrain s) := by
  unfold rillDrain
  try dsimp only
  repeat' first
    | with_reducible assumption
    | with_reducible refine Kept.foldl ?_ fun _ _ _ => ?_
    | with_reducible refine kept_hostUpd ?_ fun _ => rfl
    | refine Kept.upd ?_ rfl rfl rfl rfl

theorem kept_tick {k0 s : State} (hk : Kept k0 s) :
    Kept k0 (tick s) := by
  unfold tick
  try dsimp only
  repeat' first
    | with_reducible assumption
    | with_reducible apply Kept.ite
    | with_reducible apply kept_tickClock
    | with_reducible apply kept_keyStep
    | with_reducible apply kept_rillDrain
    | with_reducible apply kept_newSecond
    | split
    | refine Kept.upd ?_ rfl rfl rfl rfl

end Sys2Proof.Laws
end

