-- ==== Sys2Proof/Laws/State.lean ====
section
/-! SUPPORT. What each update of a field gives for every field of the state, by definition. The proofs are `(rfl)` in
parentheses so that `simp` rewrites with these lemmas and never asks the kernel to compare two whole states: such a comparison
evaluates register words and can take minutes. For the same reason close no goal about a concrete register by `rfl`. -/

namespace Sys2Proof.Laws

open Sys2Proof.Machine

variable {s : State}

@[simp] theorem basUpd_pending {f : BasinSt → BasinSt} : (basUpd s f).pending = s.pending := (rfl)
@[simp] theorem basUpd_regs {f : BasinSt → BasinSt} : (basUpd s f).regs = s.regs := (rfl)
@[simp] theorem basUpd_dt {f : BasinSt → BasinSt} : (basUpd s f).dt = s.dt := (rfl)
@[simp] theorem basUpd_el {f : BasinSt → BasinSt} : (basUpd s f).el = s.el := (rfl)
@[simp] theorem basUpd_freeN {f : BasinSt → BasinSt} : (basUpd s f).freeN = s.freeN := (rfl)
@[simp] theorem basUpd_sent {f : BasinSt → BasinSt} : (basUpd s f).sent = s.sent := (rfl)
@[simp] theorem basUpd_host {f : BasinSt → BasinSt} : (basUpd s f).host = s.host := (rfl)
@[simp] theorem basUpd_time {f : BasinSt → BasinSt} : (basUpd s f).time = s.time := (rfl)
@[simp] theorem basUpd_cis {f : BasinSt → BasinSt} : (basUpd s f).cis = s.cis := (rfl)
@[simp] theorem basUpd_rad {f : BasinSt → BasinSt} : (basUpd s f).rad = s.rad := (rfl)
@[simp] theorem basUpd_mac {f : BasinSt → BasinSt} : (basUpd s f).mac = s.mac := (rfl)
@[simp] theorem basUpd_street {f : BasinSt → BasinSt} : (basUpd s f).street = s.street := (rfl)
@[simp] theorem basUpd_cas {f : BasinSt → BasinSt} : (basUpd s f).cas = s.cas := (rfl)
@[simp] theorem basUpd_bas {f : BasinSt → BasinSt} : (basUpd s f).bas = f s.bas := (rfl)
@[simp] theorem basUpd_weir {f : BasinSt → BasinSt} : (basUpd s f).weir = s.weir := (rfl)
@[simp] theorem basUpd_ftn {f : BasinSt → BasinSt} : (basUpd s f).ftn = s.ftn := (rfl)
@[simp] theorem basUpd_ox {f : BasinSt → BasinSt} : (basUpd s f).ox = s.ox := (rfl)
@[simp] theorem basUpd_pair {f : BasinSt → BasinSt} : (basUpd s f).pair = s.pair := (rfl)
@[simp] theorem basUpd_fed {f : BasinSt → BasinSt} : (basUpd s f).fed = s.fed := (rfl)
@[simp] theorem basUpd_key {f : BasinSt → BasinSt} : (basUpd s f).key = s.key := (rfl)
@[simp] theorem basUpd_pin {f : BasinSt → BasinSt} : (basUpd s f).pin = s.pin := (rfl)
@[simp] theorem basUpd_upd {f : BasinSt → BasinSt} : (basUpd s f).upd = s.upd := (rfl)
@[simp] theorem basUpd_pwr {f : BasinSt → BasinSt} : (basUpd s f).pwr = s.pwr := (rfl)
@[simp] theorem basUpd_bst {f : BasinSt → BasinSt} : (basUpd s f).bst = s.bst := (rfl)

@[simp] theorem casUpd_pending {f : CasSt → CasSt} : (casUpd s f).pending = s.pending := (rfl)
@[simp] theorem casUpd_regs {f : CasSt → CasSt} : (casUpd s f).regs = s.regs := (rfl)
@[simp] theorem casUpd_dt {f : CasSt → CasSt} : (casUpd s f).dt = s.dt := (rfl)
@[simp] theorem casUpd_el {f : CasSt → CasSt} : (casUpd s f).el = s.el := (rfl)
@[simp] theorem casUpd_freeN {f : CasSt → CasSt} : (casUpd s f).freeN = s.freeN := (rfl)
@[simp] theorem casUpd_sent {f : CasSt → CasSt} : (casUpd s f).sent = s.sent := (rfl)
@[simp] theorem casUpd_host {f : CasSt → CasSt} : (casUpd s f).host = s.host := (rfl)
@[simp] theorem casUpd_time {f : CasSt → CasSt} : (casUpd s f).time = s.time := (rfl)
@[simp] theorem casUpd_cis {f : CasSt → CasSt} : (casUpd s f).cis = s.cis := (rfl)
@[simp] theorem casUpd_rad {f : CasSt → CasSt} : (casUpd s f).rad = s.rad := (rfl)
@[simp] theorem casUpd_mac {f : CasSt → CasSt} : (casUpd s f).mac = s.mac := (rfl)
@[simp] theorem casUpd_street {f : CasSt → CasSt} : (casUpd s f).street = s.street := (rfl)
@[simp] theorem casUpd_cas {f : CasSt → CasSt} : (casUpd s f).cas = f s.cas := (rfl)
@[simp] theorem casUpd_bas {f : CasSt → CasSt} : (casUpd s f).bas = s.bas := (rfl)
@[simp] theorem casUpd_weir {f : CasSt → CasSt} : (casUpd s f).weir = s.weir := (rfl)
@[simp] theorem casUpd_ftn {f : CasSt → CasSt} : (casUpd s f).ftn = s.ftn := (rfl)
@[simp] theorem casUpd_ox {f : CasSt → CasSt} : (casUpd s f).ox = s.ox := (rfl)
@[simp] theorem casUpd_pair {f : CasSt → CasSt} : (casUpd s f).pair = s.pair := (rfl)
@[simp] theorem casUpd_fed {f : CasSt → CasSt} : (casUpd s f).fed = s.fed := (rfl)
@[simp] theorem casUpd_key {f : CasSt → CasSt} : (casUpd s f).key = s.key := (rfl)
@[simp] theorem casUpd_pin {f : CasSt → CasSt} : (casUpd s f).pin = s.pin := (rfl)
@[simp] theorem casUpd_upd {f : CasSt → CasSt} : (casUpd s f).upd = s.upd := (rfl)
@[simp] theorem casUpd_pwr {f : CasSt → CasSt} : (casUpd s f).pwr = s.pwr := (rfl)
@[simp] theorem casUpd_bst {f : CasSt → CasSt} : (casUpd s f).bst = s.bst := (rfl)

@[simp] theorem keyUpd_pending {f : KeySt → KeySt} : (keyUpd s f).pending = s.pending := (rfl)
@[simp] theorem keyUpd_regs {f : KeySt → KeySt} : (keyUpd s f).regs = s.regs := (rfl)
@[simp] theorem keyUpd_dt {f : KeySt → KeySt} : (keyUpd s f).dt = s.dt := (rfl)
@[simp] theorem keyUpd_el {f : KeySt → KeySt} : (keyUpd s f).el = s.el := (rfl)
@[simp] theorem keyUpd_freeN {f : KeySt → KeySt} : (keyUpd s f).freeN = s.freeN := (rfl)
@[simp] theorem keyUpd_sent {f : KeySt → KeySt} : (keyUpd s f).sent = s.sent := (rfl)
@[simp] theorem keyUpd_host {f : KeySt → KeySt} : (keyUpd s f).host = s.host := (rfl)
@[simp] theorem keyUpd_time {f : KeySt → KeySt} : (keyUpd s f).time = s.time := (rfl)
@[simp] theorem keyUpd_cis {f : KeySt → KeySt} : (keyUpd s f).cis = s.cis := (rfl)
@[simp] theorem keyUpd_rad {f : KeySt → KeySt} : (keyUpd s f).rad = s.rad := (rfl)
@[simp] theorem keyUpd_mac {f : KeySt → KeySt} : (keyUpd s f).mac = s.mac := (rfl)
@[simp] theorem keyUpd_street {f : KeySt → KeySt} : (keyUpd s f).street = s.street := (rfl)
@[simp] theorem keyUpd_cas {f : KeySt → KeySt} : (keyUpd s f).cas = s.cas := (rfl)
@[simp] theorem keyUpd_bas {f : KeySt → KeySt} : (keyUpd s f).bas = s.bas := (rfl)
@[simp] theorem keyUpd_weir {f : KeySt → KeySt} : (keyUpd s f).weir = s.weir := (rfl)
@[simp] theorem keyUpd_ftn {f : KeySt → KeySt} : (keyUpd s f).ftn = s.ftn := (rfl)
@[simp] theorem keyUpd_ox {f : KeySt → KeySt} : (keyUpd s f).ox = s.ox := (rfl)
@[simp] theorem keyUpd_pair {f : KeySt → KeySt} : (keyUpd s f).pair = s.pair := (rfl)
@[simp] theorem keyUpd_fed {f : KeySt → KeySt} : (keyUpd s f).fed = s.fed := (rfl)
@[simp] theorem keyUpd_key {f : KeySt → KeySt} : (keyUpd s f).key = f s.key := (rfl)
@[simp] theorem keyUpd_pin {f : KeySt → KeySt} : (keyUpd s f).pin = s.pin := (rfl)
@[simp] theorem keyUpd_upd {f : KeySt → KeySt} : (keyUpd s f).upd = s.upd := (rfl)
@[simp] theorem keyUpd_pwr {f : KeySt → KeySt} : (keyUpd s f).pwr = s.pwr := (rfl)
@[simp] theorem keyUpd_bst {f : KeySt → KeySt} : (keyUpd s f).bst = s.bst := (rfl)

@[simp] theorem macUpd_pending {f : TaminSt → TaminSt} : (macUpd s f).pending = s.pending := (rfl)
@[simp] theorem macUpd_regs {f : TaminSt → TaminSt} : (macUpd s f).regs = s.regs := (rfl)
@[simp] theorem macUpd_dt {f : TaminSt → TaminSt} : (macUpd s f).dt = s.dt := (rfl)
@[simp] theorem macUpd_el {f : TaminSt → TaminSt} : (macUpd s f).el = s.el := (rfl)
@[simp] theorem macUpd_freeN {f : TaminSt → TaminSt} : (macUpd s f).freeN = s.freeN := (rfl)
@[simp] theorem macUpd_sent {f : TaminSt → TaminSt} : (macUpd s f).sent = s.sent := (rfl)
@[simp] theorem macUpd_host {f : TaminSt → TaminSt} : (macUpd s f).host = s.host := (rfl)
@[simp] theorem macUpd_time {f : TaminSt → TaminSt} : (macUpd s f).time = s.time := (rfl)
@[simp] theorem macUpd_cis {f : TaminSt → TaminSt} : (macUpd s f).cis = s.cis := (rfl)
@[simp] theorem macUpd_rad {f : TaminSt → TaminSt} : (macUpd s f).rad = s.rad := (rfl)
@[simp] theorem macUpd_mac {f : TaminSt → TaminSt} : (macUpd s f).mac = f s.mac := (rfl)
@[simp] theorem macUpd_street {f : TaminSt → TaminSt} : (macUpd s f).street = s.street := (rfl)
@[simp] theorem macUpd_cas {f : TaminSt → TaminSt} : (macUpd s f).cas = s.cas := (rfl)
@[simp] theorem macUpd_bas {f : TaminSt → TaminSt} : (macUpd s f).bas = s.bas := (rfl)
@[simp] theorem macUpd_weir {f : TaminSt → TaminSt} : (macUpd s f).weir = s.weir := (rfl)
@[simp] theorem macUpd_ftn {f : TaminSt → TaminSt} : (macUpd s f).ftn = s.ftn := (rfl)
@[simp] theorem macUpd_ox {f : TaminSt → TaminSt} : (macUpd s f).ox = s.ox := (rfl)
@[simp] theorem macUpd_pair {f : TaminSt → TaminSt} : (macUpd s f).pair = s.pair := (rfl)
@[simp] theorem macUpd_fed {f : TaminSt → TaminSt} : (macUpd s f).fed = s.fed := (rfl)
@[simp] theorem macUpd_key {f : TaminSt → TaminSt} : (macUpd s f).key = s.key := (rfl)
@[simp] theorem macUpd_pin {f : TaminSt → TaminSt} : (macUpd s f).pin = s.pin := (rfl)
@[simp] theorem macUpd_upd {f : TaminSt → TaminSt} : (macUpd s f).upd = s.upd := (rfl)
@[simp] theorem macUpd_pwr {f : TaminSt → TaminSt} : (macUpd s f).pwr = s.pwr := (rfl)
@[simp] theorem macUpd_bst {f : TaminSt → TaminSt} : (macUpd s f).bst = s.bst := (rfl)

@[simp] theorem streetUpd_pending {f : StreetSt → StreetSt} : (streetUpd s f).pending = s.pending := (rfl)
@[simp] theorem streetUpd_regs {f : StreetSt → StreetSt} : (streetUpd s f).regs = s.regs := (rfl)
@[simp] theorem streetUpd_dt {f : StreetSt → StreetSt} : (streetUpd s f).dt = s.dt := (rfl)
@[simp] theorem streetUpd_el {f : StreetSt → StreetSt} : (streetUpd s f).el = s.el := (rfl)
@[simp] theorem streetUpd_freeN {f : StreetSt → StreetSt} : (streetUpd s f).freeN = s.freeN := (rfl)
@[simp] theorem streetUpd_sent {f : StreetSt → StreetSt} : (streetUpd s f).sent = s.sent := (rfl)
@[simp] theorem streetUpd_host {f : StreetSt → StreetSt} : (streetUpd s f).host = s.host := (rfl)
@[simp] theorem streetUpd_time {f : StreetSt → StreetSt} : (streetUpd s f).time = s.time := (rfl)
@[simp] theorem streetUpd_cis {f : StreetSt → StreetSt} : (streetUpd s f).cis = s.cis := (rfl)
@[simp] theorem streetUpd_rad {f : StreetSt → StreetSt} : (streetUpd s f).rad = s.rad := (rfl)
@[simp] theorem streetUpd_mac {f : StreetSt → StreetSt} : (streetUpd s f).mac = s.mac := (rfl)
@[simp] theorem streetUpd_street {f : StreetSt → StreetSt} : (streetUpd s f).street = f s.street := (rfl)
@[simp] theorem streetUpd_cas {f : StreetSt → StreetSt} : (streetUpd s f).cas = s.cas := (rfl)
@[simp] theorem streetUpd_bas {f : StreetSt → StreetSt} : (streetUpd s f).bas = s.bas := (rfl)
@[simp] theorem streetUpd_weir {f : StreetSt → StreetSt} : (streetUpd s f).weir = s.weir := (rfl)
@[simp] theorem streetUpd_ftn {f : StreetSt → StreetSt} : (streetUpd s f).ftn = s.ftn := (rfl)
@[simp] theorem streetUpd_ox {f : StreetSt → StreetSt} : (streetUpd s f).ox = s.ox := (rfl)
@[simp] theorem streetUpd_pair {f : StreetSt → StreetSt} : (streetUpd s f).pair = s.pair := (rfl)
@[simp] theorem streetUpd_fed {f : StreetSt → StreetSt} : (streetUpd s f).fed = s.fed := (rfl)
@[simp] theorem streetUpd_key {f : StreetSt → StreetSt} : (streetUpd s f).key = s.key := (rfl)
@[simp] theorem streetUpd_pin {f : StreetSt → StreetSt} : (streetUpd s f).pin = s.pin := (rfl)
@[simp] theorem streetUpd_upd {f : StreetSt → StreetSt} : (streetUpd s f).upd = s.upd := (rfl)
@[simp] theorem streetUpd_pwr {f : StreetSt → StreetSt} : (streetUpd s f).pwr = s.pwr := (rfl)
@[simp] theorem streetUpd_bst {f : StreetSt → StreetSt} : (streetUpd s f).bst = s.bst := (rfl)

@[simp] theorem ftnUpd_pending {f : FtnSt → FtnSt} : (ftnUpd s f).pending = s.pending := (rfl)
@[simp] theorem ftnUpd_regs {f : FtnSt → FtnSt} : (ftnUpd s f).regs = s.regs := (rfl)
@[simp] theorem ftnUpd_dt {f : FtnSt → FtnSt} : (ftnUpd s f).dt = s.dt := (rfl)
@[simp] theorem ftnUpd_el {f : FtnSt → FtnSt} : (ftnUpd s f).el = s.el := (rfl)
@[simp] theorem ftnUpd_freeN {f : FtnSt → FtnSt} : (ftnUpd s f).freeN = s.freeN := (rfl)
@[simp] theorem ftnUpd_sent {f : FtnSt → FtnSt} : (ftnUpd s f).sent = s.sent := (rfl)
@[simp] theorem ftnUpd_host {f : FtnSt → FtnSt} : (ftnUpd s f).host = s.host := (rfl)
@[simp] theorem ftnUpd_time {f : FtnSt → FtnSt} : (ftnUpd s f).time = s.time := (rfl)
@[simp] theorem ftnUpd_cis {f : FtnSt → FtnSt} : (ftnUpd s f).cis = s.cis := (rfl)
@[simp] theorem ftnUpd_rad {f : FtnSt → FtnSt} : (ftnUpd s f).rad = s.rad := (rfl)
@[simp] theorem ftnUpd_mac {f : FtnSt → FtnSt} : (ftnUpd s f).mac = s.mac := (rfl)
@[simp] theorem ftnUpd_street {f : FtnSt → FtnSt} : (ftnUpd s f).street = s.street := (rfl)
@[simp] theorem ftnUpd_cas {f : FtnSt → FtnSt} : (ftnUpd s f).cas = s.cas := (rfl)
@[simp] theorem ftnUpd_bas {f : FtnSt → FtnSt} : (ftnUpd s f).bas = s.bas := (rfl)
@[simp] theorem ftnUpd_weir {f : FtnSt → FtnSt} : (ftnUpd s f).weir = s.weir := (rfl)
@[simp] theorem ftnUpd_ftn {f : FtnSt → FtnSt} : (ftnUpd s f).ftn = f s.ftn := (rfl)
@[simp] theorem ftnUpd_ox {f : FtnSt → FtnSt} : (ftnUpd s f).ox = s.ox := (rfl)
@[simp] theorem ftnUpd_pair {f : FtnSt → FtnSt} : (ftnUpd s f).pair = s.pair := (rfl)
@[simp] theorem ftnUpd_fed {f : FtnSt → FtnSt} : (ftnUpd s f).fed = s.fed := (rfl)
@[simp] theorem ftnUpd_key {f : FtnSt → FtnSt} : (ftnUpd s f).key = s.key := (rfl)
@[simp] theorem ftnUpd_pin {f : FtnSt → FtnSt} : (ftnUpd s f).pin = s.pin := (rfl)
@[simp] theorem ftnUpd_upd {f : FtnSt → FtnSt} : (ftnUpd s f).upd = s.upd := (rfl)
@[simp] theorem ftnUpd_pwr {f : FtnSt → FtnSt} : (ftnUpd s f).pwr = s.pwr := (rfl)
@[simp] theorem ftnUpd_bst {f : FtnSt → FtnSt} : (ftnUpd s f).bst = s.bst := (rfl)

@[simp] theorem hostUpd_pending {f : HostSt → HostSt} : (hostUpd s f).pending = s.pending := (rfl)
@[simp] theorem hostUpd_regs {f : HostSt → HostSt} : (hostUpd s f).regs = s.regs := (rfl)
@[simp] theorem hostUpd_dt {f : HostSt → HostSt} : (hostUpd s f).dt = s.dt := (rfl)
@[simp] theorem hostUpd_el {f : HostSt → HostSt} : (hostUpd s f).el = s.el := (rfl)
@[simp] theorem hostUpd_freeN {f : HostSt → HostSt} : (hostUpd s f).freeN = s.freeN := (rfl)
@[simp] theorem hostUpd_sent {f : HostSt → HostSt} : (hostUpd s f).sent = s.sent := (rfl)
@[simp] theorem hostUpd_host {f : HostSt → HostSt} : (hostUpd s f).host = f s.host := (rfl)
@[simp] theorem hostUpd_time {f : HostSt → HostSt} : (hostUpd s f).time = s.time := (rfl)
@[simp] theorem hostUpd_cis {f : HostSt → HostSt} : (hostUpd s f).cis = s.cis := (rfl)
@[simp] theorem hostUpd_rad {f : HostSt → HostSt} : (hostUpd s f).rad = s.rad := (rfl)
@[simp] theorem hostUpd_mac {f : HostSt → HostSt} : (hostUpd s f).mac = s.mac := (rfl)
@[simp] theorem hostUpd_street {f : HostSt → HostSt} : (hostUpd s f).street = s.street := (rfl)
@[simp] theorem hostUpd_cas {f : HostSt → HostSt} : (hostUpd s f).cas = s.cas := (rfl)
@[simp] theorem hostUpd_bas {f : HostSt → HostSt} : (hostUpd s f).bas = s.bas := (rfl)
@[simp] theorem hostUpd_weir {f : HostSt → HostSt} : (hostUpd s f).weir = s.weir := (rfl)
@[simp] theorem hostUpd_ftn {f : HostSt → HostSt} : (hostUpd s f).ftn = s.ftn := (rfl)
@[simp] theorem hostUpd_ox {f : HostSt → HostSt} : (hostUpd s f).ox = s.ox := (rfl)
@[simp] theorem hostUpd_pair {f : HostSt → HostSt} : (hostUpd s f).pair = s.pair := (rfl)
@[simp] theorem hostUpd_fed {f : HostSt → HostSt} : (hostUpd s f).fed = s.fed := (rfl)
@[simp] theorem hostUpd_key {f : HostSt → HostSt} : (hostUpd s f).key = s.key := (rfl)
@[simp] theorem hostUpd_pin {f : HostSt → HostSt} : (hostUpd s f).pin = s.pin := (rfl)
@[simp] theorem hostUpd_upd {f : HostSt → HostSt} : (hostUpd s f).upd = s.upd := (rfl)
@[simp] theorem hostUpd_pwr {f : HostSt → HostSt} : (hostUpd s f).pwr = s.pwr := (rfl)
@[simp] theorem hostUpd_bst {f : HostSt → HostSt} : (hostUpd s f).bst = s.bst := (rfl)

@[simp] theorem bstUpd_pending {f : BstSt → BstSt} : (bstUpd s f).pending = s.pending := (rfl)
@[simp] theorem bstUpd_regs {f : BstSt → BstSt} : (bstUpd s f).regs = s.regs := (rfl)
@[simp] theorem bstUpd_dt {f : BstSt → BstSt} : (bstUpd s f).dt = s.dt := (rfl)
@[simp] theorem bstUpd_el {f : BstSt → BstSt} : (bstUpd s f).el = s.el := (rfl)
@[simp] theorem bstUpd_freeN {f : BstSt → BstSt} : (bstUpd s f).freeN = s.freeN := (rfl)
@[simp] theorem bstUpd_sent {f : BstSt → BstSt} : (bstUpd s f).sent = s.sent := (rfl)
@[simp] theorem bstUpd_host {f : BstSt → BstSt} : (bstUpd s f).host = s.host := (rfl)
@[simp] theorem bstUpd_time {f : BstSt → BstSt} : (bstUpd s f).time = s.time := (rfl)
@[simp] theorem bstUpd_cis {f : BstSt → BstSt} : (bstUpd s f).cis = s.cis := (rfl)
@[simp] theorem bstUpd_rad {f : BstSt → BstSt} : (bstUpd s f).rad = s.rad := (rfl)
@[simp] theorem bstUpd_mac {f : BstSt → BstSt} : (bstUpd s f).mac = s.mac := (rfl)
@[simp] theorem bstUpd_street {f : BstSt → BstSt} : (bstUpd s f).street = s.street := (rfl)
@[simp] theorem bstUpd_cas {f : BstSt → BstSt} : (bstUpd s f).cas = s.cas := (rfl)
@[simp] theorem bstUpd_bas {f : BstSt → BstSt} : (bstUpd s f).bas = s.bas := (rfl)
@[simp] theorem bstUpd_weir {f : BstSt → BstSt} : (bstUpd s f).weir = s.weir := (rfl)
@[simp] theorem bstUpd_ftn {f : BstSt → BstSt} : (bstUpd s f).ftn = s.ftn := (rfl)
@[simp] theorem bstUpd_ox {f : BstSt → BstSt} : (bstUpd s f).ox = s.ox := (rfl)
@[simp] theorem bstUpd_pair {f : BstSt → BstSt} : (bstUpd s f).pair = s.pair := (rfl)
@[simp] theorem bstUpd_fed {f : BstSt → BstSt} : (bstUpd s f).fed = s.fed := (rfl)
@[simp] theorem bstUpd_key {f : BstSt → BstSt} : (bstUpd s f).key = s.key := (rfl)
@[simp] theorem bstUpd_pin {f : BstSt → BstSt} : (bstUpd s f).pin = s.pin := (rfl)
@[simp] theorem bstUpd_upd {f : BstSt → BstSt} : (bstUpd s f).upd = s.upd := (rfl)
@[simp] theorem bstUpd_pwr {f : BstSt → BstSt} : (bstUpd s f).pwr = s.pwr := (rfl)
@[simp] theorem bstUpd_bst {f : BstSt → BstSt} : (bstUpd s f).bst = f s.bst := (rfl)

@[simp] theorem cisUpd_pending {f : CisSt → CisSt} : (cisUpd s f).pending = s.pending := (rfl)
@[simp] theorem cisUpd_regs {f : CisSt → CisSt} : (cisUpd s f).regs = s.regs := (rfl)
@[simp] theorem cisUpd_dt {f : CisSt → CisSt} : (cisUpd s f).dt = s.dt := (rfl)
@[simp] theorem cisUpd_el {f : CisSt → CisSt} : (cisUpd s f).el = s.el := (rfl)
@[simp] theorem cisUpd_freeN {f : CisSt → CisSt} : (cisUpd s f).freeN = s.freeN := (rfl)
@[simp] theorem cisUpd_sent {f : CisSt → CisSt} : (cisUpd s f).sent = s.sent := (rfl)
@[simp] theorem cisUpd_host {f : CisSt → CisSt} : (cisUpd s f).host = s.host := (rfl)
@[simp] theorem cisUpd_time {f : CisSt → CisSt} : (cisUpd s f).time = s.time := (rfl)
@[simp] theorem cisUpd_cis {f : CisSt → CisSt} : (cisUpd s f).cis = f s.cis := (rfl)
@[simp] theorem cisUpd_rad {f : CisSt → CisSt} : (cisUpd s f).rad = s.rad := (rfl)
@[simp] theorem cisUpd_mac {f : CisSt → CisSt} : (cisUpd s f).mac = s.mac := (rfl)
@[simp] theorem cisUpd_street {f : CisSt → CisSt} : (cisUpd s f).street = s.street := (rfl)
@[simp] theorem cisUpd_cas {f : CisSt → CisSt} : (cisUpd s f).cas = s.cas := (rfl)
@[simp] theorem cisUpd_bas {f : CisSt → CisSt} : (cisUpd s f).bas = s.bas := (rfl)
@[simp] theorem cisUpd_weir {f : CisSt → CisSt} : (cisUpd s f).weir = s.weir := (rfl)
@[simp] theorem cisUpd_ftn {f : CisSt → CisSt} : (cisUpd s f).ftn = s.ftn := (rfl)
@[simp] theorem cisUpd_ox {f : CisSt → CisSt} : (cisUpd s f).ox = s.ox := (rfl)
@[simp] theorem cisUpd_pair {f : CisSt → CisSt} : (cisUpd s f).pair = s.pair := (rfl)
@[simp] theorem cisUpd_fed {f : CisSt → CisSt} : (cisUpd s f).fed = s.fed := (rfl)
@[simp] theorem cisUpd_key {f : CisSt → CisSt} : (cisUpd s f).key = s.key := (rfl)
@[simp] theorem cisUpd_pin {f : CisSt → CisSt} : (cisUpd s f).pin = s.pin := (rfl)
@[simp] theorem cisUpd_upd {f : CisSt → CisSt} : (cisUpd s f).upd = s.upd := (rfl)
@[simp] theorem cisUpd_pwr {f : CisSt → CisSt} : (cisUpd s f).pwr = s.pwr := (rfl)
@[simp] theorem cisUpd_bst {f : CisSt → CisSt} : (cisUpd s f).bst = s.bst := (rfl)

@[simp] theorem oxUpd_pending {f : OxSt → OxSt} : (oxUpd s f).pending = s.pending := (rfl)
@[simp] theorem oxUpd_regs {f : OxSt → OxSt} : (oxUpd s f).regs = s.regs := (rfl)
@[simp] theorem oxUpd_dt {f : OxSt → OxSt} : (oxUpd s f).dt = s.dt := (rfl)
@[simp] theorem oxUpd_el {f : OxSt → OxSt} : (oxUpd s f).el = s.el := (rfl)
@[simp] theorem oxUpd_freeN {f : OxSt → OxSt} : (oxUpd s f).freeN = s.freeN := (rfl)
@[simp] theorem oxUpd_sent {f : OxSt → OxSt} : (oxUpd s f).sent = s.sent := (rfl)
@[simp] theorem oxUpd_host {f : OxSt → OxSt} : (oxUpd s f).host = s.host := (rfl)
@[simp] theorem oxUpd_time {f : OxSt → OxSt} : (oxUpd s f).time = s.time := (rfl)
@[simp] theorem oxUpd_cis {f : OxSt → OxSt} : (oxUpd s f).cis = s.cis := (rfl)
@[simp] theorem oxUpd_rad {f : OxSt → OxSt} : (oxUpd s f).rad = s.rad := (rfl)
@[simp] theorem oxUpd_mac {f : OxSt → OxSt} : (oxUpd s f).mac = s.mac := (rfl)
@[simp] theorem oxUpd_street {f : OxSt → OxSt} : (oxUpd s f).street = s.street := (rfl)
@[simp] theorem oxUpd_cas {f : OxSt → OxSt} : (oxUpd s f).cas = s.cas := (rfl)
@[simp] theorem oxUpd_bas {f : OxSt → OxSt} : (oxUpd s f).bas = s.bas := (rfl)
@[simp] theorem oxUpd_weir {f : OxSt → OxSt} : (oxUpd s f).weir = s.weir := (rfl)
@[simp] theorem oxUpd_ftn {f : OxSt → OxSt} : (oxUpd s f).ftn = s.ftn := (rfl)
@[simp] theorem oxUpd_ox {f : OxSt → OxSt} : (oxUpd s f).ox = f s.ox := (rfl)
@[simp] theorem oxUpd_pair {f : OxSt → OxSt} : (oxUpd s f).pair = s.pair := (rfl)
@[simp] theorem oxUpd_fed {f : OxSt → OxSt} : (oxUpd s f).fed = s.fed := (rfl)
@[simp] theorem oxUpd_key {f : OxSt → OxSt} : (oxUpd s f).key = s.key := (rfl)
@[simp] theorem oxUpd_pin {f : OxSt → OxSt} : (oxUpd s f).pin = s.pin := (rfl)
@[simp] theorem oxUpd_upd {f : OxSt → OxSt} : (oxUpd s f).upd = s.upd := (rfl)
@[simp] theorem oxUpd_pwr {f : OxSt → OxSt} : (oxUpd s f).pwr = s.pwr := (rfl)
@[simp] theorem oxUpd_bst {f : OxSt → OxSt} : (oxUpd s f).bst = s.bst := (rfl)

@[simp] theorem pwrUpd_pending {f : PwrSt → PwrSt} : (pwrUpd s f).pending = s.pending := (rfl)
@[simp] theorem pwrUpd_regs {f : PwrSt → PwrSt} : (pwrUpd s f).regs = s.regs := (rfl)
@[simp] theorem pwrUpd_dt {f : PwrSt → PwrSt} : (pwrUpd s f).dt = s.dt := (rfl)
@[simp] theorem pwrUpd_el {f : PwrSt → PwrSt} : (pwrUpd s f).el = s.el := (rfl)
@[simp] theorem pwrUpd_freeN {f : PwrSt → PwrSt} : (pwrUpd s f).freeN = s.freeN := (rfl)
@[simp] theorem pwrUpd_sent {f : PwrSt → PwrSt} : (pwrUpd s f).sent = s.sent := (rfl)
@[simp] theorem pwrUpd_host {f : PwrSt → PwrSt} : (pwrUpd s f).host = s.host := (rfl)
@[simp] theorem pwrUpd_time {f : PwrSt → PwrSt} : (pwrUpd s f).time = s.time := (rfl)
@[simp] theorem pwrUpd_cis {f : PwrSt → PwrSt} : (pwrUpd s f).cis = s.cis := (rfl)
@[simp] theorem pwrUpd_rad {f : PwrSt → PwrSt} : (pwrUpd s f).rad = s.rad := (rfl)
@[simp] theorem pwrUpd_mac {f : PwrSt → PwrSt} : (pwrUpd s f).mac = s.mac := (rfl)
@[simp] theorem pwrUpd_street {f : PwrSt → PwrSt} : (pwrUpd s f).street = s.street := (rfl)
@[simp] theorem pwrUpd_cas {f : PwrSt → PwrSt} : (pwrUpd s f).cas = s.cas := (rfl)
@[simp] theorem pwrUpd_bas {f : PwrSt → PwrSt} : (pwrUpd s f).bas = s.bas := (rfl)
@[simp] theorem pwrUpd_weir {f : PwrSt → PwrSt} : (pwrUpd s f).weir = s.weir := (rfl)
@[simp] theorem pwrUpd_ftn {f : PwrSt → PwrSt} : (pwrUpd s f).ftn = s.ftn := (rfl)
@[simp] theorem pwrUpd_ox {f : PwrSt → PwrSt} : (pwrUpd s f).ox = s.ox := (rfl)
@[simp] theorem pwrUpd_pair {f : PwrSt → PwrSt} : (pwrUpd s f).pair = s.pair := (rfl)
@[simp] theorem pwrUpd_fed {f : PwrSt → PwrSt} : (pwrUpd s f).fed = s.fed := (rfl)
@[simp] theorem pwrUpd_key {f : PwrSt → PwrSt} : (pwrUpd s f).key = s.key := (rfl)
@[simp] theorem pwrUpd_pin {f : PwrSt → PwrSt} : (pwrUpd s f).pin = s.pin := (rfl)
@[simp] theorem pwrUpd_upd {f : PwrSt → PwrSt} : (pwrUpd s f).upd = s.upd := (rfl)
@[simp] theorem pwrUpd_pwr {f : PwrSt → PwrSt} : (pwrUpd s f).pwr = f s.pwr := (rfl)
@[simp] theorem pwrUpd_bst {f : PwrSt → PwrSt} : (pwrUpd s f).bst = s.bst := (rfl)

@[simp] theorem radUpd_pending {f : RadSt → RadSt} : (radUpd s f).pending = s.pending := (rfl)
@[simp] theorem radUpd_regs {f : RadSt → RadSt} : (radUpd s f).regs = s.regs := (rfl)
@[simp] theorem radUpd_dt {f : RadSt → RadSt} : (radUpd s f).dt = s.dt := (rfl)
@[simp] theorem radUpd_el {f : RadSt → RadSt} : (radUpd s f).el = s.el := (rfl)
@[simp] theorem radUpd_freeN {f : RadSt → RadSt} : (radUpd s f).freeN = s.freeN := (rfl)
@[simp] theorem radUpd_sent {f : RadSt → RadSt} : (radUpd s f).sent = s.sent := (rfl)
@[simp] theorem radUpd_host {f : RadSt → RadSt} : (radUpd s f).host = s.host := (rfl)
@[simp] theorem radUpd_time {f : RadSt → RadSt} : (radUpd s f).time = s.time := (rfl)
@[simp] theorem radUpd_cis {f : RadSt → RadSt} : (radUpd s f).cis = s.cis := (rfl)
@[simp] theorem radUpd_rad {f : RadSt → RadSt} : (radUpd s f).rad = f s.rad := (rfl)
@[simp] theorem radUpd_mac {f : RadSt → RadSt} : (radUpd s f).mac = s.mac := (rfl)
@[simp] theorem radUpd_street {f : RadSt → RadSt} : (radUpd s f).street = s.street := (rfl)
@[simp] theorem radUpd_cas {f : RadSt → RadSt} : (radUpd s f).cas = s.cas := (rfl)
@[simp] theorem radUpd_bas {f : RadSt → RadSt} : (radUpd s f).bas = s.bas := (rfl)
@[simp] theorem radUpd_weir {f : RadSt → RadSt} : (radUpd s f).weir = s.weir := (rfl)
@[simp] theorem radUpd_ftn {f : RadSt → RadSt} : (radUpd s f).ftn = s.ftn := (rfl)
@[simp] theorem radUpd_ox {f : RadSt → RadSt} : (radUpd s f).ox = s.ox := (rfl)
@[simp] theorem radUpd_pair {f : RadSt → RadSt} : (radUpd s f).pair = s.pair := (rfl)
@[simp] theorem radUpd_fed {f : RadSt → RadSt} : (radUpd s f).fed = s.fed := (rfl)
@[simp] theorem radUpd_key {f : RadSt → RadSt} : (radUpd s f).key = s.key := (rfl)
@[simp] theorem radUpd_pin {f : RadSt → RadSt} : (radUpd s f).pin = s.pin := (rfl)
@[simp] theorem radUpd_upd {f : RadSt → RadSt} : (radUpd s f).upd = s.upd := (rfl)
@[simp] theorem radUpd_pwr {f : RadSt → RadSt} : (radUpd s f).pwr = s.pwr := (rfl)
@[simp] theorem radUpd_bst {f : RadSt → RadSt} : (radUpd s f).bst = s.bst := (rfl)

@[simp] theorem fedUpd_pending {f : FedSt → FedSt} : (fedUpd s f).pending = s.pending := (rfl)
@[simp] theorem fedUpd_regs {f : FedSt → FedSt} : (fedUpd s f).regs = s.regs := (rfl)
@[simp] theorem fedUpd_dt {f : FedSt → FedSt} : (fedUpd s f).dt = s.dt := (rfl)
@[simp] theorem fedUpd_el {f : FedSt → FedSt} : (fedUpd s f).el = s.el := (rfl)
@[simp] theorem fedUpd_freeN {f : FedSt → FedSt} : (fedUpd s f).freeN = s.freeN := (rfl)
@[simp] theorem fedUpd_sent {f : FedSt → FedSt} : (fedUpd s f).sent = s.sent := (rfl)
@[simp] theorem fedUpd_host {f : FedSt → FedSt} : (fedUpd s f).host = s.host := (rfl)
@[simp] theorem fedUpd_time {f : FedSt → FedSt} : (fedUpd s f).time = s.time := (rfl)
@[simp] theorem fedUpd_cis {f : FedSt → FedSt} : (fedUpd s f).cis = s.cis := (rfl)
@[simp] theorem fedUpd_rad {f : FedSt → FedSt} : (fedUpd s f).rad = s.rad := (rfl)
@[simp] theorem fedUpd_mac {f : FedSt → FedSt} : (fedUpd s f).mac = s.mac := (rfl)
@[simp] theorem fedUpd_street {f : FedSt → FedSt} : (fedUpd s f).street = s.street := (rfl)
@[simp] theorem fedUpd_cas {f : FedSt → FedSt} : (fedUpd s f).cas = s.cas := (rfl)
@[simp] theorem fedUpd_bas {f : FedSt → FedSt} : (fedUpd s f).bas = s.bas := (rfl)
@[simp] theorem fedUpd_weir {f : FedSt → FedSt} : (fedUpd s f).weir = s.weir := (rfl)
@[simp] theorem fedUpd_ftn {f : FedSt → FedSt} : (fedUpd s f).ftn = s.ftn := (rfl)
@[simp] theorem fedUpd_ox {f : FedSt → FedSt} : (fedUpd s f).ox = s.ox := (rfl)
@[simp] theorem fedUpd_pair {f : FedSt → FedSt} : (fedUpd s f).pair = s.pair := (rfl)
@[simp] theorem fedUpd_fed {f : FedSt → FedSt} : (fedUpd s f).fed = f s.fed := (rfl)
@[simp] theorem fedUpd_key {f : FedSt → FedSt} : (fedUpd s f).key = s.key := (rfl)
@[simp] theorem fedUpd_pin {f : FedSt → FedSt} : (fedUpd s f).pin = s.pin := (rfl)
@[simp] theorem fedUpd_upd {f : FedSt → FedSt} : (fedUpd s f).upd = s.upd := (rfl)
@[simp] theorem fedUpd_pwr {f : FedSt → FedSt} : (fedUpd s f).pwr = s.pwr := (rfl)
@[simp] theorem fedUpd_bst {f : FedSt → FedSt} : (fedUpd s f).bst = s.bst := (rfl)

@[simp] theorem pairUpd_pending {f : PairSt → PairSt} : (pairUpd s f).pending = s.pending := (rfl)
@[simp] theorem pairUpd_regs {f : PairSt → PairSt} : (pairUpd s f).regs = s.regs := (rfl)
@[simp] theorem pairUpd_dt {f : PairSt → PairSt} : (pairUpd s f).dt = s.dt := (rfl)
@[simp] theorem pairUpd_el {f : PairSt → PairSt} : (pairUpd s f).el = s.el := (rfl)
@[simp] theorem pairUpd_freeN {f : PairSt → PairSt} : (pairUpd s f).freeN = s.freeN := (rfl)
@[simp] theorem pairUpd_sent {f : PairSt → PairSt} : (pairUpd s f).sent = s.sent := (rfl)
@[simp] theorem pairUpd_host {f : PairSt → PairSt} : (pairUpd s f).host = s.host := (rfl)
@[simp] theorem pairUpd_time {f : PairSt → PairSt} : (pairUpd s f).time = s.time := (rfl)
@[simp] theorem pairUpd_cis {f : PairSt → PairSt} : (pairUpd s f).cis = s.cis := (rfl)
@[simp] theorem pairUpd_rad {f : PairSt → PairSt} : (pairUpd s f).rad = s.rad := (rfl)
@[simp] theorem pairUpd_mac {f : PairSt → PairSt} : (pairUpd s f).mac = s.mac := (rfl)
@[simp] theorem pairUpd_street {f : PairSt → PairSt} : (pairUpd s f).street = s.street := (rfl)
@[simp] theorem pairUpd_cas {f : PairSt → PairSt} : (pairUpd s f).cas = s.cas := (rfl)
@[simp] theorem pairUpd_bas {f : PairSt → PairSt} : (pairUpd s f).bas = s.bas := (rfl)
@[simp] theorem pairUpd_weir {f : PairSt → PairSt} : (pairUpd s f).weir = s.weir := (rfl)
@[simp] theorem pairUpd_ftn {f : PairSt → PairSt} : (pairUpd s f).ftn = s.ftn := (rfl)
@[simp] theorem pairUpd_ox {f : PairSt → PairSt} : (pairUpd s f).ox = s.ox := (rfl)
@[simp] theorem pairUpd_pair {f : PairSt → PairSt} : (pairUpd s f).pair = f s.pair := (rfl)
@[simp] theorem pairUpd_fed {f : PairSt → PairSt} : (pairUpd s f).fed = s.fed := (rfl)
@[simp] theorem pairUpd_key {f : PairSt → PairSt} : (pairUpd s f).key = s.key := (rfl)
@[simp] theorem pairUpd_pin {f : PairSt → PairSt} : (pairUpd s f).pin = s.pin := (rfl)
@[simp] theorem pairUpd_upd {f : PairSt → PairSt} : (pairUpd s f).upd = s.upd := (rfl)
@[simp] theorem pairUpd_pwr {f : PairSt → PairSt} : (pairUpd s f).pwr = s.pwr := (rfl)
@[simp] theorem pairUpd_bst {f : PairSt → PairSt} : (pairUpd s f).bst = s.bst := (rfl)

@[simp] theorem linkUpd_pending {f : LinkSt → LinkSt} : (linkUpd s f).pending = s.pending := (rfl)
@[simp] theorem linkUpd_regs {f : LinkSt → LinkSt} : (linkUpd s f).regs = s.regs := (rfl)
@[simp] theorem linkUpd_dt {f : LinkSt → LinkSt} : (linkUpd s f).dt = s.dt := (rfl)
@[simp] theorem linkUpd_el {f : LinkSt → LinkSt} : (linkUpd s f).el = s.el := (rfl)
@[simp] theorem linkUpd_freeN {f : LinkSt → LinkSt} : (linkUpd s f).freeN = s.freeN := (rfl)
@[simp] theorem linkUpd_sent {f : LinkSt → LinkSt} : (linkUpd s f).sent = s.sent := (rfl)
@[simp] theorem linkUpd_host {f : LinkSt → LinkSt} : (linkUpd s f).host = { s.host with link := f s.host.link } := (rfl)
@[simp] theorem linkUpd_time {f : LinkSt → LinkSt} : (linkUpd s f).time = s.time := (rfl)
@[simp] theorem linkUpd_cis {f : LinkSt → LinkSt} : (linkUpd s f).cis = s.cis := (rfl)
@[simp] theorem linkUpd_rad {f : LinkSt → LinkSt} : (linkUpd s f).rad = s.rad := (rfl)
@[simp] theorem linkUpd_mac {f : LinkSt → LinkSt} : (linkUpd s f).mac = s.mac := (rfl)
@[simp] theorem linkUpd_street {f : LinkSt → LinkSt} : (linkUpd s f).street = s.street := (rfl)
@[simp] theorem linkUpd_cas {f : LinkSt → LinkSt} : (linkUpd s f).cas = s.cas := (rfl)
@[simp] theorem linkUpd_bas {f : LinkSt → LinkSt} : (linkUpd s f).bas = s.bas := (rfl)
@[simp] theorem linkUpd_weir {f : LinkSt → LinkSt} : (linkUpd s f).weir = s.weir := (rfl)
@[simp] theorem linkUpd_ftn {f : LinkSt → LinkSt} : (linkUpd s f).ftn = s.ftn := (rfl)
@[simp] theorem linkUpd_ox {f : LinkSt → LinkSt} : (linkUpd s f).ox = s.ox := (rfl)
@[simp] theorem linkUpd_pair {f : LinkSt → LinkSt} : (linkUpd s f).pair = s.pair := (rfl)
@[simp] theorem linkUpd_fed {f : LinkSt → LinkSt} : (linkUpd s f).fed = s.fed := (rfl)
@[simp] theorem linkUpd_key {f : LinkSt → LinkSt} : (linkUpd s f).key = s.key := (rfl)
@[simp] theorem linkUpd_pin {f : LinkSt → LinkSt} : (linkUpd s f).pin = s.pin := (rfl)
@[simp] theorem linkUpd_upd {f : LinkSt → LinkSt} : (linkUpd s f).upd = s.upd := (rfl)
@[simp] theorem linkUpd_pwr {f : LinkSt → LinkSt} : (linkUpd s f).pwr = s.pwr := (rfl)
@[simp] theorem linkUpd_bst {f : LinkSt → LinkSt} : (linkUpd s f).bst = s.bst := (rfl)

@[simp] theorem timeUpd_pending {f : TimeSt → TimeSt} : (timeUpd s f).pending = s.pending := (rfl)
@[simp] theorem timeUpd_regs {f : TimeSt → TimeSt} : (timeUpd s f).regs = s.regs := (rfl)
@[simp] theorem timeUpd_dt {f : TimeSt → TimeSt} : (timeUpd s f).dt = s.dt := (rfl)
@[simp] theorem timeUpd_el {f : TimeSt → TimeSt} : (timeUpd s f).el = s.el := (rfl)
@[simp] theorem timeUpd_freeN {f : TimeSt → TimeSt} : (timeUpd s f).freeN = s.freeN := (rfl)
@[simp] theorem timeUpd_sent {f : TimeSt → TimeSt} : (timeUpd s f).sent = s.sent := (rfl)
@[simp] theorem timeUpd_host {f : TimeSt → TimeSt} : (timeUpd s f).host = s.host := (rfl)
@[simp] theorem timeUpd_time {f : TimeSt → TimeSt} : (timeUpd s f).time = f s.time := (rfl)
@[simp] theorem timeUpd_cis {f : TimeSt → TimeSt} : (timeUpd s f).cis = s.cis := (rfl)
@[simp] theorem timeUpd_rad {f : TimeSt → TimeSt} : (timeUpd s f).rad = s.rad := (rfl)
@[simp] theorem timeUpd_mac {f : TimeSt → TimeSt} : (timeUpd s f).mac = s.mac := (rfl)
@[simp] theorem timeUpd_street {f : TimeSt → TimeSt} : (timeUpd s f).street = s.street := (rfl)
@[simp] theorem timeUpd_cas {f : TimeSt → TimeSt} : (timeUpd s f).cas = s.cas := (rfl)
@[simp] theorem timeUpd_bas {f : TimeSt → TimeSt} : (timeUpd s f).bas = s.bas := (rfl)
@[simp] theorem timeUpd_weir {f : TimeSt → TimeSt} : (timeUpd s f).weir = s.weir := (rfl)
@[simp] theorem timeUpd_ftn {f : TimeSt → TimeSt} : (timeUpd s f).ftn = s.ftn := (rfl)
@[simp] theorem timeUpd_ox {f : TimeSt → TimeSt} : (timeUpd s f).ox = s.ox := (rfl)
@[simp] theorem timeUpd_pair {f : TimeSt → TimeSt} : (timeUpd s f).pair = s.pair := (rfl)
@[simp] theorem timeUpd_fed {f : TimeSt → TimeSt} : (timeUpd s f).fed = s.fed := (rfl)
@[simp] theorem timeUpd_key {f : TimeSt → TimeSt} : (timeUpd s f).key = s.key := (rfl)
@[simp] theorem timeUpd_pin {f : TimeSt → TimeSt} : (timeUpd s f).pin = s.pin := (rfl)
@[simp] theorem timeUpd_upd {f : TimeSt → TimeSt} : (timeUpd s f).upd = s.upd := (rfl)
@[simp] theorem timeUpd_pwr {f : TimeSt → TimeSt} : (timeUpd s f).pwr = s.pwr := (rfl)
@[simp] theorem timeUpd_bst {f : TimeSt → TimeSt} : (timeUpd s f).bst = s.bst := (rfl)

@[simp] theorem updUpd_pending {f : UpdSt → UpdSt} : (updUpd s f).pending = s.pending := (rfl)
@[simp] theorem updUpd_regs {f : UpdSt → UpdSt} : (updUpd s f).regs = s.regs := (rfl)
@[simp] theorem updUpd_dt {f : UpdSt → UpdSt} : (updUpd s f).dt = s.dt := (rfl)
@[simp] theorem updUpd_el {f : UpdSt → UpdSt} : (updUpd s f).el = s.el := (rfl)
@[simp] theorem updUpd_freeN {f : UpdSt → UpdSt} : (updUpd s f).freeN = s.freeN := (rfl)
@[simp] theorem updUpd_sent {f : UpdSt → UpdSt} : (updUpd s f).sent = s.sent := (rfl)
@[simp] theorem updUpd_host {f : UpdSt → UpdSt} : (updUpd s f).host = s.host := (rfl)
@[simp] theorem updUpd_time {f : UpdSt → UpdSt} : (updUpd s f).time = s.time := (rfl)
@[simp] theorem updUpd_cis {f : UpdSt → UpdSt} : (updUpd s f).cis = s.cis := (rfl)
@[simp] theorem updUpd_rad {f : UpdSt → UpdSt} : (updUpd s f).rad = s.rad := (rfl)
@[simp] theorem updUpd_mac {f : UpdSt → UpdSt} : (updUpd s f).mac = s.mac := (rfl)
@[simp] theorem updUpd_street {f : UpdSt → UpdSt} : (updUpd s f).street = s.street := (rfl)
@[simp] theorem updUpd_cas {f : UpdSt → UpdSt} : (updUpd s f).cas = s.cas := (rfl)
@[simp] theorem updUpd_bas {f : UpdSt → UpdSt} : (updUpd s f).bas = s.bas := (rfl)
@[simp] theorem updUpd_weir {f : UpdSt → UpdSt} : (updUpd s f).weir = s.weir := (rfl)
@[simp] theorem updUpd_ftn {f : UpdSt → UpdSt} : (updUpd s f).ftn = s.ftn := (rfl)
@[simp] theorem updUpd_ox {f : UpdSt → UpdSt} : (updUpd s f).ox = s.ox := (rfl)
@[simp] theorem updUpd_pair {f : UpdSt → UpdSt} : (updUpd s f).pair = s.pair := (rfl)
@[simp] theorem updUpd_fed {f : UpdSt → UpdSt} : (updUpd s f).fed = s.fed := (rfl)
@[simp] theorem updUpd_key {f : UpdSt → UpdSt} : (updUpd s f).key = s.key := (rfl)
@[simp] theorem updUpd_pin {f : UpdSt → UpdSt} : (updUpd s f).pin = s.pin := (rfl)
@[simp] theorem updUpd_upd {f : UpdSt → UpdSt} : (updUpd s f).upd = f s.upd := (rfl)
@[simp] theorem updUpd_pwr {f : UpdSt → UpdSt} : (updUpd s f).pwr = s.pwr := (rfl)
@[simp] theorem updUpd_bst {f : UpdSt → UpdSt} : (updUpd s f).bst = s.bst := (rfl)

@[simp] theorem weirUpd_pending {f : WeirSt → WeirSt} : (weirUpd s f).pending = s.pending := (rfl)
@[simp] theorem weirUpd_regs {f : WeirSt → WeirSt} : (weirUpd s f).regs = s.regs := (rfl)
@[simp] theorem weirUpd_dt {f : WeirSt → WeirSt} : (weirUpd s f).dt = s.dt := (rfl)
@[simp] theorem weirUpd_el {f : WeirSt → WeirSt} : (weirUpd s f).el = s.el := (rfl)
@[simp] theorem weirUpd_freeN {f : WeirSt → WeirSt} : (weirUpd s f).freeN = s.freeN := (rfl)
@[simp] theorem weirUpd_sent {f : WeirSt → WeirSt} : (weirUpd s f).sent = s.sent := (rfl)
@[simp] theorem weirUpd_host {f : WeirSt → WeirSt} : (weirUpd s f).host = s.host := (rfl)
@[simp] theorem weirUpd_time {f : WeirSt → WeirSt} : (weirUpd s f).time = s.time := (rfl)
@[simp] theorem weirUpd_cis {f : WeirSt → WeirSt} : (weirUpd s f).cis = s.cis := (rfl)
@[simp] theorem weirUpd_rad {f : WeirSt → WeirSt} : (weirUpd s f).rad = s.rad := (rfl)
@[simp] theorem weirUpd_mac {f : WeirSt → WeirSt} : (weirUpd s f).mac = s.mac := (rfl)
@[simp] theorem weirUpd_street {f : WeirSt → WeirSt} : (weirUpd s f).street = s.street := (rfl)
@[simp] theorem weirUpd_cas {f : WeirSt → WeirSt} : (weirUpd s f).cas = s.cas := (rfl)
@[simp] theorem weirUpd_bas {f : WeirSt → WeirSt} : (weirUpd s f).bas = s.bas := (rfl)
@[simp] theorem weirUpd_weir {f : WeirSt → WeirSt} : (weirUpd s f).weir = f s.weir := (rfl)
@[simp] theorem weirUpd_ftn {f : WeirSt → WeirSt} : (weirUpd s f).ftn = s.ftn := (rfl)
@[simp] theorem weirUpd_ox {f : WeirSt → WeirSt} : (weirUpd s f).ox = s.ox := (rfl)
@[simp] theorem weirUpd_pair {f : WeirSt → WeirSt} : (weirUpd s f).pair = s.pair := (rfl)
@[simp] theorem weirUpd_fed {f : WeirSt → WeirSt} : (weirUpd s f).fed = s.fed := (rfl)
@[simp] theorem weirUpd_key {f : WeirSt → WeirSt} : (weirUpd s f).key = s.key := (rfl)
@[simp] theorem weirUpd_pin {f : WeirSt → WeirSt} : (weirUpd s f).pin = s.pin := (rfl)
@[simp] theorem weirUpd_upd {f : WeirSt → WeirSt} : (weirUpd s f).upd = s.upd := (rfl)
@[simp] theorem weirUpd_pwr {f : WeirSt → WeirSt} : (weirUpd s f).pwr = s.pwr := (rfl)
@[simp] theorem weirUpd_bst {f : WeirSt → WeirSt} : (weirUpd s f).bst = s.bst := (rfl)

@[simp] theorem setReg_pending {o : Nat} {v : Word} : (setReg s o v).pending = s.pending := (rfl)
@[simp] theorem setReg_regs {o : Nat} {v : Word} : (setReg s o v).regs = s.regs.set o v (resetVal o) := (rfl)
@[simp] theorem setReg_dt {o : Nat} {v : Word} : (setReg s o v).dt = s.dt := (rfl)
@[simp] theorem setReg_el {o : Nat} {v : Word} : (setReg s o v).el = s.el := (rfl)
@[simp] theorem setReg_freeN {o : Nat} {v : Word} : (setReg s o v).freeN = s.freeN := (rfl)
@[simp] theorem setReg_sent {o : Nat} {v : Word} : (setReg s o v).sent = s.sent := (rfl)
@[simp] theorem setReg_host {o : Nat} {v : Word} : (setReg s o v).host = s.host := (rfl)
@[simp] theorem setReg_time {o : Nat} {v : Word} : (setReg s o v).time = s.time := (rfl)
@[simp] theorem setReg_cis {o : Nat} {v : Word} : (setReg s o v).cis = s.cis := (rfl)
@[simp] theorem setReg_rad {o : Nat} {v : Word} : (setReg s o v).rad = s.rad := (rfl)
@[simp] theorem setReg_mac {o : Nat} {v : Word} : (setReg s o v).mac = s.mac := (rfl)
@[simp] theorem setReg_street {o : Nat} {v : Word} : (setReg s o v).street = s.street := (rfl)
@[simp] theorem setReg_cas {o : Nat} {v : Word} : (setReg s o v).cas = s.cas := (rfl)
@[simp] theorem setReg_bas {o : Nat} {v : Word} : (setReg s o v).bas = s.bas := (rfl)
@[simp] theorem setReg_weir {o : Nat} {v : Word} : (setReg s o v).weir = s.weir := (rfl)
@[simp] theorem setReg_ftn {o : Nat} {v : Word} : (setReg s o v).ftn = s.ftn := (rfl)
@[simp] theorem setReg_ox {o : Nat} {v : Word} : (setReg s o v).ox = s.ox := (rfl)
@[simp] theorem setReg_pair {o : Nat} {v : Word} : (setReg s o v).pair = s.pair := (rfl)
@[simp] theorem setReg_fed {o : Nat} {v : Word} : (setReg s o v).fed = s.fed := (rfl)
@[simp] theorem setReg_key {o : Nat} {v : Word} : (setReg s o v).key = s.key := (rfl)
@[simp] theorem setReg_pin {o : Nat} {v : Word} : (setReg s o v).pin = s.pin := (rfl)
@[simp] theorem setReg_upd {o : Nat} {v : Word} : (setReg s o v).upd = s.upd := (rfl)
@[simp] theorem setReg_pwr {o : Nat} {v : Word} : (setReg s o v).pwr = s.pwr := (rfl)
@[simp] theorem setReg_bst {o : Nat} {v : Word} : (setReg s o v).bst = s.bst := (rfl)

@[simp] theorem setFld_pending {f : RF} {v : Nat} : (setFld s f v).pending = s.pending := (rfl)
@[simp] theorem setFld_regs {f : RF} {v : Nat} : (setFld s f v).regs = (setReg s f.off (BitVec.ofNat 32 (putBits (reg s f.off).toNat f.hi f.lo v))).regs := (rfl)
@[simp] theorem setFld_dt {f : RF} {v : Nat} : (setFld s f v).dt = s.dt := (rfl)
@[simp] theorem setFld_el {f : RF} {v : Nat} : (setFld s f v).el = s.el := (rfl)
@[simp] theorem setFld_freeN {f : RF} {v : Nat} : (setFld s f v).freeN = s.freeN := (rfl)
@[simp] theorem setFld_sent {f : RF} {v : Nat} : (setFld s f v).sent = s.sent := (rfl)
@[simp] theorem setFld_host {f : RF} {v : Nat} : (setFld s f v).host = s.host := (rfl)
@[simp] theorem setFld_time {f : RF} {v : Nat} : (setFld s f v).time = s.time := (rfl)
@[simp] theorem setFld_cis {f : RF} {v : Nat} : (setFld s f v).cis = s.cis := (rfl)
@[simp] theorem setFld_rad {f : RF} {v : Nat} : (setFld s f v).rad = s.rad := (rfl)
@[simp] theorem setFld_mac {f : RF} {v : Nat} : (setFld s f v).mac = s.mac := (rfl)
@[simp] theorem setFld_street {f : RF} {v : Nat} : (setFld s f v).street = s.street := (rfl)
@[simp] theorem setFld_cas {f : RF} {v : Nat} : (setFld s f v).cas = s.cas := (rfl)
@[simp] theorem setFld_bas {f : RF} {v : Nat} : (setFld s f v).bas = s.bas := (rfl)
@[simp] theorem setFld_weir {f : RF} {v : Nat} : (setFld s f v).weir = s.weir := (rfl)
@[simp] theorem setFld_ftn {f : RF} {v : Nat} : (setFld s f v).ftn = s.ftn := (rfl)
@[simp] theorem setFld_ox {f : RF} {v : Nat} : (setFld s f v).ox = s.ox := (rfl)
@[simp] theorem setFld_pair {f : RF} {v : Nat} : (setFld s f v).pair = s.pair := (rfl)
@[simp] theorem setFld_fed {f : RF} {v : Nat} : (setFld s f v).fed = s.fed := (rfl)
@[simp] theorem setFld_key {f : RF} {v : Nat} : (setFld s f v).key = s.key := (rfl)
@[simp] theorem setFld_pin {f : RF} {v : Nat} : (setFld s f v).pin = s.pin := (rfl)
@[simp] theorem setFld_upd {f : RF} {v : Nat} : (setFld s f v).upd = s.upd := (rfl)
@[simp] theorem setFld_pwr {f : RF} {v : Nat} : (setFld s f v).pwr = s.pwr := (rfl)
@[simp] theorem setFld_bst {f : RF} {v : Nat} : (setFld s f v).bst = s.bst := (rfl)

@[simp] theorem setFlag_pending {f : RF} {b : Bool} : (setFlag s f b).pending = s.pending := (rfl)
@[simp] theorem setFlag_regs {f : RF} {b : Bool} : (setFlag s f b).regs = (setFld s f (b2n b)).regs := (rfl)
@[simp] theorem setFlag_dt {f : RF} {b : Bool} : (setFlag s f b).dt = s.dt := (rfl)
@[simp] theorem setFlag_el {f : RF} {b : Bool} : (setFlag s f b).el = s.el := (rfl)
@[simp] theorem setFlag_freeN {f : RF} {b : Bool} : (setFlag s f b).freeN = s.freeN := (rfl)
@[simp] theorem setFlag_sent {f : RF} {b : Bool} : (setFlag s f b).sent = s.sent := (rfl)
@[simp] theorem setFlag_host {f : RF} {b : Bool} : (setFlag s f b).host = s.host := (rfl)
@[simp] theorem setFlag_time {f : RF} {b : Bool} : (setFlag s f b).time = s.time := (rfl)
@[simp] theorem setFlag_cis {f : RF} {b : Bool} : (setFlag s f b).cis = s.cis := (rfl)
@[simp] theorem setFlag_rad {f : RF} {b : Bool} : (setFlag s f b).rad = s.rad := (rfl)
@[simp] theorem setFlag_mac {f : RF} {b : Bool} : (setFlag s f b).mac = s.mac := (rfl)
@[simp] theorem setFlag_street {f : RF} {b : Bool} : (setFlag s f b).street = s.street := (rfl)
@[simp] theorem setFlag_cas {f : RF} {b : Bool} : (setFlag s f b).cas = s.cas := (rfl)
@[simp] theorem setFlag_bas {f : RF} {b : Bool} : (setFlag s f b).bas = s.bas := (rfl)
@[simp] theorem setFlag_weir {f : RF} {b : Bool} : (setFlag s f b).weir = s.weir := (rfl)
@[simp] theorem setFlag_ftn {f : RF} {b : Bool} : (setFlag s f b).ftn = s.ftn := (rfl)
@[simp] theorem setFlag_ox {f : RF} {b : Bool} : (setFlag s f b).ox = s.ox := (rfl)
@[simp] theorem setFlag_pair {f : RF} {b : Bool} : (setFlag s f b).pair = s.pair := (rfl)
@[simp] theorem setFlag_fed {f : RF} {b : Bool} : (setFlag s f b).fed = s.fed := (rfl)
@[simp] theorem setFlag_key {f : RF} {b : Bool} : (setFlag s f b).key = s.key := (rfl)
@[simp] theorem setFlag_pin {f : RF} {b : Bool} : (setFlag s f b).pin = s.pin := (rfl)
@[simp] theorem setFlag_upd {f : RF} {b : Bool} : (setFlag s f b).upd = s.upd := (rfl)
@[simp] theorem setFlag_pwr {f : RF} {b : Bool} : (setFlag s f b).pwr = s.pwr := (rfl)
@[simp] theorem setFlag_bst {f : RF} {b : Bool} : (setFlag s f b).bst = s.bst := (rfl)

@[simp] theorem send_pending {o : Out} : (send s o).pending = s.pending := (rfl)
@[simp] theorem send_regs {o : Out} : (send s o).regs = s.regs := (rfl)
@[simp] theorem send_dt {o : Out} : (send s o).dt = s.dt := (rfl)
@[simp] theorem send_el {o : Out} : (send s o).el = s.el := (rfl)
@[simp] theorem send_freeN {o : Out} : (send s o).freeN = s.freeN := (rfl)
@[simp] theorem send_sent {o : Out} : (send s o).sent = s.sent ++ [o] := (rfl)
@[simp] theorem send_host {o : Out} : (send s o).host = s.host := (rfl)
@[simp] theorem send_time {o : Out} : (send s o).time = s.time := (rfl)
@[simp] theorem send_cis {o : Out} : (send s o).cis = s.cis := (rfl)
@[simp] theorem send_rad {o : Out} : (send s o).rad = s.rad := (rfl)
@[simp] theorem send_mac {o : Out} : (send s o).mac = s.mac := (rfl)
@[simp] theorem send_street {o : Out} : (send s o).street = s.street := (rfl)
@[simp] theorem send_cas {o : Out} : (send s o).cas = s.cas := (rfl)
@[simp] theorem send_bas {o : Out} : (send s o).bas = s.bas := (rfl)
@[simp] theorem send_weir {o : Out} : (send s o).weir = s.weir := (rfl)
@[simp] theorem send_ftn {o : Out} : (send s o).ftn = s.ftn := (rfl)
@[simp] theorem send_ox {o : Out} : (send s o).ox = s.ox := (rfl)
@[simp] theorem send_pair {o : Out} : (send s o).pair = s.pair := (rfl)
@[simp] theorem send_fed {o : Out} : (send s o).fed = s.fed := (rfl)
@[simp] theorem send_key {o : Out} : (send s o).key = s.key := (rfl)
@[simp] theorem send_pin {o : Out} : (send s o).pin = s.pin := (rfl)
@[simp] theorem send_upd {o : Out} : (send s o).upd = s.upd := (rfl)
@[simp] theorem send_pwr {o : Out} : (send s o).pwr = s.pwr := (rfl)
@[simp] theorem send_bst {o : Out} : (send s o).bst = s.bst := (rfl)

@[simp] theorem drawFree_pending  : (drawFree s).pending = s.pending := (rfl)
@[simp] theorem drawFree_regs  : (drawFree s).regs = s.regs := (rfl)
@[simp] theorem drawFree_dt  : (drawFree s).dt = s.dt := (rfl)
@[simp] theorem drawFree_el  : (drawFree s).el = s.el := (rfl)
@[simp] theorem drawFree_freeN  : (drawFree s).freeN = s.freeN + 1 := (rfl)
@[simp] theorem drawFree_sent  : (drawFree s).sent = s.sent := (rfl)
@[simp] theorem drawFree_host  : (drawFree s).host = s.host := (rfl)
@[simp] theorem drawFree_time  : (drawFree s).time = s.time := (rfl)
@[simp] theorem drawFree_cis  : (drawFree s).cis = s.cis := (rfl)
@[simp] theorem drawFree_rad  : (drawFree s).rad = s.rad := (rfl)
@[simp] theorem drawFree_mac  : (drawFree s).mac = s.mac := (rfl)
@[simp] theorem drawFree_street  : (drawFree s).street = s.street := (rfl)
@[simp] theorem drawFree_cas  : (drawFree s).cas = s.cas := (rfl)
@[simp] theorem drawFree_bas  : (drawFree s).bas = s.bas := (rfl)
@[simp] theorem drawFree_weir  : (drawFree s).weir = s.weir := (rfl)
@[simp] theorem drawFree_ftn  : (drawFree s).ftn = s.ftn := (rfl)
@[simp] theorem drawFree_ox  : (drawFree s).ox = s.ox := (rfl)
@[simp] theorem drawFree_pair  : (drawFree s).pair = s.pair := (rfl)
@[simp] theorem drawFree_fed  : (drawFree s).fed = s.fed := (rfl)
@[simp] theorem drawFree_key  : (drawFree s).key = s.key := (rfl)
@[simp] theorem drawFree_pin  : (drawFree s).pin = s.pin := (rfl)
@[simp] theorem drawFree_upd  : (drawFree s).upd = s.upd := (rfl)
@[simp] theorem drawFree_pwr  : (drawFree s).pwr = s.pwr := (rfl)
@[simp] theorem drawFree_bst  : (drawFree s).bst = s.bst := (rfl)

@[simp] theorem countBy_pending {f : RF} {k : Nat} : (countBy s f k).pending = s.pending := (rfl)
@[simp] theorem countBy_regs {f : RF} {k : Nat} : (countBy s f k).regs = (setFld s f (min (fld s f + k) (2 ^ (f.hi + 1 - f.lo) - 1))).regs := (rfl)
@[simp] theorem countBy_dt {f : RF} {k : Nat} : (countBy s f k).dt = s.dt := (rfl)
@[simp] theorem countBy_el {f : RF} {k : Nat} : (countBy s f k).el = s.el := (rfl)
@[simp] theorem countBy_freeN {f : RF} {k : Nat} : (countBy s f k).freeN = s.freeN := (rfl)
@[simp] theorem countBy_sent {f : RF} {k : Nat} : (countBy s f k).sent = s.sent := (rfl)
@[simp] theorem countBy_host {f : RF} {k : Nat} : (countBy s f k).host = s.host := (rfl)
@[simp] theorem countBy_time {f : RF} {k : Nat} : (countBy s f k).time = s.time := (rfl)
@[simp] theorem countBy_cis {f : RF} {k : Nat} : (countBy s f k).cis = s.cis := (rfl)
@[simp] theorem countBy_rad {f : RF} {k : Nat} : (countBy s f k).rad = s.rad := (rfl)
@[simp] theorem countBy_mac {f : RF} {k : Nat} : (countBy s f k).mac = s.mac := (rfl)
@[simp] theorem countBy_street {f : RF} {k : Nat} : (countBy s f k).street = s.street := (rfl)
@[simp] theorem countBy_cas {f : RF} {k : Nat} : (countBy s f k).cas = s.cas := (rfl)
@[simp] theorem countBy_bas {f : RF} {k : Nat} : (countBy s f k).bas = s.bas := (rfl)
@[simp] theorem countBy_weir {f : RF} {k : Nat} : (countBy s f k).weir = s.weir := (rfl)
@[simp] theorem countBy_ftn {f : RF} {k : Nat} : (countBy s f k).ftn = s.ftn := (rfl)
@[simp] theorem countBy_ox {f : RF} {k : Nat} : (countBy s f k).ox = s.ox := (rfl)
@[simp] theorem countBy_pair {f : RF} {k : Nat} : (countBy s f k).pair = s.pair := (rfl)
@[simp] theorem countBy_fed {f : RF} {k : Nat} : (countBy s f k).fed = s.fed := (rfl)
@[simp] theorem countBy_key {f : RF} {k : Nat} : (countBy s f k).key = s.key := (rfl)
@[simp] theorem countBy_pin {f : RF} {k : Nat} : (countBy s f k).pin = s.pin := (rfl)
@[simp] theorem countBy_upd {f : RF} {k : Nat} : (countBy s f k).upd = s.upd := (rfl)
@[simp] theorem countBy_pwr {f : RF} {k : Nat} : (countBy s f k).pwr = s.pwr := (rfl)
@[simp] theorem countBy_bst {f : RF} {k : Nat} : (countBy s f k).bst = s.bst := (rfl)

@[simp] theorem memWrite_pending {a : Nat} {l : List Byte} : (memWrite s a l).pending = s.pending := (rfl)
@[simp] theorem memWrite_regs {a : Nat} {l : List Byte} : (memWrite s a l).regs = s.regs := (rfl)
@[simp] theorem memWrite_dt {a : Nat} {l : List Byte} : (memWrite s a l).dt = s.dt := (rfl)
@[simp] theorem memWrite_el {a : Nat} {l : List Byte} : (memWrite s a l).el = s.el := (rfl)
@[simp] theorem memWrite_freeN {a : Nat} {l : List Byte} : (memWrite s a l).freeN = s.freeN := (rfl)
@[simp] theorem memWrite_sent {a : Nat} {l : List Byte} : (memWrite s a l).sent = s.sent := (rfl)
@[simp] theorem memWrite_host {a : Nat} {l : List Byte} : (memWrite s a l).host = { s.host with mem := memPut s.host.mem a l, attr := bulkAttr s } := (rfl)
@[simp] theorem memWrite_time {a : Nat} {l : List Byte} : (memWrite s a l).time = s.time := (rfl)
@[simp] theorem memWrite_cis {a : Nat} {l : List Byte} : (memWrite s a l).cis = s.cis := (rfl)
@[simp] theorem memWrite_rad {a : Nat} {l : List Byte} : (memWrite s a l).rad = s.rad := (rfl)
@[simp] theorem memWrite_mac {a : Nat} {l : List Byte} : (memWrite s a l).mac = s.mac := (rfl)
@[simp] theorem memWrite_street {a : Nat} {l : List Byte} : (memWrite s a l).street = s.street := (rfl)
@[simp] theorem memWrite_cas {a : Nat} {l : List Byte} : (memWrite s a l).cas = s.cas := (rfl)
@[simp] theorem memWrite_bas {a : Nat} {l : List Byte} : (memWrite s a l).bas = s.bas := (rfl)
@[simp] theorem memWrite_weir {a : Nat} {l : List Byte} : (memWrite s a l).weir = s.weir := (rfl)
@[simp] theorem memWrite_ftn {a : Nat} {l : List Byte} : (memWrite s a l).ftn = s.ftn := (rfl)
@[simp] theorem memWrite_ox {a : Nat} {l : List Byte} : (memWrite s a l).ox = s.ox := (rfl)
@[simp] theorem memWrite_pair {a : Nat} {l : List Byte} : (memWrite s a l).pair = s.pair := (rfl)
@[simp] theorem memWrite_fed {a : Nat} {l : List Byte} : (memWrite s a l).fed = s.fed := (rfl)
@[simp] theorem memWrite_key {a : Nat} {l : List Byte} : (memWrite s a l).key = s.key := (rfl)
@[simp] theorem memWrite_pin {a : Nat} {l : List Byte} : (memWrite s a l).pin = s.pin := (rfl)
@[simp] theorem memWrite_upd {a : Nat} {l : List Byte} : (memWrite s a l).upd = s.upd := (rfl)
@[simp] theorem memWrite_pwr {a : Nat} {l : List Byte} : (memWrite s a l).pwr = s.pwr := (rfl)
@[simp] theorem memWrite_bst {a : Nat} {l : List Byte} : (memWrite s a l).bst = s.bst := (rfl)

@[simp] theorem entryWrite_pending {a : Nat} {l : List Byte} : (entryWrite s a l).pending = s.pending := (rfl)
@[simp] theorem entryWrite_regs {a : Nat} {l : List Byte} : (entryWrite s a l).regs = s.regs := (rfl)
@[simp] theorem entryWrite_dt {a : Nat} {l : List Byte} : (entryWrite s a l).dt = s.dt := (rfl)
@[simp] theorem entryWrite_el {a : Nat} {l : List Byte} : (entryWrite s a l).el = s.el := (rfl)
@[simp] theorem entryWrite_freeN {a : Nat} {l : List Byte} : (entryWrite s a l).freeN = s.freeN := (rfl)
@[simp] theorem entryWrite_sent {a : Nat} {l : List Byte} : (entryWrite s a l).sent = s.sent := (rfl)
@[simp] theorem entryWrite_host {a : Nat} {l : List Byte} : (entryWrite s a l).host = { s.host with mem := memPut s.host.mem a l, attr := {} } := (rfl)
@[simp] theorem entryWrite_time {a : Nat} {l : List Byte} : (entryWrite s a l).time = s.time := (rfl)
@[simp] theorem entryWrite_cis {a : Nat} {l : List Byte} : (entryWrite s a l).cis = s.cis := (rfl)
@[simp] theorem entryWrite_rad {a : Nat} {l : List Byte} : (entryWrite s a l).rad = s.rad := (rfl)
@[simp] theorem entryWrite_mac {a : Nat} {l : List Byte} : (entryWrite s a l).mac = s.mac := (rfl)
@[simp] theorem entryWrite_street {a : Nat} {l : List Byte} : (entryWrite s a l).street = s.street := (rfl)
@[simp] theorem entryWrite_cas {a : Nat} {l : List Byte} : (entryWrite s a l).cas = s.cas := (rfl)
@[simp] theorem entryWrite_bas {a : Nat} {l : List Byte} : (entryWrite s a l).bas = s.bas := (rfl)
@[simp] theorem entryWrite_weir {a : Nat} {l : List Byte} : (entryWrite s a l).weir = s.weir := (rfl)
@[simp] theorem entryWrite_ftn {a : Nat} {l : List Byte} : (entryWrite s a l).ftn = s.ftn := (rfl)
@[simp] theorem entryWrite_ox {a : Nat} {l : List Byte} : (entryWrite s a l).ox = s.ox := (rfl)
@[simp] theorem entryWrite_pair {a : Nat} {l : List Byte} : (entryWrite s a l).pair = s.pair := (rfl)
@[simp] theorem entryWrite_fed {a : Nat} {l : List Byte} : (entryWrite s a l).fed = s.fed := (rfl)
@[simp] theorem entryWrite_key {a : Nat} {l : List Byte} : (entryWrite s a l).key = s.key := (rfl)
@[simp] theorem entryWrite_pin {a : Nat} {l : List Byte} : (entryWrite s a l).pin = s.pin := (rfl)
@[simp] theorem entryWrite_upd {a : Nat} {l : List Byte} : (entryWrite s a l).upd = s.upd := (rfl)
@[simp] theorem entryWrite_pwr {a : Nat} {l : List Byte} : (entryWrite s a l).pwr = s.pwr := (rfl)
@[simp] theorem entryWrite_bst {a : Nat} {l : List Byte} : (entryWrite s a l).bst = s.bst := (rfl)

@[simp] theorem setSq_pending {n : Nat} {q : SqSt} : (setSq s n q).pending = s.pending := (rfl)
@[simp] theorem setSq_regs {n : Nat} {q : SqSt} : (setSq s n q).regs = s.regs := (rfl)
@[simp] theorem setSq_dt {n : Nat} {q : SqSt} : (setSq s n q).dt = s.dt := (rfl)
@[simp] theorem setSq_el {n : Nat} {q : SqSt} : (setSq s n q).el = s.el := (rfl)
@[simp] theorem setSq_freeN {n : Nat} {q : SqSt} : (setSq s n q).freeN = s.freeN := (rfl)
@[simp] theorem setSq_sent {n : Nat} {q : SqSt} : (setSq s n q).sent = s.sent := (rfl)
@[simp] theorem setSq_host {n : Nat} {q : SqSt} : (setSq s n q).host = { s.host with sqs := s.host.sqs.set n q {} } := (rfl)
@[simp] theorem setSq_time {n : Nat} {q : SqSt} : (setSq s n q).time = s.time := (rfl)
@[simp] theorem setSq_cis {n : Nat} {q : SqSt} : (setSq s n q).cis = s.cis := (rfl)
@[simp] theorem setSq_rad {n : Nat} {q : SqSt} : (setSq s n q).rad = s.rad := (rfl)
@[simp] theorem setSq_mac {n : Nat} {q : SqSt} : (setSq s n q).mac = s.mac := (rfl)
@[simp] theorem setSq_street {n : Nat} {q : SqSt} : (setSq s n q).street = s.street := (rfl)
@[simp] theorem setSq_cas {n : Nat} {q : SqSt} : (setSq s n q).cas = s.cas := (rfl)
@[simp] theorem setSq_bas {n : Nat} {q : SqSt} : (setSq s n q).bas = s.bas := (rfl)
@[simp] theorem setSq_weir {n : Nat} {q : SqSt} : (setSq s n q).weir = s.weir := (rfl)
@[simp] theorem setSq_ftn {n : Nat} {q : SqSt} : (setSq s n q).ftn = s.ftn := (rfl)
@[simp] theorem setSq_ox {n : Nat} {q : SqSt} : (setSq s n q).ox = s.ox := (rfl)
@[simp] theorem setSq_pair {n : Nat} {q : SqSt} : (setSq s n q).pair = s.pair := (rfl)
@[simp] theorem setSq_fed {n : Nat} {q : SqSt} : (setSq s n q).fed = s.fed := (rfl)
@[simp] theorem setSq_key {n : Nat} {q : SqSt} : (setSq s n q).key = s.key := (rfl)
@[simp] theorem setSq_pin {n : Nat} {q : SqSt} : (setSq s n q).pin = s.pin := (rfl)
@[simp] theorem setSq_upd {n : Nat} {q : SqSt} : (setSq s n q).upd = s.upd := (rfl)
@[simp] theorem setSq_pwr {n : Nat} {q : SqSt} : (setSq s n q).pwr = s.pwr := (rfl)
@[simp] theorem setSq_bst {n : Nat} {q : SqSt} : (setSq s n q).bst = s.bst := (rfl)

@[simp] theorem setCq_pending {n : Nat} {q : CqSt} : (setCq s n q).pending = s.pending := (rfl)
@[simp] theorem setCq_regs {n : Nat} {q : CqSt} : (setCq s n q).regs = s.regs := (rfl)
@[simp] theorem setCq_dt {n : Nat} {q : CqSt} : (setCq s n q).dt = s.dt := (rfl)
@[simp] theorem setCq_el {n : Nat} {q : CqSt} : (setCq s n q).el = s.el := (rfl)
@[simp] theorem setCq_freeN {n : Nat} {q : CqSt} : (setCq s n q).freeN = s.freeN := (rfl)
@[simp] theorem setCq_sent {n : Nat} {q : CqSt} : (setCq s n q).sent = s.sent := (rfl)
@[simp] theorem setCq_host {n : Nat} {q : CqSt} : (setCq s n q).host = { s.host with cqs := s.host.cqs.set n q {} } := (rfl)
@[simp] theorem setCq_time {n : Nat} {q : CqSt} : (setCq s n q).time = s.time := (rfl)
@[simp] theorem setCq_cis {n : Nat} {q : CqSt} : (setCq s n q).cis = s.cis := (rfl)
@[simp] theorem setCq_rad {n : Nat} {q : CqSt} : (setCq s n q).rad = s.rad := (rfl)
@[simp] theorem setCq_mac {n : Nat} {q : CqSt} : (setCq s n q).mac = s.mac := (rfl)
@[simp] theorem setCq_street {n : Nat} {q : CqSt} : (setCq s n q).street = s.street := (rfl)
@[simp] theorem setCq_cas {n : Nat} {q : CqSt} : (setCq s n q).cas = s.cas := (rfl)
@[simp] theorem setCq_bas {n : Nat} {q : CqSt} : (setCq s n q).bas = s.bas := (rfl)
@[simp] theorem setCq_weir {n : Nat} {q : CqSt} : (setCq s n q).weir = s.weir := (rfl)
@[simp] theorem setCq_ftn {n : Nat} {q : CqSt} : (setCq s n q).ftn = s.ftn := (rfl)
@[simp] theorem setCq_ox {n : Nat} {q : CqSt} : (setCq s n q).ox = s.ox := (rfl)
@[simp] theorem setCq_pair {n : Nat} {q : CqSt} : (setCq s n q).pair = s.pair := (rfl)
@[simp] theorem setCq_fed {n : Nat} {q : CqSt} : (setCq s n q).fed = s.fed := (rfl)
@[simp] theorem setCq_key {n : Nat} {q : CqSt} : (setCq s n q).key = s.key := (rfl)
@[simp] theorem setCq_pin {n : Nat} {q : CqSt} : (setCq s n q).pin = s.pin := (rfl)
@[simp] theorem setCq_upd {n : Nat} {q : CqSt} : (setCq s n q).upd = s.upd := (rfl)
@[simp] theorem setCq_pwr {n : Nat} {q : CqSt} : (setCq s n q).pwr = s.pwr := (rfl)
@[simp] theorem setCq_bst {n : Nat} {q : CqSt} : (setCq s n q).bst = s.bst := (rfl)

@[simp] theorem setEq_pending {n : Nat} {q : EqSt} : (setEq s n q).pending = s.pending := (rfl)
@[simp] theorem setEq_regs {n : Nat} {q : EqSt} : (setEq s n q).regs = s.regs := (rfl)
@[simp] theorem setEq_dt {n : Nat} {q : EqSt} : (setEq s n q).dt = s.dt := (rfl)
@[simp] theorem setEq_el {n : Nat} {q : EqSt} : (setEq s n q).el = s.el := (rfl)
@[simp] theorem setEq_freeN {n : Nat} {q : EqSt} : (setEq s n q).freeN = s.freeN := (rfl)
@[simp] theorem setEq_sent {n : Nat} {q : EqSt} : (setEq s n q).sent = s.sent := (rfl)
@[simp] theorem setEq_host {n : Nat} {q : EqSt} : (setEq s n q).host = { s.host with eqs := s.host.eqs.set n q {} } := (rfl)
@[simp] theorem setEq_time {n : Nat} {q : EqSt} : (setEq s n q).time = s.time := (rfl)
@[simp] theorem setEq_cis {n : Nat} {q : EqSt} : (setEq s n q).cis = s.cis := (rfl)
@[simp] theorem setEq_rad {n : Nat} {q : EqSt} : (setEq s n q).rad = s.rad := (rfl)
@[simp] theorem setEq_mac {n : Nat} {q : EqSt} : (setEq s n q).mac = s.mac := (rfl)
@[simp] theorem setEq_street {n : Nat} {q : EqSt} : (setEq s n q).street = s.street := (rfl)
@[simp] theorem setEq_cas {n : Nat} {q : EqSt} : (setEq s n q).cas = s.cas := (rfl)
@[simp] theorem setEq_bas {n : Nat} {q : EqSt} : (setEq s n q).bas = s.bas := (rfl)
@[simp] theorem setEq_weir {n : Nat} {q : EqSt} : (setEq s n q).weir = s.weir := (rfl)
@[simp] theorem setEq_ftn {n : Nat} {q : EqSt} : (setEq s n q).ftn = s.ftn := (rfl)
@[simp] theorem setEq_ox {n : Nat} {q : EqSt} : (setEq s n q).ox = s.ox := (rfl)
@[simp] theorem setEq_pair {n : Nat} {q : EqSt} : (setEq s n q).pair = s.pair := (rfl)
@[simp] theorem setEq_fed {n : Nat} {q : EqSt} : (setEq s n q).fed = s.fed := (rfl)
@[simp] theorem setEq_key {n : Nat} {q : EqSt} : (setEq s n q).key = s.key := (rfl)
@[simp] theorem setEq_pin {n : Nat} {q : EqSt} : (setEq s n q).pin = s.pin := (rfl)
@[simp] theorem setEq_upd {n : Nat} {q : EqSt} : (setEq s n q).upd = s.upd := (rfl)
@[simp] theorem setEq_pwr {n : Nat} {q : EqSt} : (setEq s n q).pwr = s.pwr := (rfl)
@[simp] theorem setEq_bst {n : Nat} {q : EqSt} : (setEq s n q).bst = s.bst := (rfl)

end Sys2Proof.Laws
end

