-- ==== Sys2Proof/Laws/Regs.lean ====
section
/-! SUPPORT. Laws of registers and their fields: a read after a write, and what a write leaves. -/

namespace Sys2Proof.Laws

open Sys2Proof.Machine

variable {s : State}

/-- A field lies in a 32-bit register. -/
def RF.ok (f : RF) : Prop := f.lo ≤ f.hi ∧ f.hi < 32

@[simp] theorem reg_setReg_same {o : Nat} {v : Word} : reg (setReg s o v) o = v := get_set_same

theorem reg_setReg_ne {o p : Nat} {v : Word} (h : p ≠ o) : reg (setReg s o v) p = reg s p := get_set_ne h

theorem reg_setFld_ne {f : RF} {v p : Nat} (h : p ≠ f.off) : reg (setFld s f v) p = reg s p := reg_setReg_ne h

/-- A field of another register is unchanged. -/
theorem fld_setFld_ne {f g : RF} {v : Nat} (h : g.off ≠ f.off) : fld (setFld s f v) g = fld s g := by
  unfold fld
  rw [reg_setFld_ne h]

theorem flag_setFld_ne {f g : RF} {v : Nat} (h : g.off ≠ f.off) : flag (setFld s f v) g = flag s g := by
  unfold flag
  rw [fld_setFld_ne h]

theorem putBits_lt {v hi lo x : Nat} (hl : lo ≤ hi) (h : hi < 32) (hv : v < 2 ^ 32) : putBits v hi lo x < 2 ^ 32 := by
  unfold putBits
  have e : (2 : Nat) ^ 32 = 2 ^ (31 - hi) * 2 ^ (hi + 1) := by rw [← Nat.pow_add]; congr 1; omega
  have e2 : (2 : Nat) ^ (hi + 1) = 2 ^ (hi + 1 - lo) * 2 ^ lo := by rw [← Nat.pow_add]; congr 1; omega
  have a : v % 2 ^ lo < 2 ^ lo := Nat.mod_lt _ (Nat.two_pow_pos _)
  have b : x % 2 ^ (hi + 1 - lo) + 1 ≤ 2 ^ (hi + 1 - lo) := Nat.mod_lt _ (Nat.two_pow_pos _)
  have c : v / 2 ^ (hi + 1) + 1 ≤ 2 ^ (31 - hi) := by
    rw [Nat.succ_le_iff, Nat.div_lt_iff_lt_mul (Nat.two_pow_pos _), ← e]; exact hv
  have b2 := Nat.mul_le_mul_right (2 ^ lo) b
  have c2 := Nat.mul_le_mul_right (2 ^ (hi + 1)) c
  rw [Nat.add_mul, Nat.one_mul] at b2 c2
  rw [← e] at c2
  rw [← e2] at b2
  omega

theorem bits_putBits_same {v hi lo x : Nat} (hl : lo ≤ hi) : bits (putBits v hi lo x) hi lo = x % 2 ^ (hi + 1 - lo) := by
  unfold bits putBits
  have e2 : (2 : Nat) ^ (hi + 1) = 2 ^ (hi + 1 - lo) * 2 ^ lo := by rw [← Nat.pow_add]; congr 1; omega
  have hp : 0 < (2 : Nat) ^ lo := Nat.two_pow_pos _
  rw [e2, ← Nat.mul_assoc, Nat.add_mul_div_right _ _ hp, Nat.add_mul_div_right _ _ hp, Nat.div_eq_of_lt (Nat.mod_lt _ hp),
    Nat.zero_add, Nat.add_mul_mod_self_right, Nat.mod_mod]

/-- Reading a field gives the value written to it, in the field's width. -/
theorem fld_setFld_same {f : RF} {v : Nat} (h : RF.ok f) : fld (setFld s f v) f = v % 2 ^ (f.hi + 1 - f.lo) := by
  unfold fld setFld
  rw [reg_setReg_same, BitVec.toNat_ofNat, Nat.mod_eq_of_lt (putBits_lt h.1 h.2 (reg s f.off).isLt), bits_putBits_same h.1]

theorem bits_putBits_low {v hi lo x hi' lo' : Nat} (hl : lo ≤ hi) (hl' : lo' ≤ hi') (h : hi' < lo) :
    bits (putBits v hi lo x) hi' lo' = bits v hi' lo' := by
  unfold bits
  have key : ∀ w, w / 2 ^ lo' % 2 ^ (hi' + 1 - lo') = w % 2 ^ (hi' + 1) / 2 ^ lo' := by
    intro w
    have e : (2 : Nat) ^ (hi' + 1) = 2 ^ lo' * 2 ^ (hi' + 1 - lo') := by rw [← Nat.pow_add]; congr 1; omega
    rw [e, Nat.mod_mul_right_div_self]
  rw [key, key]
  congr 1
  unfold putBits
  obtain ⟨a, ha⟩ : (2 : Nat) ^ (hi' + 1) ∣ 2 ^ lo := Nat.pow_dvd_pow 2 h
  obtain ⟨b, hb⟩ : (2 : Nat) ^ (hi' + 1) ∣ 2 ^ (hi + 1) := Nat.pow_dvd_pow 2 (by omega)
  rw [hb, ← Nat.mul_assoc, Nat.mul_comm _ (2 ^ (hi' + 1)), Nat.mul_assoc, Nat.add_mul_mod_self_left, ha, ← Nat.mul_assoc,
    Nat.mul_comm _ (2 ^ (hi' + 1)), Nat.mul_assoc, Nat.add_mul_mod_self_left, Nat.mod_mul_right_mod]

theorem bits_putBits_high {v hi lo x hi' lo' : Nat} (hl : lo ≤ hi) (h : hi < lo') :
    bits (putBits v hi lo x) hi' lo' = bits v hi' lo' := by
  unfold bits
  congr 1
  have key : ∀ w, w / 2 ^ lo' = w / 2 ^ (hi + 1) / 2 ^ (lo' - (hi + 1)) := by
    intro w
    rw [Nat.div_div_eq_div_mul, ← Nat.pow_add]
    congr 2
    omega
  rw [key, key]
  congr 1
  unfold putBits
  have a : v % 2 ^ lo < 2 ^ lo := Nat.mod_lt _ (Nat.two_pow_pos _)
  have b : x % 2 ^ (hi + 1 - lo) + 1 ≤ 2 ^ (hi + 1 - lo) := Nat.mod_lt _ (Nat.two_pow_pos _)
  have e2 : (2 : Nat) ^ (hi + 1) = 2 ^ (hi + 1 - lo) * 2 ^ lo := by rw [← Nat.pow_add]; congr 1; omega
  have b2 := Nat.mul_le_mul_right (2 ^ lo) b
  rw [Nat.add_mul, Nat.one_mul, ← e2] at b2
  rw [Nat.add_mul_div_right _ _ (Nat.two_pow_pos _), Nat.div_eq_of_lt (by omega), Nat.zero_add]

/-- A field of the same register that does not meet the written one is unchanged. -/
theorem fld_setFld_apart {f g : RF} {v : Nat} (hf : RF.ok f) (hg : RF.ok g) (h : g.hi < f.lo ∨ f.hi < g.lo) :
    fld (setFld s f v) g = fld s g := by
  by_cases ho : g.off = f.off
  · unfold fld setFld
    rw [ho, reg_setReg_same, BitVec.toNat_ofNat, Nat.mod_eq_of_lt (putBits_lt hf.1 hf.2 (reg s f.off).isLt)]
    rcases h with h | h
    · exact bits_putBits_low hf.1 hg.1 h
    · exact bits_putBits_high hf.1 h
  · exact fld_setFld_ne ho

/-- Registers, fields and flags depend on the register bank alone. -/
theorem reg_of_regs {t : State} {o : Nat} (h : t.regs = s.regs) : reg t o = reg s o := by rw [reg, reg, h]
theorem fld_of_regs {t : State} {f : RF} (h : t.regs = s.regs) : fld t f = fld s f := by rw [fld, fld, reg_of_regs h]
theorem flag_of_regs {t : State} {f : RF} (h : t.regs = s.regs) : flag t f = flag s f := by rw [flag, flag, fld_of_regs h]

@[simp] theorem reg_hostUpd {g : HostSt → HostSt} {o : Nat} : reg (hostUpd s g) o = reg s o := reg_of_regs (rfl)
@[simp] theorem fld_hostUpd {g : HostSt → HostSt} {f : RF} : fld (hostUpd s g) f = fld s f := fld_of_regs (rfl)
@[simp] theorem flag_hostUpd {g : HostSt → HostSt} {f : RF} : flag (hostUpd s g) f = flag s f := flag_of_regs (rfl)

/-- The word of GLB_ID after reset, in which only BAND is the implementation's (R2). -/
theorem reg_reset_glbId : (reg State.reset 0).toNat = putBits (putBits 0x2640B000 7 4 Config.bandCode) 3 0 1 := by
  have first (l m : List Card) (r : Card × Nat) (h : l.findSome? (fun c => (c.index 0).map fun n => (c, n)) = some r) :
      (l ++ m).findSome? (fun c => (c.index 0).map fun n => (c, n)) = some r := by rw [List.findSome?_append, h]; rfl
  have card : cardAt 0 = some (⟨"GLB_ID", 0x0, 4, 1, .fab, .fixed, false, [⟨"PART", 31, 16, .ro, fun _ => 0x2640⟩,
      ⟨"REV_MAJ", 15, 12, .ro, fun _ => 0xb⟩, ⟨"REV_MIN", 11, 8, .ro, fun _ => 0x0⟩,
      ⟨"BAND", 7, 4, .ro, fun _ => Config.bandCode⟩, ⟨"TEMP", 3, 0, .ro, fun _ => 1⟩]⟩, 0) := by
    unfold cardAt cards
    repeat rw [List.append_assoc]
    exact first _ _ _ rfl
  have cons {α : Type} (f : α → CField → α) (a : α) (x : CField) (l) : (x :: l).foldl f a = l.foldl f (f a x) := rfl
  have known : putBits (putBits (putBits 0 31 16 9792) 15 12 11) 11 8 0 = 0x2640B000 := by decide +kernel
  have word (c : Card) (n : Nat) (fs : List CField) (h : c.fields = fs) :
      c.resetWord n = BitVec.ofNat 32 (fs.foldl (fun v f => putBits v f.hi f.lo (f.rst n)) 0) := by rw [Card.resetWord, h]
  rw [show reg State.reset 0 = resetVal 0 from rfl, resetVal, card]
  dsimp only
  rw [word _ _ _ rfl, cons, cons, cons, cons, cons,
    show (∀ v, List.foldl (fun v (f : CField) => putBits v f.hi f.lo (f.rst 0)) v [] = v) from fun _ => rfl, known,
    BitVec.toNat_ofNat]
  exact Nat.mod_eq_of_lt (putBits_lt (by decide) (by decide) (putBits_lt (by decide) (by decide) (by decide +kernel)))

end Sys2Proof.Laws
end

