-- ==== Sys2Proof/Laws/Ops.lean ====
section
/-! SUPPORT. What the shared operations of Machine/Flags.lean and Machine/Ops.lean can do: raising a vector, setting an error
flag, counting, and putting a record into an event store. Never `split` the comparison with 2,048 of `eqPut`: cite
`eqPut_room` or `eqPut_full`. -/

namespace Sys2Proof.Laws

open Sys2Proof.Machine

variable {s : State} {f : RF} {v n : Nat} {r : EvRec}

/-- Raising a vector sends a message or sets a pending bit, and nothing else. -/
theorem raiseVec_cases (s : State) (v : Nat) : raiseVec s v = send s (.msi v) ∨
    raiseVec s v = { s with host := { s.host with msix := { s.host.msix with pend := s.host.msix.pend.set v true false } } } := by
  by_cases h : (s.host.msix.enable && !s.host.msix.fmask && s.host.msix.unmasked.get v false) = true
  · exact .inl (by simp [raiseVec, h])
  · exact .inr (by rw [raiseVec]; dsimp only; rw [if_neg h])

/-- Setting an error flag leaves a state that has it, or sets the flag, or sets it and raises a vector. -/
theorem setErr_cases (s : State) (f : RF) :
    (flag s f = true ∧ setErr s f = s) ∨ setErr s f = setFld s f 1 ∨ ∃ v, setErr s f = raiseVec (setFld s f 1) v := by
  unfold setErr
  by_cases h : flag s f = true
  · exact .inl ⟨h, by rw [if_pos h]⟩
  · rw [if_neg h]
    dsimp only
    cases irqOf f.off with
    | none => exact .inr (.inl rfl)
    | some irq =>
      dsimp only
      by_cases g : bit (reg s irq).toNat f.lo = true
      · exact .inr (.inr ⟨_, by rw [if_pos g]⟩)
      · exact .inr (.inl (by rw [if_neg g]))

/-- What setting an error flag keeps: registers other than the flag's, and the rings, ports and memory of the host link. -/
theorem setErr_frame (s : State) (f : RF) : (∀ p, p ≠ f.off → reg (setErr s f) p = reg s p) ∧
    (setErr s f).host.sqs = s.host.sqs ∧ (setErr s f).host.cqs = s.host.cqs ∧ (setErr s f).host.eqs = s.host.eqs ∧
    (setErr s f).host.mem = s.host.mem ∧ (setErr s f).host.kept = s.host.kept ∧ (setErr s f).host.routes = s.host.routes := by
  rcases setErr_cases s f with ⟨_, h⟩ | h | ⟨v, h⟩
  · rw [h]; exact ⟨fun _ _ => rfl, rfl, rfl, rfl, rfl, rfl, rfl⟩
  · rw [h]; exact ⟨fun p hp => reg_setFld_ne hp, rfl, rfl, rfl, rfl, rfl, rfl⟩
  · rw [h]
    rcases raiseVec_cases (setFld s f 1) v with g | g <;>
      (rw [g]; exact ⟨fun p hp => reg_setFld_ne (s := s) hp, rfl, rfl, rfl, rfl, rfl, rfl⟩)

/-- An error flag reads 1 once it was set. -/
theorem flag_setErr (h : RF.ok f) (w : f.hi = f.lo) : flag (setErr s f) f = true := by
  have e : flag (setFld s f 1) f = true := by
    rw [flag, fld_setFld_same h, w]; simp
  rcases setErr_cases s f with ⟨g, h⟩ | h | ⟨v, h⟩
  · rw [h]; exact g
  · rw [h]; exact e
  · rw [h]
    rcases raiseVec_cases (setFld s f 1) v with q | q <;> (rw [q]; exact e)

/-- A store with room takes the record at its end. -/
theorem eqPut_room (h : (eqAt s n).pend.length < 2048) : eqPut s n r = setEq s n { eqAt s n with pend := (eqAt s n).pend ++ [r] } := by
  rw [eqPut]; dsimp only; rw [if_pos h]

/-- A full store discards the record. -/
theorem eqPut_full (h : ¬ (eqAt s n).pend.length < 2048) : eqPut s n r =
    setErr (count1 (setEq s n { eqAt s n with overflow := true, discarded := satInc 32 (eqAt s n).discarded 1 })
      (Reg.HIF_EQ_LOST_COUNT n)) Reg.GLB_ERR_EQ_LOST := by
  rw [eqPut]; dsimp only; rw [if_neg h]

/-- An update of the rest leaves a counter field's register alone. -/
theorem reg_count1_ne {p : Nat} (h : p ≠ f.off) : reg (count1 s f) p = reg s p := reg_setFld_ne h

/-- Counting saturates. -/
theorem fld_countBy {k : Nat} (h : RF.ok f) : fld (countBy s f k) f = min (fld s f + k) (2 ^ (f.hi + 1 - f.lo) - 1) := by
  rw [countBy, fld_setFld_same h, Nat.mod_eq_of_lt]
  have : 0 < 2 ^ (f.hi + 1 - f.lo) := Nat.pow_pos (by decide)
  omega

/-- Draining changes at most HIF_STAT.STATE. -/
theorem drainCheck_cases (s : State) : drainCheck s = s ∨ drainCheck s = setFld s Reg.HIF_STAT_STATE 0 := by
  unfold drainCheck
  by_cases h : hifState s = 1 ∧ (!flag s Reg.HIF_CTRL_ENABLE) = true ∧ idle s = true
  · exact .inr (by rw [if_pos h])
  · exact .inl (by rw [if_neg h])

/-- An entry is kept in recovery, withheld, or held for its CQ. -/
theorem holdEntry_cases (s : State) (c : Cmd) (a : Answer) :
    (∃ k n, holdEntry s c a = { s with host := { s.host with kept := k, rcvAborted := n } }) ∨ holdEntry s c a = s ∨
      ∃ n q, holdEntry s c a = setCq s n q := by
  unfold holdEntry
  dsimp only
  by_cases h : hifState s = 2 ∨ hifState s = 3
  · exact .inl ⟨_, _, by rw [if_pos h]⟩
  · rw [if_neg h]
    by_cases g : c.noCompletion = true ∧ a.status ≤ 1
    · exact .inr (.inl (by rw [if_pos g]))
    · exact .inr (.inr ⟨_, _, by rw [if_neg g]⟩)

/-- A COMMAND_NOTIFY record is put into an event store, or none is. -/
theorem notifyDone_cases (s : State) (c : Cmd) (a : Answer) : notifyDone s c a = s ∨ ∃ n r, notifyDone s c a = eqPut s n r := by
  unfold notifyDone
  by_cases h : c.notify = true
  · exact .inr ⟨_, _, by rw [if_pos h]⟩
  · exact .inl (by rw [if_neg h])

/-- An intent that the window does not hold enters at its front. -/
theorem windowAdd_enters {w : List Intent} {c : Cmd} {a : Answer}
    (h : ¬(c.intent = 0 ∨ a.status = 0x21 ∨ a.status = 0x30 ∨ a.status = 0x31 ∨ w.any (fun i => i.id = c.intent))) :
    windowAdd w c a = { id := c.intent, opcode := c.opcode, ans := a } :: w.take 4095 := by
  have e : ∀ x : Intent, (x :: w).take 4096 = x :: w.take 4095 := fun _ => List.take_succ_cons
  rw [← e, windowAdd, if_neg h]

end Sys2Proof.Laws
end

