-- ==== Sys2Proof/Laws/Ring.lean ====
section
/-! SUPPORT. How a ring opcode runs once its command is ready: one law per way its work can end. -/

namespace Sys2Proof.Laws

open Sys2Proof.Machine

variable {s s' : State} {sq : Fin 16} {op : Nat} {c : Cmd} {a : Answer} {body : State → Cmd → Work}

theorem worst_clean {l : List Chk} (h : Clean l) : worst l = none := by
  induction l with
  | nil => rfl
  | cons k r ih =>
    unfold worst
    rw [ih fun x hx => h x (List.mem_cons_of_mem _ hx)]
    simp [h k (List.mem_cons_self ..)]

theorem checkOps_clean {l : List Chk} (h : Clean l) : checkOps l = .ok () := by simp [checkOps, worst_clean h]

theorem checkBuf_clean {k : Nat} {l : List Chk} (h : Clean l) : checkBuf k l = .ok () := by simp [checkBuf, worst_clean h]

/-- Rewrite a body's `do` with these two, never by unfolding `bind`: a comparison with a long time must not be evaluated. -/
theorem ok_bind {α β : Type} (x : α) (f : α → Except Stop β) : ((Except.ok x : Except Stop α) >>= f) = f x := rfl

theorem pure_ok {α : Type} (x : α) : (pure x : Except Stop α) = .ok x := rfl

theorem stopIf_false {b : Bool} (h : b = false) : stopIf b a = .ok () := by simp [stopIf, h]

theorem stopIf_true {b : Bool} (h : b = true) : stopIf b a = .error (.ans a) := by simp [stopIf, h]

theorem stopIf_not {p : Prop} [Decidable p] (h : ¬ p) : stopIf (decide p) a = .ok () := by simp [stopIf, h]

theorem readBuf_reachable {k : Nat} (h : Reachable s c k) : readBuf s c k = .ok (memRead s (c.bufAddr k) (c.bufLen k)) := by
  simp [readBuf, show memFails s (c.bufAddr k) (c.bufLen k) = false from h]

/-- An access inside one that does not fail does not fail. -/
theorem memFails_mono {a m n : Nat} (h : memFails s a n = false) (hm : m ≤ n) : memFails s a m = false := by
  unfold memFails at *
  by_cases h0 : 0 < m
  · have h1 : 0 < n := by omega
    simp only [h0, h1, decide_true, Bool.true_and, List.any_eq_false, Bool.and_eq_true, decide_eq_true_eq, not_and] at *
    intro r hr hlt
    exact h r hr (by omega)
  · simp [h0]

theorem writeBuf_reachable {k : Nat} {l : List Byte} (h : Reachable s c k) :
    writeBuf s c k l = .ok (memWrite s (c.bufAddr k) (l.take (c.bufLen k))) := by
  simp [writeBuf, memFails_mono h (Nat.min_le_left _ l.length)]

theorem pick_opcode (h : pick s sq op = some c) : c.opcode = op := by
  unfold pick at h
  have := List.find?_some h
  simp at this
  exact this.1

/-- The work is done at once: the command completes. -/
theorem runRing_done (h : Ready s sq op c) (hb : body s c = .ok (s', some a)) (hc : configOps.contains op = false) :
    runRing s sq op body = complete s' c a := by
  simp only [runRing, h.1, runCmd, h.2, hb, pick_opcode h.1, hc, Bool.false_eq_true, if_false]

/-- A configuration command is done (R444). -/
theorem runRing_config (h : Ready s sq op c) (hb : body s c = .ok (s', some a)) (hc : configOps.contains op = true) :
    runRing s sq op body = completeConfig s' c a := by
  simp only [runRing, h.1, runCmd, h.2, hb, pick_opcode h.1, hc, if_true]

/-- The command stays outstanding. -/
theorem runRing_waits (h : Ready s sq op c) (hb : body s c = .ok (s', none)) : runRing s sq op body = markStarted s' c := by
  simp only [runRing, h.1, runCmd, h.2, hb]

/-- The work ends early with a status. -/
theorem runRing_stops (h : Ready s sq op c) (hb : body s c = .error (.ans a)) : runRing s sq op body = complete s c a := by
  simp only [runRing, h.1, runCmd, h.2, hb]

/-- The work ends early with a status, in a state of its own. -/
theorem runRing_stopsIn (h : Ready s sq op c) (hb : body s c = .error (.ansIn s' a)) : runRing s sq op body = complete s' c a := by
  simp only [runRing, h.1, runCmd, h.2, hb]

/-- No command of the opcode may start. -/
theorem runRing_none (h : pick s sq op = none) : runRing s sq op body = s := by
  simp only [runRing, h]

end Sys2Proof.Laws
end

