-- ==== Sys2Proof/WellFormed.lean ====
section
/-! DEFINITION. What a command's carrier can deliver: bounds of its operands that their types do not give. The step does not
ask for it; an ill-formed operand names an event that the hardware cannot see. -/

namespace Sys2Proof

/-- A 32-bit word inside a space of `size` bytes. -/
def dwordIn (size off : Nat) : Bool := decide (off < size) && decide (off % 4 = 0)

/-- BAR0 has 128 KiB and BAR2 4 KiB, accessed as aligned 32-bit or 64-bit words (R37, R38). -/
def accessOk (a : HostAccess) : Bool :=
  dwordIn (if a.bar2 then 4096 else 131072) a.off && (a.second.isNone || decide (a.off % 8 = 0))

/-- Host memory has 64-bit addresses (R50). -/
def updateOk (u : HostUpdate) : Bool :=
  (u.writes.all fun w => decide (w.1 + w.2.length ≤ 2 ^ 64)) &&
    u.faulty.all fun r => decide (r.1 < r.2) && decide (r.2 ≤ 2 ^ 64)

/-- A PSDU has 3 to 2,047 octets, its FCS with it (R119); Tamin requests −10 dBm to +27 dBm (R115). -/
def airOk (r : AirFrame) : Bool :=
  decide (-40 ≤ r.power ∧ r.power ≤ 108) && decide (3 ≤ r.bytes.length + if r.fcs4 then 4 else 2) && decide (r.bytes.length + (if r.fcs4 then 4 else 2) ≤ 2047)

/-- The PHR gives at most 2,047 octets of PSDU, its FCS with it (R125). -/
def frameOk (e : FrameEnd) : Bool := decide (e.psdu.length ≤ 2047)

/-- AIN0 to AIN7 (R235). -/
def ainOk (conv : List Word) : Bool := decide (conv.length = 8)

/-- A sink's pin is sampled once (R341). -/
def pinsOk (pins : List (Fin 16 × Nat)) : Bool := decide (pins.map Prod.fst).Nodup

/-- A density of ones from 0 to 1, or a signed 24-bit code (R262). -/
def filterOk (x : FilterIn) : Bool :=
  match x with
  | .steady n k => decide (0 < k ∧ n ≤ k)
  | .code c => decide (-8388608 ≤ c) && decide (c < 8388608)

/-- 42 channels (R259). -/
def chansOk (chans : List ChanIn) : Bool :=
  decide (chans.length = 42) && chans.all fun c => filterOk c.rising && filterOk c.falling

/-- A temperature in 0.01 °C that 16 bits hold. -/
def tempOk (t : Int) : Bool := decide (-32768 ≤ t) && decide (t < 32768)

/-- One or two lanes at generation 1 to 3 (R35). -/
def linkOk (width gen : Nat) : Bool := [1, 2].contains width && decide (1 ≤ gen) && decide (gen ≤ 3)

/-- A Span message or mirror message has at most 1,500 bytes (R452). -/
def messageOk (l : List Byte) : Bool := decide (l.length ≤ 1500)

/-- 32,768 PUF cells, supplies in mV and the lid temperature (R406, R502). -/
def bootOk (b : Boot) : Bool :=
  decide (b.cells.log2 < 32768) && decide (b.vin < 65536) && decide (b.vbak < 65536) && tempOk b.lid

/-- A command that its carrier can deliver. -/
def Instr.wellFormed (i : Instr) : Bool :=
  match i with
  | .registerWrite a _ => accessOk a
  | .readClear a => accessOk a
  | .lockSet _ => true
  | .glbFenceRead => true
  | .configRequest q => dwordIn 4096 q.off
  | .msixConfigWrite w => match w with | .control _ _ => true | .table off _ => dwordIn 512 off
  | .perstAssert _ => true
  | .hotReset => true
  | .flr => true
  | .linkDown => true
  | .d3hotEntry => true
  | .d3hotExit => true
  | .aerFatal => true
  | .aerCorrectable => true
  | .recoveryHalted => true
  | .hifEnableWrite _ => true
  | .resume => true
  | .ringEnable _ _ => true
  | .sqTailDoorbell _ _ u => updateOk u
  | .cqHeadDoorbell _ _ => true
  | .eqHeadDoorbell _ _ => true
  | .descriptorFetch => true
  | .completionWrite _ => true
  | .eventRecordWrite _ => true
  | .coalesceTimeout _ => true
  | .rillQueueWrite _ _ _ => true
  | .hostPortDataRead _ => true
  | .hostPortFlush _ => true
  | .nop _ => true
  | .identify _ => true
  | .eventRoute _ => true
  | .intentForget _ => true
  | .statsRead _ => true
  | .moduleReset _ b => bootOk b
  | .timeSet _ => true
  | .timeAdjust _ => true
  | .leapSchedule _ => true
  | .localRuleSet _ => true
  | .timSrcWrite _ => true
  | .timSecLoRead => true
  | .timCalDateRead => true
  | .calendarStageWrite _ _ => true
  | .timCommitSet => true
  | .timCommitCalendar => true
  | .timCommitDiscard => true
  | .stepBoundary => true
  | .ptpSync _ _ _ => true
  | .ppsInEdge _ => true
  | .ptpSourceLost => true
  | .ppsWindowClose => true
  | .holdoverExpiry => true
  | .leapSlewStart => true
  | .leap => true
  | .ppsOutPulse => true
  | .alarmArm _ => true
  | .alarm _ => true
  | .wakeEnable _ => true
  | .wake _ => true
  | .radioProfileLoad _ => true
  | .profileSelect _ => true
  | .txTest _ => true
  | .txTestDone _ => true
  | .rxSurvey _ => true
  | .surveyDone v => decide (v.length ≤ 320)
  | .detection _ => true
  | .demodAssign => true
  | .detectionDrop => true
  | .noSfd _ => true
  | .demodRelease _ e => frameOk e
  | .rf24FrameRx e => frameOk e
  | .txStart _ r => airOk r
  | .txEnd _ => true
  | .dutyBucketClose => true
  | .joinReq => true
  | .dataUp => true
  | .relayUp => true
  | .resp => true
  | .t1Poll => true
  | .dedicatedDownlink => true
  | .joinAccept => true
  | .joinFailed => true
  | .endpointLost => true
  | .rooster => true
  | .ackAgg => true
  | .map => true
  | .mapActive => true
  | .mapOldWindowEnd => true
  | .foldCheckpoint => true
  | .foldAdmit _ => true
  | .foldRemove _ => true
  | .foldRead _ => true
  | .foldFind _ => true
  | .connSet _ => true
  | .mapSet _ => true
  | .dlSend _ => true
  | .rekey _ => true
  | .bcastRekey _ => true
  | .tickBoundary => true
  | .levelVector => true
  | .stepFired => true
  | .ambientStepFire => true
  | .commit_ => true
  | .commitDue => true
  | .commitDone => true
  | .commitEntryFree => true
  | .memberSet _ => true
  | .groupCfg _ => true
  | .scheduleProfileLoad _ => true
  | .exceptionSet _ => true
  | .sceneStore _ => true
  | .sceneRecall _ => true
  | .sceneRelease _ => true
  | .commitLevel _ => true
  | .commitCancel _ => true
  | .commitRead _ => true
  | .composeRead _ => true
  | .solarRead _ => true
  | .casVertexLoad _ => true
  | .casEdgeLoad _ => true
  | .casStageSync _ => true
  | .casGraphActivate _ => true
  | .casBorderSet _ => true
  | .casInject _ => true
  | .casDemandRead _ => true
  | .casGraphRead _ => true
  | .casClear _ => true
  | .borderDemand _ l => messageOk l
  | .slowSample conv late => ainOk conv && decide late.Nodup
  | .fastSample x late => ainOk x.conv && pinsOk x.pins && decide (x.vout < 65536) && decide late.Nodup
  | .weiLoopLoad _ => true
  | .weiLoopEnable _ => true
  | .weiCoefSet _ => true
  | .weiGroupSet _ => true
  | .weiInject _ => true
  | .weiInjectStop _ => true
  | .weiCaptureSet _ => true
  | .weiCaptureRead _ => true
  | .weiLoopRead _ => true
  | .weiCaptureStop _ => true
  | .basinSample chans => chansOk chans
  | .cycleEnd => true
  | .windowEnd => true
  | .tempUpdate conv => ainOk conv
  | .basinCommit => true
  | .channelStuck _ => true
  | .channelRecover _ => true
  | .intervalEnd => true
  | .intervalLenWrite _ => true
  | .reconciliationStart => true
  | .reconDone => true
  | .basTempTableLoad _ => true
  | .basValuesRead _ => true
  | .basEnergyRead _ => true
  | .basLanternSet _ => true
  | .basAllocRead _ => true
  | .basReconRead _ => true
  | .powerLossHoldEnd => true
  | .foldGraceEnd _ => true
  | .storm => true
  | .liveArchive => true
  | .auditFramWrite => true
  | .auditArchive => true
  | .cisLiveFseqRead => true
  | .cisAudOseqRead => true
  | .cisWinRead _ => true
  | .cisRead _ => true
  | .cisSnapPin _ => true
  | .cisSnapRead _ => true
  | .cisSnapRelease _ => true
  | .cisClearChallenge _ => true
  | .cisSecClear _ => true
  | .updOpen _ => true
  | .updPiece _ _ => true
  | .updVerify _ => true
  | .imageVerified => true
  | .updActivate _ => true
  | .updCancel _ => true
  | .updConfirm _ => true
  | .updErase _ => true
  | .activationDue b => bootOk b
  | .imageConfirmed => true
  | .healthWindowExpiry b => bootOk b
  | .updEpOffer _ => true
  | .updEpActivate _ => true
  | .updEpStop _ => true
  | .updEpStatus _ => true
  | .roundStart => true
  | .imageBlock => true
  | .epActivationDone => true
  | .superframe pins => pinsOk pins
  | .boostPeriod vsense _ _ => decide (vsense < 65536)
  | .openString _ => true
  | .ledShort _ => true
  | .overtemp _ t => tempOk t
  | .pinTest _ => true
  | .fixtureTempUpdate => true
  | .status _ _ => true
  | .ftnFixtureLoad _ => true
  | .ftnFixtureSet _ => true
  | .ftnChanSet _ => true
  | .ftnColorSet _ => true
  | .ftnJetLoad _ => true
  | .ftnJetStart _ => true
  | .ftnJetStop _ => true
  | .ftnJetEvent _ => true
  | .ftnFaultClear _ => true
  | .oxCycle conv _ _ => ainOk conv
  | .wdogOverrun conv _ => ainOk conv
  | .answer _ _ => true
  | .rioTimeout _ => true
  | .daliReceive _ _ => true
  | .dinLevelAccept _ _ => true
  | .oxLoad _ => true
  | .oxValidate _ => true
  | .oxSwitch _ => true
  | .oxStart _ => true
  | .oxStop _ => true
  | .oxForceSet _ => true
  | .oxForceClear _ => true
  | .oxRead _ => true
  | .oxWrite _ => true
  | .keyUpdate _ _ => true
  | .keyInfo _ => true
  | .keyCipher _ => true
  | .keyMac _ => true
  | .keySign _ => true
  | .keyVerify _ => true
  | .keyDerive _ => true
  | .keyRandom _ => true
  | .keyIdentity _ => true
  | .keyTkExport _ => true
  | .keyScrap _ _ => true
  | .otpRead _ => true
  | .pufClear => true
  | .leaseSend => true
  | .lease l => messageOk l
  | .actInEdge => true
  | .actInSilent => true
  | .actOwnLapse => true
  | .heartbeatMissing => true
  | .startWait => true
  | .fenced => true
  | .partnerLostReset b => bootOk b
  | .foldStream l => messageOk l
  | .oxStream l => messageOk l
  | .basStream l => messageOk l
  | .weiSlowStream l => messageOk l
  | .weiFastStream l => messageOk l
  | .cisStream l => messageOk l
  | .commitStream l => messageOk l
  | .cfgStream l => messageOk l
  | .syncReq l => messageOk l
  | .cfgAck l => messageOk l
  | .spanCopy l _ => messageOk l
  | .cfgAckTimeout => true
  | .syncGapTimeout => true
  | .bulkCopyDone => true
  | .parSwitch _ => true
  | .parResync _ => true
  | .helloSend => true
  | .hello _ f => messageOk f.bytes
  | .spanForward _ l => messageOk l
  | .handover _ l => messageOk l
  | .handoverAck _ l => messageOk l
  | .handoverTimeout => true
  | .handoverSupervisionEnd => true
  | .piecePart _ l _ => messageOk l
  | .piecePartSend => true
  | .activate _ l => messageOk l
  | .feederStateMsg _ l => messageOk l
  | .feederStateSend => true
  | .feederStateStale => true
  | .value _ l => messageOk l
  | .valuePublish => true
  | .fedRouteSet _ => true
  | .fedPeerSet _ => true
  | .fedValuePub _ => true
  | .fedFeederMap _ => true
  | .fedHandover _ => true
  | .fedPieceSend _ => true
  | .fedActSend _ => true
  | .tileFill t _ _ b => decide (t < 8388608) && bootOk b
  | .patrolRead _ b => bootOk b
  | .sramScrub _ _ b => bootOk b
  | .nandRefresh _ => true
  | .laneTest t _ => decide (t < 256)
  | .refCheck t _ => decide (t < 256)
  | .bstRun _ => true
  | .bstRecover _ => true
  | .bstTileRead _ => true
  | .testNAssert => true
  | .powerFailWarning w => decide (w.vin < 65536)
  | .brownOut => true
  | .vinDip b => bootOk b
  | .vinGood b => bootOk b
  | .rstN b => bootOk b
  | .watchdog b => bootOk b
  | .clockFault => true
  | .clockRecover b => bootOk b
  | .vbakLow mv => decide (mv < 65536)
  | .thermal t => tempOk t
  | .tamper _ => true
  | .pwrModeSet _ => true
  | .pwrDomainSet _ => true
  | .linkUp width gen => linkOk width gen
  | .bcastKeyActive => true
  | .channelDisabledWhileStuck _ => true
  | .leaseExpiry => true
  | .takeoverGuardEnd => true
  | .actInLapse => true
  | .holdOutEnd => true
  | .mirLink _ => true
  | .vbakGood mv => decide (mv < 65536)
  | .thermalClear t => tempOk t
  | .domainStateReached => true
  | .bstResult _ => true

end Sys2Proof
end

