-- ==== Sys2Proof/Tests/Slice0.lean ====
section
/-! SUPPORT. For every statement a state and operands that meet its hypotheses, an ill-formed operand for each check of
WellFormed, and the figures of the spec's own examples. -/

namespace Sys2Proof.Tests

open Sys2Proof Sys2Proof.Machine

section

set_option Elab.async false

/-! ### Small states -/

/-- The block after its start-up, with its host interface running and a root key. -/
def up : State :=
  { setFld (setFld State.reset Reg.HIF_STAT_STATE 1) Reg.KEY_STAT_ROOT 1 with pwr := { State.reset.pwr with phase := .on } }

/-- A descriptor of an opcode with fields given as offset, length and value. -/
def desc (op : Nat) (fs : List (Nat × Nat × Nat)) : List Byte :=
  fs.foldl (fun b f => b.take f.1 ++ leBytes f.2.1 f.2.2 ++ b.drop (f.1 + f.2.1)) (leBytes 2 op ++ List.replicate 62 0)

/-- The command of that descriptor, fetched from SQ 0. -/
def cmd (op : Nat) (fs : List (Nat × Nat × Nat)) : Cmd := { seq := 1, sq := 0, bytes := desc op fs, epoch := 0 }

/-- A state in which SQ 0 has fetched one command. -/
def ready (s : State) (c : Cmd) : State := setSq s 0 { sqAt s 0 with fetched := [c] }

/-- The fields of one buffer of `n` bytes at 0x1000, read (0) or written (1). -/
def buf (n dir : Nat) : List (Nat × Nat × Nat) := [(4, 1, 1), (40, 8, 0x1000), (48, 4, n), (52, 1, dir)]

/-- The fields of two buffers: `n` bytes to read at 0x1000 and `m` bytes to write at 0x9000. -/
def buf2 (n m : Nat) : List (Nat × Nat × Nat) :=
  [(4, 1, 2), (40, 8, 0x1000), (48, 4, n), (24, 8, 0x9000), (32, 4, m), (36, 1, 1)]

/-- Bytes in host memory at 0x1000. -/
def inMem (s : State) (l : List Byte) : State := memWrite s 0x1000 l

/-- Bytes with fields given as offset, length and value. -/
def fill (n : Nat) (fs : List (Nat × Nat × Nat)) : List Byte :=
  fs.foldl (fun b f => b.take f.1 ++ leBytes f.2.1 f.2.2 ++ b.drop (f.1 + f.2.1)) (List.replicate n 0)

/-- A state at a later elapsed time, and one at the unit at which module time comes to `n`. -/
def later (s : State) (n : Nat) : State := { s with el := n }
def atDt (s : State) (n : Nat) : State := { s with dt := n, time := { s.time with since := n } }

def ref0 : CmdRef := { seq := 1, sq := 0, tag := 7 }
def ev0 : EvRec := { code := 0x0204, epoch := 0, sq := 0, tag := 0, status := 0, dt := 5, payload := List.replicate 16 0, after := [] }
def held0 : Held := { cmd := ref0, epoch := 0, ans := ansDone }
def det0 : Det := { ch := 5, ant := 0, rssi := 90, at' := 0, inGrid := true }
def dem0 : Demod := { ch := 5, ant := 0, at' := 0 }
def frame0 : FrameEnd :=
  { mode := 1, modeSwitch := false, fec := none, fcs4 := false, fcsOk := true, rssi := 90, sfdAgo := 0, psdu := List.replicate 20 0 }
def resp0 : RespPend := { eph := 5, ch := 5, at' := 0, evf := 0, ack := true, fcnt := 0, tcorr := none }
def pend0 : MapPend := { index := 3, map := 0xFFFF, actDt := 0, ref := some ref0 }
def rec0 : CisRec := { cls := 2, kind := 9, source := 8, seq := 0, dt := 0, payload := [1, 2, 3, 4] }
def boot1 : BootRec := { slot := 1, prev := 0, tries := 1, win := 900, booted := true }
def spanning : State := setFld (setFld (setFld up Reg.FED_CTRL_EN 1) Reg.FED_ID_VALID 1) Reg.FED_ID_ID 5
def boot0 : Boot := { straps := 0, cells := 0, failed := [], vin := 48000, vbak := 3000, lid := 2500 }
/-- A Fold entry in place, and a state with one ACTIVE endpoint, 5, all channels in map 0. -/
def withEnt (s : State) (n : Nat) (e : FoldEntry) : State := macUpd s fun m => { m with fold := m.fold.set n e {} }
def allMap : State := macUpd up fun m => { m with maps := m.maps.set 0 (2 ^ 80 - 1) 0 }
def ent5 : FoldEntry := { eui := 5, state := 3, gen := 2, interval := 80, superv := 60 }
def act5 : State := withEnt allMap 5 ent5
def commit0 : CommitEnt := { id := 0, kind := 0, group := 0, all := false, policy := 0, body := [0, 0, 0, 0], actDt := 655360, addressed := 0, ref := none }
/-- A loop descriptor of one section and one region, as WEI_LOOP_LOAD reads it, its rate and PV source given. -/
def loopBytes (rate pv : Nat) : List Byte := fill 100 [(0, 1, 1), (1, 1, 1), (4, 2, rate), (8, 4, pv)]
def loop0 : LoopDesc := LoopDesc.ofBytes (loopBytes 1 0x02000000)
/-- Loop n loaded, and loop n running. -/
def loaded (n : Nat) : State := setLoop up n { desc := some loop0 }
def looping (n : Nat) : State := setLoop up n { desc := some loop0, en := true, secs := [{}] }
def slot2 : UpdSlot := { state := 2, total := 4096, image := 9, pieces := [(0, fill 512 [(26, 1, 1), (27, 1, 8)])] }
/-- A module slot and a campaign in place. -/
def withSlot (n : Nat) (x : UpdSlot) : State := updUpd up fun u => { u with slots := u.slots.set n x {} }
def withCamp (s : State) (c : Campaign) : State := updUpd s fun u => { u with camps := u.camps.set 0 c {} }
def recon0 : Recon := { feeder := 5, payload := List.replicate 68 1, vec := [List.replicate 16 2], flags := 0, estimated := 0, start := 0 }
def jet0 : JetProg := { tkind := 0, first := 1, count := 0, auto := false, steps := [] }
/-- A state whose output drive and port engines run, sink 3 lit. -/
def lit : State :=
  ftnUpd (setFld (setFld (setFld up Reg.FTN_CTRL_EN 1) (Reg.FTN_SINK_CFG_EN 3) 1) (Reg.FTN_SINK_CFG_EN 4) 1)
    fun f => { f with latched := f.latched.set 65539 (9, 1, 0) (0, 0, 0), outputsOn := true }
/-- A program of one END instruction, with one symbol, one RIO entry on port 1 at address 3, and the state that runs it. -/
def imgBody : List Byte :=
  fill 152 [(0, 4, 0x4750584F), (4, 1, 1), (8, 4, 77), (16, 2, 10), (18, 2, 1000), (24, 4, 128), (28, 4, 1), (32, 4, 132), (36, 2, 1),
    (40, 4, 144), (48, 4, 144), (56, 4, 144), (64, 4, 144), (68, 1, 1), (72, 1, 1), (73, 1, 1), (74, 1, 20), (75, 1, 20), (76, 4, 152),
    (128, 4, 0xA4000000), (132, 4, 9), (138, 2, 2), (144, 1, 1), (145, 1, 3), (146, 1, 1), (147, 1, 1), (148, 1, 16), (149, 1, 16)]
def image0 : List Byte :=
  fill 132 [(0, 4, 0x4750584F), (4, 1, 1), (8, 4, 77), (16, 2, 10), (18, 2, 1000), (24, 4, 128), (28, 4, 1), (32, 4, 132), (40, 4, 132),
    (48, 4, 132), (56, 4, 132), (64, 4, 132), (74, 1, 20), (75, 1, 20), (76, 4, 132), (80, 4, 1112909819), (128, 4, 0xA4000000)]
def oxLoaded (status : Nat) : State := oxUpd up fun o => { o with banks := [(1, { bytes := image0, status := status })] }
def oxRunning : State := setFld (oxUpd up fun o => { o with banks := [(0, { bytes := imgBody, status := 2 })], hasProg := true }) Reg.OX_STAT_STATE 2
/-- A Span message to module 5 from module 7, and a mirror message. -/
def msg0 (m : Nat) : SpanMsg := { msg := m, src := 7, dst := 5, bcast := false, ttl := 9, seq := 3, body := [1, 2, 3, 4] }
def mirMsg (m : Nat) (body : List Byte) : SpanMsg := { msg := m, src := 5, dst := 5, bcast := false, ttl := 1, seq := 3, body := body }
/-- A key of an attribute word in slot 0. -/
def keyed (attr : Nat) : State := keyUpd (setFld up Reg.KEY_SQ_WORLD_SECURE 0) fun k => { k with slots := [(0, { attr := attr, share := [1, 2], mask := [0, 0] })] }
def keyBytes : List Byte := fill 300 [(24, 4, 1), (0, 4, 0x554B5244), (4, 1, 1), (5, 1, 1)]
def rx0 (ftype : Nat) : RxFrame :=
  { bytes := leBytes 1 (ftype + 32) ++ List.replicate 13 0 ++ List.replicate 25 0, ch := 5, mode := 0, ant := 0, fec := none, rssi := 90, t25 := 0 }
def hears0 (ftype : Nat) : State := setFld (radUpd up fun r => { r with rxq := [rx0 ftype] }) Reg.MAC_CTRL_T2_EN 1
def upHead0 (ftype : Nat) : UpHead := (upHead (rx0 ftype).bytes).getD ⟨0, 0, 0, false, 0, 0, 0, [], []⟩
def win0 (kind : Nat) : Win := { tag := 0, sp := 1, ch := 5, mode := 1, kind := kind, count := 1, id := 3 }
def job0 : PieceJob := { slot := 16, bcast := true, dst := 0, next := 0, left := 1, sent := 0, ref := none }
def plan0 : DlPlan := { eph := 5, sp := 1, ch := 5, mode := 1 }
def join0 : JoinPlan := { sp := 1, ch := 5, mode := 1, jn := 0, anchor := 0, former := 0 }
def tested (t : Nat) : State := bstUpd up fun b => { b with tests := [{ target := t, ref := ref0, recover := false, since := 0 }] }
def test0 : BstTest := { target := 3, ref := ref0, recover := false, since := 0 }
/-- Channel 0 lies 200 kHz above the lower end of the part's range. -/
def tuned (s : State) : State := { s with regs := s.regs.ins Reg.RAD_WIN_CH0_KHZ.off (BitVec.ofNat 32 (Config.range.1 + 200)) }
def loadB : List Byte := loopBytes 1 0x02000000
def loadC : Cmd := cmd 0x0700 (buf 100 0 ++ [(16, 2, 7)])
def loadS : State := ready (inMem up loadB) loadC
def sub0 : SubBand := { lo := 862000, hi := 928000, pwr := 0, duty := 0xFFFF, dwellMs := 0, dwellWin := 0, rxOnly := false }
def testC : Cmd := cmd 0x0302 [(20, 2, 5), (24, 4, 1)]
def testS : State :=
  ready (setFld (setFld (radUpd (tuned up) fun r => { r with custom := { minHop := 0, subs := [sub0] } }) Reg.RAD_STAT_PROFILE 2)
    (Reg.RAD_TXMASK_MASK 0) 32) testC
/-- The slot starts of channel 5 in the slot periods 1 and 8 (12.5 ms each and 7,812.5 µs into them), and that of channels 0 to 79 for
T1 and T2 in slot period 1. -/
def slotDt1 : Nat := 1332
def slotDt8 : Nat := 7066
def slotDtT2 : Nat := 820
def imgWin0 : ImgWin := { sp := 1, ch := 5, blocks := [1], next := 0 }
/-- An activation of slot B that is due. -/
def act0 : ActSched := { slot := 1, actDt := 0 }
def activating : State := setFld (updUpd up fun u => { u with act := some act0 }) Reg.PWR_STAT_STEP 9

/-! ### The statements about the step, the rings and single rules: a state for each hypothesis, clause by clause -/

theorem witness_StepTakesFront : ({ up with pending := [.linkDown] } : State).pending = .linkDown :: [] ∧ up.pending = [] := by
  decide +kernel

theorem witness_StepKeepsInvariant : State.reset.Inv ∧ ∃ t, step State.reset = .next t :=
  ⟨⟨by decide +kernel, by decide +kernel, by decide +kernel⟩, _, rfl⟩

/-- A part with bit 0 of OTP byte 0 burned. -/
def burnt : State := keyUpd up fun k => { k with burned := [(0, 1)] }

theorem witness_OtpBitsOnlyRise : (∃ t, step burnt = .next t) ∧ (otpByte burnt 0).getLsbD 0 = true := by
  have h : (burnt.key.burned.get 0 0).getLsbD 0 = true := by decide +kernel
  exact ⟨⟨_, rfl⟩, by unfold otpByte; rw [BitVec.getLsbD_or, h, Bool.or_true]⟩

theorem witness_SvnFloorNeverFalls : ∃ t, step up = .next t := ⟨_, rfl⟩

theorem witness_QueueAndElapsedTime : ∃ t, step { up with pending := [.linkDown] } = .next t := ⟨_, rfl⟩

/-- Recovery with CQ 0 and EQ 0 enabled, each of 16 entries with two written. -/
def recov : State :=
  setFld (setFld (setFld (setFld (setFld (setFld (setFld up Reg.HIF_STAT_STATE 2) (Reg.HIF_CQ_CFG_ENABLE 0) 1) (Reg.HIF_CQ_CFG_SIZE_LOG2 0) 4)
    (Reg.HIF_CQ_WR_INDEX 0) 2) (Reg.HIF_EQ_CFG_ENABLE 0) 1) (Reg.HIF_EQ_CFG_SIZE_LOG2 0) 4) (Reg.HIF_EQ_WR_INDEX 0) 2

theorem witness_DoorbellsOfStoppedRings :
    flag (hostActs up {}) (Reg.HIF_SQ_CFG_ENABLE 0) = false ∧ hifState (hostActs recov {}) = 2 ∧
    flag up (Reg.HIF_CQ_CFG_ENABLE 0) = false ∧ flag up (Reg.HIF_EQ_CFG_ENABLE 0) = false ∧
    (hifState recov = 2 ∧ flag recov (Reg.HIF_CQ_CFG_ENABLE 0) = true ∧ (2 : Word).toNat < 65536 ∧
      headValid (cqSize recov 0) (cqAt recov 0).head (fld recov (Reg.HIF_CQ_WR_INDEX 0)) (2 : Word).toNat = true) ∧
    hifState recov = 2 ∧ flag recov (Reg.HIF_EQ_CFG_ENABLE 0) = true ∧
      headValid (eqSize recov 0) (eqAt recov 0).head (fld recov (Reg.HIF_EQ_WR_INDEX 0)) (2 : Word).toNat = true := by
  decide +kernel

/-- SQ 0 may send no group, and holds a TIME_SET or STATS_READ. -/
def barred (op : Nat) : State := ready (setFld up (Reg.HIF_SQ_PERM_GROUPS 0) 0) (cmd op [])

theorem witness_RingCommandOutcome :
    up.host.resetFor = none ∧ ringOf (.timeSet 0) = some (0, 0x0200) ∧ pick up 0 0x0200 = none ∧ pick (barred 0x0200) 0 0x0200 = some (cmd 0x0200 []) ∧
    judge (barred 0x0200) (cmd 0x0200 []) = some (ansDenied 0x0001) := by
  decide +kernel

theorem witness_GroupPermission :
    (∀ op ∈ [0x0200, 0x0104], let c := cmd op []
      priorOutcome (barred op) c = none ∧ Clean (layoutChks c) ∧ opcodeDefined c.opcode = true ∧
      bit (reg (barred op) (Reg.HIF_SQ_PERM_GROUPS c.sq).off).toNat c.group = false) ∧
    (cmd 0x0200 []).group ≠ 1 ∧ (cmd 0x0104 []).group = 1 ∧ (cmd 0x0104 []).opcode ≠ 0x0100 ∧ (cmd 0x0104 []).opcode ≠ 0x0101 ∧
    bit (reg up (Reg.HIF_SQ_PERM_GROUPS 0).off).toNat (cmd 0x0200 []).group = true ∧
    Clean (layoutChks (cmd 0x0100 [])) ∧ (cmd 0x0100 []).opcode = 0x0100 ∧ domState (barred 0x0100) 2 = 2 := by
  decide +kernel

theorem witness_IntentWindowEntry : let c := cmd 0x0100 [(8, 8, 77)]
    (c.intent ≠ 0 ∧ ansDone.status ≠ 0x21 ∧ ansDone.status ≠ 0x30 ∧ ansDone.status ≠ 0x31 ∧
      ∀ i ∈ (sqAt up c.sq).window, i.id ≠ c.intent) ∧
    (cmd 0x0100 []).intent = 0 ∧ 1 ≠ c.sq ∧
    (let d := { c with seq := 2 }
     d ∈ (sqAt (setSq up 0 { fetched := [c, d] }) c.sq).fetched ∧ d.sq = c.sq ∧ d.intent = c.intent ∧ c.seq < d.seq ∧
      d.started = false ∧ d.dup = none) := by
  decide +kernel

/-- Host port 0 with one entry. -/
def ported : State := hostUpd up fun h => { h with ports := h.ports.set 0 { wr := 1, entries := [(0, 5)] } {} }

theorem witness_HostPortRead : let k := fld ported (Reg.RIL_HP_CFG_DEPTH_LOG2 0)
    (ported.host.ports.get 0 {}).fill k ≠ 0 ∧ (up.host.ports.get 0 {}).fill (fld up (Reg.RIL_HP_CFG_DEPTH_LOG2 0)) = 0 := by
  decide +kernel

theorem witness_RillSameCycle : let k := Config.rillDepth 0
    let q : RillSt := { wr := 1 }
    q.wr < 2 * 2 ^ k ∧ q.rd < 2 * 2 ^ k ∧ q.fill k ≤ 2 ^ k ∧ q.fill k ≠ 0 := by
  have h : 0 < 2 ^ Config.rillDepth 0 := Nat.pow_pos (by decide)
  simp only [RillSt.fill]
  have e : (1 + 2 * 2 ^ Config.rillDepth 0 - 0) % (2 * 2 ^ Config.rillDepth 0) = 1 := by
    rw [Nat.sub_zero, Nat.add_mod_right, Nat.mod_eq_of_lt (by omega)]
  omega

theorem witness_RillFillBound : let q : RillSt := { wr := 4 }
    q.wr < 2 * 2 ^ 2 ∧ q.rd < 2 * 2 ^ 2 ∧ q.fill 2 = 2 ^ 2 := by
  decide +kernel

/-- EQ 0 enabled and RUNNING with one record to write, and its store full. -/
def oneEvent : State :=
  setEq (setFld (setFld (setFld up Reg.HIF_STAT_STATE 1) (Reg.HIF_EQ_CFG_ENABLE 0) 1) (Reg.HIF_EQ_CFG_SIZE_LOG2 0) 4) 0
    { eqAt up 0 with pend := [ev0] }
def fullStore : State := setEq up 0 { eqAt up 0 with pend := List.replicate 2048 ev0 }

theorem witness_EqPendingStore :
    (eqAt up 0).pend.length < 2048 ∧ 2048 ≤ (eqAt fullStore 0).pend.length ∧ eqFree up 0 = false ∧
    (eqAt oneEvent 0).pend = ev0 :: [] ∧ hifState oneEvent = 1 ∧ eqFree oneEvent 0 = true ∧ released oneEvent ev0 = true ∧
    memFails oneEvent (eqBase oneEvent 0 + 32 * fld oneEvent (Reg.HIF_EQ_WR_INDEX 0)) 32 = false := by
  exact ⟨by decide +kernel, Nat.le_of_eq List.length_replicate.symm, by decide +kernel⟩

theorem witness_EventsOfDisabledGroups :
    ((hostUpd up fun h => { h with routes := h.routes.set 3 { eq := 1, enable := false } {} }).host.routes.get (0x0301 / 256) {}).enable = false ∧
    (up.host.routes.get (0x0301 / 256) {}).enable = true ∧ (eqAt up (up.host.routes.get (0x0301 / 256) {}).eq).pend.length < 2048 := by
  decide +kernel

/-- An INTENT_FORGET of SQ 1, which holds a command. -/
def forget : State := setSq (ready up (cmd 0x0103 [(16, 1, 1)])) 1 { fetched := [{ cmd 0x0100 [] with seq := 2, sq := 1 }] }
/-- A MODULE_RESET, and the module whose power-fail warning is latched and whose commit is still running. -/
def resetCmd (confirm : Nat) : Cmd := cmd 0x0105 [(16, 4, confirm)]
def failing : State :=
  setFld { up with pwr := { up.pwr with pfRec := some { dt := 0, us := 1000, done := false }, pfAt := 1 } } Reg.PWR_STAT_PF 1

theorem witness_AdminBadStates :
    (let c := cmd 0x0103 [(16, 1, 1)]
     Ready forget 0 0x0103 c ∧ Clean (opChks c [(16, 1)] [] ++ [rsvChk (decide (15 < c.op 16 1)) 16]) ∧
      ∃ x ∈ (sqAt forget (c.op 16 1 % 16)).fetched, x.seq ≠ c.seq) ∧
    (let c := resetCmd 1
     let s := ready up c
     Ready s 0 0x0105 c ∧ s.host.resetFor = none ∧ Clean (opChks c [(16, 4)] []) ∧ c.op 16 4 ≠ 0xD2640A5E) ∧
    (let c := resetCmd 0xD2640A5E
     let s := ready failing c
     Ready s 0 0x0105 c ∧ s.host.resetFor = none ∧ Clean (opChks c [(16, 4)] []) ∧ c.op 16 4 = 0xD2640A5E ∧ committing s = true) ∧
    (match bodyNop up (cmd 0x0100 [(32, 1, 1)]) with | .error (.ans a) => decide (a.status = 0x11) | _ => false) = true ∧
    (match bodyNop up (cmd 0x0100 [(16, 8, 9)]) with | .ok (_, some a) => decide (a.result = 9) | _ => false) = true := by
  decide +kernel

theorem witness_HopStaysInMap : (1 : Nat) < 2 ^ 32 ∧ (0 : Nat) < 2 ^ 16 ∧ ∃ c, c < 80 ∧ bit (2 ^ 79) c = true :=
  ⟨by decide, by decide, 79, by decide, by decide +kernel⟩

theorem witness_CompleteFrame : (3 : Fin 16) ≠ (cmd 0x0100 []).sq ∧ Reg.TIM_CTRL_PPS_WIDTH.off ≠ Reg.HIF_STAT_STATE.off ∧
    Reg.TIM_CTRL_PPS_WIDTH.off ≠ Reg.GLB_ERR_EQ_LOST.off ∧ ∀ n : Fin 4, Reg.TIM_CTRL_PPS_WIDTH.off ≠ (Reg.HIF_EQ_LOST_COUNT n).off := by
  decide +kernel

/-- CQ 0 with one entry to write. -/
def oneHeld : State := setCq recov 0 { cqAt recov 0 with held := [held0] }

theorem witness_EntryWriteFrame :
    ((∃ t, exec (.completionWrite 0) up = .next t) ∧ (cqAt up 0).held = []) ∧
    ((∃ t, exec (.completionWrite 0) oneHeld = .next t) ∧
      ∀ k < 16, 0x9000 % 2 ^ 64 ≠ (cqBase oneHeld 0 + 16 * fld oneHeld (Reg.HIF_CQ_WR_INDEX 0) + k) % 2 ^ 64) ∧
    ((∃ t, exec (.eventRecordWrite 0) up = .next t) ∧ (eqAt up 0).pend = []) ∧
    (∃ t, exec (.eventRecordWrite 0) oneEvent = .next t) ∧
      ∀ k < 32, 0x9000 % 2 ^ 64 ≠ (eqBase oneEvent 0 + 32 * fld oneEvent (Reg.HIF_EQ_WR_INDEX 0) + k) % 2 ^ 64 :=
  ⟨⟨⟨_, rfl⟩, by decide +kernel⟩, ⟨⟨_, rfl⟩, by decide +kernel⟩, ⟨⟨_, rfl⟩, by decide +kernel⟩, ⟨_, rfl⟩, by decide +kernel⟩

/-- The register of an RWL field with its block locked. -/
def sealedAt (f : RF) : Bool :=
  match cardAt f.off with
  | some (c, _) => locked (setFld up (lockFld f.off) 1) f.off && c.fields.any fun x => decide (x.acc = .rwl ∧ x.lo = f.lo)
  | none => false

/-- A register that has a field of an access code. -/
def accessAt (off : Nat) (a : Acc) : Bool :=
  match cardAt off with
  | some (c, _) => c.fields.any fun f => decide (f.acc = a)
  | none => false

/-- A register whose write only stores, in a domain that is ON. -/
def plainAt (s : State) (off : Nat) : Bool :=
  match cardAt off with
  | some (c, n) => decide (domState s (domIndex c.dom) = 2) && (dropWrite s c.base n 600).isNone &&
      !([0x1000, 0x1008, 0x1108, 0x1308, 0x1508, 0x2200, 0x2204, 0x3000, 0x3028, 0x302C, 0x3038, 0x3108, 0x3204, 0xA00C, 0xD104, 0xD200,
        0x10000].contains c.base)
  | none => false

theorem witness_RegisterWriteByAccess :
    ([(Reg.TIM_CTRL_PPS_WIDTH.off, Acc.rw), (Reg.CAS_CFG_MIN_DEMAND.off, .rwl), (Reg.GLB_ERR_EQ_LOST.off, .w1c), (0x1010, .w1s), (Reg.GLB_ID_PART.off, .ro),
      (0x3038, .wo), (0x1510, .rc)].all fun x => accessAt x.1 x.2) = true ∧
    (sealedAt Reg.CAS_CFG_MIN_DEMAND = true ∧ sealedAt (Reg.HIF_SQ_PERM_GROUPS 15) = true) ∧
    plainAt up Reg.CAS_CFG_MIN_DEMAND.off = true ∧ plainAt up Reg.STR_COMMIT_LEAD.off = true := by
  decide +kernel

/-- A detection that waits, 1 ms later. -/
def waited : State := later (radUpd up fun r => { r with waiting := [det0] }) 66

theorem witness_DetectionDropped :
    (up.rad.waiting.filter fun d => passedMs up d.at' 1) = [] ∧ (waited.rad.waiting.filter fun d => passedMs waited d.at' 1) ≠ [] := by
  decide +kernel

/-- A standby whose grant is 20 ms old, with ACT_IN. -/
def leased (act : Nat) : State :=
  later (pairUpd (setFld (setFld up Reg.PAR_STAT_ROLE 3) Reg.PAR_STAT_ACT_IN act) fun p => { p with leaseGrant := some 0, mirDownSaid := false }) 1311

theorem witness_LeaseExpiresWithActIn :
    (role (leased 1) = 3 ∧ since (leased 1) (leased 1).pair.leaseGrant 20000 = true ∧ flag (leased 1) Reg.PAR_STAT_ACT_IN = true ∧
      (leased 1).pair.mirDownSaid = false) ∧
    role up ≠ 3 ∧ since up up.pair.leaseGrant 20000 = false ∧ flag (leased 0) Reg.PAR_STAT_ACT_IN = false ∧
    (pairUpd (leased 1) fun p => { p with mirDownSaid := true }).pair.mirDownSaid = true := by
  decide +kernel

/-- An UPD_OPEN of slot 0 for image 9 of 4,096 bytes, in a state where the slot holds x. -/
def openCmd : Cmd := cmd 0x0A00 [(20, 4, 4096), (24, 4, 9)]
def opening (x : UpdSlot) : State := ready (updUpd up fun u => { u with slots := u.slots.set 0 x {} }) openCmd

theorem witness_UpdOpenKeepsOrClears :
    (∀ x ∈ [({ state := 1, total := 4096, image := 9 } : UpdSlot), { state := 2, total := 4096, image := 9 }],
      Ready (opening x) 0 0x0A00 openCmd ∧ slotHeld (opening x) 0 = false ∧ campBusy (opening x) 0 = false) ∧
    slotNum (openCmd.op 16 1) = some 0 ∧
    Clean (opChks openCmd [(16, 1), (20, 8)] [] ++
      [rangeChk (decide (openCmd.op 20 4 ≤ 512 ∨ slotSize 0 < openCmd.op 20 4)) 20, rangeChk (decide (openCmd.op 24 4 = 0)) 24]) ∧
    (slotOf (opening { state := 1, total := 4096, image := 9 }) 0).state = 1 ∧
    (slotOf (opening { state := 2, total := 4096, image := 9 }) 0).state ≠ 1 := by
  decide +kernel

/-! ### Where commands complete: the hypotheses of every clause -/

theorem opaque_RADIO_PROFILE_LOAD : (let s : State := ready (inMem up (fill 32 [(0, 1, 1), (16, 4, Config.range.1), (20, 4, Config.range.2)])) (cmd 0x0300 (buf 32 0))
let sq : Fin 16 := 0
let c : Cmd := cmd 0x0300 (buf 32 0)
(Ready s sq 0x0300 c) ∧
(Clean (opChks c [] [(0, 16)])) ∧
(Reachable s c 0) ∧
(let b := memRead s (c.bufAddr 0) (c.bufLen 0)
let n := fieldLE b 0 1
(Clean [⟨decide (1 ≤ n ∧ n ≤ 16 ∧ c.bufLen 0 < 16 + 16 * n), 40, 0x04⟩]) ∧
(let subs := (List.range (min n 16)).map fun i => subBandOf b (16 * (i + 1))
(Clean ([rangeChk (decide (n < 1 ∨ 16 < n)) 0, rangeChk (decide (80 < fieldLE b 1 1)) 1] ++
  (match firstNonZero b 2 14 with | some o => [rsvChk true o] | none => []) ++
  (List.range (min n 16)).flatMap fun i => subBandChks b i (subs.take i))) ∧
(decide (fld s Reg.RAD_STAT_PROFILE = 2) && (flag s Reg.RAD_CTRL_TXA_EN || flag s Reg.RAD_CTRL_TXB_EN)) = false))) := by
  delta testS tuned txAdmit hopCount txChannel detectorRuns detectorOn inBand subBandChks Config.range
  generalize Config.band = b
  cases b <;> decide +kernel

theorem opaque_GROUP_CFG : (let s : State := ready (tuned up) (cmd 0x0501 ([(16, 2, 3), (18, 2, 9), (22, 2, 8), (24, 2, 7), (26, 1, 5), (28, 8, 131072)]))
let sq : Fin 16 := 0
let c : Cmd := cmd 0x0501 ([(16, 2, 3), (18, 2, 9), (22, 2, 8), (24, 2, 7), (26, 1, 5), (28, 8, 131072)])
(Ready s sq 0x0501 c) ∧
(let g := c.op 16 2
let pr := c.op 18 2
let per := c.op 22 2
let ph := c.op 24 2
let ch := c.op 26 1
let t := c.op 28 8
(Clean (opChks c [(16, 11), (28, 8)] [] ++
  [rangeChk (decide (1023 < pr ∧ pr ≠ 0xFFFF)) 18, rangeChk (decide (0 < per ∧ per < 8)) 22,
   rangeChk (decide (max per 1 ≤ ph)) 24, rangeChk (decide (79 < ch) || !inBand s ch false) 26, dtChk c 28])) ∧
(let old := groupAt s g
let changes := decide (old.period ≠ per ∨ old.phase ≠ ph ∨ old.channel ≠ ch)
(changes = true → timingPending s g = false ∧ s.dt + 2 * 65536 ≤ t ∧ commitRoom s 1 = true)))) := by
  delta testS tuned txAdmit hopCount txChannel detectorRuns detectorOn inBand subBandChks Config.range
  generalize Config.band = b
  cases b <;> decide +kernel

theorem opaque_DETECTION : (let s : State := setFld (setFld (tuned up) Reg.RAD_CTRL_RX_EN 1) (Reg.RAD_RXMASK_MASK 0) 32
let d : Signal := { ch := 5, mode := 1, octets := 8, overDb := 255, antA := true, antB := true, bStronger := false, rssi := 90 }
let a : Nat := 2
let c : Nat := d.ch
((detectorRuns s c && (paired s c == decide (d.mode.val = 2)) && !suppressed s c &&
  decide (fld s Reg.RAD_DET_MIN_PRE ≤ d.octets ∧ fld s Reg.RAD_DET_THR ≤ d.overDb)) = true) ∧
divAnt s { d with antA := d.antA && pathOn s 0, antB := d.antB && pathOn s 1 } = some a) := by
  delta testS tuned txAdmit hopCount txChannel detectorRuns detectorOn inBand subBandChks Config.range
  generalize Config.band = b
  cases b <;> decide +kernel

theorem opaque_MAP_SET : (let s : State := ready (tuned up) (cmd 0x0405 ([(16, 1, 3), (18, 8, 0xFFFF), (28, 8, 3932160)]))
let sq : Fin 16 := 0
let c : Cmd := cmd 0x0405 ([(16, 1, 3), (18, 8, 0xFFFF), (28, 8, 3932160)])
(Ready s sq 0x0405 c) ∧
(let i := c.op 16 1
let m := c.op 18 10
let t := c.op 28 8
(Clean (opChks c [(16, 1), (18, 18)] [] ++
  [rangeChk (smallMap m || (mapChans m).any fun k => !inBand s k false) 18, dtChk c 28])) ∧
(s.dt + 60 * 65536 ≤ t) ∧
(s.mac.mapPend.any fun p => p.index = i) = false)) := by
  delta testS tuned txAdmit hopCount txChannel detectorRuns detectorOn inBand subBandChks Config.range
  generalize Config.band = b
  cases b <;> decide +kernel

theorem opaque_TX_TEST : (Ready testS 0 0x0302 testC ∧ Clean (opChks testC [(16, 3), (20, 3), (24, 4)] [] ++
  [rangeChk (decide (1 < testC.op 16 1)) 16, rangeChk (decide (1 < testC.op 17 1)) 17, rangeChk (decide (2 < testC.op 18 1)) 18,
   rangeChk (decide (79 < testC.op 20 2 ∨ (testC.op 18 1 = 2 ∧ testC.op 20 2 % 2 = 1))) 20,
   rangeChk (decide (toSigned 8 (testC.op 22 1) < -40 ∨ 108 < toSigned 8 (testC.op 22 1))) 22,
   rangeChk (decide (testC.op 24 4 < 1 ∨ 60000 < testC.op 24 4)) 24]) ∧
  flag testS Reg.RAD_CTRL_TXA_EN = false ∧ (chainAt testS 0).busy = false ∧
  (match txAdmit testS 0 5 false .test 1000 with | .ok (i, x) => decide (i = 0 ∧ x = sub0) | .error _ => false) = true) := by
  delta testS tuned txAdmit hopCount txChannel detectorRuns detectorOn inBand subBandChks Config.range
  generalize Config.band = b
  cases b <;> decide +kernel

/-- The hypotheses of each clause of HostAccessComplete are met, clause by clause: LOCK_SET, RILL_QUEUE_WRITE. -/
theorem witness_HostAccessComplete :
    (let s : State := up
let w : LockSel := .hif
domState s (lockDom w) = 2) ∧
    (flag up (Reg.RIL_HP_CFG_ENABLE 0) = false ∧ flag (setFld up (Reg.RIL_HP_CFG_ENABLE 7) 1) (Reg.RIL_HP_CFG_ENABLE 7) = true) := by
  iterate 1 refine ⟨by decide +kernel, ?_⟩
  decide +kernel

/-- The hypotheses of each clause of LinkComplete are met, clause by clause: CONFIG_REQUEST, MSIX_CONFIG_WRITE, AER_FATAL, AER_CORRECTABLE. -/
theorem witness_LinkComplete :
    (passedMs (later up 65536) (later up 65536).host.link.perstRelease 100 = true ∧ passedMs up up.host.link.perstRelease 100 = false) ∧
    (cfgReady (later up 65536) = true ∧ cfgReady up = false) ∧
    (aerBits up true ≠ [] ∧ aerBits (linkUpd up fun l => { l with aer := { l.aer with sev := 0 } }) true = []) ∧
    (aerBits up false ≠ [] ∧ aerBits (linkUpd up fun l => { l with aer := { l.aer with sev := 4294967295 } }) false = []) := by
  iterate 3 refine ⟨by decide +kernel, ?_⟩
  decide +kernel

/-- The hypotheses of each clause of InterfaceComplete are met, clause by clause: RECOVERY_HALTED, HIF_ENABLE_WRITE, RESUME, SQ_TAIL_DOORBELL, CQ_HEAD_DOORBELL, EQ_HEAD_DOORBELL, DESCRIPTOR_FETCH, COMPLETION_WRITE, EVENT_RECORD_WRITE, COALESCE_TIMEOUT. -/
theorem witness_InterfaceComplete :
    (let s : State := setFld up Reg.HIF_STAT_STATE 2
(hifState s = 2) ∧
(allFetched s).isEmpty = true) ∧
    ((flag (setFld up Reg.HIF_STAT_READY 1) Reg.HIF_STAT_READY = true)) ∧
    (let s : State := setFld up Reg.HIF_STAT_STATE 3
(hifState s = 2 ∨ hifState s = 3)) ∧
    (let s : State := setFld (setFld up (Reg.HIF_SQ_CFG_ENABLE 15) 1) (Reg.HIF_SQ_CFG_SIZE_LOG2 15) 4
let n : Fin 16 := 15
let v : Word := 15#32
let u : HostUpdate := {}
let s1 := hostActs s u
(flag s1 (Reg.HIF_SQ_CFG_ENABLE n) = true) ∧
(hifState s1 < 2) ∧
(v.toNat < sqSize s1 n) ∧
v.toNat < 65536) ∧
    (let s : State := setFld (setFld (setFld up (Reg.HIF_CQ_CFG_ENABLE 15) 1) (Reg.HIF_CQ_CFG_SIZE_LOG2 15) 4) (Reg.HIF_CQ_WR_INDEX 15) 3
let n : Fin 16 := 15
let v : Word := 3#32
(flag s (Reg.HIF_CQ_CFG_ENABLE n) = true) ∧
(v.toNat < 65536) ∧
headValid (cqSize s n) (cqAt s n).head (fld s (Reg.HIF_CQ_WR_INDEX n)) v.toNat = true) ∧
    (let s : State := setFld (setFld (setFld up (Reg.HIF_EQ_CFG_ENABLE 3) 1) (Reg.HIF_EQ_CFG_SIZE_LOG2 3) 4) (Reg.HIF_EQ_WR_INDEX 3) 3
let n : Fin 4 := 3
let v : Word := 3#32
(flag s (Reg.HIF_EQ_CFG_ENABLE n) = true) ∧
(v.toNat < 65536) ∧
headValid (eqSize s n) (eqAt s n).head (fld s (Reg.HIF_EQ_WR_INDEX n)) v.toNat = true) ∧
    (let s : State := memWrite (setSq (setFld (setFld (setFld up Reg.HIF_CTRL_ENABLE 1) (Reg.HIF_SQ_CFG_ENABLE 0) 1) (Reg.HIF_SQ_CFG_SIZE_LOG2 0) 4) 0 { sqAt up 0 with tail := 1 }) 0 (desc 0x0100 [])
let n : Nat := 0
(nextSq s = some n) ∧
(let head := fld s (Reg.HIF_SQ_HEAD_HEAD n)
let a := sqBase s n + 64 * head
(memFails s a 64 = false) ∧
(let b := memRead s a 64
(fieldLE b 0 2 ≠ 0) ∧
(fieldLE b 0 2 ≠ 0xFFFF) ∧
fieldLE b 4 1 % 4 ≠ 3))) ∧
    (let s : State := setCq (setFld (setFld up (Reg.HIF_CQ_CFG_ENABLE 0) 1) (Reg.HIF_CQ_CFG_SIZE_LOG2 0) 4) 0 { cqAt up 0 with held := [{ cmd := { seq := 1, sq := 0, tag := 7 }, epoch := 0, ans := ansDone }] }
let n : Fin 16 := 0
let h : Held := { cmd := { seq := 1, sq := 0, tag := 7 }, epoch := 0, ans := ansDone }
let r : List Held := []
((cqAt s n).held = h :: r) ∧
(hifState s = 1) ∧
(cqFree s n = true) ∧
(let i := fld s (Reg.HIF_CQ_WR_INDEX n)
let a := cqBase s n + 16 * i
memFails s a 16 = false)) ∧
    (let s : State := setEq (setFld (setFld up (Reg.HIF_EQ_CFG_ENABLE 0) 1) (Reg.HIF_EQ_CFG_SIZE_LOG2 0) 4) 0 { eqAt up 0 with pend := [ev0] }
let n : Fin 4 := 0
let r : EvRec := ev0
let rest : List EvRec := []
((eqAt s n).pend = r :: rest) ∧
(hifState s = 1) ∧
(eqFree s n = true) ∧
(released s r = true) ∧
(let i := fld s (Reg.HIF_EQ_WR_INDEX n)
let a := eqBase s n + 32 * i
memFails s a 32 = false)) ∧
    ((let s := { setCq (setEq up 3 { eqAt up 3 with coal := { count := 1 } }) 15 { cqAt up 15 with coal := { count := 1 } } with el := 65536 }; (0 < (cqAt s 15).coal.count ∧ passedUs s (cqAt s 15).coal.since (8 * fld s (Reg.HIF_CQ_CFG_COAL_TIME 15)) = true) ∧ 0 < (eqAt s 3).coal.count ∧ passedUs s (eqAt s 3).coal.since (8 * fld s (Reg.HIF_EQ_CFG_COAL_TIME 3)) = true)) := by
  iterate 9 refine ⟨by decide +kernel, ?_⟩
  decide +kernel

/-- The hypotheses of each clause of AdminComplete are met, clause by clause: NOP, IDENTIFY, EVENT_ROUTE, INTENT_FORGET, STATS_READ, MODULE_RESET. -/
theorem witness_AdminComplete :
    (let s : State := ready (up) (cmd 0x0100 ([]))
let sq : Fin 16 := 0
let c : Cmd := cmd 0x0100 ([])
(Ready s sq 0x0100 c) ∧
Clean (opChks c [(16, 8)] [])) ∧
    (let s : State := ready (up) (cmd 0x0101 (buf 512 1))
let sq : Fin 16 := 0
let c : Cmd := cmd 0x0101 (buf 512 1)
(Ready s sq 0x0101 c) ∧
(Clean (opChks c [] [(1, 512)])) ∧
Reachable s c 0) ∧
    (let s : State := ready (up) (cmd 0x0102 ([(16, 1, 2), (17, 1, 0x83)]))
let sq : Fin 16 := 0
let c : Cmd := cmd 0x0102 ([(16, 1, 2), (17, 1, 0x83)])
(Ready s sq 0x0102 c) ∧
(let g := c.op 16 1
let v := c.op 17 1
Clean (opChks c [(16, 2)] [] ++ [rangeChk (decide (g < 1 ∨ 0x10 < g)) 16, rsvChk (decide (bits v 6 2 ≠ 0)) 17]))) ∧
    (let s : State := ready (up) (cmd 0x0103 ([(16, 1, 5)]))
let sq : Fin 16 := 0
let c : Cmd := cmd 0x0103 ([(16, 1, 5)])
(Ready s sq 0x0103 c) ∧
(let v := c.op 16 1
let n := v % 16
(Clean (opChks c [(16, 1)] [] ++ [rsvChk (decide (15 < v)) 16])) ∧
((sqAt s n).fetched.any fun x => x.seq ≠ c.seq) = false)) ∧
    (let s : State := ready (up) (cmd 0x0104 (buf 256 1))
let sq : Fin 16 := 0
let c : Cmd := cmd 0x0104 (buf 256 1)
(Ready s sq 0x0104 c) ∧
(Clean (opChks c [] [(1, 256)])) ∧
Reachable s c 0) ∧
    (let s : State := ready (up) (cmd 0x0105 ([(2, 1, 8), (16, 4, 0xD2640A5E)]))
let sq : Fin 16 := 0
let c : Cmd := cmd 0x0105 ([(2, 1, 8), (16, 4, 0xD2640A5E)])
(Ready s sq 0x0105 c) ∧
(Clean (opChks c [(16, 4)] [] ++ [rangeChk (decide (c.op 16 4 ≠ 0xD2640A5E)) 16])) ∧
(s.host.resetFor = none) ∧
(committing s = false) ∧
(cqFree s (fld s (Reg.HIF_SQ_CFG_CQ c.sq)) = true ∨ c.noCompletion = true)) := by
  iterate 5 refine ⟨by decide +kernel, ?_⟩
  decide +kernel

/-- The hypotheses of each clause of TimeCommandComplete are met, clause by clause: TIME_SET, TIME_ADJUST, LEAP_SCHEDULE, LOCAL_RULE_SET, CALENDAR_STAGE_WRITE, TIM_COMMIT_SET, TIM_COMMIT_CALENDAR, TIM_COMMIT_DISCARD, STEP_BOUNDARY. -/
theorem witness_TimeCommandComplete :
    (let s : State := ready (up) (cmd 0x0200 ([(16, 8, 0x123456789)]))
let sq : Fin 16 := 0
let c : Cmd := cmd 0x0200 ([(16, 8, 0x123456789)])
(Ready s sq 0x0200 c) ∧
(Clean (opChks c [(16, 8)] [] ++ [dtChk c 16])) ∧
qual s ≠ 4) ∧
    (let s : State := ready (up) (cmd 0x0201 ([(16, 8, 65536)]))
let sq : Fin 16 := 0
let c : Cmd := cmd 0x0201 ([(16, 8, 65536)])
(Ready s sq 0x0201 c) ∧
(let off := toSigned 64 (c.op 16 8)
(Clean (opChks c [(16, 8)] [] ++ [rangeChk (adjusted s off).isNone 16])) ∧
qual s ≠ 4)) ∧
    (let s : State := ready (up) (cmd 0x0202 ([(16, 4, 30), (20, 1, 1)]))
let sq : Fin 16 := 0
let c : Cmd := cmd 0x0202 ([(16, 4, 30), (20, 1, 1)])
(Ready s sq 0x0202 c) ∧
(let day := bits (c.op 16 4) 16 0
let kind := c.op 20 1
let l : Leap := { insert := kind = 1, day := day }
(Clean (opChks c [(16, 5)] [] ++
  [rangeChk (!lastOfMonth day) 16, rsvChk (decide (bits (c.op 16 4) 31 17 ≠ 0)) (if bits (c.op 16 4) 23 17 ≠ 0 then 18 else 19),
   rangeChk (decide (2 < kind)) 20])) ∧
(s.time.leap.isSome = false) ∧
¬ (kind ≠ 0 ∧ leapStart l ≤ s.dt))) ∧
    (let s : State := ready (up) (cmd 0x0203 ([(16, 2, 60), (18, 1, 60), (20, 4, 0x11), (24, 4, 0x11)]))
let sq : Fin 16 := 0
let c : Cmd := cmd 0x0203 ([(16, 2, 60), (18, 1, 60), (20, 4, 0x11), (24, 4, 0x11)])
(Ready s sq 0x0203 c) ∧
(let ofs := toSigned 16 (c.op 16 2)
Clean (opChks c [(16, 3), (20, 8)] [] ++
  [rangeChk (decide (ofs < -1080 ∨ 1080 < ofs)) 16, rangeChk (decide (120 < c.op 18 1)) 18] ++ ruleChks c 20 ++ ruleChks c 24))) ∧
    (let s : State := up
setBusy s = false) ∧
    (let s : State := up
setBusy s = false) ∧
    (let s : State := up
setBusy s = false) ∧
    (let s : State := up
setBusy s = false) ∧
    (let s : State := up
(running s = true) ∧
s.time.boundary ≠ s.el + 1) := by
  iterate 8 refine ⟨by decide +kernel, ?_⟩
  decide +kernel

/-- The hypotheses of each clause of TimeEventComplete are met, clause by clause: PTP_SYNC, PPS_IN_EDGE, PTP_SOURCE_LOST, PPS_WINDOW_CLOSE, HOLDOVER_EXPIRY, LEAP_SLEW_START, LEAP, PPS_OUT_PULSE, ALARM, WAKE_ENABLE, WAKE. -/
theorem witness_TimeEventComplete :
    (let s : State := setFld (setFld up Reg.TIM_CTRL_SRC 1) Reg.FED_CFG_PTP_ROLE 1
let port : Fin 4 := 0
let m : SyncMsg := { domain := 0, logInterval := 0, taiNs := 37000000000, utcOffset := 37 }
syncTaken s port.val m = true) ∧
    (let s : State := setFld up Reg.TIM_CTRL_SRC 2
let ns : Int := 100
let rising : Bool := true
((timSrc s = 2 ∨ timSrc s = 3)) ∧
(ns.natAbs ≤ 100000000) ∧
rising = !flag s Reg.TIM_CTRL_PPS_IN_EDGE) ∧
    (let s : State := later (timeUpd (setFld up Reg.TIM_CTRL_SRC 2) fun t => { t with ptpLost := false }) 262144
((timSrc s = 1 ∨ timSrc s = 2)) ∧
(s.time.ptpLost = false) ∧
passedSec s s.time.lastSync 4 = true) ∧
    (let s : State := atDt (setFld up Reg.TIM_CTRL_SRC 2) 655360
((timSrc s = 2 ∨ timSrc s = 3)) ∧
(65536 ≤ s.dt * 10) ∧
(let k := lastWindow s.dt
s.time.ppsLastSec < k)) ∧
    (let s : State := { timeUpd (setFld up Reg.TIM_STAT_QUAL 3) (fun t => { t with leftLocked := some 0 }) with el := 131072000 }
let t : Nat := 0
(s.time.leftLocked = some t) ∧
(qual s = 3) ∧
passedSec s t 2000 = true) ∧
    (let s : State := { setFld (setFlag up Reg.TIM_LEAP_INSERT true) Reg.TIM_LEAP_DAY 30 with dt := 30 * 86400 * 65536 + 86399 * 65536 }
let l : Leap := { insert := true, day := 30 }
(leapPlan s = some l) ∧
(s.time.leap = none) ∧
(lastOfMonth l.day = true) ∧
(leapStart l ≤ s.dt) ∧
s.dt < leapEnd l) ∧
    (let s : State := { timeUpd up (fun t => { t with leap := some { insert := true, day := 30 } }) with dt := 40 * 86400 * 65536 }
let l : Leap := { insert := true, day := 30 }
(s.time.leap = some l) ∧
leapEnd l ≤ s.dt) ∧
    ((let s := later (timeUpd up fun t => { t with ppsOut := true }) 65536; s.time.ppsOut = true ∧ passedMs s s.time.ppsRise (ppsWidth s) = true) ∧ (let s := atDt (setFld up Reg.TIM_CTRL_PPS_OUT_EN 1) 65536; s.time.ppsOut = false ∧ flag s Reg.TIM_CTRL_PPS_OUT_EN = true ∧ atSecond s = true ∧ s.time.ppsAt ≠ some (nowAt s))) ∧
    (let s : State := atDt (setFld (setFld up (Reg.TIM_ALM_CTRL_ARMED 0) 1) (Reg.TIM_ALM_LO_SEC 0) 1) 65536
let n : Fin 8 := 0
alarmDue s n = true) ∧
    (let s : State := up
let n : Fin 4 := 3
flag s (Reg.TIM_WAKE_CTRL_EN n) = false) ∧
    (let s : State := { setFld up (Reg.TIM_WAKE_CTRL_EN 3) 1 with el := 65536 }
let n : Fin 4 := 3
let w := s.time.wakes.get n {}
(flag s (Reg.TIM_WAKE_CTRL_EN n) = true) ∧
w.last + w.period * 64 ≤ s.el) := by
  iterate 10 refine ⟨by decide +kernel, ?_⟩
  decide +kernel

/-- The hypotheses of each clause of RadioRingComplete are met, clause by clause: RADIO_PROFILE_LOAD, TX_TEST, PROFILE_SELECT, RX_SURVEY. -/
theorem witness_RadioRingComplete :
    (let s : State := ready (inMem up (fill 32 [(0, 1, 1), (16, 4, Config.range.1), (20, 4, Config.range.2)])) (cmd 0x0300 (buf 32 0))
let sq : Fin 16 := 0
let c : Cmd := cmd 0x0300 (buf 32 0)
(Ready s sq 0x0300 c) ∧
(Clean (opChks c [] [(0, 16)])) ∧
(Reachable s c 0) ∧
(let b := memRead s (c.bufAddr 0) (c.bufLen 0)
let n := fieldLE b 0 1
(Clean [⟨decide (1 ≤ n ∧ n ≤ 16 ∧ c.bufLen 0 < 16 + 16 * n), 40, 0x04⟩]) ∧
(let subs := (List.range (min n 16)).map fun i => subBandOf b (16 * (i + 1))
(Clean ([rangeChk (decide (n < 1 ∨ 16 < n)) 0, rangeChk (decide (80 < fieldLE b 1 1)) 1] ++
  (match firstNonZero b 2 14 with | some o => [rsvChk true o] | none => []) ++
  (List.range (min n 16)).flatMap fun i => subBandChks b i (subs.take i))) ∧
(decide (fld s Reg.RAD_STAT_PROFILE = 2) && (flag s Reg.RAD_CTRL_TXA_EN || flag s Reg.RAD_CTRL_TXB_EN)) = false))) ∧
    (Ready testS 0 0x0302 testC ∧ Clean (opChks testC [(16, 3), (20, 3), (24, 4)] [] ++
  [rangeChk (decide (1 < testC.op 16 1)) 16, rangeChk (decide (1 < testC.op 17 1)) 17, rangeChk (decide (2 < testC.op 18 1)) 18,
   rangeChk (decide (79 < testC.op 20 2 ∨ (testC.op 18 1 = 2 ∧ testC.op 20 2 % 2 = 1))) 20,
   rangeChk (decide (toSigned 8 (testC.op 22 1) < -40 ∨ 108 < toSigned 8 (testC.op 22 1))) 22,
   rangeChk (decide (testC.op 24 4 < 1 ∨ 60000 < testC.op 24 4)) 24]) ∧
  flag testS Reg.RAD_CTRL_TXA_EN = false ∧ (chainAt testS 0).busy = false ∧
  (match txAdmit testS 0 5 false .test 1000 with | .ok (i, x) => decide (i = 0 ∧ x = sub0) | .error _ => false) = true) ∧
    (let s : State := ready (up) (cmd 0x0301 ([]))
let sq : Fin 16 := 0
let c : Cmd := cmd 0x0301 ([])
(Ready s sq 0x0301 c) ∧
(let p := c.op 16 1
(Clean (opChks c [(16, 1)] [] ++ [rangeChk (decide (2 < p)) 16])) ∧
((flag s Reg.RAD_CTRL_TXA_EN || flag s Reg.RAD_CTRL_TXB_EN) = false) ∧
(decide (p = 2) && !s.rad.customLoaded) = false)) ∧
    (let s : State := ready (setFld up Reg.RAD_CTRL_RX_EN 1) (cmd 0x0303 (buf 640 1 ++ [(16, 4, 10)]))
let sq : Fin 16 := 0
let c : Cmd := cmd 0x0303 (buf 640 1 ++ [(16, 4, 10)])
(Ready s sq 0x0303 c) ∧
(let ms := c.op 16 4
(Clean (opChks c [(16, 4)] [(1, 640)] ++ [rangeChk (decide (ms < 10 ∨ 10000 < ms)) 16])) ∧
(flag s Reg.RAD_CTRL_RX_EN = true) ∧
s.rad.survey.isSome = false)) := by
  refine ⟨opaque_RADIO_PROFILE_LOAD, opaque_TX_TEST, ?_⟩
  iterate 1 refine ⟨by decide +kernel, ?_⟩
  decide +kernel

/-- The hypotheses of each clause of RadioEventComplete are met, clause by clause: DETECTION, TX_TEST_DONE, SURVEY_DONE, DEMOD_ASSIGN, DETECTION_DROP, NO_SFD, DEMOD_RELEASE, RF24_FRAME_RX, TX_START, TX_END, DUTY_BUCKET_CLOSE. -/
theorem witness_RadioEventComplete :
    (let s : State := setFld (setFld (tuned up) Reg.RAD_CTRL_RX_EN 1) (Reg.RAD_RXMASK_MASK 0) 32
let d : Signal := { ch := 5, mode := 1, octets := 8, overDb := 255, antA := true, antB := true, bStronger := false, rssi := 90 }
let a : Nat := 2
let c : Nat := d.ch
((detectorRuns s c && (paired s c == decide (d.mode.val = 2)) && !suppressed s c &&
  decide (fld s Reg.RAD_DET_MIN_PRE ≤ d.octets ∧ fld s Reg.RAD_DET_THR ≤ d.overDb)) = true) ∧
divAnt s { d with antA := d.antA && pathOn s 0, antB := d.antB && pathOn s 1 } = some a) ∧
    (let s : State := { radUpd up fun x => { x with chains := x.chains.set 1 { busy := true, test := some ref0 } {} } with el := 1 }
let n : Fin 2 := 1
let r : CmdRef := ref0
let c := chainAt s n
(c.test = some r) ∧
(c.busy = true) ∧
passedUs s c.start c.airtime = true) ∧
    (let s : State := { radUpd up (fun x => { x with survey := some { ref := ref0, addr := 0, len := 640, start := 0, ms := 10 } }) with el := 65536 }
let q : Survey := { ref := ref0, addr := 0, len := 640, start := 0, ms := 10 }
(s.rad.survey = some q) ∧
(passedMs s q.start q.ms = true) ∧
(let s1 := radUpd s fun r => { r with survey := none }
memFails s1 q.addr 640 = false)) ∧
    (let s : State := radUpd up fun r => { r with waiting := [det0] }
let d : Det := det0
(poolRuns s = true) ∧
(s.rad.demods.length < fld s Reg.RAD_STAT_DEMODS) ∧
topDet s (s.rad.waiting.filter fun d => !passedMs s d.at' 1) = some d) ∧
    (let s : State := { radUpd up (fun x => { x with waiting := [det0] }) with el := 65536 }
let k := (s.rad.waiting.filter fun d => passedMs s d.at' 1).length
k ≠ 0) ∧
    (let s : State := { radUpd up (fun x => { x with demods := [dem0] }) with el := 65536 }
let c : Fin 80 := 5
let d : Demod := dem0
(s.rad.demods.find? fun d => decide (d.ch = c.val) && passedMs s d.at' 2) = some d) ∧
    (let s : State := radUpd up (fun x => { x with demods := [dem0] })
let c : Fin 80 := 5
let e : FrameEnd := frame0
let d : Demod := dem0
(poolRuns s = true) ∧
((s.rad.demods.find? fun d => decide (d.ch = c.val)) = some d) ∧
(decide (e.mode.val = 2) = paired s c) ∧
(e.modeSwitch = false) ∧
(3 ≤ e.psdu.length) ∧
(e.psdu.length ≤ 2047) ∧
e.fcsOk = true) ∧
    (let s : State := setFld up Reg.RAD_CTRL_RF24_EN 1
let e : FrameEnd := frame0
(flag s Reg.RAD_CTRL_RF24_EN && !radioBarred s &&
  decide (domState s 7 = 2 ∧ 3 ≤ e.psdu.length ∧ e.psdu.length ≤ 127) && e.fcsOk) = true) ∧
    (let s : State := up
let n : Fin 2 := 1
(chainAt s n).busy = false) ∧
    (let s : State := { radUpd up fun x => { x with chains := x.chains.set 1 { busy := true } {} } with el := 1 }
let n : Fin 2 := 1
let c := chainAt s n
(c.busy = true) ∧
(c.test = none) ∧
passedUs s c.start c.airtime = true) ∧
    (let s : State := { up with el := 6553600 }
(domState s 2 = 2) ∧
passedSec s s.rad.bucketStart 100 = true) := by
  refine ⟨opaque_DETECTION, ?_⟩
  iterate 9 refine ⟨by decide +kernel, ?_⟩
  decide +kernel

/-- The hypotheses of each clause of TaminFrameComplete are met, clause by clause: JOIN_REQ, DATA_UP, RELAY_UP, RESP, T1_POLL, DEDICATED_DOWNLINK, JOIN_ACCEPT, JOIN_FAILED, ENDPOINT_LOST. -/
theorem witness_TaminFrameComplete :
    (let s : State := hears0 1
let x : RxFrame := rx0 1
let h : UpHead := upHead0 1
((s.rad.rxq.find? fun x => x.ftype = 1) = some x) ∧
(let s1 := radUpd s fun r => { r with rxq := removeOne x r.rxq }
(hears s1 = true) ∧
(upHead x.bytes = some h) ∧
headOk s1 h (some x.mode) = true)) ∧
    (let s : State := hears0 0
let x : RxFrame := rx0 0
let h : UpHead := upHead0 0
((s.rad.rxq.find? fun x => decide (x.ftype ≠ 1 ∧ x.ftype ≠ 2)) = some x) ∧
(let s1 := radUpd s fun r => { r with rxq := removeOne x r.rxq }
(hears s1 = true) ∧
(upHead x.bytes = some h) ∧
headOk s1 h (some x.mode) = true)) ∧
    (let s : State := hears0 2
let x : RxFrame := rx0 2
let h : UpHead := upHead0 2
((s.rad.rxq.find? fun x => x.ftype = 2) = some x) ∧
(let s1 := radUpd s fun r => { r with rxq := removeOne x r.rxq }
(hears s1 = true) ∧
(upHead x.bytes = some h) ∧
headOk s1 h (some x.mode) = true)) ∧
    (let s : State := macUpd up fun m => { m with resps := [resp0] }
let r : RespPend := resp0
(s.mac.resps.find? fun r => decide (r.at' ≤ dt25 s.dt)) = some r) ∧
    (let s : State := atDt (setFld (setFld (withEnt allMap 5 { ent5 with gen := 1, lastSp := 16 }) Reg.RAD_CTRL_RF24_EN 1) Reg.MAC_CTRL_T1_EN 1) 65536
let n : Nat := 5
let v : Nat := 1
(rf24On s = true) ∧
(flag s Reg.MAC_CTRL_T1_EN = true) ∧
pollDue s = some (n, v)) ∧
    (let s : State := atDt (macUpd act5 fun m => { m with plans := [plan0] }) slotDtT2
let p : DlPlan := plan0
let gen (p : DlPlan) : Nat := (entAt s p.eph).gen
((s.mac.plans.find? fun p => slotStarts s (gen p) p.ch p.sp || slotPassed s (gen p) p.ch p.sp) = some p) ∧
(slotPassed s (gen p) p.ch p.sp = false) ∧
(mayUnicast s p.eph = true) ∧
onAir s = true) ∧
    (let s : State := atDt (macUpd (withEnt allMap 5 { ent5 with state := 2 }) fun m => { m with joins := [(5, some join0)] }) slotDtT2
let n : Nat := 5
let j : JoinPlan := join0
let gen (n : Nat) : Nat := (entAt s n).gen
(((joinList s).find? fun x => !x.2.sent && (slotStarts s (gen x.1) x.2.ch x.2.sp || slotPassed s (gen x.1) x.2.ch x.2.sp)) = some (n, j)) ∧
(slotPassed s (gen n) j.ch j.sp = false) ∧
(onAir s = true) ∧
(ctrLeft s n = true) ∧
j.mode ≠ 3) ∧
    (let s : State := atDt (macUpd (withEnt allMap 5 { ent5 with state := 2 }) fun m => { m with joins := [(5, some join0)] }) 655360
let n : Nat := 5
let j : JoinPlan := join0
((joinList s).find? fun x => decide (((entAt s x.1).state = 2 ∨ (entAt s x.1).state = 6) ∧ x.2.anchor + 3 * (entAt s x.1).p + 1 < curSp s)) = some (n, j)) ∧
    (let s : State := { up with dt := 655360 }
let now := dtSec s.dt
(s.mac.supSec ≠ now) ∧
onAir s = true) := by
  iterate 8 refine ⟨by decide +kernel, ?_⟩
  decide +kernel

/-- The hypotheses of each clause of TaminBroadcastComplete are met, clause by clause: ROOSTER, ACK_AGG, MAP, MAP_ACTIVE, FOLD_CHECKPOINT, BCAST_KEY_ACTIVE. -/
theorem witness_TaminBroadcastComplete :
    (let s : State := { setFld up Reg.MAC_CTRL_ROOSTER_EN 1 with dt := 8 * 65536 }
let t := dtSec s.dt
(beaconDue s = true) ∧
slotStarts s 3 (t % 8) (80 * t) = true) ∧
    (let s : State := atDt (macUpd allMap fun m => { m with wins := [win0 2], acks := [5] }) slotDt1
let w : Win := win0 2
(s.mac.acks.isEmpty = false) ∧
(onAir s = true) ∧
(chainLeft s 2 = true) ∧
(takeWin s 2 (fun _ => true)).2 = some w) ∧
    (let s : State := atDt (macUpd allMap fun m => { m with wins := [win0 4], mapPend := [pend0] }) slotDt1
let w : Win := win0 4
let p : MapPend := pend0
(chainLeft s 2 = true) ∧
(let s1 := (takeWin s 4 (fun _ => true)).1
((takeWin s 4 (fun _ => true)).2 = some w) ∧
(s1.mac.mapPend.find? fun p => p.index = w.id) = some p)) ∧
    (let s : State := macUpd up fun m => { m with mapPend := [pend0] }
let p : MapPend := pend0
(s.mac.mapPend.find? fun p => decide (p.actDt ≤ s.dt)) = some p) ∧
    (let s : State := { up with el := 65536 * 1000000 }
(domState s 2 = 2) ∧
(passedSec s s.mac.ckptAt (fld s Reg.MAC_CKPT_PERIOD) = true ∨ 786432 ≤ journalBytes s.mac.journal)) ∧
    (let s : State := macUpd allMap fun m => { m with bcast := some { epoch := 1, actDt := 0, ref := none } }
let b : BcastPend := { epoch := 1, actDt := 0, ref := none }
(s.mac.bcast = some b) ∧
b.actDt ≤ s.dt) := by
  iterate 5 refine ⟨by decide +kernel, ?_⟩
  decide +kernel

/-- The hypotheses of each clause of TaminRingComplete are met, clause by clause: MAP_SET, FOLD_ADMIT, FOLD_REMOVE, FOLD_READ, FOLD_FIND, CONN_SET, DL_SEND, REKEY, BCAST_REKEY. -/
theorem witness_TaminRingComplete :
    (let s : State := ready (tuned up) (cmd 0x0405 ([(16, 1, 3), (18, 8, 0xFFFF), (28, 8, 3932160)]))
let sq : Fin 16 := 0
let c : Cmd := cmd 0x0405 ([(16, 1, 3), (18, 8, 0xFFFF), (28, 8, 3932160)])
(Ready s sq 0x0405 c) ∧
(let i := c.op 16 1
let m := c.op 18 10
let t := c.op 28 8
(Clean (opChks c [(16, 1), (18, 18)] [] ++
  [rangeChk (smallMap m || (mapChans m).any fun k => !inBand s k false) 18, dtChk c 28])) ∧
(s.dt + 60 * 65536 ≤ t) ∧
(s.mac.mapPend.any fun p => p.index = i) = false)) ∧
    (let s : State := ready (allMap) (cmd 0x0400 ([(16, 8, 5), (25, 1, 2), (28, 2, 80), (30, 2, 60)]))
let sq : Fin 16 := 0
let c : Cmd := cmd 0x0400 ([(16, 8, 5), (25, 1, 2), (28, 2, 80), (30, 2, 60)])
(Ready s sq 0x0400 c) ∧
(let eui := c.op 16 8
let gen := c.op 25 1
let iv := c.op 28 2
(Clean (opChks c [(16, 16)] [] ++
  [rangeChk (decide (3 < c.op 24 1)) 24, rangeChk (decide (gen < 1 ∨ 3 < gen)) 25, rangeChk (badFeeder (c.op 26 1)) 26,
   rangeChk (smallMap (mapAt s (c.op 27 1))) 27, rangeChk (badInterval iv) 28, rangeChk (badSuperv (c.op 30 2)) 30])) ∧
((findEui s eui).isSome = false) ∧
(let n := 0
(freeEph s = some n) ∧
(decide (gen = 1) && !(t1Fits s n (iv * 4 / 5) && (List.range (iv * 4 / 5)).any (t1Candidate s n (iv * 4 / 5)))) = false))) ∧
    (let s : State := ready (act5) (cmd 0x0401 ([(16, 3, 5)]))
let sq : Fin 16 := 0
let c : Cmd := cmd 0x0401 ([(16, 3, 5)])
(Ready s sq 0x0401 c) ∧
(let n := c.op 16 3
(Clean (opChks c [(16, 3)] [] ++ [ephChk c 16])) ∧
((entAt s n).state ≠ 0) ∧
(s.mac.fold.any fun x => decide (x.2.parent = n ∧ x.1 ≠ n ∧ 0 < x.2.relays)) = false)) ∧
    (let s : State := ready (act5) (cmd 0x0402 (buf 256 1 ++ [(16, 3, 5), (20, 4, 2)]))
let sq : Fin 16 := 0
let c : Cmd := cmd 0x0402 (buf 256 1 ++ [(16, 3, 5), (20, 4, 2)])
(Ready s sq 0x0402 c) ∧
(let n := c.op 16 3
let k := c.op 20 4
(Clean (opChks c [(16, 3), (20, 4)] [(1, 128 * min k 4096)] ++
  [ephChk c 16, rangeChk (decide (foldSize < n + k)) 16, rangeChk (decide (k < 1 ∨ 4096 < k)) 20])) ∧
Reachable s c 0)) ∧
    (let s : State := ready (act5) (cmd 0x0403 ([(16, 8, 5)]))
let sq : Fin 16 := 0
let c : Cmd := cmd 0x0403 ([(16, 8, 5)])
(Ready s sq 0x0403 c) ∧
Clean (opChks c [(16, 8)] [])) ∧
    (let s : State := ready (act5) (cmd 0x0404 ([(16, 3, 5), (19, 1, 31), (22, 2, 80), (24, 2, 60), (26, 1, 1)]))
let sq : Fin 16 := 0
let c : Cmd := cmd 0x0404 ([(16, 3, 5), (19, 1, 31), (22, 2, 80), (24, 2, 60), (26, 1, 1)])
(Ready s sq 0x0404 c) ∧
(let n := c.op 16 3
let m := c.op 19 1
let e := entAt s n
(Clean (opChks c [(16, 11)] [] ++
  [ephChk c 16, rsvChk (decide (31 < m)) 19, rangeChk (bit m 0 && badFeeder (c.op 20 1)) 20,
   rangeChk (bit m 3 && smallMap (mapAt s (c.op 21 1))) 21, rangeChk (bit m 2 && badInterval (c.op 22 2)) 22,
   rangeChk (bit m 1 && badSuperv (c.op 24 2)) 24])) ∧
(e.state ≠ 0) ∧
((e.state = 3 ∨ m < 4)) ∧
((4 ≤ m → ((epAt s n).conn.any fun p => p.ref.isSome) = false)) ∧
(let iv := c.op 22 2 * 4 / 5
(bit m 2 = true → e.gen = 1 → t1Fits s n iv = true ∧ (connAfter s n iv).isSome = true)))) ∧
    (let s : State := ready (inMem act5 [1, 2, 3]) (cmd 0x0406 (buf 20 0 ++ [(16, 3, 5)]))
let sq : Fin 16 := 0
let c : Cmd := cmd 0x0406 (buf 20 0 ++ [(16, 3, 5)])
(Ready s sq 0x0406 c) ∧
(let n := c.op 16 3
(Clean (opChks c [(16, 3)] [(0, 1)] ++ [ephChk c 16, rangeChk (decide (1 ≤ c.bufs ∧ 100 < c.bufLen 0)) 48])) ∧
(Reachable s c 0) ∧
((entAt s n).state = 3) ∧
¬ (4 ≤ ((epAt s n).dlq.filter DlItem.isApp).length))) ∧
    (let s : State := ready (act5) (cmd 0x0407 ([(16, 3, 5)]))
let sq : Fin 16 := 0
let c : Cmd := cmd 0x0407 ([(16, 3, 5)])
(Ready s sq 0x0407 c) ∧
(let n := c.op 16 3
(Clean (opChks c [(16, 3)] [] ++ [ephChk c 16])) ∧
((entAt s n).state = 3) ∧
(((entAt s n).rekeyPend) = false) ∧
(entAt s n).keyEpoch ≠ 65535)) ∧
    (let s : State := ready (up) (cmd 0x0408 ([(16, 8, 655360)]))
let sq : Fin 16 := 0
let c : Cmd := cmd 0x0408 ([(16, 8, 655360)])
(Ready s sq 0x0408 c) ∧
(Clean (opChks c [(16, 8)] [] ++ [dtChk c 16])) ∧
s.mac.bcast.isSome = false) := by
  refine ⟨opaque_MAP_SET, ?_⟩
  iterate 7 refine ⟨by decide +kernel, ?_⟩
  decide +kernel

/-- The hypotheses of each clause of StreetEventComplete are met, clause by clause: TICK_BOUNDARY, LEVEL_VECTOR, STEP_FIRED, AMBIENT_STEP_FIRE, COMMIT, COMMIT_DUE. -/
theorem witness_StreetEventComplete :
    ((let s := atDt (setFld up Reg.PWR_STAT_MODE 1) 65536; tickDue (tickPeriod s) = true ∧ (tickPeriod s).cas.quiet = true) ∧ (let s := atDt up 65536; tickDue (tickPeriod s) = true ∧ (tickPeriod s).cas.quiet = false) ∧ tickDue (tickPeriod (atDt up 65537)) = false) ∧
    (let s : State := atDt (streetUpd (withEnt allMap 5 { ent5 with gen := 3 }) fun x => { x with groups := [(3, { period := 8, phase := 0, channel := 5 })], members := [(5, some { marked := false, groups := [(3, 7)] })], queue := [(5, some { level := 100, forced := false, since := 0 })] }) slotDt8
let g : Nat := 3
let k := curSp s
let used := if s.street.lvCount.1 = k + 1 then s.street.lvCount.2 else 0
let room := min (fld s Reg.STR_PLAN_LV_CHAINS - used) (chainsLeft s 3)
((((lvGroups s).take room).find? fun x => slotStarts s 3 (groupAt s x.1).channel k).map Prod.fst = some g) ∧
onAir s = true) ∧
    (let s : State := up
onAir s = true) ∧
    (let s : State := up
onAir s = true) ∧
    (let s : State := atDt (streetUpd (macUpd up fun m => { m with wins := [win0 1] }) fun x => { x with commits := [commit0] }) slotDt1
let w : Win := win0 1
let c : CommitEnt := commit0
(chainLeft s 1 = true) ∧
(let s1 := (takeWin s 1 (fun _ => true)).1
((takeWin s 1 (fun _ => true)).2 = some w) ∧
((s1.street.commits.find? fun c => decide (c.id = w.tag ∧ c.state = 0)) = some c) ∧
(onAir s1 = true) ∧
c.kind ≠ 1)) ∧
    (let s : State := up
onAir s = true) := by
  iterate 5 refine ⟨by decide +kernel, ?_⟩
  decide +kernel

/-- The hypotheses of each clause of StreetRingComplete are met, clause by clause: GROUP_CFG, MEMBER_SET, SCHEDULE_PROFILE_LOAD, EXCEPTION_SET, SCENE_STORE, SCENE_RECALL, SCENE_RELEASE. -/
theorem witness_StreetRingComplete :
    (let s : State := ready (tuned up) (cmd 0x0501 ([(16, 2, 3), (18, 2, 9), (22, 2, 8), (24, 2, 7), (26, 1, 5), (28, 8, 131072)]))
let sq : Fin 16 := 0
let c : Cmd := cmd 0x0501 ([(16, 2, 3), (18, 2, 9), (22, 2, 8), (24, 2, 7), (26, 1, 5), (28, 8, 131072)])
(Ready s sq 0x0501 c) ∧
(let g := c.op 16 2
let pr := c.op 18 2
let per := c.op 22 2
let ph := c.op 24 2
let ch := c.op 26 1
let t := c.op 28 8
(Clean (opChks c [(16, 11), (28, 8)] [] ++
  [rangeChk (decide (1023 < pr ∧ pr ≠ 0xFFFF)) 18, rangeChk (decide (0 < per ∧ per < 8)) 22,
   rangeChk (decide (max per 1 ≤ ph)) 24, rangeChk (decide (79 < ch) || !inBand s ch false) 26, dtChk c 28])) ∧
(let old := groupAt s g
let changes := decide (old.period ≠ per ∨ old.phase ≠ ph ∨ old.channel ≠ ch)
(changes = true → timingPending s g = false ∧ s.dt + 2 * 65536 ≤ t ∧ commitRoom s 1 = true)))) ∧
    (let s : State := ready (inMem act5 (fill 48 [(6, 1, 1), (8, 2, 3), (10, 2, 1)])) (cmd 0x0500 (buf 48 0 ++ [(16, 3, 5)]))
let sq : Fin 16 := 0
let c : Cmd := cmd 0x0500 (buf 48 0 ++ [(16, 3, 5)])
(Ready s sq 0x0500 c) ∧
(let n := c.op 16 3
(Clean (opChks c [(16, 3)] [(0, 48)] ++ [ephChk c 16])) ∧
(Reachable s c 0) ∧
(let b := memRead s (c.bufAddr 0) (c.bufLen 0)
(Clean (memberChks b)) ∧
(let m := memberOfBytes b
((entAt s n).state ≠ 0) ∧
(((epAt s n).dlq.any DlItem.isMember) = false) ∧
(s.street.members.any fun x => decide (x.1 ≠ n) && x.2.any fun y => y.groups.any fun g => m.groups.contains g) = false)))) ∧
    (let s : State := ready (inMem up (fill 48 [(0, 1, 2), (5, 1, 1), (18, 2, 60), (34, 2, 90)])) (cmd 0x0502 (buf 48 0 ++ [(16, 2, 9)]))
let sq : Fin 16 := 0
let c : Cmd := cmd 0x0502 (buf 48 0 ++ [(16, 2, 9)])
(Ready s sq 0x0502 c) ∧
(let pr := c.op 16 2
(Clean (opChks c [(16, 2)] [(0, 16)] ++ [rangeChk (decide (1023 < pr)) 16])) ∧
(Reachable s c 0) ∧
(let b := memRead s (c.bufAddr 0) (c.bufLen 0)
let n := fieldLE b 0 1
(Clean [⟨decide (1 ≤ n ∧ n ≤ 16 ∧ c.bufLen 0 < 16 + 16 * n), 40, 0x04⟩]) ∧
(let k := min n 16
Clean ([rangeChk (decide (n < 1 ∨ 16 < n)) 0, rsvChk (decide (fieldLE b 1 1 ≠ 0)) 1,
   rsvChk (decide (4 ≤ fieldLE b 4 1)) 4, rangeChk (decide (fieldLE b 5 1 = 0)) 5] ++
  (match firstNonZero b 6 10 with | some o => [rsvChk true o] | none => []) ++
  (List.range k).flatMap fun i => sstepChks b (16 * i + 16)))))) ∧
    (let s : State := ready (up) (cmd 0x0503 ([(16, 1, 255), (18, 2, 2024), (20, 1, 2), (21, 1, 29), (22, 1, 7)]))
let sq : Fin 16 := 0
let c : Cmd := cmd 0x0503 ([(16, 1, 255), (18, 2, 2024), (20, 1, 2), (21, 1, 29), (22, 1, 7)])
(Ready s sq 0x0503 c) ∧
(let i := c.op 16 1
let cls := c.op 22 1
(Clean (opChks c [(16, 1), (18, 5)] [] ++ [rangeChk (decide (7 < cls ∧ cls ≠ 0xFF)) 22] ++
  (if cls = 0xFF then [] else dateChks c 18 20 21))) ∧
(let day := daysBefore (c.op 18 2) (c.op 20 1) (c.op 21 1)
(decide (cls ≠ 0xFF) && s.street.exceptions.any fun x => decide (x.1 ≠ i) && x.2.any fun e =>
  decide (daysBefore e.year e.month e.day = day)) = false))) ∧
    (let s : State := ready (inMem up (fill 24 [(0, 1, 2), (12, 2, 600), (20, 2, 5)])) (cmd 0x0504 (buf 24 0 ++ [(16, 1, 9)]))
let sq : Fin 16 := 0
let c : Cmd := cmd 0x0504 (buf 24 0 ++ [(16, 1, 9)])
(Ready s sq 0x0504 c) ∧
(let n := c.op 16 1
(Clean (opChks c [(16, 1)] [(0, 8)])) ∧
(Reachable s c 0) ∧
(let b := memRead s (c.bufAddr 0) (c.bufLen 0)
let k := fieldLE b 0 1
(Clean [⟨decide (1 ≤ k ∧ k ≤ 64 ∧ c.bufLen 0 < 8 + 8 * k), 40, 0x04⟩]) ∧
(let m := min k 64
(Clean ([rangeChk (decide (k < 1 ∨ 64 < k)) 0] ++ (match firstNonZero b 1 7 with | some o => [rangeChk true o] | none => []) ++
  (List.range m).flatMap fun i =>
    let o := 8 * i + 8
    [rangeChk (decide (600 < fieldLE b (o + 4) 2)) (o + 4), rangeChk (decide (1 < fieldLE b (o + 6) 1)) (o + 6),
     rangeChk (decide (fieldLE b (o + 7) 1 ≠ 0)) (o + 7)])) ∧
sceneHeld s n = false)))) ∧
    (let s : State := ready (streetUpd up fun x => { x with scenes := x.scenes.set 9 [sceneEntOf (fill 8 [(0, 2, 3)]) 0] [] }) (cmd 0x0505 ([(16, 1, 9), (24, 8, 655360)]))
let sq : Fin 16 := 0
let c : Cmd := cmd 0x0505 ([(16, 1, 9), (24, 8, 655360)])
(Ready s sq 0x0505 c) ∧
(let n := c.op 16 1
let t := c.op 24 8
(Clean (opChks c [(16, 2), (24, 8)] [] ++ [rangeChk (decide (1 < c.op 17 1)) 17, dtChk c 24])) ∧
(let ents := s.street.scenes.get n []
(ents.isEmpty = false) ∧
(t = 0 ∨ (s.dt + 2 * 65536 ≤ t ∧ commitRoom s (ents.filter SceneEnt.fixed).length = true))))) ∧
    (let s : State := ready (streetUpd up fun x => { x with sceneForce := x.sceneForce.set 5 (some { scene := 9, level := 5, fixed := false }) none }) (cmd 0x0506 ([(16, 1, 9)]))
let sq : Fin 16 := 0
let c : Cmd := cmd 0x0506 ([(16, 1, 9)])
(Ready s sq 0x0506 c) ∧
(let n := c.op 16 1
(Clean (opChks c [(16, 1)] [])) ∧
sceneHeld s n = true)) := by
  refine ⟨opaque_GROUP_CFG, ?_⟩
  iterate 5 refine ⟨by decide +kernel, ?_⟩
  decide +kernel

/-- The hypotheses of each clause of StreetCommitComplete are met, clause by clause: COMMIT_LEVEL, COMMIT_CANCEL, COMMIT_READ, COMPOSE_READ, SOLAR_READ. -/
theorem witness_StreetCommitComplete :
    (let s : State := ready (up) (cmd 0x0507 ([(16, 2, 3), (18, 1, 3), (20, 2, 100), (22, 2, 600), (24, 8, 655360)]))
let sq : Fin 16 := 0
let c : Cmd := cmd 0x0507 ([(16, 2, 3), (18, 1, 3), (20, 2, 100), (22, 2, 600), (24, 8, 655360)])
(Ready s sq 0x0507 c) ∧
(let f := c.op 18 1
let t := c.op 24 8
(Clean (opChks c [(16, 3), (20, 12)] [] ++
  [rsvChk (decide (3 < f)) 18, rangeChk (decide (600 < c.op 22 2)) 22, dtChk c 24])) ∧
(s.dt + 2 * 65536 ≤ t) ∧
commitRoom s 1 = true)) ∧
    (let s : State := ready (streetUpd up fun x => { x with commits := [commit0] }) (cmd 0x0508 ([]))
let sq : Fin 16 := 0
let c : Cmd := cmd 0x0508 ([])
(Ready s sq 0x0508 c) ∧
(Clean (opChks c [(16, 4)] [])) ∧
(let k := commit0
((s.street.commits.find? fun k => decide (k.id = c.op 16 4 ∧ k.state = 0)) = some k) ∧
commitRoom s 1 = true)) ∧
    (let s : State := ready (streetUpd up fun x => { x with commits := [commit0] }) (cmd 0x0509 (buf 32 1))
let sq : Fin 16 := 0
let c : Cmd := cmd 0x0509 (buf 32 1)
(Ready s sq 0x0509 c) ∧
(Clean (opChks c [(16, 4)] [(1, 32)])) ∧
(let k := commit0
((s.street.commits.find? fun k => decide (k.id = c.op 16 4)) = some k) ∧
Reachable s c 0)) ∧
    (let s : State := ready (act5) (cmd 0x050A (buf 32 1 ++ [(16, 3, 5), (20, 4, 2)]))
let sq : Fin 16 := 0
let c : Cmd := cmd 0x050A (buf 32 1 ++ [(16, 3, 5), (20, 4, 2)])
(Ready s sq 0x050A c) ∧
(let n := c.op 16 3
let k := c.op 20 4
(Clean (opChks c [(16, 3), (20, 4)] [(1, 16 * min k 4096)] ++
  [ephChk c 16, rangeChk (decide (foldSize < n + k)) 16, rangeChk (decide (k < 1 ∨ 4096 < k)) 20])) ∧
Reachable s c 0)) ∧
    (let s : State := ready (up) (cmd 0x050B (buf 32 1 ++ [(16, 2, 2024), (18, 1, 2), (19, 1, 29)]))
let sq : Fin 16 := 0
let c : Cmd := cmd 0x050B (buf 32 1 ++ [(16, 2, 2024), (18, 1, 2), (19, 1, 29)])
(Ready s sq 0x050B c) ∧
(Clean (opChks c [(16, 4)] [(1, 32)] ++ dateChks c 16 18 19)) ∧
Reachable s c 0) := by
  iterate 4 refine ⟨by decide +kernel, ?_⟩
  decide +kernel

/-- The hypotheses of each clause of CascadeComplete are met, clause by clause: CAS_VERTEX_LOAD, CAS_EDGE_LOAD, CAS_STAGE_SYNC, CAS_GRAPH_ACTIVATE, CAS_BORDER_SET, CAS_INJECT, CAS_DEMAND_READ, CAS_GRAPH_READ, CAS_CLEAR, BORDER_DEMAND. -/
theorem witness_CascadeComplete :
    (let s : State := ready (up) (cmd 0x0600 (buf 32 0 ++ [(16, 3, 7), (20, 4, 2)]))
let sq : Fin 16 := 0
let c : Cmd := cmd 0x0600 (buf 32 0 ++ [(16, 3, 7), (20, 4, 2)])
(Ready s sq 0x0600 c) ∧
(let k := c.op 20 4
(Clean (opChks c [(16, 3), (20, 4)] [(0, 16 * min k 65536)] ++ spanChks c 16 3 numVtx 65536)) ∧
(Reachable s c 0) ∧
(let b := memRead s (c.bufAddr 0) (c.bufLen 0)
(Clean ((List.range k).flatMap fun i => vtxChks b (16 * i))) ∧
s.cas.activate.isSome = false))) ∧
    (let s : State := ready (up) (cmd 0x0601 (buf 16 0 ++ [(16, 3, 7), (20, 4, 2)]))
let sq : Fin 16 := 0
let c : Cmd := cmd 0x0601 (buf 16 0 ++ [(16, 3, 7), (20, 4, 2)])
(Ready s sq 0x0601 c) ∧
(let k := c.op 20 4
(Clean (opChks c [(16, 3), (20, 4)] [(0, 8 * min k 131072)] ++ spanChks c 16 3 numEdge 131072)) ∧
(Reachable s c 0) ∧
(let b := memRead s (c.bufAddr 0) (c.bufLen 0)
(Clean ((List.range k).flatMap fun i => edgeChks b (8 * i))) ∧
s.cas.activate.isSome = false))) ∧
    (let s : State := ready (up) (cmd 0x0602 ([]))
let sq : Fin 16 := 0
let c : Cmd := cmd 0x0602 ([])
(Ready s sq 0x0602 c) ∧
(Clean (opChks c [] [])) ∧
s.cas.activate.isSome = false) ∧
    (let s : State := ready (up) (cmd 0x0603 ([]))
let sq : Fin 16 := 0
let c : Cmd := cmd 0x0603 ([])
(Ready s sq 0x0603 c) ∧
(Clean (opChks c [] [])) ∧
(s.cas.activate.isSome = false) ∧
stageRefusal s = none) ∧
    (let s : State := ready (up) (cmd 0x0604 ([(16, 2, 4095), (18, 1, 3), (20, 3, 7), (24, 2, 4095), (28, 3, 9)]))
let sq : Fin 16 := 0
let c : Cmd := cmd 0x0604 ([(16, 2, 4095), (18, 1, 3), (20, 3, 7), (24, 2, 4095), (28, 3, 9)])
(Ready s sq 0x0604 c) ∧
(let i := c.op 16 2
let f := c.op 18 1
let b : BorderLink := { en := bit f 0, isIn := bit f 1, loc := c.op 20 3 % 2 ^ 19, remMod := c.op 24 2 % 4096,
                        remVertex := c.op 28 3 % 2 ^ 19 }
(Clean (opChks c [(16, 3), (20, 3), (24, 2), (28, 3)] [] ++
  [rangeChk (decide (4096 ≤ i)) 16, rsvChk (decide (4 ≤ f)) 18, rangeChk (decide (numVtx ≤ b.loc)) 20,
   rsvChk (decide (2 ^ 19 ≤ c.op 20 3)) 22, rsvChk (decide (4096 ≤ c.op 24 2)) 25, rangeChk (decide (numVtx ≤ b.remVertex)) 28,
   rsvChk (decide (2 ^ 19 ≤ c.op 28 3)) 30])) ∧
(let o := s.cas.borders.get i {}
(((o.en && !b.en) || b.isIn ≠ o.isIn || b.loc ≠ o.loc) && borderNamed s i) = false))) ∧
    (let s : State := ready (setFld up Reg.CAS_CTRL_EN 1) (cmd 0x0605 ([(16, 3, 0x80007), (19, 1, 200), (20, 1, 5)]))
let sq : Fin 16 := 0
let c : Cmd := cmd 0x0605 ([(16, 3, 0x80007), (19, 1, 200), (20, 1, 5)])
(Ready s sq 0x0605 c) ∧
(let w := c.op 16 3
(Clean (opChks c [(16, 5)] [] ++
  [rangeChk (decide (numVtx ≤ w % 2 ^ 19)) 16, rangeChk (decide (bits w 21 19 = 0)) 18, rsvChk (decide (2 ^ 22 ≤ w)) 18])) ∧
(flag s Reg.CAS_CTRL_EN = true) ∧
¬ (4096 ≤ s.cas.intake.length))) ∧
    (let s : State := ready (up) (cmd 0x0606 (buf 16 1 ++ [(16, 3, 7), (20, 4, 2)]))
let sq : Fin 16 := 0
let c : Cmd := cmd 0x0606 (buf 16 1 ++ [(16, 3, 7), (20, 4, 2)])
(Ready s sq 0x0606 c) ∧
(let k := c.op 20 4
(Clean (opChks c [(16, 3), (20, 4)] [(1, 8 * min k 65536)] ++ spanChks c 16 3 numVtx 65536)) ∧
Reachable s c 0)) ∧
    (let s : State := ready (up) (cmd 0x0607 (buf 32 1 ++ [(16, 1, 2), (17, 3, 7), (20, 4, 2)]))
let sq : Fin 16 := 0
let c : Cmd := cmd 0x0607 (buf 32 1 ++ [(16, 1, 2), (17, 3, 7), (20, 4, 2)])
(Ready s sq 0x0607 c) ∧
(let kind := c.op 16 1
let k := c.op 20 4
let vert := decide (kind % 2 = 0)
(Clean (opChks c [(16, 8)] [(1, if vert then 16 * min k 65536 else 8 * min k 131072)] ++ [rangeChk (decide (3 < kind)) 16] ++
  (if vert then spanChks c 17 3 numVtx 65536 else spanChks c 17 3 numEdge 131072))) ∧
Reachable s c 0)) ∧
    (let s : State := ready (up) (cmd 0x0608 ([]))
let sq : Fin 16 := 0
let c : Cmd := cmd 0x0608 ([])
(Ready s sq 0x0608 c) ∧
Clean (opChks c [] [])) ∧
    (let s : State := spanning
let p : Fin 4 := 3
let l : List Byte := (msg0 2).bytes
let m : SpanMsg := msg0 2
(spanKind l = 2) ∧
(spanRx s p.val l).2 = some m) := by
  iterate 9 refine ⟨by decide +kernel, ?_⟩
  decide +kernel

/-- The hypotheses of each clause of WeirComplete are met, clause by clause: SLOW_SAMPLE, FAST_SAMPLE, WEI_LOOP_LOAD, WEI_LOOP_ENABLE, WEI_COEF_SET, WEI_GROUP_SET, WEI_INJECT, WEI_INJECT_STOP, WEI_CAPTURE_SET, WEI_CAPTURE_READ, WEI_LOOP_READ, WEI_CAPTURE_STOP. -/
theorem witness_WeirComplete :
    (let s : State := atDt (setFld (looping 7) Reg.WEI_CTRL_SLOW_EN 1) 65536
(weirRuns s = true) ∧
(flag s Reg.WEI_CTRL_SLOW_EN = true) ∧
(let due := slowDue s
due.isEmpty = false)) ∧
    (let s : State := later (setFld (setLoop up 4100 { desc := some { loop0 with rate := 96 }, en := true, secs := [{}] }) Reg.WEI_CTRL_FAST_EN 1) 65536
let a : Nat × Nat := (4100, 96)
let r : List (Nat × Nat) := []
(weirRuns s = true) ∧
(flag s Reg.WEI_CTRL_FAST_EN = true) ∧
(fastNext s = a :: r) ∧
(let c := r.foldl (fun m y => min m y.2) a.2
c * 65536 ≤ (s.el + 1 - s.weir.fastStart) * 19200000)) ∧
    (Ready loadS 0 0x0700 loadC ∧ Clean (opChks loadC [(16, 2)] [(0, 80)] ++ loopChks loadC) ∧ Reachable loadS loadC 0 ∧
  memRead loadS (loadC.bufAddr 0) (loadC.bufLen 0) = loadB ∧ Clean (shapeChks loadB 7) ∧
  Clean [⟨decide (loadC.bufLen 0 < 80 + 20 * fieldLE loadB 0 1 * fieldLE loadB 1 1), 40, 0x04⟩] ∧ groupOf loadS 7 = none ∧
  Clean (descChks loadB 7 ++ [⟨false, 4, 0x03⟩, ⟨false, 6, 0x03⟩, ⟨false, 7, 0x03⟩]) ∧ (loopAt loadS 7).en = false) ∧
    (let s : State := ready (loaded 7) (cmd 0x0701 ([(16, 2, 7), (18, 1, 1)]))
let sq : Fin 16 := 0
let c : Cmd := cmd 0x0701 ([(16, 2, 7), (18, 1, 1)])
(Ready s sq 0x0701 c) ∧
(let n := c.op 16 2
let en := bit (c.op 18 1) 0
let init := c.op 20 4
(Clean (opChks c [(16, 3), (20, 4)] [] ++ loopChks c ++
  [rsvChk (decide (4 ≤ c.op 18 1)) 18, rangeChk (!b32.isFinite init) 20])) ∧
(let d := loop0
((loopAt s n).desc = some d) ∧
(let l := loopAt s n
(en && !l.en && !mayDrive s n d) = false)))) ∧
    (let s : State := ready (loaded 7) (cmd 0x0702 (buf 20 0 ++ [(16, 2, 7)]))
let sq : Fin 16 := 0
let c : Cmd := cmd 0x0702 (buf 20 0 ++ [(16, 2, 7)])
(Ready s sq 0x0702 c) ∧
(let n := c.op 16 2
let r := c.op 18 1
let l := loopAt s n
let ns := match l.desc with | some d => d.nsec | none => 1
(Clean (opChks c [(16, 3)] [(0, 20 * ns)] ++ loopChks c ++
  [rangeChk (match l.desc with | some d => decide (d.coefs.length ≤ r) | none => false) 18])) ∧
(Reachable s c 0) ∧
(let b := memRead s (c.bufAddr 0) (c.bufLen 0)
(l.desc.isNone = false) ∧
Clean ((List.range (5 * ns)).map fun i => finiteChk b (4 * i))))) ∧
    (let s : State := ready (setLoop (loaded 7) 8 { desc := some loop0 }) (cmd 0x0703 ([(16, 2, 9), (18, 1, 2), (20, 2, 7), (22, 2, 8)]))
let sq : Fin 16 := 0
let c : Cmd := cmd 0x0703 ([(16, 2, 9), (18, 1, 2), (20, 2, 7), (22, 2, 8)])
(Ready s sq 0x0703 c) ∧
(let g := c.op 16 2
let k := c.op 18 1
let margin := c.op 28 4
let at4 (i : Nat) : Nat := c.op (20 + 2 * i) 2
let mem := (List.range (min k 4)).map at4
let ds := mem.filterMap fun n => (loopAt s n).desc
let bad := match ds with | [] => false | d :: r => r.any fun x => !groupFits d x
(Clean (opChks c [(16, 3), (20, 12)] [] ++
  [rangeChk (decide (1023 < g)) 16, rangeChk (decide (k = 1 ∨ 4 < k)) 18] ++
  ((List.range 4).flatMap fun i =>
    [rangeChk (decide (i < k ∧ numLoops ≤ at4 i)) (20 + 2 * i), rsvChk (decide (k ≤ i ∧ at4 i ≠ 0)) (20 + 2 * i),
     ⟨decide (i < k) && (mem.take i).contains (at4 i), 20 + 2 * i, 0x03⟩]) ++
  [⟨bad || (mem.any isFast && mem.any fun n => !isFast n), 20, 0x03⟩,
   ⟨!b32.isFinite margin, 28, 0x03⟩, rangeChk (b32.lt margin 0) 28])) ∧
((mem.any fun n => (loopAt s n).desc.isNone) = false) ∧
(mem.any fun n => match groupOf s n with | some x => decide (x ≠ g) | none => false) = false)) ∧
    (let s : State := ready (inMem (looping 7) (fill 32 [(8, 4, 5)])) (cmd 0x0704 (buf 32 0 ++ [(16, 2, 7)]))
let sq : Fin 16 := 0
let c : Cmd := cmd 0x0704 (buf 32 0 ++ [(16, 2, 7)])
(Ready s sq 0x0704 c) ∧
(let n := c.op 16 2
let l := loopAt s n
(Clean (opChks c [(16, 2)] [(0, 32)] ++ loopChks c)) ∧
(Reachable s c 0) ∧
(let b := memRead s (c.bufAddr 0) (c.bufLen 0)
let hd := injChks b n (l.desc.map LoopDesc.rate)
(Clean [⟨!(hd.any Chk.bad) && decide (fieldLE b 0 1 = 3 ∧ c.bufLen 0 < 32 + 12 * fieldLE b 3 1), 40, 0x04⟩]) ∧
(Clean (hd ++ compChks b)) ∧
(s.weir.inject.isSome = false) ∧
(!l.en || l.held) = false))) ∧
    (let s : State := ready (weirUpd up fun w => { w with inject := some { loop := 7, kind := 0, point := 0, hold := false, capture := false, n := 0, a := 0, duration := 5, chip := 1, f0 := 0, f1 := 0, comps := [], shift := 1, ref := none } }) (cmd 0x0705 ([]))
let sq : Fin 16 := 0
let c : Cmd := cmd 0x0705 ([])
(Ready s sq 0x0705 c) ∧
(Clean (opChks c [] [])) ∧
s.weir.inject.isNone = false) ∧
    (let s : State := ready (inMem up (fill 48 [(0, 2, 7), (4, 4, 1), (15, 1, 255), (27, 1, 255), (39, 1, 255)])) (cmd 0x0706 (buf 48 0))
let sq : Fin 16 := 0
let c : Cmd := cmd 0x0706 (buf 48 0)
(Ready s sq 0x0706 c) ∧
(Clean (opChks c [] [(0, 48)])) ∧
(Reachable s c 0) ∧
(let b := memRead s (c.bufAddr 0) (c.bufLen 0)
let used := (List.range 4).filter fun i => fieldLE b (12 * i + 3) 1 ≠ 0xFF
(Clean (((List.range 4).flatMap fun i => capChks b (12 * i)) ++ [⟨used.isEmpty, 3, 0x03⟩])) ∧
capOn s = false)) ∧
    (let s : State := ready (weirUpd up fun w => { w with caps := [(0, { loop := 7, signal := 0, trig := 0, decim := 1, running := false, data := List.replicate 8 1 })] }) (cmd 0x0707 (buf 8 1 ++ [(24, 4, 1)]))
let sq : Fin 16 := 0
let c : Cmd := cmd 0x0707 (buf 8 1 ++ [(24, 4, 1)])
(Ready s sq 0x0707 c) ∧
(let k := c.op 24 4
let f := c.op 20 4
(Clean (opChks c [(16, 1), (20, 8)] [(1, 8 * min k 65536)] ++
  [rangeChk (decide (3 < c.op 16 1)) 16, rangeChk (decide (k < 1 ∨ 65536 < k)) 24])) ∧
(let d := (s.weir.caps.get (c.op 16 1) {}).data
(¬ (d.length < 8 * (f + k))) ∧
Reachable s c 0))) ∧
    (let s : State := ready (loaded 7) (cmd 0x0708 (buf 128 1 ++ [(16, 2, 7)]))
let sq : Fin 16 := 0
let c : Cmd := cmd 0x0708 (buf 128 1 ++ [(16, 2, 7)])
(Ready s sq 0x0708 c) ∧
(Clean (opChks c [(16, 2)] [(1, 128)] ++ loopChks c)) ∧
Reachable s c 0) ∧
    (let s : State := ready (setFld up Reg.WEI_STAT_CAP_STATE 2) (cmd 0x0709 ([]))
let sq : Fin 16 := 0
let c : Cmd := cmd 0x0709 ([])
(Ready s sq 0x0709 c) ∧
(Clean (opChks c [] [])) ∧
capOn s = true) := by
  iterate 11 refine ⟨by decide +kernel, ?_⟩
  decide +kernel

/-- The hypotheses of each clause of BasinEventComplete are met, clause by clause: BASIN_SAMPLE, CYCLE_END, WINDOW_END, TEMP_UPDATE, BASIN_COMMIT, CHANNEL_STUCK, CHANNEL_RECOVER, CHANNEL_DISABLED_WHILE_STUCK, INTERVAL_END, INTERVAL_LEN_WRITE, RECONCILIATION_START, RECON_DONE. -/
theorem witness_BasinEventComplete :
    (let s : State := up
let k := s.el * 8000 / 65536 + 1
(s.bas.sampleIdx ≠ k) ∧
domState s 10 = 2) ∧
    (let s : State := basUpd up fun b => { b with cycDue := [(5, 0)] }
let f : Nat := 5
let x : Nat := 0
let r : List (Nat × Nat) := []
(domState s 10 = 2) ∧
s.bas.cycDue = (f, x) :: r) ∧
    (let s : State := basUpd up fun b => { b with winDue := [{ feeder := 5, freq := none, samples := [] }] }
let w : WinDue := { feeder := 5, freq := none, samples := [] }
let r : List WinDue := []
(domState s 10 = 2) ∧
s.bas.winDue = w :: r) ∧
    (let s : State := up
let k := dtSec s.dt + 1
(s.bas.tempSec ≠ k) ∧
domState s 10 = 2) ∧
    (let s : State := up
let k := dtSec s.dt + 1
(s.bas.commitSec ≠ k) ∧
domState s 10 = 2) ∧
    (let s : State := setFld (setFld up (Reg.BAS_CH_CFG_EN 41) 1) Reg.BAS_CLK_EN 63
let n : Fin 42 := 41
(chanOn s n.val = true) ∧
flag s (Reg.BAS_CH_CFG_FAULT n.val) = false) ∧
    (let s : State := setFld (setFld (setFld up (Reg.BAS_CH_CFG_EN 41) 1) Reg.BAS_CLK_EN 63) (Reg.BAS_CH_CFG_FAULT 41) 1
let n : Fin 42 := 41
(chanOn s n.val = true) ∧
flag s (Reg.BAS_CH_CFG_FAULT n.val) = true) ∧
    (let s : State := setFld up (Reg.BAS_CH_CFG_FAULT 41) 1
let n : Fin 42 := 41
(domState s 10 = 2) ∧
(chanOn s n.val = false) ∧
flag s (Reg.BAS_CH_CFG_FAULT n.val) = true) ∧
    (let s : State := up
let k := dtSec s.dt / intvSecs s
(s.bas.endIdx ≠ k + 1) ∧
(domState s 10 = 2) ∧
role s ≠ 3) ∧
    (let s : State := up
domState s 10 = 2) ∧
    (let s : State := later (basUpd up fun b => { b with waits := [{ feeder := 5, start := 0, endSec := 900, minutes := 15, secs := 900, step := false, m := 0, levels := [], at' := 0 }] }) 65536000
let w : ReconWait := { feeder := 5, start := 0, endSec := 900, minutes := 15, secs := 900, step := false, m := 0, levels := [], at' := 0 }
let r : List ReconWait := []
(s.bas.waits = w :: r) ∧
passedSec s w.at' (fld s Reg.BAS_INTERVAL_RECON_DELAY) = true) ∧
    (let s : State := basUpd up fun b => { b with running := [recon0] }
let x : Recon := recon0
let r : List Recon := []
(domState s 10 = 2) ∧
s.bas.running = x :: r) := by
  iterate 11 refine ⟨by decide +kernel, ?_⟩
  decide +kernel

/-- The hypotheses of each clause of BasinRingComplete are met, clause by clause: BAS_TEMP_TABLE_LOAD, BAS_VALUES_READ, BAS_ENERGY_READ, BAS_LANTERN_SET, BAS_ALLOC_READ, BAS_RECON_READ. -/
theorem witness_BasinRingComplete :
    (let s : State := ready (inMem up (fill 32 [(0, 1, 2), (20, 2, 5)])) (cmd 0x0800 (buf 32 0 ++ [(16, 1, 41)]))
let sq : Fin 16 := 0
let c : Cmd := cmd 0x0800 (buf 32 0 ++ [(16, 1, 41)])
(Ready s sq 0x0800 c) ∧
(let n := c.op 16 1
(Clean (opChks c [(16, 1)] [(0, 8)] ++ [rangeChk (decide (41 < n)) 16])) ∧
(Reachable s c 0) ∧
(let b := memRead s (c.bufAddr 0) (c.bufLen 0)
let k := fieldLE b 0 1
(Clean [rangeChk (decide (k < 1 ∨ 16 < k)) 0]) ∧
(Clean [⟨decide (c.bufLen 0 < 8 + 12 * k), 40, 0x04⟩]) ∧
(Clean (tempChks b k)) ∧
flag s Reg.BAS_CTRL_LOCK = false))) ∧
    (let s : State := ready (setFld up (Reg.BAS_FDR_CFG_EN 5) 1) (cmd 0x0801 (buf 128 1 ++ [(16, 1, 5)]))
let sq : Fin 16 := 0
let c : Cmd := cmd 0x0801 (buf 128 1 ++ [(16, 1, 5)])
(Ready s sq 0x0801 c) ∧
(let f := c.op 16 1
(Clean (opChks c [(16, 1)] [(1, 128)] ++ [feederChk c 16])) ∧
(flag s (Reg.BAS_FDR_CFG_EN f) = true) ∧
Reachable s c 0)) ∧
    (let s : State := ready (up) (cmd 0x0802 (buf 152 1 ++ [(16, 1, 5)]))
let sq : Fin 16 := 0
let c : Cmd := cmd 0x0802 (buf 152 1 ++ [(16, 1, 5)])
(Ready s sq 0x0802 c) ∧
(Clean (opChks c [(16, 1)] [(1, 152)] ++ [feederChk c 16])) ∧
Reachable s c 0) ∧
    (let s : State := ready (up) (cmd 0x0803 (buf 16 0 ++ [(16, 3, 5), (20, 4, 2)]))
let sq : Fin 16 := 0
let c : Cmd := cmd 0x0803 (buf 16 0 ++ [(16, 3, 5), (20, 4, 2)])
(Ready s sq 0x0803 c) ∧
(let n := c.op 16 3
let k := c.op 20 4
(Clean (opChks c [(16, 3), (20, 4)] [(0, 8 * min k 65536)] ++
  [ephChk c 16, rangeChk (decide (k < 1 ∨ 65536 < k)) 20, rangeChk (decide (n < foldSize ∧ foldSize < n + k)) 20])) ∧
(Reachable s c 0) ∧
(let b := memRead s (c.bufAddr 0) (c.bufLen 0)
Clean ((List.range k).flatMap fun i => (match firstNonZero b (8 * i + 6) 2 with | some o => [rsvChk true o] | none => []))))) ∧
    (let s : State := ready (basUpd up fun b => { b with done := [(5, [recon0])] }) (cmd 0x0804 (buf 16 1 ++ [(16, 1, 5), (24, 4, 1)]))
let sq : Fin 16 := 0
let c : Cmd := cmd 0x0804 (buf 16 1 ++ [(16, 1, 5), (24, 4, 1)])
(Ready s sq 0x0804 c) ∧
(let k := c.op 24 4
(Clean (opChks c [(16, 2), (20, 8)] [(1, 16 * min k 65536)] ++
  [feederChk c 16, rangeChk (decide (7 < c.op 17 1)) 17, rangeChk (decide (k < 1 ∨ 65536 < k)) 24])) ∧
(let x := recon0
((s.bas.done.get (c.op 16 1) [])[c.op 17 1]? = some x) ∧
Reachable s c 0))) ∧
    (let s : State := ready (basUpd up fun b => { b with done := [(5, [recon0])] }) (cmd 0x0805 (buf 68 1 ++ [(16, 1, 5)]))
let sq : Fin 16 := 0
let c : Cmd := cmd 0x0805 (buf 68 1 ++ [(16, 1, 5)])
(Ready s sq 0x0805 c) ∧
(Clean (opChks c [(16, 2)] [(1, 68)] ++ [feederChk c 16, rangeChk (decide (7 < c.op 17 1)) 17])) ∧
(let x := recon0
((s.bas.done.get (c.op 16 1) [])[c.op 17 1]? = some x) ∧
Reachable s c 0)) := by
  iterate 5 refine ⟨by decide +kernel, ?_⟩
  decide +kernel

/-- The hypotheses of each clause of CisternComplete are met, clause by clause: POWER_LOSS_HOLD_END, FOLD_GRACE_END, STORM, AUDIT_FRAM_WRITE, AUDIT_ARCHIVE. -/
theorem witness_CisternComplete :
    (let s : State := later (cisUpd up fun c => { c with held := [{ eph := 5, feeder := 7, detail := 0, dt := 0, arrived := 0 }] }) 65536000
let h : HeldLoss := { eph := 5, feeder := 7, detail := 0, dt := 0, arrived := 0 }
let r : List HeldLoss := []
(s.cis.held = h :: r) ∧
passedSec s h.arrived (fld s Reg.CIS_FOLD_HOLD) = true) ∧
    (let s : State := { setFold up 5 { active := true } with el := 655360000 }
let f : Fin 6 := 5
let c := foldAt s f
(c.active = true) ∧
(c.causes = 0) ∧
passedSec s c.ended (fld s Reg.CIS_FOLD_GRACE) = true) ∧
    (let s : State := { up with dt := 65536 }
s.cis.stormSec ≠ dtSec s.dt) ∧
    (let s : State := cisUpd up fun c => { c with pend1 := [rec0] }
let r : CisRec := rec0
let rest : List CisRec := []
(s.cis.pend1 = r :: rest) ∧
(let held := ((s.cis.fram1 ++ [r]).map CisRec.len).sum
held ≤ 2097152)) ∧
    (let s : State := { up with el := 235929600 }
let fresh := s.cis.fram1
(1048576 ≤ (fresh.map CisRec.len).sum ∨ passedSec s s.cis.arch1At 3600 = true)) := by
  iterate 4 refine ⟨by decide +kernel, ?_⟩
  decide +kernel

/-- The hypotheses of each clause of CisternRingComplete are met, clause by clause: CIS_WIN_READ, CIS_READ, CIS_SNAP_PIN, CIS_SNAP_READ, CIS_SNAP_RELEASE, CIS_CLEAR_CHALLENGE, CIS_SEC_CLEAR. -/
theorem witness_CisternRingComplete :
    (let s : State := ready (up) (cmd 0x0900 (buf 528 1))
let sq : Fin 16 := 0
let c : Cmd := cmd 0x0900 (buf 528 1)
(Ready s sq 0x0900 c) ∧
(Clean (opChks c [] [(1, 528)])) ∧
Reachable s c 0) ∧
    (let s : State := ready (up) (cmd 0x0901 (buf 512 1 ++ [(17, 1, 1)]))
let sq : Fin 16 := 0
let c : Cmd := cmd 0x0901 (buf 512 1 ++ [(17, 1, 1)])
(Ready s sq 0x0901 c) ∧
(let cls := c.op 17 1
let first := c.op 24 6
(Clean (opChks c [(17, 1), (24, 6)] [(1, 512)] ++ [⟨decide (3 < cls), 17, 0x03⟩, rangeChk (decide (s.cis.nseq ≤ first)) 24])) ∧
(let new := s.cis.live.filter fun l => !l.archived
let wanted (r : CisRec) : Bool := decide (first ≤ r.seq) && bit cls r.cls
let all := (s.cis.arch0.filter fun r => !isBad s 0 r) ++ (new.filter fun l => !l.torn).map LiveRec.body
let f := takeFit 65535 (c.bufLen 0) (all.filter wanted)
let last := (match f.2.2 with | some r => r.seq | none => s.cis.nseq)
let passed (r : CisRec) : Bool := wanted r && decide (r.seq < last)
let s1 := skipTorn (skipBad s 0 (s.cis.arch0.filter passed)) (new.filter fun l => passed l.body)
Reachable s1 c 0))) ∧
    (let s : State := ready (cisUpd up fun c => { c with arch1 := [rec0], nseq1 := 6 }) (cmd 0x0902 ([(16, 1, 3), (17, 1, 12), (24, 6, 1)]))
let sq : Fin 16 := 0
let c : Cmd := cmd 0x0902 ([(16, 1, 3), (17, 1, 12), (24, 6, 1)])
(Ready s sq 0x0902 c) ∧
(let n := c.op 16 1
let cls := c.op 17 1
let first := c.op 24 6
let last := if c.op 32 6 = 0 then s.cis.nseq1 - 1 else c.op 32 6
(Clean (opChks c [(16, 2), (24, 6), (32, 6)] [] ++
  [rangeChk (decide (3 < n)) 16, ⟨decide (cls % 4 ≠ 0 ∨ 15 < cls), 17, 0x03⟩,
   rangeChk (decide (s.cis.nseq1 ≤ first ∨ last < first)) 24, rangeChk (decide (s.cis.nseq1 ≤ last)) 32])) ∧
(flag s (Reg.CIS_SNAP_PINNED n) = false) ∧
¬ (first < auditOseq s))) ∧
    (let s : State := ready (setReg (cisUpd up fun c => { c with arch1 := [rec0], nseq1 := 6 }) (Reg.CIS_SNAP_PINNED 3).off 0x8000000C#32) (cmd 0x0903 (buf 512 1 ++ [(16, 1, 3), (24, 6, 1)]))
let sq : Fin 16 := 0
let c : Cmd := cmd 0x0903 (buf 512 1 ++ [(16, 1, 3), (24, 6, 1)])
(Ready s sq 0x0903 c) ∧
(let n := c.op 16 1
let from' := c.op 24 6
(Clean (opChks c [(16, 1), (24, 6)] [(1, 512)] ++ [rangeChk (decide (3 < n)) 16, rangeChk (decide (s.cis.nseq1 ≤ from')) 24])) ∧
(flag s (Reg.CIS_SNAP_PINNED n) = true) ∧
(flag s (Reg.CIS_SNAP_INVALID n) = false) ∧
(let p := s.cis.snaps.get n {}
let l := (auditAll s).filter fun r => decide (from' ≤ r.seq ∧ p.first ≤ r.seq ∧ r.seq ≤ p.last) &&
  bit (reg s (Reg.CIS_SNAP_PINNED n).off).toNat r.cls
let (_, _, left) := takeFit 65535 (c.bufLen 0) (l.filter fun r => !isBad s 1 r)
let s0 := skipBad s 1 (l.filter fun r => match left with | some m => decide (r.seq < m.seq) | none => true)
Reachable s0 c 0))) ∧
    (let s : State := ready (setReg (cisUpd up fun c => { c with arch1 := [rec0], nseq1 := 6 }) (Reg.CIS_SNAP_PINNED 3).off 0x8000000C#32) (cmd 0x0904 ([(16, 1, 3)]))
let sq : Fin 16 := 0
let c : Cmd := cmd 0x0904 ([(16, 1, 3)])
(Ready s sq 0x0904 c) ∧
(let n := c.op 16 1
(Clean (opChks c [(16, 1)] [] ++ [rangeChk (decide (3 < n)) 16])) ∧
flag s (Reg.CIS_SNAP_PINNED n) = true)) ∧
    (let s : State := ready (up) (cmd 0x0905 ([]))
let sq : Fin 16 := 0
let c : Cmd := cmd 0x0905 ([])
(Ready s sq 0x0905 c) ∧
Clean (opChks c [] [])) ∧
    (let s : State := ready (keyUpd (cisUpd up fun c => { c with nseq1 := 6, nonce := some (0, 0) }) fun k => { k with slots := [(0, { attr := 0x3F310104, share := [1], mask := [0] })] }) (cmd 0x0906 (buf 40 0 ++ [(24, 6, 3)]))
let sq : Fin 16 := 0
let c : Cmd := cmd 0x0906 (buf 40 0 ++ [(24, 6, 3)])
(Ready s sq 0x0906 c) ∧
(let upTo := c.op 24 6
(Clean (opChks c [(24, 6)] [(0, 40)] ++ [rangeChk (decide (s.cis.nseq1 ≤ upTo)) 24])) ∧
(Reachable s c 0) ∧
(let b := memRead s (c.bufAddr 0) (c.bufLen 0)
((s.cis.nonce.any fun x => !passedSec s x.2 300 && decide (x.1 = fieldLE b 0 8)) = true) ∧
(let hit (r : CisRec) : Bool := decide (r.cls = 3 ∧ r.seq ≤ upTo)
(((List.range 4).any fun n =>
  let p := s.cis.snaps.get n {}
  flag s (Reg.CIS_SNAP_PINNED n) && bit (reg s (Reg.CIS_SNAP_PINNED n).off).toNat 3 &&
    (auditAll s).any fun r => hit r && decide (p.first ≤ r.seq ∧ r.seq ≤ p.last)) = false) ∧
(let key := [1]
internalUse s (fld s Reg.CIS_CTRL_CLEAR_SLOT) 3 2 8 = some key))))) := by
  iterate 6 refine ⟨by decide +kernel, ?_⟩
  decide +kernel

/-- The hypotheses of each clause of UpdatesRingComplete are met, clause by clause: UPD_OPEN, UPD_PIECE, UPD_VERIFY, UPD_ACTIVATE, UPD_CANCEL, UPD_CONFIRM, UPD_ERASE, UPD_EP_OFFER, UPD_EP_ACTIVATE, UPD_EP_STOP, UPD_EP_STATUS. -/
theorem witness_UpdatesRingComplete :
    (let s : State := ready (up) (cmd 0x0A00 ([(16, 1, 31), (20, 4, 4096), (24, 4, 9)]))
let sq : Fin 16 := 0
let c : Cmd := cmd 0x0A00 ([(16, 1, 31), (20, 4, 4096), (24, 4, 9)])
(Ready s sq 0x0A00 c) ∧
(let n := (slotNum (c.op 16 1)).getD 0
let total := c.op 20 4
let image := c.op 24 4
(Clean (opChks c [(16, 1), (20, 8)] [] ++
  [slotChk c, rangeChk (decide (total ≤ 512 ∨ slotSize n < total)) 20, rangeChk (decide (image = 0)) 24])) ∧
(slotHeld s n = false) ∧
campBusy s n = false)) ∧
    (let s : State := ready (withSlot 17 { state := 1, total := 4096, image := 9 }) (cmd 0x0A01 (buf 4096 0 ++ [(16, 1, 31), (24, 4, crc32c (List.replicate 4096 0))]))
let sq : Fin 16 := 0
let c : Cmd := cmd 0x0A01 (buf 4096 0 ++ [(16, 1, 31), (24, 4, crc32c (List.replicate 4096 0))])
let ok : Bool := true
(Ready s sq 0x0A01 c) ∧
(let n := (slotNum (c.op 16 1)).getD 0
let i := c.op 20 4
let x := slotOf s n
(Clean (opChks c [(16, 1), (20, 8)] [(0, 4096)] ++ [slotChk c, rangeChk (decide (0 < x.total ∧ x.numPieces ≤ i)) 20])) ∧
(Reachable s c 0) ∧
(let b := memRead s (c.bufAddr 0) (c.bufLen 0)
(x.state = 1) ∧
(isVerifying s n = false) ∧
(crc32c (b.take 4096) = c.op 24 4) ∧
(x.pieces.get i [] = []) ∧
ok = true))) ∧
    (let s : State := ready (withSlot 17 { slot2 with state := 1 }) (cmd 0x0A02 ([(16, 1, 31)]))
let sq : Fin 16 := 0
let c : Cmd := cmd 0x0A02 ([(16, 1, 31)])
(Ready s sq 0x0A02 c) ∧
(let n := (slotNum (c.op 16 1)).getD 0
(Clean (opChks c [(16, 1)] [] ++ [slotChk c])) ∧
((!((slotOf s n).full || (slotOf s n).delivered)) = false) ∧
isVerifying s n = false)) ∧
    (let s : State := ready (withSlot 1 slot2) (cmd 0x0A03 ([(16, 1, 1), (24, 8, 3932160)]))
let sq : Fin 16 := 0
let c : Cmd := cmd 0x0A03 ([(16, 1, 1), (24, 8, 3932160)])
(Ready s sq 0x0A03 c) ∧
(let n := c.op 16 1
let x := slotOf s n
let t := c.op 24 8
(Clean (opChks c [(16, 1), (24, 8)] [] ++ [rangeChk (decide (1 < n)) 16, dtChk c 24])) ∧
(x.state = 2) ∧
((s.upd.rescue = true ∨ s.dt + 60 * 65536 ≤ t)) ∧
(s.upd.act.isSome = false) ∧
(inTrial s = false) ∧
s.upd.floor ≤ x.svn)) ∧
    (let s : State := ready (updUpd up fun u => { u with act := some { slot := 1, actDt := 3932160 } }) (cmd 0x0A04 ([]))
let sq : Fin 16 := 0
let c : Cmd := cmd 0x0A04 ([])
(Ready s sq 0x0A04 c) ∧
(Clean (opChks c [] [])) ∧
(let a := { slot := 1, actDt := 3932160 }
(s.upd.act = some a) ∧
actDue s = false)) ∧
    (let s : State := ready (updUpd up fun u => { u with boot := some boot1 }) (cmd 0x0A05 ([]))
let sq : Fin 16 := 0
let c : Cmd := cmd 0x0A05 ([])
(Ready s sq 0x0A05 c) ∧
(Clean (opChks c [] [])) ∧
inTrial s = true) ∧
    (let s : State := ready (up) (cmd 0x0A06 ([(16, 1, 1)]))
let sq : Fin 16 := 0
let c : Cmd := cmd 0x0A06 ([(16, 1, 1)])
(Ready s sq 0x0A06 c) ∧
(let n := (slotNum (c.op 16 1)).getD 0
(Clean (opChks c [(16, 1)] [] ++ [slotChk c])) ∧
(slotHeld s n = false) ∧
campBusy s n = false)) ∧
    (let s : State := ready (withSlot 2 slot2) (cmd 0x0A07 ([(16, 1, 16), (18, 2, 3), (20, 1, 1), (21, 1, 1), (22, 2, 60), (24, 8, 131072), (32, 1, 1)]))
let sq : Fin 16 := 0
let c : Cmd := cmd 0x0A07 ([(16, 1, 16), (18, 2, 3), (20, 1, 1), (21, 1, 1), (22, 2, 60), (24, 8, 131072), (32, 1, 1)])
(Ready s sq 0x0A07 c) ∧
(let k := c.op 16 1 - 16
let t := c.op 24 8
(Clean (opChks c [(16, 17), (34, 4)] [] ++
  [epSlotChk c, rsvChk (decide (1 < c.op 17 1)) 17, rangeChk (decide (c.op 20 1 = 0)) 20, rangeChk (decide (c.op 21 1 = 0)) 21,
   rangeChk (decide (c.op 22 2 < 60)) 22, dtChk c 24, rangeChk (decide (c.op 32 1 = 0)) 32,
   rangeChk (decide (1439 < c.op 34 2)) 34, rangeChk (decide (1439 < c.op 36 2)) 36])) ∧
(let x := slotOf s (k + 2)
(x.state = 2) ∧
(campBusy s (k + 2) = false) ∧
(bit (fieldLE x.manifest 27 1) 3 = true) ∧
(s.dt + 2 * 65536 ≤ t) ∧
commitRoom s 1 = true))) ∧
    (let s : State := ready (withCamp up { state := 2 }) (cmd 0x0A08 ([(16, 1, 16), (18, 2, 1), (20, 2, 60), (24, 8, 131072)]))
let sq : Fin 16 := 0
let c : Cmd := cmd 0x0A08 ([(16, 1, 16), (18, 2, 1), (20, 2, 60), (24, 8, 131072)])
(Ready s sq 0x0A08 c) ∧
(let k := c.op 16 1 - 16
let t := c.op 24 8
let win := c.op 18 2
(Clean (opChks c [(16, 6), (24, 8)] [] ++
  [epSlotChk c, rsvChk (decide (1 < c.op 17 1)) 17, rangeChk (decide (win = 0)) 18, rangeChk (decide (c.op 20 2 < 60)) 20, dtChk c 24])) ∧
(let camp := campAt s k
(camp.state = 2) ∧
(s.dt + 2 * 65536 ≤ t) ∧
commitRoom s 1 = true))) ∧
    (let s : State := ready (withCamp up { state := 2 }) (cmd 0x0A09 ([(16, 1, 16), (17, 1, 1)]))
let sq : Fin 16 := 0
let c : Cmd := cmd 0x0A09 ([(16, 1, 16), (17, 1, 1)])
(Ready s sq 0x0A09 c) ∧
(let k := c.op 16 1 - 16
(Clean (opChks c [(16, 2)] [] ++ [epSlotChk c, rsvChk (decide (1 < c.op 17 1)) 17])) ∧
(let camp := campAt s k
(camp.state ≠ 0) ∧
(camp.state ≠ 4) ∧
(let pend := pendingAct s k
(bit (c.op 17 1) 0 = true → commitRoom s (1 + b2n pend.isSome) = true))))) ∧
    (let s : State := ready (up) (cmd 0x0A0A (buf 64 1 ++ [(16, 1, 16)]))
let sq : Fin 16 := 0
let c : Cmd := cmd 0x0A0A (buf 64 1 ++ [(16, 1, 16)])
(Ready s sq 0x0A0A c) ∧
(Clean (opChks c [(16, 1)] [(1, 64)] ++ [epSlotChk c])) ∧
Reachable s c 0) := by
  iterate 10 refine ⟨by decide +kernel, ?_⟩
  decide +kernel

/-- The hypotheses of each clause of UpdatesEventComplete are met, clause by clause: IMAGE_VERIFIED, ACTIVATION_DUE, IMAGE_CONFIRMED, HEALTH_WINDOW_EXPIRY, ROUND_START, IMAGE_BLOCK, EP_ACTIVATION_DONE. -/
theorem witness_UpdatesEventComplete :
    (let s : State := updUpd up fun u => { u with verifying := [(0, ref0, none)] }
let n : Nat := 0
let ref : CmdRef := ref0
let key : Option (List Byte) := none
let r : List (Nat × CmdRef × Option (List Byte)) := []
s.upd.verifying = (n, ref, key) :: r) ∧
    ((let s := activating
   s.upd.act = some act0 ∧ running s = true ∧ actDue s = true ∧ fld s Reg.PWR_STAT_STEP = 9 ∧ flag s Reg.PWR_STAT_PF = false ∧
     (allFetched (stopForActivation s act0)).isEmpty = true) ∧
  (let s := ready activating { cmd 0x0A02 [] with started := true }
   s.upd.act = some act0 ∧ running s = true ∧ actDue s = true ∧ fld s Reg.PWR_STAT_STEP = 9 ∧ flag s Reg.PWR_STAT_PF = false ∧
     (allFetched (stopForActivation s act0)).isEmpty = false ∧ act0.since.any (fun t => passedMs s t 20) = false)) ∧
    (let s : State := updUpd (setFld (setFld up Reg.PWR_STAT_STEP 9) Reg.BST_STAT_START 1) fun u => { u with boot := some boot1 }
let b : BootRec := boot1
(s.upd.boot = some b) ∧
(b.booted = true) ∧
(fld s Reg.PWR_STAT_STEP = 9) ∧
(fld s Reg.BST_STAT_START = 1) ∧
((flag s Reg.UPD_CTRL_HOST_CONFIRM = false ∨ s.upd.hostConfirm = true)) ∧
passedSec s s.upd.trialSince b.win = false) ∧
    (let s : State := { updUpd up (fun u => { u with boot := some boot1 }) with el := 65536000 }
let r : BootRec := boot1
(s.upd.boot = some r) ∧
(running s = true) ∧
(r.booted = true) ∧
passedSec s s.upd.trialSince r.win = true) ∧
    (let s : State := atDt (withCamp (withSlot 2 slot2) { state := 1, targets := [5], maxRounds := 1 }) 655360
let k : Nat := 0
(List.range 16).find? (roundDue s) = some k) ∧
    (let s : State := atDt (withCamp (withSlot 2 slot2) { state := 1, wins := [imgWin0] }) slotDt1
let k : Nat := 0
let w : ImgWin := imgWin0
(chainLeft s 2 = true) ∧
blockDue s = some (k, w)) ∧
    (let s : State := withCamp up { state := 3, act := some { id := 0, tally := 0, ref := none } }
let k : Nat := 0
((List.range 16).find? fun k => (campAt s k).act.any fun a => decide (a.tally ≤ s.dt)) = some k) := by
  iterate 6 refine ⟨by decide +kernel, ?_⟩
  decide +kernel

/-- The hypotheses of each clause of FountainEventComplete are met, clause by clause: SUPERFRAME, BOOST_PERIOD, OPEN_STRING, LED_SHORT, OVERTEMP, PIN_TEST, FIXTURE_TEMP_UPDATE, STATUS. -/
theorem witness_FountainEventComplete :
    (let s : State := up
let k := s.el * 9375 / (64 * 65536) + 1
(s.ftn.boundary ≠ k) ∧
domState s 11 = 2) ∧
    (let s : State := up
domState s 11 = 2) ∧
    (let s : State := lit
let n : Fin 16 := 3
(sinkActive s n.val = true) ∧
flag s (Reg.FTN_SINK_STAT_OPEN n.val) = false) ∧
    (let s : State := ftnUpd (setFld (setFld lit Reg.FTN_PINTEST_SHORT_MV 100) (Reg.FTN_SINK_CFG_EN 5) 1) fun f => { f with headroom := [(3, 900)], latched := f.latched.set 65541 (9, 1, 0) (0, 0, 0) }
let n : Fin 16 := 3
let extra := s.ftn.headroom.get n.val 0 - (lowestHeadroom s).getD 0
(sinkActive s n.val = true) ∧
(flag s (Reg.FTN_SINK_STAT_SHORT n.val) = false) ∧
fld s Reg.FTN_PINTEST_SHORT_MV ≤ extra) ∧
    ((domState up 11 = 2 ∧ (125 : Int) ≤ 125 ∧ (109 : Int) < 110)) ∧
    (let s : State := later (setFld lit Reg.FTN_PINTEST_PERIOD 1) 65536000
let k : Nat := 3
let per := fld s Reg.FTN_PINTEST_PERIOD
(per ≠ 0) ∧
(ftnOutputs s = true) ∧
(let begins := decide (15 ≤ s.ftn.pinNext) && passedSec s (s.ftn.pinAt - 1) per
((s.ftn.pinNext < 15 ∨ begins = true)) ∧
(let s1 := if begins then ftnUpd s fun f => { f with pinAt := s.el + 1, pinNext := 0 } else s
((List.range 15).find? fun k => decide (s1.ftn.pinNext ≤ k) && pairTestable s1 k) = some k))) ∧
    (let s : State := up
let k := dtSec s.dt + 1
(s.ftn.tempSec ≠ k) ∧
domState s 11 = 2) ∧
    (let s : State := updFlb up 1 fun f => { f with asked := some 5 }
let p : Fin 2 := 1
let a : Nat := 5
let l : List Byte := [0xD5, 5, 0x30, 2, 1, 0] ++ leBytes 2 (crc16 [0xD5, 5, 0x30, 2, 1, 0])
(domState s 11 = 2) ∧
((flbAt s p.val).asked = some a) ∧
(2 ≤ l.length) ∧
(let n := l.length - 2
(fieldLE l n 2 = crc16 (l.take n)) ∧
(l.length = 8) ∧
(fieldLE l 0 1 = 0xD5) ∧
(fieldLE l 1 2 = a + 3 * 4096) ∧
fieldLE l 3 1 = 2)) := by
  iterate 7 refine ⟨by decide +kernel, ?_⟩
  decide +kernel

/-- The hypotheses of each clause of FountainRingComplete are met, clause by clause: FTN_FIXTURE_LOAD, FTN_FIXTURE_SET, FTN_CHAN_SET, FTN_COLOR_SET, FTN_JET_LOAD, FTN_JET_START, FTN_JET_STOP, FTN_JET_EVENT, FTN_FAULT_CLEAR. -/
theorem witness_FountainRingComplete :
    (let s : State := ready (inMem up (fill 80 [(0, 1, 1), (8, 2, 5), (22, 2, 9), (24, 2, 7)])) (cmd 0x0B00 (buf 80 0 ++ [(16, 2, 7), (20, 2, 1)]))
let sq : Fin 16 := 0
let c : Cmd := cmd 0x0B00 (buf 80 0 ++ [(16, 2, 7), (20, 2, 1)])
(Ready s sq 0x0B00 c) ∧
(let k := c.op 20 2
let f := c.op 16 2
(Clean (opChks c [(16, 2), (20, 2)] [(0, 80 * min k 16384)] ++ ftnRange c 16 k 16384 16384)) ∧
(Reachable s c 0) ∧
(let b := memRead s (c.bufAddr 0) (c.bufLen 0)
(Clean ((List.range k).flatMap fun i => fixtureChks b (80 * i))) ∧
(let m := (List.range k).foldl (fun (m : SMap (Option Fixture)) i => m.set (f + i) (some (Fixture.ofBytes b (80 * i))) none) s.ftn.fixtures
(hasRepeat (mapped m) = false) ∧
((List.range k).any fun i => jetFix s (f + i)) = false)))) ∧
    (let s : State := ready (ftnUpd up fun f => { f with fixtures := [(7, some (Fixture.ofBytes (fill 80 []) 0))] }) (cmd 0x0B01 ([(16, 2, 7), (18, 2, 30000), (20, 2, 30000), (22, 2, 100)]))
let sq : Fin 16 := 0
let c : Cmd := cmd 0x0B01 ([(16, 2, 7), (18, 2, 30000), (20, 2, 30000), (22, 2, 100)])
(Ready s sq 0x0B01 c) ∧
(let n := c.op 16 2
(Clean (opChks c [(16, 8)] [] ++ [rangeChk (decide (16384 ≤ n)) 16])) ∧
(jetFix s n = false) ∧
(let f := Fixture.ofBytes (fill 80 []) 0
fixAt s n = some f))) ∧
    (let s : State := ready (up) (cmd 0x0B02 ([(18, 2, 3), (20, 1, 1), (24, 2, 999)]))
let sq : Fin 16 := 0
let c : Cmd := cmd 0x0B02 ([(18, 2, 3), (20, 1, 1), (24, 2, 999)])
(Ready s sq 0x0B02 c) ∧
(let kind := c.op 16 1
let f := c.op 18 2
let k := c.op 20 1
(Clean (opChks c [(16, 1), (18, 3), (24, 2 * min k 16)] [] ++ [rangeChk (decide (1 < kind)) 16] ++
  (let lim := if kind = 0 then 16 else 65536
   [rangeChk (decide (lim ≤ f)) 18, rangeChk (decide (k < 1 ∨ 16 < k)) 20, rangeChk (decide (f < lim ∧ lim < f + k)) 20]))) ∧
(let ch (i : Nat) : Nat := if kind = 0 then sinkChan (f + i) else f + i
((List.range k).any fun i => decide (codeSrc s (ch i) ≠ 0)) = false))) ∧
    (let s : State := ready (up) (cmd 0x0B03 ([(16, 1, 254), (18, 2, 1), (20, 2, 2)]))
let sq : Fin 16 := 0
let c : Cmd := cmd 0x0B03 ([(16, 1, 254), (18, 2, 1), (20, 2, 2)])
(Ready s sq 0x0B03 c) ∧
Clean (opChks c [(16, 1), (18, 4)] [] ++ [rangeChk (decide (254 < c.op 16 1)) 16, rangeChk (decide (c.op 20 2 = 0)) 20])) ∧
    (let s : State := ready (inMem up (fill 28 [(0, 2, 1), (4, 2, 1), (16, 1, 7)])) (cmd 0x0B04 (buf 28 0 ++ [(16, 1, 15)]))
let sq : Fin 16 := 0
let c : Cmd := cmd 0x0B04 (buf 28 0 ++ [(16, 1, 15)])
(Ready s sq 0x0B04 c) ∧
(let j := c.op 16 1
(Clean (opChks c [(16, 1)] [(0, 28)] ++ [jetChk c])) ∧
(Reachable s c 0) ∧
(let b := memRead s (c.bufAddr 0) (c.bufLen 0)
let n := fieldLE b 0 2
(Clean [rangeChk (decide (n < 1 ∨ 256 < n)) 0]) ∧
(Clean [⟨decide (c.bufLen 0 < 16 + 12 * n), 40, 0x04⟩]) ∧
(let p := JetProg.ofBytes b
(Clean (progChks b p)) ∧
(jetAt s j).state = 0)))) ∧
    (let s : State := ready (ftnUpd up fun f => { f with jets := [(15, { prog := some jet0 })] }) (cmd 0x0B05 ([(16, 1, 15), (24, 8, 655360)]))
let sq : Fin 16 := 0
let c : Cmd := cmd 0x0B05 ([(16, 1, 15), (24, 8, 655360)])
(Ready s sq 0x0B05 c) ∧
(let j := c.op 16 1
(Clean (opChks c [(16, 1), (24, 8)] [] ++ [jetChk c, dtChk c 24])) ∧
(let p := jet0
((jetAt s j).prog = some p) ∧
((jetAt s j).state = 0) ∧
targetTaken s j p = false))) ∧
    (let s : State := ready (ftnUpd up fun f => { f with jets := [(15, { prog := some jet0, state := 2 })] }) (cmd 0x0B06 ([(16, 1, 15)]))
let sq : Fin 16 := 0
let c : Cmd := cmd 0x0B06 ([(16, 1, 15)])
(Ready s sq 0x0B06 c) ∧
(let j := c.op 16 1
(Clean (opChks c [(16, 1)] [] ++ [jetChk c])) ∧
(jetAt s j).state ≠ 0)) ∧
    (let s : State := ready (ftnUpd up fun f => { f with jets := [(15, { prog := some jet0, state := 2 })] }) (cmd 0x0B07 ([(16, 1, 15), (17, 1, 7)]))
let sq : Fin 16 := 0
let c : Cmd := cmd 0x0B07 ([(16, 1, 15), (17, 1, 7)])
(Ready s sq 0x0B07 c) ∧
(let j := c.op 16 1
let f := c.op 17 1
(Clean (opChks c [(16, 2)] [] ++ [jetChk c, rangeChk (decide (7 < f)) 17])) ∧
(let x := jetAt s j
x.state ≠ 0))) ∧
    (let s : State := ready (setFld up (Reg.FTN_SINK_STAT_SHORT 15) 1) (cmd 0x0B08 ([(18, 2, 15)]))
let sq : Fin 16 := 0
let c : Cmd := cmd 0x0B08 ([(18, 2, 15)])
(Ready s sq 0x0B08 c) ∧
(let kind := c.op 16 1
let v := c.op 18 2
(Clean (opChks c [(16, 1), (18, 2)] [] ++ [rangeChk (decide (1 < kind)) 16, rangeChk (decide (kind = 0 ∧ 15 < v)) 18,
  rsvChk (decide (kind = 1 ∧ 8192 ≤ v)) 19])) ∧
(let fs := [Reg.FTN_SINK_STAT_OPEN v, Reg.FTN_SINK_STAT_SHORT v, Reg.FTN_SINK_STAT_PIN v]
let p := v / 4096
let a := v % 4096
((kind = 0 → fs.any (flag s) = true)) ∧
(kind ≠ 0 → (flbAt s p).faults.get a false = true)))) := by
  iterate 8 refine ⟨by decide +kernel, ?_⟩
  decide +kernel

/-- The hypotheses of each clause of OxEventComplete are met, clause by clause: OX_CYCLE, WDOG_OVERRUN, ANSWER, RIO_TIMEOUT, DALI_RECEIVE, DIN_LEVEL_ACCEPT. -/
theorem witness_OxEventComplete :
    (let s : State := oxRunning
let conv : List Word := []
let inUs : Fin 31 := 0
let s1 := oxBegin s conv
let c := oxRun s1 inUs
(oxReady s = true) ∧
c.done = true) ∧
    (let s : State := oxUpd (setFld up Reg.OX_STAT_STATE 2) fun o => { o with hasProg := true, banks := [(0, { bytes := fill 152 [(18, 2, 1000), (24, 4, 128), (28, 4, 1), (128, 4, 0x90000000)], status := 2 })] }
let conv : List Word := []
let inUs : Fin 31 := 0
let s1 := oxBegin s conv
let c := oxRun s1 inUs
(oxReady s = true) ∧
c.done = false) ∧
    (let s : State := setPort oxRunning 1 { asked := some 0 }
let p : Fin 2 := 1
let b : List Byte := [0xA3, 0x23, 5, 0, 1, 2, 3, 4] ++ leBytes 2 (crc16 [0xA3, 0x23, 5, 0, 1, 2, 3, 4])
let i := 0
let e := ({ port := 1, addr := 3, inW := 1, outW := 1, inO := 16, outO := 16 } : RioCfg)
let w := [0x04030201]
(domState s 11 = 2) ∧
(rioAsked s p = some (i, e)) ∧
answerWords e b = some w) ∧
    (let s : State := setPort oxRunning 1 { asked := some 0 }
let p : Fin 2 := 1
let i := 0
let e := ({ port := 1, addr := 3, inW := 1, outW := 1, inO := 16, outO := 16 } : RioCfg)
(domState s 11 = 2) ∧
rioAsked s p = some (i, e)) ∧
    (let s : State := setDali up 1 { daliAt up 1 with busy := some 5 }
let p : Fin 2 := 1
let w : Nat := 5
let d := daliAt s p
(domState s 11 = 2) ∧
d.busy = some w) ∧
    (let s : State := up
let n : Fin 24 := 23
let x : DinLevel := { high := true, held := 1000 }
(domState s 11 = 2) ∧
dinFilter s n.val ≤ x.held) := by
  iterate 5 refine ⟨by decide +kernel, ?_⟩
  decide +kernel

/-- The hypotheses of each clause of OxRingComplete are met, clause by clause: OX_LOAD, OX_VALIDATE, OX_SWITCH, OX_START, OX_STOP, OX_FORCE_SET, OX_FORCE_CLEAR, OX_READ, OX_WRITE. -/
theorem witness_OxRingComplete :
    (let s : State := ready (up) (cmd 0x0C00 (buf 8 0 ++ [(20, 4, 128)]))
let sq : Fin 16 := 0
let c : Cmd := cmd 0x0C00 (buf 8 0 ++ [(20, 4, 128)])
(Ready s sq 0x0C00 c) ∧
(let o := c.op 20 4
let n := c.bufLen 0
(Clean (opChks c [(20, 4)] [(0, 0)] ++
  [rangeChk (decide (o % 4 ≠ 0 ∨ 131072 < o + n)) 20, rangeChk (decide (n % 4 ≠ 0)) 48])) ∧
(Reachable s c 0) ∧
oxSwitchPending s = false)) ∧
    (let s : State := ready (oxLoaded 1) (cmd 0x0C01 ([]))
let sq : Fin 16 := 0
let c : Cmd := cmd 0x0C01 ([])
(Ready s sq 0x0C01 c) ∧
(Clean (opChks c [] [])) ∧
(oxSwitchPending s = false) ∧
((oxIdle s).status ≠ 0) ∧
(let b := (oxIdle s).bytes
(imgIntact b = true) ∧
(let r := if imgSigned b then
    verifyUnder s (fld s Reg.OX_CTRL_SIG_SLOT) 8 (b.take (imgBodyEnd b)) (sliceB b (imgBodyEnd b) 96)
  else (s, !flag s Reg.OX_CTRL_SIG_REQ)
(r.2 = true) ∧
imgBad b (oxProgId s) = none))) ∧
    (let s : State := ready (oxLoaded 2) (cmd 0x0C02 ([]))
let sq : Fin 16 := 0
let c : Cmd := cmd 0x0C02 ([])
(Ready s sq 0x0C02 c) ∧
(Clean (opChks c [] [])) ∧
((oxIdle s).status = 2) ∧
(oxSwitchPending s = false) ∧
oxState s ≠ 3) ∧
    (let s : State := ready (oxUpd up fun o => { o with hasProg := true }) (cmd 0x0C03 ([]))
let sq : Fin 16 := 0
let c : Cmd := cmd 0x0C03 ([])
(Ready s sq 0x0C03 c) ∧
(Clean (opChks c [] [])) ∧
(oxState s ≠ 2) ∧
(oxState s ≠ 3) ∧
s.ox.hasProg = true) ∧
    (let s : State := ready (oxRunning) (cmd 0x0C04 ([]))
let sq : Fin 16 := 0
let c : Cmd := cmd 0x0C04 ([])
(Ready s sq 0x0C04 c) ∧
(Clean (opChks c [] [])) ∧
oxState s = 2) ∧
    (let s : State := ready (oxRunning) (cmd 0x0C05 ([(16, 4, 9), (20, 2, 1), (24, 4, 255), (28, 4, 7)]))
let sq : Fin 16 := 0
let c : Cmd := cmd 0x0C05 ([(16, 4, 9), (20, 2, 1), (24, 4, 255), (28, 4, 7)])
(Ready s sq 0x0C05 c) ∧
(let f : Force := { symbol := c.op 16 4, word := c.op 20 2, mask := c.op 24 4, value := c.op 28 4 }
(Clean (opChks c [(16, 6), (24, 8)] [])) ∧
(((imgSyms (oxImg s)).any fun y => decide (y.id = f.symbol ∧ f.word < y.words ∧ y.kind ≠ 1)) = true) ∧
(let l := forceSlots s
let i := 0
forceSlot l f = some i))) ∧
    (let s : State := ready (oxUpd up fun o => { o with forces := [some { symbol := 9, word := 1, mask := 255, value := 7 }] }) (cmd 0x0C06 ([(16, 4, 9), (20, 2, 1)]))
let sq : Fin 16 := 0
let c : Cmd := cmd 0x0C06 ([(16, 4, 9), (20, 2, 1)])
(Ready s sq 0x0C06 c) ∧
(Clean (opChks c [(16, 7)] [] ++ [rsvChk (decide (1 < c.op 22 1)) 22])) ∧
(let all := bit (c.op 22 1) 0
let hit := forceIs all (c.op 16 4) (c.op 20 2)
let n := (s.ox.forces.filter hit).length
(decide (n = 0) && !all) = false)) ∧
    (let s : State := ready (up) (cmd 0x0C07 (buf 8 1 ++ [(16, 2, 0x8100), (20, 2, 2)]))
let sq : Fin 16 := 0
let c : Cmd := cmd 0x0C07 (buf 8 1 ++ [(16, 2, 0x8100), (20, 2, 2)])
(Ready s sq 0x0C07 c) ∧
(Clean (oxRangeChks c false)) ∧
Reachable s c 0) ∧
    (let s : State := ready (up) (cmd 0x0C08 (buf 8 0 ++ [(16, 2, 5), (20, 2, 2)]))
let sq : Fin 16 := 0
let c : Cmd := cmd 0x0C08 (buf 8 0 ++ [(16, 2, 5), (20, 2, 2)])
(Ready s sq 0x0C08 c) ∧
(let a := c.op 16 2
let n := c.op 20 2
(Clean (oxRangeChks c true)) ∧
(Reachable s c 0) ∧
(((drivenWords s).any fun w => decide (a ≤ w ∧ w < a + n)) = false) ∧
¬ (oxArea a = 2 ∧ oxState s ≠ 2))) := by
  iterate 8 refine ⟨by decide +kernel, ?_⟩
  decide +kernel

/-- The hypotheses of each clause of KeysComplete are met, clause by clause: KEY_UPDATE, KEY_INFO, KEY_CIPHER, KEY_MAC, KEY_SIGN, KEY_VERIFY, KEY_DERIVE, KEY_RANDOM, KEY_IDENTITY, KEY_TK_EXPORT, KEY_SCRAP, OTP_READ, PUF_CLEAR. -/
theorem witness_KeysComplete :
    (let s : State := ready (inMem up keyBytes) (cmd 0x0D00 (buf 300 0))
let sq : Fin 16 := 0
let c : Cmd := cmd 0x0D00 (buf 300 0)
let burnOk : Bool := true
(Ready s sq 0x0D00 c) ∧
(Clean (opChks c [] [(0, 256)])) ∧
(Reachable s c 0) ∧
(let b := memRead s (c.bufAddr 0) (c.bufLen 0)
let m := KeyMsg.ofBytes b
(256 + m.len ≤ c.bufLen 0) ∧
(Clean (keyMsgChks s b)) ∧
(keyMsgBurns s m = true → burnOk = true))) ∧
    (let s : State := ready (up) (cmd 0x0D01 (buf 112 1 ++ [(16, 1, 63)]))
let sq : Fin 16 := 0
let c : Cmd := cmd 0x0D01 (buf 112 1 ++ [(16, 1, 63)])
(Ready s sq 0x0D01 c) ∧
(Clean (opChks c [(16, 1)] [(1, 16)] ++ [rangeChk (decide (63 < c.op 16 1)) 16])) ∧
Reachable s c 0) ∧
    (let s : State := ready (keyed 0x3F131003) (cmd 0x0D02 (buf2 32 36))
let sq : Fin 16 := 0
let c : Cmd := cmd 0x0D02 (buf2 32 36)
(Ready s sq 0x0D02 c) ∧
(let dec := bit (c.op 17 1) 0
let aad := c.op 18 2
let overhead := 12 + aad + (if dec then 16 else 0)
let n := c.bufLen 0 - overhead
let out := n + (if dec then 0 else 16)
(Clean (opChks c [(16, 4)] [(0, overhead + 1), (1, out)] ++ slotChks s c [1, 2] ++
  [rsvChk (decide (2 ≤ c.op 17 1)) 17, rangeChk (decide (1024 < aad)) 18, rangeChk (decide (65536 < n)) 48])) ∧
(Reachable s c 0) ∧
(let k := slotAt s (c.op 16 1)
(k.attr ≠ 0) ∧
(useRefusal s k (if dec then 1 else 0) 12 (secureSq s c.sq) = none) ∧
(let s1 := remask (count1 s (Reg.KEY_CNT_COUNT 3)) (c.op 16 1)
Reachable s1 c 1)))) ∧
    (let s : State := ready (keyed 0x3F131003) (cmd 0x0D02 (buf2 32 20 ++ [(17, 1, 1)]))
let sq : Fin 16 := 0
let c : Cmd := cmd 0x0D02 (buf2 32 20 ++ [(17, 1, 1)])
(Ready s sq 0x0D02 c) ∧
(let dec := bit (c.op 17 1) 0
let aad := c.op 18 2
let overhead := 12 + aad + (if dec then 16 else 0)
let n := c.bufLen 0 - overhead
let out := n + (if dec then 0 else 16)
(Clean (opChks c [(16, 4)] [(0, overhead + 1), (1, out)] ++ slotChks s c [1, 2] ++
  [rsvChk (decide (2 ≤ c.op 17 1)) 17, rangeChk (decide (1024 < aad)) 18, rangeChk (decide (65536 < n)) 48])) ∧
(Reachable s c 0) ∧
(let k := slotAt s (c.op 16 1)
(k.attr ≠ 0) ∧
(useRefusal s k (if dec then 1 else 0) 12 (secureSq s c.sq) = none) ∧
(let s1 := remask (count1 s (Reg.KEY_CNT_COUNT 3)) (c.op 16 1)
Reachable s1 c 1)))) ∧
    (let s : State := ready (keyed 0x3F331004) (cmd 0x0D03 (buf2 5 32))
let sq : Fin 16 := 0
let c : Cmd := cmd 0x0D03 (buf2 5 32)
(Ready s sq 0x0D03 c) ∧
(let alg := c.op 17 1
(Clean (opChks c [(16, 2)] [(0, 1), (1, 32)] ++ slotChks s c (if alg = 0 then [3] else [1, 2]) ++
  [rangeChk (decide (1 < alg)) 17, rangeChk (decide (65536 < c.bufLen 0)) 48])) ∧
(Reachable s c 0) ∧
(let k := slotAt s (c.op 16 1)
(k.attr ≠ 0) ∧
(useRefusal s k 2 12 (secureSq s c.sq) = none) ∧
(let s1 := remask (count1 s (Reg.KEY_CNT_COUNT 3)) (c.op 16 1)
Reachable s1 c 1)))) ∧
    (let s : State := ready (keyed 0x3F531008) (cmd 0x0D04 (buf2 48 96))
let sq : Fin 16 := 0
let c : Cmd := cmd 0x0D04 (buf2 48 96)
(Ready s sq 0x0D04 c) ∧
(Clean (opChks c [(16, 1)] [(0, 48), (1, 96)] ++ slotChks s c [5])) ∧
(Reachable s c 0) ∧
(let k := slotAt s (c.op 16 1)
(k.attr ≠ 0) ∧
(useRefusal s k 3 12 (secureSq s c.sq) = none) ∧
(let s1 := remask (count1 s (Reg.KEY_CNT_COUNT 3)) (c.op 16 1)
let r := random s1 48
Reachable r.2 c 1))) ∧
    (let s : State := ready (keyed 0x3F431010) (cmd 0x0D05 (buf 144 0))
let sq : Fin 16 := 0
let c : Cmd := cmd 0x0D05 (buf 144 0)
(Ready s sq 0x0D05 c) ∧
(Clean (opChks c [(16, 1)] [(0, 144)] ++ slotChks s c [4])) ∧
(Reachable s c 0) ∧
(let k := slotAt s (c.op 16 1)
(k.attr ≠ 0) ∧
useRefusal s k 4 12 (secureSq s c.sq) = none)) ∧
    (let s : State := ready (keyed 0x3F331020) (cmd 0x0D06 (buf2 5 64 ++ [(17, 1, 64)]))
let sq : Fin 16 := 0
let c : Cmd := cmd 0x0D06 (buf2 5 64 ++ [(17, 1, 64)])
(Ready s sq 0x0D06 c) ∧
(let n := c.op 17 1
(Clean (opChks c [(16, 2)] [(0, 2), (1, n)] ++ slotChks s c [3] ++
  [rangeChk (decide (n < 16 ∨ 64 < n)) 17, rangeChk (decide (256 < c.bufLen 0)) 48])) ∧
(Reachable s c 0) ∧
(let k := slotAt s (c.op 16 1)
(k.attr ≠ 0) ∧
(useRefusal s k 5 12 (secureSq s c.sq) = none) ∧
(let s1 := remask (count1 s (Reg.KEY_CNT_COUNT 3)) (c.op 16 1)
Reachable s1 c 1)))) ∧
    (let s : State := ready (up) (cmd 0x0D07 (buf 16 1))
let sq : Fin 16 := 0
let c : Cmd := cmd 0x0D07 (buf 16 1)
(Ready s sq 0x0D07 c) ∧
(let n := c.bufLen 0
(Clean (opChks c [] [(1, 1)] ++ [rangeChk (decide (4096 < n)) 48])) ∧
(let r := random (count1 s (Reg.KEY_CNT_COUNT 3)) n
Reachable r.2 c 0))) ∧
    (let s : State := ready (up) (cmd 0x0D08 (buf 64 1))
let sq : Fin 16 := 0
let c : Cmd := cmd 0x0D08 (buf 64 1)
(Ready s sq 0x0D08 c) ∧
(Clean (opChks c [] [(1, 64)])) ∧
Reachable s c 0) ∧
    (let s : State := ready (setFld up Reg.KEY_STAT_LC 1) (cmd 0x0D09 (buf 32 1))
let sq : Fin 16 := 0
let c : Cmd := cmd 0x0D09 (buf 32 1)
(Ready s sq 0x0D09 c) ∧
(Clean (opChks c [] [(1, 32)])) ∧
(flag s Reg.KEY_CTRL_TK_EXPORT_DIS = false) ∧
(lifeCycle s = 1) ∧
Reachable (keyAudit s 5 0 0 0) c 0) ∧
    (let s : State := ready (setFld up Reg.KEY_STAT_LC 3) (cmd 0x0D0A ([(16, 4, 0x0D2640FF)]))
let sq : Fin 16 := 0
let c : Cmd := cmd 0x0D0A ([(16, 4, 0x0D2640FF)])
let burnOk : Bool := true
(Ready s sq 0x0D0A c) ∧
(Clean (opChks c [(16, 4)] [] ++ [rangeChk (decide (c.op 16 4 ≠ 0x0D2640FF)) 16])) ∧
(lifeCycle s ≠ 5) ∧
(mayAdvance (lifeCycle s) 5 = true) ∧
burnOk = true) ∧
    (let s : State := ready (up) (cmd 0x0D0B (buf 8 1 ++ [(16, 2, 8184), (20, 2, 8)]))
let sq : Fin 16 := 0
let c : Cmd := cmd 0x0D0B (buf 8 1 ++ [(16, 2, 8184), (20, 2, 8)])
(Ready s sq 0x0D0B c) ∧
(let o := c.op 16 2
let n := c.op 20 2
(Clean (opChks c [(16, 2), (20, 2)] [(1, min n 8192)] ++
  [rangeChk (decide (o % 4 ≠ 0 ∨ 8192 ≤ o)) 16, rangeChk (decide (n < 4 ∨ 8192 < n ∨ 8192 < o + n)) 20])) ∧
Reachable s c 0)) ∧
    (let s : State := up
domState s 1 = 2) := by
  iterate 13 refine ⟨by decide +kernel, ?_⟩
  decide +kernel

/-- The hypotheses of each clause of PairRoleComplete are met, clause by clause: LEASE_SEND, LEASE, ACT_IN_EDGE, ACT_IN_SILENT, ACT_OWN_LAPSE, HEARTBEAT_MISSING, START_WAIT, FENCED, PARTNER_LOST_RESET, LEASE_EXPIRY, TAKEOVER_GUARD_END, ACT_IN_LAPSE, HOLD_OUT_END, MIR_LINK. -/
theorem witness_PairRoleComplete :
    ((running up = true ∧ role up = 0) ∧ (let s := pairUpd (setFld up Reg.PAR_STAT_ROLE 3) (fun p => { p with leaseTx := some 0 }); running s = true ∧ 1 ≤ role s ∧ passedMs s 0 5 = false) ∧ (let s := setFld up Reg.PAR_STAT_ROLE 3; running s = true ∧ 1 ≤ role s ∧ role s ≠ 2 ∧ s.pair.leaseTx = none) ∧ (let s := setFld up Reg.PAR_STAT_ROLE 2; running s = true ∧ role s = 2 ∧ s.pair.leaseTx = none) ∧ (let s := { pairUpd (setFld up Reg.PAR_STAT_ROLE 2) (fun p => { p with leaseTx := some 0 }) with el := 65536 }; running s = true ∧ role s = 2 ∧ s.pair.leaseTx = some 0 ∧ passedMs s 0 5 = true)) ∧
    (let s : State := setFld spanning Reg.PAR_STAT_ROLE 3
let l : List Byte := (mirMsg 0x40 (List.replicate 36 0)).bytes
let m : SpanMsg := mirMsg 0x40 (List.replicate 36 0)
(running s = true) ∧
(paired' s = true) ∧
(SpanMsg.parse l = some m) ∧
(m.msg = 0x40) ∧
(m.dst = m.src) ∧
(m.bcast = false) ∧
(m.ttl = 1) ∧
m.body.length = 36) ∧
    (let s : State := up
running s = true) ∧
    (let s : State := { pairUpd (setFld up Reg.PAR_STAT_ROLE 3) (fun p => { p with actInAt := some 0 }) with el := 65536 }
(role s = 3) ∧
((s.pair.actInAt = none ∨ since s s.pair.actInAt 6000 = true)) ∧
flag s Reg.PAR_STAT_HOLD = false) ∧
    (let s : State := { pairUpd (setFld up Reg.PAR_STAT_ACT_OWN 1) (fun p => { p with actOutAt := some 0 }) with el := 65536 }
(flag s Reg.PAR_STAT_ACT_OWN = true) ∧
since s s.pair.actOutAt 7500 = true) ∧
    (let s : State := { pairUpd (setFld (setFld up Reg.PAR_STAT_PARTNER 1) Reg.PAR_STAT_ROLE 2) (fun p => { p with leaseRx := some 0 }) with el := 65536 }
(paired' s = true) ∧
(flag s Reg.PAR_STAT_PARTNER = true) ∧
since s s.pair.leaseRx 10000 = true) ∧
    (let s : State := { pairUpd (setFld up Reg.PAR_STAT_ROLE 1) (fun p => { p with startAt := some 0 }) with el := 65536 }
(role s = 1) ∧
(since s s.pair.startAt (200000 + 100000 * fld s Reg.PAR_STAT_UNIT) = true) ∧
(flag s Reg.PAR_STAT_ACT_IN = false) ∧
s.pair.mismatch = false) ∧
    (let s : State := { pairUpd (setFld (setFld up Reg.PAR_STAT_ACT_IN 1) Reg.PAR_STAT_ROLE 2) (fun p => { p with actInSince := some 0 }) with el := 65536 }
(role s = 2) ∧
(flag s Reg.PAR_STAT_ACT_IN = true) ∧
since s s.pair.actInSince 10000 = true) ∧
    (let s : State := { pairUpd (setFld up Reg.PAR_STAT_ROLE 3) (fun p => { p with overdue := some 0 }) with el := 65536 }
(role s = 3) ∧
(flag s Reg.PAR_STAT_SYNCED = false) ∧
since s s.pair.overdue 1000000 = true) ∧
    (let s : State := { pairUpd (setFld (setFld up Reg.PAR_STAT_ACT_IN 1) Reg.PAR_STAT_ROLE 3) (fun p => { p with leaseGrant := some 0 }) with el := 65536 }
(role s = 3) ∧
(since s s.pair.leaseGrant 20000 = true) ∧
(flag s Reg.PAR_STAT_ACT_IN = true) ∧
s.pair.mirDownSaid = false) ∧
    (let s : State := { pairUpd up (fun p => { p with leaseGrant := some 0 }) with el := 65536 }
since s s.pair.leaseGrant 22000 = true) ∧
    (let s : State := { pairUpd (setFld up Reg.PAR_STAT_ACT_IN 1) (fun p => { p with actInAt := some 0 }) with el := 65536 }
(flag s Reg.PAR_STAT_ACT_IN = true) ∧
since s s.pair.actInAt 7500 = true) ∧
    (let s : State := { pairUpd (setFld (setFld up Reg.PAR_STAT_HOLD 1) Reg.PAR_STAT_ROLE 2) (fun p => { p with driveAt := some 0 }) with el := 65536 }
(role s = 2) ∧
(flag s Reg.PAR_STAT_HOLD = true) ∧
since s s.pair.driveAt 1000 = true) ∧
    (let s : State := up
running s = true) := by
  iterate 13 refine ⟨by decide +kernel, ?_⟩
  decide +kernel

/-- The hypotheses of each clause of PairStreamComplete are met, clause by clause: FOLD_STREAM, OX_STREAM, BAS_STREAM, WEI_SLOW_STREAM, WEI_FAST_STREAM, CIS_STREAM, COMMIT_STREAM, CFG_STREAM, SYNC_REQ, CFG_ACK, SPAN_COPY, SYNC_GAP_TIMEOUT, BULK_COPY_DONE. -/
theorem witness_PairStreamComplete :
    (let s : State := setFld spanning Reg.PAR_STAT_ROLE 3
let l : List Byte := (mirMsg 65 (List.replicate 20 0)).bytes
let m : SpanMsg := mirMsg 65 (List.replicate 20 0)
(running s = true) ∧
(role s = 3) ∧
(SpanMsg.parse l = some m) ∧
(m.msg = 0x41) ∧
(m.dst = m.src) ∧
(m.bcast = false) ∧
(m.ttl = 1) ∧
(m.src = fld s Reg.FED_ID_ID) ∧
(let last := s.pair.rxSeq.get 0x41 0
(last = 0 ∨ last < m.seq))) ∧
    (let s : State := setFld spanning Reg.PAR_STAT_ROLE 3
let l : List Byte := (mirMsg 66 (List.replicate 20 0)).bytes
let m : SpanMsg := mirMsg 66 (List.replicate 20 0)
(running s = true) ∧
(role s = 3) ∧
(SpanMsg.parse l = some m) ∧
(m.msg = 0x42) ∧
(m.dst = m.src) ∧
(m.bcast = false) ∧
(m.ttl = 1) ∧
(m.src = fld s Reg.FED_ID_ID) ∧
(let last := s.pair.rxSeq.get 0x42 0
(last = 0 ∨ last < m.seq))) ∧
    (let s : State := setFld spanning Reg.PAR_STAT_ROLE 3
let l : List Byte := (mirMsg 67 (List.replicate 20 0)).bytes
let m : SpanMsg := mirMsg 67 (List.replicate 20 0)
(running s = true) ∧
(role s = 3) ∧
(SpanMsg.parse l = some m) ∧
(m.msg = 0x43) ∧
(m.dst = m.src) ∧
(m.bcast = false) ∧
(m.ttl = 1) ∧
(m.src = fld s Reg.FED_ID_ID) ∧
(let last := s.pair.rxSeq.get 0x43 0
(last = 0 ∨ last < m.seq))) ∧
    (let s : State := setFld spanning Reg.PAR_STAT_ROLE 3
let l : List Byte := (mirMsg 68 (List.replicate 20 0)).bytes
let m : SpanMsg := mirMsg 68 (List.replicate 20 0)
(running s = true) ∧
(role s = 3) ∧
(SpanMsg.parse l = some m) ∧
(m.msg = 0x44) ∧
(m.dst = m.src) ∧
(m.bcast = false) ∧
(m.ttl = 1) ∧
(m.src = fld s Reg.FED_ID_ID) ∧
(let last := s.pair.rxSeq.get 0x44 0
(last = 0 ∨ last < m.seq))) ∧
    (let s : State := setFld spanning Reg.PAR_STAT_ROLE 3
let l : List Byte := (mirMsg 69 (List.replicate 20 0)).bytes
let m : SpanMsg := mirMsg 69 (List.replicate 20 0)
(running s = true) ∧
(role s = 3) ∧
(SpanMsg.parse l = some m) ∧
(m.msg = 0x45) ∧
(m.dst = m.src) ∧
(m.bcast = false) ∧
(m.ttl = 1) ∧
(m.src = fld s Reg.FED_ID_ID) ∧
(let last := s.pair.rxSeq.get 0x45 0
(last = 0 ∨ last < m.seq))) ∧
    (let s : State := setFld spanning Reg.PAR_STAT_ROLE 3
let l : List Byte := (mirMsg 70 (List.replicate 20 0)).bytes
let m : SpanMsg := mirMsg 70 (List.replicate 20 0)
(running s = true) ∧
(role s = 3) ∧
(SpanMsg.parse l = some m) ∧
(m.msg = 0x46) ∧
(m.dst = m.src) ∧
(m.bcast = false) ∧
(m.ttl = 1) ∧
(m.src = fld s Reg.FED_ID_ID) ∧
(let last := s.pair.rxSeq.get 0x46 0
(last = 0 ∨ last < m.seq))) ∧
    (let s : State := setFld spanning Reg.PAR_STAT_ROLE 3
let l : List Byte := (mirMsg 71 (List.replicate 20 0)).bytes
let m : SpanMsg := mirMsg 71 (List.replicate 20 0)
(running s = true) ∧
(role s = 3) ∧
(SpanMsg.parse l = some m) ∧
(m.msg = 0x47) ∧
(m.dst = m.src) ∧
(m.bcast = false) ∧
(m.ttl = 1) ∧
(m.src = fld s Reg.FED_ID_ID) ∧
(let last := s.pair.rxSeq.get 0x47 0
(last = 0 ∨ last < m.seq))) ∧
    (let s : State := setFld spanning Reg.PAR_STAT_ROLE 3
let l : List Byte := (mirMsg 72 (List.replicate 20 0)).bytes
let m : SpanMsg := mirMsg 72 (List.replicate 20 0)
(running s = true) ∧
(role s = 3) ∧
(SpanMsg.parse l = some m) ∧
(m.msg = 0x48) ∧
(m.dst = m.src) ∧
(m.bcast = false) ∧
(m.ttl = 1) ∧
(m.src = fld s Reg.FED_ID_ID) ∧
(let last := s.pair.rxSeq.get 0x48 0
(last = 0 ∨ last < m.seq))) ∧
    (let s : State := setFld spanning Reg.PAR_STAT_ROLE 2
let l : List Byte := (mirMsg 0x49 [0]).bytes
let m : SpanMsg := mirMsg 0x49 [0]
(running s = true) ∧
(role s = 2) ∧
(SpanMsg.parse l = some m) ∧
(m.msg = 0x49) ∧
(m.dst = m.src) ∧
(m.bcast = false) ∧
(m.ttl = 1) ∧
m.src = fld s Reg.FED_ID_ID) ∧
    (let s : State := spanning
let l : List Byte := (mirMsg 0x4A [0, 0, 0, 1]).bytes
let m : SpanMsg := mirMsg 0x4A [0, 0, 0, 1]
(running s = true) ∧
(SpanMsg.parse l = some m) ∧
(m.msg = 0x4A) ∧
(m.dst = m.src) ∧
(m.bcast = false) ∧
(m.ttl = 1) ∧
m.src = fld s Reg.FED_ID_ID) ∧
    (let s : State := setFld spanning Reg.PAR_STAT_ROLE 3
let l : List Byte := (mirMsg 0x4B (msg0 5).bytes).bytes
let c : SpanMsg := mirMsg 0x4B (msg0 5).bytes
let m : SpanMsg := msg0 5
(running s = true) ∧
(role s ≠ 0) ∧
(fedOn s = true) ∧
(SpanMsg.parse l = some c) ∧
(c.msg = 0x4B) ∧
(c.dst = c.src) ∧
(c.bcast = false) ∧
(c.ttl = 1) ∧
(c.src = fld s Reg.FED_ID_ID) ∧
SpanMsg.ofBytes c.body = some m) ∧
    (let s : State := setFld up Reg.PAR_STAT_ROLE 3
role s = 3) ∧
    (let s : State := pairUpd (setFld up Reg.PAR_STAT_ROLE 3) fun p => { p with bulk := [(0x41, true)] }
(role s = 3) ∧
(s.pair.bulk ≠ []) ∧
(s.pair.announced = []) ∧
(s.pair.bulk.keys.any fun k => decide (s.pair.rxSeq.get k 0 < s.pair.told.get k 0)) = false) := by
  iterate 12 refine ⟨by decide +kernel, ?_⟩
  decide +kernel

/-- The hypotheses of each clause of SpanComplete are met, clause by clause: HELLO_SEND, HELLO, SPAN_FORWARD, HANDOVER, HANDOVER_ACK, PIECE_PART, PIECE_PART_SEND, ACTIVATE, FEEDER_STATE_MSG, FEEDER_STATE_SEND, FEEDER_STATE_STALE, VALUE, VALUE_PUBLISH. -/
theorem witness_SpanComplete :
    (let s : State := spanning
(running s = true) ∧
(spanMine s = true) ∧
(match s.fed.helloAt with | some t => !passedSec s t 1 | none => false) = false) ∧
    (let s : State := spanning
let p : Fin 4 := 3
let l : HelloFrame := { mac := 1, bytes := (msg0 1).bytes }
let m : SpanMsg := msg0 1
(spanKind l.bytes = 1) ∧
(spanRx s p.val l.bytes).2 = some m) ∧
    (let s : State := spanning
let l : List Byte := ({ msg0 8 with dst := 6 }).bytes
let m : SpanMsg := { msg0 8 with dst := 6 }
(SpanMsg.ofBytes l = some m) ∧
(m.bcast = false) ∧
((m.dst ≠ fld s Reg.FED_ID_ID ∨ flag s Reg.FED_ID_VALID = false)) ∧
m.msg ≠ 1) ∧
    (let s : State := spanning
let p : Fin 4 := 3
let l : List Byte := (msg0 3).bytes
let m : SpanMsg := msg0 3
(spanKind l = 3) ∧
(spanRx s p.val l).2 = some m) ∧
    (let s : State := spanning
let p : Fin 4 := 3
let l : List Byte := (msg0 4).bytes
let m : SpanMsg := msg0 4
(spanKind l = 4) ∧
(spanRx s p.val l).2 = some m) ∧
    (let s : State := spanning
let p : Fin 4 := 3
let l : List Byte := (msg0 5).bytes
let m : SpanMsg := msg0 5
(spanKind l = 5) ∧
(spanRx s p.val l).2 = some m) ∧
    (let s : State := fedUpd spanning fun f => { f with jobs := [job0] }
let j : PieceJob := job0
let r : List PieceJob := []
s.fed.jobs = j :: r) ∧
    (let s : State := spanning
let p : Fin 4 := 3
let l : List Byte := (msg0 6).bytes
let m : SpanMsg := msg0 6
(spanKind l = 6) ∧
(spanRx s p.val l).2 = some m) ∧
    (let s : State := spanning
let p : Fin 4 := 3
let l : List Byte := (msg0 7).bytes
let m : SpanMsg := msg0 7
(spanKind l = 7) ∧
(spanRx s p.val l).2 = some m) ∧
    (let s : State := spanning
(running s = true) ∧
(spanMine s = true) ∧
s.fed.feederSaid = none) ∧
    (let s : State := later (fedUpd spanning fun f => { f with remote := [(7, some (0, 0, 0))], feederMap := [(5, some (7, 1))] }) 6553600
staleRemotes s ≠ []) ∧
    (let s : State := spanning
let p : Fin 4 := 3
let l : List Byte := (msg0 8).bytes
let m : SpanMsg := msg0 8
(spanKind l = 8) ∧
(spanRx s p.val l).2 = some m) ∧
    (let s : State := { spanning with dt := 65536 }
(running s = true) ∧
(spanMine s = true) ∧
s.fed.pubSec ≠ dtSec s.dt) := by
  iterate 12 refine ⟨by decide +kernel, ?_⟩
  decide +kernel

/-- The hypotheses of each clause of PairFedRingComplete are met, clause by clause: PAR_SWITCH, PAR_RESYNC, FED_ROUTE_SET, FED_PEER_SET, FED_VALUE_PUB, FED_FEEDER_MAP, FED_HANDOVER, FED_PIECE_SEND, FED_ACT_SEND. -/
theorem witness_PairFedRingComplete :
    (let s : State := ready (setFld (setFld (setFld up Reg.PAR_STAT_ROLE 2) Reg.PAR_STAT_SYNCED 1) Reg.PAR_STAT_PARTNER 1) (cmd 0x0E00 ([]))
let sq : Fin 16 := 0
let c : Cmd := cmd 0x0E00 ([])
(Ready s sq 0x0E00 c) ∧
(Clean (opChks c [] [])) ∧
(2 ≤ role s) ∧
(flag s Reg.PAR_STAT_SYNCED = true) ∧
flag s Reg.PAR_STAT_PARTNER = true) ∧
    (let s : State := ready (setFld up Reg.PAR_STAT_PARTNER 1) (cmd 0x0E01 ([]))
let sq : Fin 16 := 0
let c : Cmd := cmd 0x0E01 ([])
(Ready s sq 0x0E01 c) ∧
(Clean (opChks c [] [])) ∧
flag s Reg.PAR_STAT_PARTNER = true) ∧
    (let s : State := ready (inMem up [0x83, 0xC5]) (cmd 0x0E02 (buf 4 0 ++ [(16, 2, 4094), (20, 2, 2)]))
let sq : Fin 16 := 0
let c : Cmd := cmd 0x0E02 (buf 4 0 ++ [(16, 2, 4094), (20, 2, 2)])
(Ready s sq 0x0E02 c) ∧
(let first := c.op 16 2
let n := c.op 20 2
(Clean (opChks c [(16, 2), (20, 2)] [(0, 2 * n)] ++
  [rangeChk (decide (4095 < first)) 16, rangeChk (decide (n = 0 ∨ 4096 < n ∨ 4096 < first + n)) 20])) ∧
(Reachable s c 0) ∧
(let b := memRead s (c.bufAddr 0) (c.bufLen 0)
let l := b.take (2 * n)
Clean (l.zipIdx.map fun x => rangeChk (!bit x.1.toNat 6 && decide (3 < x.1.toNat % 64)) x.2)))) ∧
    (let s : State := ready (up) (cmd 0x0E03 ([(16, 1, 255), (17, 1, 3), (20, 8, 5)]))
let sq : Fin 16 := 0
let c : Cmd := cmd 0x0E03 ([(16, 1, 255), (17, 1, 3), (20, 8, 5)])
(Ready s sq 0x0E03 c) ∧
(let i := c.op 16 1
Clean (opChks c [(16, 24)] [] ++ [rangeChk (decide (63 < i ∧ i ≠ 255)) 16, rangeChk (decide (3 < c.op 17 1)) 17]))) ∧
    (let s : State := ready (up) (cmd 0x0E04 ([(16, 1, 15), (17, 1, 1), (18, 1, 63), (20, 2, 4095), (24, 4, 0x02000007)]))
let sq : Fin 16 := 0
let c : Cmd := cmd 0x0E04 ([(16, 1, 15), (17, 1, 1), (18, 1, 63), (20, 2, 4095), (24, 4, 0x02000007)])
(Ready s sq 0x0E04 c) ∧
(let e := c.op 16 1
let w := c.op 24 4
let k := w / 2 ^ 24
Clean (opChks c [(16, 3), (20, 2), (24, 4)] [] ++
  [rangeChk (decide (15 < e)) 16, rsvChk (decide (1 < c.op 17 1)) 17, rangeChk (decide (63 < c.op 18 1)) 18, dstChk c 20,
   if k = 1 ∨ k = 2 ∨ k = 4 ∨ k = 5 ∨ k = 7 then srcChk w false false 27 else rangeChk true 27]))) ∧
    (let s : State := ready (up) (cmd 0x0E05 ([(16, 1, 5), (17, 1, 1), (20, 2, 4095), (22, 1, 5)]))
let sq : Fin 16 := 0
let c : Cmd := cmd 0x0E05 ([(16, 1, 5), (17, 1, 1), (20, 2, 4095), (22, 1, 5)])
(Ready s sq 0x0E05 c) ∧
(let f := c.op 16 1
let m := c.op 20 2
(Clean (opChks c [(16, 2), (20, 3)] [] ++
  [rangeChk (decide (5 < f)) 16, rsvChk (decide (1 < c.op 17 1)) 17, rangeChk (decide (4095 < m)) 20, rangeChk (decide (5 < c.op 22 1)) 22])) ∧
flag s (Reg.BAS_FDR_CFG_EN f) = false)) ∧
    (let s : State := ready (withEnt spanning 5 ent5) (cmd 0x0E06 ([(16, 3, 5), (20, 2, 4095)]))
let sq : Fin 16 := 0
let c : Cmd := cmd 0x0E06 ([(16, 3, 5), (20, 2, 4095)])
(Ready s sq 0x0E06 c) ∧
(let n := c.op 16 3
(Clean (opChks c [(16, 3), (20, 2)] [] ++ [rangeChk (decide (foldSize ≤ n)) 16, dstChk c 20])) ∧
((entAt s n).state = 3) ∧
(((s.fed.handing.any fun h => h.eph = n) || (epAt s n).handTo.isSome) = false) ∧
fedReady s = true)) ∧
    (let s : State := ready (spanning) (cmd 0x0E07 ([(16, 1, 31), (17, 1, 1)]))
let sq : Fin 16 := 0
let c : Cmd := cmd 0x0E07 ([(16, 1, 31), (17, 1, 1)])
(Ready s sq 0x0E07 c) ∧
(let slot := c.op 16 1
let first := c.op 20 4
let n := c.op 24 4
(Clean (opChks c [(16, 4), (20, 8)] [] ++ [slotChk c, rsvChk (decide (1 < c.op 17 1)) 17, dstChk c 18])) ∧
(fedReady s = true) ∧
(let x := slotOf s ((slotNum slot).getD 0)
let held := (x.pieces.filter fun y => decide (first ≤ y.1 ∧ y.1 < first + n)).length
held = n))) ∧
    (let s : State := ready (spanning) (cmd 0x0E08 ([(16, 1, 1), (18, 2, 4095), (20, 4, 5), (24, 8, 5)]))
let sq : Fin 16 := 0
let c : Cmd := cmd 0x0E08 ([(16, 1, 1), (18, 2, 4095), (20, 4, 5), (24, 8, 5)])
(Ready s sq 0x0E08 c) ∧
(Clean (opChks c [(16, 16)] [] ++
  [rangeChk (decide (1 < c.op 16 1)) 16, rsvChk (decide (1 < c.op 17 1)) 17, dstChk c 18, dtChk c 24])) ∧
fedReady s = true) := by
  iterate 8 refine ⟨by decide +kernel, ?_⟩
  decide +kernel

/-- The hypotheses of each clause of SelfTestComplete are met, clause by clause: TILE_FILL, PATROL_READ, SRAM_SCRUB, NAND_REFRESH, LANE_TEST, REF_CHECK, BST_RUN, BST_RECOVER, BST_TILE_READ, BST_RESULT, TEST_N_ASSERT. -/
theorem witness_SelfTestComplete :
    (let s : State := up
let t : Nat := numTiles - 1
(running s = true) ∧
t < numTiles) ∧
    (let s : State := setFld up Reg.BST_CTRL_PATROL 1
(running s = true) ∧
(flag s Reg.BST_CTRL_PATROL = true) ∧
(let t := s.bst.patrol
(t ≠ 0 ∨ s.bst.patrolAt = 0 ∨ passedSec s (s.bst.patrolAt - 1) (3600 * fld s Reg.BST_CFG_PATROL_H) = true))) ∧
    (let s : State := up
(running s = true) ∧
(s.bst.scrubAt = 0 ∨ passedSec s (s.bst.scrubAt - 1) 600 = true)) ∧
    (let s : State := up
running s = true) ∧
    (let s : State := later (setFld up Reg.BST_CFG_LANE_PERIOD 1) 6553600000
let t : Nat := 0
let r : TestRun := .lane 0 0 0 1
((List.range 0x61).find? (laneDue s) = some t) ∧
(laneBusy s t = false) ∧
runFits t r = true) ∧
    (let s : State := later (setFld up Reg.BAS_CLK_EN 1) 6553600
let t : Nat := 0x6D
let r : TestRun := .ref ⟨0, true⟩ ⟨0, true⟩
(refDue s t = true) ∧
runFits t r = true) ∧
    (let s : State := ready (up) (cmd 0x0F00 ([(16, 1, 3)]))
let sq : Fin 16 := 0
let c : Cmd := cmd 0x0F00 ([(16, 1, 3)])
(Ready s sq 0x0F00 c) ∧
(let t := c.op 16 1
(Clean (opChks c [(16, 1)] [] ++ [rangeChk (!isTarget t) 16])) ∧
(s.bst.lanes.contains t = false) ∧
((isLane t && !spareFree s t) = false) ∧
(domState s (targetDomain t) ≠ 0) ∧
testing s t = false)) ∧
    (let s : State := ready (up) (cmd 0x0F01 ([(16, 1, 3)]))
let sq : Fin 16 := 0
let c : Cmd := cmd 0x0F01 ([(16, 1, 3)])
(Ready s sq 0x0F01 c) ∧
(let t := c.op 16 1
(Clean (opChks c [(16, 1)] [] ++ [rangeChk (!isTarget t) 16])) ∧
(s.bst.lanes.contains t = false) ∧
((isLane t && !spareFree s t) = false) ∧
(domState s (targetDomain t) ≠ 0) ∧
testing s t = false)) ∧
    (let s : State := ready (up) (cmd 0x0F02 (buf 8 1 ++ [(24, 4, 2)]))
let sq : Fin 16 := 0
let c : Cmd := cmd 0x0F02 (buf 8 1 ++ [(24, 4, 2)])
(Ready s sq 0x0F02 c) ∧
(let n := c.op 24 4
(Clean (opChks c [(20, 8)] [(1, 4 * n)] ++ [rangeChk (decide (n = 0 ∨ 131072 < n)) 24])) ∧
Reachable s c 0)) ∧
    (let s : State := tested 3
let r : TestRun := .lane 0 0 0 1
let x : BstTest := test0
let rest : List BstTest := []
(s.bst.tests = x :: rest) ∧
(runFits x.target r = true) ∧
laneBusy s x.target = false) ∧
    (let s : State := up
running s = true) := by
  iterate 10 refine ⟨by decide +kernel, ?_⟩
  decide +kernel

/-- The hypotheses of each clause of PowerComplete are met, clause by clause: POWER_FAIL_WARNING, BROWN_OUT, VIN_DIP, VIN_GOOD, RST_N, WATCHDOG, CLOCK_FAULT, CLOCK_RECOVER, VBAK_LOW, VBAK_GOOD, THERMAL, THERMAL_CLEAR, TAMPER. -/
theorem witness_PowerComplete :
    (let s : State := up
let w : PfWarn := { pin := false, vin := 8000 }
(running s = true) ∧
(flag s Reg.PWR_STAT_PF = false) ∧
(if w.pin then flag s Reg.PWR_CTRL_PFW_PIN_EN = true else w.vin < 8500)) ∧
    (let s : State := up
(s.pwr.phase = .on ∨ s.pwr.phase = .clockHeld ∨ s.pwr.phase = .scan)) ∧
    (let s : State := { pwrUpd up (fun p => { p with pfAt := 1 }) with el := 655360 }
(running s = true) ∧
(s.pwr.pfAt ≠ 0) ∧
passedUs s (s.pwr.pfAt - 1) (100000 + (match s.pwr.pfRec with | some r => r.us | none => 0)) = true) ∧
    ((State.reset.pwr.phase = .por ∧ (pwrUpd up fun p => { p with phase := .holdover }).pwr.phase = .holdover)) ∧
    (let s : State := up
running s = true) ∧
    (let s : State := up
running s = true) ∧
    (let s : State := up
(s.pwr.phase = .on ∨ s.pwr.phase = .scan)) ∧
    (let s : State := pwrUpd up fun p => { p with phase := .clockHeld }
s.pwr.phase = .clockHeld) ∧
    (((pwrUpd up fun p => { p with phase := .holdover }).pwr.phase = .holdover) ∧ (let s := setFld up Reg.PWR_STAT_VBAK_OK 1; s.pwr.phase = .on ∧ flag s Reg.PWR_STAT_VBAK_OK = true ∧ 1999 < 2000)) ∧
    (((pwrUpd up fun p => { p with phase := .clockHeld }).pwr.phase = .clockHeld) ∧ (let s := setFld up Reg.PWR_STAT_VBAK_OK 0; s.pwr.phase = .on ∧ flag s Reg.PWR_STAT_VBAK_OK = false ∧ 2000 ≤ 2000)) ∧
    (let s : State := up
running s = true) ∧
    (let s : State := up
running s = true) ∧
    (let s0 : State := setFld up Reg.PIN_TAMPER_EN 3
aoDead s0 = false) := by
  iterate 12 refine ⟨by decide +kernel, ?_⟩
  decide +kernel

/-- The hypotheses of each clause of PowerRingComplete are met, clause by clause: PWR_MODE_SET, PWR_DOMAIN_SET, DOMAIN_STATE_REACHED. -/
theorem witness_PowerRingComplete :
    (let s : State := ready (up) (cmd 0x1000 ([(16, 1, 1)]))
let sq : Fin 16 := 0
let c : Cmd := cmd 0x1000 ([(16, 1, 1)])
(Ready s sq 0x1000 c) ∧
(let m := c.op 16 1
(Clean (opChks c [(16, 1)] [] ++ [rangeChk (decide (1 < m)) 16])) ∧
flag s Reg.PWR_STAT_PF = false)) ∧
    (let s : State := ready (up) (cmd 0x1001 ([(16, 1, 10)]))
let sq : Fin 16 := 0
let c : Cmd := cmd 0x1001 ([(16, 1, 10)])
(Ready s sq 0x1001 c) ∧
(let d := c.op 16 1
let v := c.op 17 1
(Clean (opChks c [(16, 2)] [] ++ [rangeChk (!([6, 7, 10, 11].contains d)) 16, rangeChk (decide (2 < v)) 17])) ∧
(flag s Reg.PWR_STAT_PF = false) ∧
inUse s d = false)) ∧
    (let s : State := pwrUpd up fun p => { p with changes := [{ seq := 1, dom := 10, goal := 0 }] }
let x : DomChange := { seq := 1, dom := 10, goal := 0 }
let r : List DomChange := []
s.pwr.changes = x :: r) := by
  iterate 2 refine ⟨by decide +kernel, ?_⟩
  decide +kernel

/-! ### Well-formed commands: an ill-formed operand for each check, and what the carriers can deliver -/

def air0 (n : Nat) (power : Int) : AirFrame :=
  { ch := 0, mode := 1, power := power, fec := none, whiten := true, fcs4 := false, bytes := List.replicate n 0 }
def fastIn0 : FastIn := { conv := List.replicate 8 0, pins := [], vout := 0 }
/-- Inputs of `n` channels whose filters all find the same. -/
def chans0 (n : Nat) (x : FilterIn) : List ChanIn := List.replicate n { rising := x, falling := x }
def access (bar2 : Bool) (off : Nat) (second : Option Word) : HostAccess := { bar2 := bar2, off := off, whole := true, second := second }

/-- Accesses that are not aligned, or outside their space (R35, R37, R38). -/
theorem test_bad_accesses_are_refused :
    [Instr.registerWrite (access false 2 none) 0, .registerWrite (access false 131072 none) 0, .readClear (access true 4096 none),
      .registerWrite (access false 4 (some 1)) 0, .configRequest { off := 4096 }, .configRequest { off := 6, data := some 0 },
      .msixConfigWrite (.table 512 0)].all (fun i => !i.wellFormed) = true := by
  decide +kernel

theorem test_bad_host_memory_is_refused :
    [Instr.sqTailDoorbell 0 0 { faulty := [(5, 5)] }, .sqTailDoorbell 0 0 { writes := [(2 ^ 64 - 1, [0, 0])] }].all
      (fun i => !i.wellFormed) = true := by
  decide +kernel

/-- Lengths and powers of frames (R115, R119, R125). -/
theorem test_bad_frames_are_refused :
    [Instr.txStart 0 (air0 0 0), .txStart 0 (air0 2046 0), .txStart 0 (air0 5 109), .txStart 0 (air0 5 (-41)),
      .rf24FrameRx { frame0 with psdu := List.replicate 2048 0 }, .hello 0 { mac := 1, bytes := List.replicate 1501 0 }, .lease (List.replicate 1501 0),
      .surveyDone (List.replicate 321 0)].all (fun i => !i.wellFormed) = true := by
  decide +kernel

/-- Samples that no converter gives (R235, R259, R262, R341). -/
theorem test_bad_samples_are_refused :
    [Instr.slowSample (List.replicate 7 0) [], .slowSample (List.replicate 8 0) [3, 3], .fastSample { fastIn0 with vout := 65536 } [],
      .fastSample { fastIn0 with pins := [(1, 5), (1, 6)] } [], .basinSample (chans0 41 (.steady 1 2)),
      .basinSample (chans0 42 (.code 8388608)), .basinSample (chans0 42 (.steady 3 2)), .overtemp 0 32768,
      .boostPeriod 65536 none none].all (fun i => !i.wellFormed) = true := by
  decide +kernel

/-- Supplies, cells, tiles, targets and links of ranges that the part has not (R35, R406, R466, R502). -/
theorem test_bad_starts_are_refused :
    [Instr.linkUp 3 1, .linkUp 1 4, .tileFill 8388608 .good none boot0, .moduleReset 0 { boot0 with vin := 65536 },
      .moduleReset 0 { boot0 with cells := 2 ^ 32768 }, .laneTest 256 (.lane 0 0 0 0), .refCheck 256 (.lane 0 0 0 0), .vbakLow 65536,
      .vbakGood 65536, .powerFailWarning { pin := false, vin := 65536 }].all (fun i => !i.wellFormed) = true := by
  decide +kernel

theorem test_well_formed_is_taken :
    [Instr.registerWrite (access false 131068 none) 0, .readClear (access true 4088 (some 0)), .configRequest { off := 4092 },
      .msixConfigWrite (.table 508 0), .sqTailDoorbell 0 0 { writes := [(2 ^ 64 - 2, [0, 0])], faulty := [(0, 2 ^ 64)] },
      .txStart 0 (air0 2045 108), .rf24FrameRx { frame0 with psdu := List.replicate 2047 0 }, .slowSample (List.replicate 8 0) [3, 4],
      .basinSample (chans0 42 (.code (-8388608))), .linkUp 2 3, .lease (List.replicate 1500 0), .hello 0 { mac := 1, bytes := List.replicate 1500 0 },
      .powerFailWarning { pin := true, vin := 65535 }, .dinLevelAccept 0 { high := true, held := 5000 }, .tamper { n := 1 },
      .moduleReset 0 boot0].all
        Instr.wellFormed = true := by
  decide +kernel

/-! ### The spec's own figures -/

/-- The hop function's example of chapter 05: map of channels 0 to 64. -/
theorem test_hop_example : hopOn 0x5A3C91E7 (2 ^ 65 - 1) 1234 = some 19 := by decide +kernel

/-- Chapter 10: the CRC of the nine ASCII digits. -/
theorem test_crc16_digits : crc16 [0x31, 0x32, 0x33, 0x34, 0x35, 0x36, 0x37, 0x38, 0x39] = 0x29B1 := by decide +kernel

/-- Chapter 09, the quarter-hour on an Orrin Quay spur: the estimate of lantern 52,202, OTHER and the allocations. -/
theorem test_basin_example :
    53083800 * 1000 * 32768 * 100000 / (65535 * 32768 * 3600) = 22500190 ∧ 6000 * 900 * 5 / 18 = 1500000 ∧
    (allocate 120234567 [⟨52200, false, 22481250, 10⟩, ⟨52201, false, 22493750, 20⟩, ⟨52202, true, 22500190, 30⟩,
      ⟨52203, false, 22506875, 40⟩, ⟨52204, false, 22518750, 50⟩]).2.2.map Prod.snd =
      [22996834, 23524917, 24046940, 24569209, 25096667] := by
  decide +kernel

/-- Chapter 07: the demand at vertex 41,207 as it decays from 49,151, and the edge into HYST. -/
theorem test_decay_example :
    (List.range 5).map (fun i => decayBy 65209 (i + 1) 49151) = [48905, 48660, 48417, 48175, 47934] ∧ 49151 - 48175 = 976 ∧
    49151 - 47934 = 1217 := by
  decide +kernel

/-- Chapter 11: the pieces, blocks and segments of an image of 1,573,376 bytes. -/
theorem test_image_example : let x : UpdSlot := { total := 1573376 }
    x.numPieces = 385 ∧ imgBlocks x = 16390 ∧ imgSeg (imgBlocks x) = 257 := by
  decide +kernel

/-- Chapter 19, the Orrin Quay host: the offset of HIF_SQ5_CFG, and that of BAS_E3_3_0. -/
theorem test_register_offsets : (Reg.HIF_SQ_CFG_ENABLE 5).off = 0x11A8 ∧ (Reg.BAS_E_WH 3 3 0).off = 0xA5E0 := by
  decide +kernel

end

end Sys2Proof.Tests
end

section
/-! PROOFS. The host's rings (chapter 02): doorbells of stopped rings, group permissions, writes to Rill queues, the event stores
and the BAD_STATE cases of the admin opcodes. -/

namespace Sys2Proof.HostRings

open Sys2Proof.Machine Sys2Proof.Laws

variable {s t : State} {c : Cmd} {a : Answer}

/-! ### The rings' state: a read after a write, and what a vector leaves -/

@[simp] theorem cqAt_setCq_same {n : Nat} {q : CqSt} : cqAt (setCq s n q) n = q := get_set_same

@[simp] theorem eqAt_setEq_same {n : Nat} {q : EqSt} : eqAt (setEq s n q) n = q := get_set_same

theorem eqAt_setEq_ne {m n : Nat} {q : EqSt} (h : m ≠ n) : eqAt (setEq s n q) m = eqAt s m := get_set_ne h

theorem eqAt_of_eqs {n : Nat} (h : t.host.eqs = s.host.eqs) : eqAt t n = eqAt s n := by rw [eqAt, eqAt, h]

theorem raiseVec_frame (s : State) (v : Nat) :
    (raiseVec s v).regs = s.regs ∧ (raiseVec s v).host.eqs = s.host.eqs ∧ (raiseVec s v).host.mem = s.host.mem := by
  rcases raiseVec_cases s v with h | h <;> rw [h] <;> exact ⟨rfl, rfl, rfl⟩

/-! ### Doorbells of stopped rings (R47, R48) -/

section Doorbells

variable {n v : Nat}

/-- R48 for a tail doorbell; a value of more than 16 bits is a bad access first (log entry 15). -/
theorem sqDoorbell_stopped (h : flag s (Reg.HIF_SQ_CFG_ENABLE n) = false ∨ hifState s = 2 ∨ hifState s = 3) :
    sqDoorbell s n v = if 65536 ≤ v then badAccess s 1 true (8 * n) else s := by
  have stopped : (!flag s (Reg.HIF_SQ_CFG_ENABLE n)) = true ∨ hifState s = 2 ∨ hifState s = 3 := by rwa [Bool.not_eq_true']
  rw [sqDoorbell, if_pos stopped]

/-- R48 for the head doorbell of a disabled CQ (log entry 15). -/
theorem cqDoorbell_disabled (h : flag s (Reg.HIF_CQ_CFG_ENABLE n) = false) :
    cqDoorbell s n v = if 65536 ≤ v then badAccess s 1 true (0x100 + 8 * n) else s := by
  rw [cqDoorbell, h, if_pos (Bool.not_false)]

/-- R48 for the head doorbell of a disabled EQ (log entry 15). -/
theorem eqDoorbell_disabled (h : flag s (Reg.HIF_EQ_CFG_ENABLE n) = false) :
    eqDoorbell s n v = if 65536 ≤ v then badAccess s 1 true (0x200 + 8 * n) else s := by
  rw [eqDoorbell, h, if_pos (Bool.not_false)]

/-- A valid head is taken in every HIF_STAT.STATE (R48, R530). -/
theorem cqDoorbell_valid (he : flag s (Reg.HIF_CQ_CFG_ENABLE n) = true) (hv : v < 65536)
    (hh : headValid (cqSize s n) (cqAt s n).head (fld s (Reg.HIF_CQ_WR_INDEX n)) v = true) :
    cqDoorbell s n v = setCq s n { cqAt s n with head := v } := by
  rw [cqDoorbell, if_neg (Nat.not_le_of_lt hv), he, if_neg (by decide), if_pos hh]

theorem eqDoorbell_valid (he : flag s (Reg.HIF_EQ_CFG_ENABLE n) = true) (hv : v < 65536)
    (hh : headValid (eqSize s n) (eqAt s n).head (fld s (Reg.HIF_EQ_WR_INDEX n)) v = true) :
    eqDoorbell s n v = setEq s n { eqAt s n with head := v } := by
  rw [eqDoorbell, if_neg (Nat.not_le_of_lt hv), he, if_neg (by decide), if_pos hh]

theorem exec_sqTailDoorbell {n : Fin 16} {v : Word} {u : HostUpdate} :
    exec (.sqTailDoorbell n v u) s = .next (sqDoorbell (hostActs s u) n v.toNat) := rfl

theorem exec_cqHeadDoorbell {n : Fin 16} {v : Word} : exec (.cqHeadDoorbell n v) s = .next (cqDoorbell s n v.toNat) := rfl

theorem exec_eqHeadDoorbell {n : Fin 4} {v : Word} : exec (.eqHeadDoorbell n v) s = .next (eqDoorbell s n v.toNat) := rfl

end Doorbells

/-- Settles O9: a stopped ring's doorbell is dropped after the width check of R47, and a valid head is taken whatever the STATE. -/
theorem doorbellsOfStoppedRings : Obligations.DoorbellsOfStoppedRings := by
  unfold Obligations.DoorbellsOfStoppedRings
  refine ⟨fun s n v u hs => ?_, fun s n v hd => ?_, fun s n v hd => ?_, fun s n v _ he hv hh => ?_, fun s n v _ he hv hh => ?_⟩
  · rw [exec_sqTailDoorbell, sqDoorbell_stopped hs]
  · rw [exec_cqHeadDoorbell, cqDoorbell_disabled hd]
  · rw [exec_eqHeadDoorbell, eqDoorbell_disabled hd]
  · exact ⟨_, by rw [exec_cqHeadDoorbell, cqDoorbell_valid he hv hh], cqAt_setCq_same, setCq_regs⟩
  · exact ⟨_, by rw [exec_eqHeadDoorbell, eqDoorbell_valid he hv hh], eqAt_setEq_same, setEq_regs⟩

/-! ### Group permission (R57, R532) -/

section Permission

/-- The judgement needs no permission for this opcode: NOP and IDENTIFY (R57). -/
abbrev Unrestricted (c : Cmd) : Prop := c.group = 1 ∧ (c.opcode = 0x0100 ∨ c.opcode = 0x0101)

/-- The SQ of a command may send the opcodes of group `g` (R57). -/
abbrev Permitted (s : State) (c : Cmd) (g : Nat) : Prop := bit (reg s (Reg.HIF_SQ_PERM_GROUPS c.sq).off).toNat g = true

/-- R57 as `judge` writes it: the opcode needs its permission, and its SQ has none. -/
theorem refused_iff : ((c.group ≠ 1 ∨ (c.opcode ≠ 0x0100 ∧ c.opcode ≠ 0x0101)) ∧
    (!bit (reg s (Reg.HIF_SQ_PERM_GROUPS c.sq).off).toNat c.group) = true) ↔ ¬ Unrestricted c ∧ ¬ Permitted s c c.group := by
  have restricted : (c.group ≠ 1 ∨ (c.opcode ≠ 0x0100 ∧ c.opcode ≠ 0x0101)) ↔ ¬ Unrestricted c := by omega
  rw [restricted, Bool.not_eq_true', Bool.not_eq_true]

/-- Steps 5 to 7 of R532 judge a well laid out descriptor with a defined opcode. -/
theorem judge_defined (hp : priorOutcome s c = none) (hl : Clean (layoutChks c)) (hd : opcodeDefined c.opcode = true) :
    judge s c =
      if ¬ Unrestricted c ∧ ¬ Permitted s c c.group then some (ansDenied 0x0001)
      else if flag s Reg.UPD_STAT_RESCUE ∧ c.group ≠ 1 ∧ ¬(0x0A00 ≤ c.opcode ∧ c.opcode ≤ 0x0A06) then some (ansBadState 0x00FF)
      else if (role s = 3 ∨ role s = 4) ∧ !standbyAccepts c then some (ansBadState 0x00FE)
      else if c.group = 0x0D ∧ c.opcode ≠ 0x0D08 ∧ c.opcode ≠ 0x0D0B ∧ fld s Reg.KEY_STAT_ROOT ≠ 1 then some (ansBadState 0x0006)
      else if fld s Reg.KEY_STAT_LC = 5 ∧ c.group ≠ 1 ∧ c.opcode ≠ 0x0D08 ∧ c.opcode ≠ 0x0D0B then some (ansDenied 0x0003)
      else if domState s (groupDomain c.group) ≠ 2 then some (ansBadState 0x00FD)
      else none := by
  simp only [judge, hp, worst_clean hl, hd, Bool.not_true, Bool.false_eq_true, if_false, refused_iff]

theorem judge_denied (hp : priorOutcome s c = none) (hl : Clean (layoutChks c)) (hd : opcodeDefined c.opcode = true)
    (hr : ¬ Unrestricted c) (hg : ¬ Permitted s c c.group) : judge s c = some (ansDenied 0x0001) := by
  rw [judge_defined hp hl hd, if_pos ⟨hr, hg⟩]

theorem ite_ne {α : Type} {p : Prop} [Decidable p] {x y z : α} (hx : x ≠ z) (hy : y ≠ z) : (if p then x else y) ≠ z := by
  by_cases h : p
  · rwa [if_pos h]
  · rwa [if_neg h]

/-- Steps 6 and 7 of R532 refuse with BAD_STATE, or with DENIED and another detail. -/
theorem judge_permitted (hp : priorOutcome s c = none) (hl : Clean (layoutChks c)) (hd : opcodeDefined c.opcode = true)
    (hg : Permitted s c c.group) : judge s c ≠ some (ansDenied 0x0001) := by
  rw [judge_defined hp hl hd, if_neg fun h => h.2 hg]
  have status (n : Nat) : some (ansBadState n) ≠ some (ansDenied 0x0001) := by
    intro h
    exact absurd (congrArg Answer.status (Option.some.inj h)) (show (0x12 : Nat) ≠ 0x13 by decide)
  exact ite_ne (status _) (ite_ne (status _) (ite_ne (status _) (ite_ne (by decide) (ite_ne (status _) (by decide)))))

/-- NOP and IDENTIFY run whenever their domain is ON. -/
theorem judge_unrestricted (hp : priorOutcome s c = none) (hl : Clean (layoutChks c)) (hd : opcodeDefined c.opcode = true)
    (hu : Unrestricted c) (hon : domState s 2 = 2) : judge s c = none := by
  have standby : standbyAccepts c = true := by
    rcases hu.2 with h | h <;> simp [standbyAccepts, h]
  have on : domState s (groupDomain 1) = 2 := hon
  rw [judge_defined hp hl hd, if_neg fun h => h.1 hu]
  simp [hu.1, standby, on]

end Permission

/-- Settles O11: the permission, step 5 of R532, is the only one that answers DENIED with detail 0x0001. -/
theorem groupPermission : Obligations.GroupPermission := by
  unfold Obligations.GroupPermission
  intro s c hp hl hd
  refine ⟨fun hg hb => ?_, fun hg hn hi hb => ?_, judge_permitted hp hl hd, fun ho hon => ?_⟩
  · exact judge_denied hp hl hd (fun hu => hg hu.1) (ne_true_of_eq_false hb)
  · exact judge_denied hp hl hd (fun hu => hu.2.elim hn hi) (by rw [hg]; exact ne_true_of_eq_false hb)
  · have hu : Unrestricted c := ⟨by rcases ho with h | h <;> simp [Cmd.group, h], ho⟩
    exact judge_unrestricted hp hl hd hu hon

/-! ### Rill queues (R76-R78) -/

section Rill

variable {q : RillSt} {k w : Nat} {ow : Bool}

/-- The fill is the distance from the read to the write pointer (R76). -/
theorem fill_cases (hw : q.wr < 2 * 2 ^ k) (hr : q.rd < 2 * 2 ^ k) :
    (q.rd ≤ q.wr ∧ q.fill k = q.wr - q.rd) ∨ (q.wr < q.rd ∧ q.fill k = q.wr + 2 * 2 ^ k - q.rd) := by
  unfold RillSt.fill
  rcases Nat.lt_or_ge q.wr q.rd with h | h
  · exact .inr ⟨h, Nat.mod_eq_of_lt (by omega)⟩
  · refine .inl ⟨h, ?_⟩
    rw [show q.wr + 2 * 2 ^ k - q.rd = q.wr - q.rd + 2 * 2 ^ k by omega, Nat.add_mod_right, Nat.mod_eq_of_lt (by omega)]

/-- A pointer goes on by one, or wraps. -/
theorem succ_mod_cases {p m : Nat} (h : p < m) : (p + 1 = m ∧ (p + 1) % m = 0) ∨ (p + 1 < m ∧ (p + 1) % m = p + 1) := by
  rcases Nat.lt_or_ge (p + 1) m with e | e
  · exact .inr ⟨e, Nat.mod_eq_of_lt e⟩
  · have top : p + 1 = m := by omega
    exact .inl ⟨top, by rw [top, Nat.mod_self]⟩

theorem succ_mod_lt (p : Nat) : (p + 1) % (2 * 2 ^ k) < 2 * 2 ^ k := Nat.mod_lt _ (Nat.mul_pos (by decide) (Nat.two_pow_pos k))

/-- A read takes one entry (R77). -/
theorem fill_pop (hw : q.wr < 2 * 2 ^ k) (hr : q.rd < 2 * 2 ^ k) (h : q.fill k ≠ 0) : (q.pop k).1.fill k = q.fill k - 1 := by
  have wr : (q.pop k).1.wr = q.wr := rfl
  have rd : (q.pop k).1.rd = (q.rd + 1) % (2 * 2 ^ k) := rfl
  have next := succ_mod_cases hr
  have old := fill_cases hw hr
  have new := fill_cases (q := (q.pop k).1) hw (succ_mod_lt _)
  omega

/-- A flush leaves an empty queue (R78). -/
theorem fill_flush (q : RillSt) (k : Nat) : (q.before k .flush).fill k = 0 := by
  simp [RillSt.before, RillSt.fill]

/-- A write to a queue with room stores the entry and loses none, under either POLICY (R77). -/
theorem push_room (h : q.fill k < 2 ^ k) : q.push k ow w =
    ({ q with entries := q.entries.set (q.wr % 2 ^ k) w 0, wr := (q.wr + 1) % (2 * 2 ^ k) }, false) := by
  rw [RillSt.push, if_neg (Nat.ne_of_lt h)]

/-- Such a write adds one entry. -/
theorem fill_push_room (hw : q.wr < 2 * 2 ^ k) (hr : q.rd < 2 * 2 ^ k) (h : q.fill k < 2 ^ k) :
    (q.push k ow w).1.fill k = q.fill k + 1 := by
  have wr : (q.push k ow w).1.wr = (q.wr + 1) % (2 * 2 ^ k) := by rw [push_room h]
  have rd : (q.push k ow w).1.rd = q.rd := by rw [push_room h]
  have next := succ_mod_cases hw
  have old := fill_cases hw hr
  have new := fill_cases (q := (q.push k ow w).1) (by rw [wr]; exact succ_mod_lt _) (by rw [rd]; exact hr)
  omega

/-- A write to a queue `p` that has room adds its entry and touches no register; `p` is the queue once the read or flush of the same
cycle has applied (R77, R78). -/
theorem queueWrite_room {p : RillSt} {n : Nat} {how : RillWith} (hb : (s.host.rill.get n {}).before (Config.rillDepth n) how = p)
    (hw : p.wr < 2 * 2 ^ Config.rillDepth n) (hr : p.rd < 2 * 2 ^ Config.rillDepth n)
    (h : p.fill (Config.rillDepth n) < 2 ^ Config.rillDepth n) : (queueWrite s n w how).regs = s.regs ∧
    let k := Config.rillDepth n
    let q' := (queueWrite s n w how).host.rill.get n {}
    q'.fill k = p.fill k + 1 ∧ q' = { p with entries := p.entries.set (p.wr % 2 ^ k) w 0, wr := (p.wr + 1) % (2 * 2 ^ k) } := by
  have stored : queueWrite s n w how = hostUpd s fun h => { h with
      rill := h.rill.set n (p.push (Config.rillDepth n) (Config.rillPolicy n) w).1 {} } := by
    simp only [queueWrite, hb, push_room h, Bool.false_eq_true, if_false]
  have read : (queueWrite s n w how).host.rill.get n {} = (p.push (Config.rillDepth n) (Config.rillPolicy n) w).1 := by
    rw [stored]; exact get_set_same
  refine ⟨by rw [stored, hostUpd_regs], ?_, ?_⟩
  · rw [read, fill_push_room hw hr h]
  · rw [read, push_room h]

theorem portFlush_ports {n : Nat} : (portFlush s n).host.ports.get n {} =
    { s.host.ports.get n {} with rd := (s.host.ports.get n {}).wr, lostmark := false } := get_set_same

theorem exec_rillQueueWrite_queue {n : Fin 64} {x : BitVec 64} {how : RillWith} :
    exec (.rillQueueWrite (.queue n) x how) s = .next (queueWrite s n x.toNat how) := rfl

theorem exec_hostPortFlush {n : Fin 8} : exec (.hostPortFlush n) s = .next (portFlush s n) := rfl

end Rill

/-- Settles O14: the read or flush makes room, so the write takes the branch of R77 that loses nothing, whatever the POLICY. -/
theorem rillSameCycle : Obligations.RillSameCycle := by
  unfold Obligations.RillSameCycle
  refine ⟨?_, fun s n => ⟨_, exec_hostPortFlush, rfl, portFlush_ports⟩⟩
  intro s n w k q hw hr hk
  constructor
  · intro h0
    have read : q.before k .read = (q.pop k).1 := by rw [RillSt.before, if_neg h0]
    have less : (q.pop k).1.fill k = q.fill k - 1 := fill_pop hw hr h0
    have room : (q.pop k).1.fill k < 2 ^ k := by omega
    have refilled : (q.pop k).1.fill k + 1 = q.fill k := by omega
    obtain ⟨regs, fill, after⟩ := queueWrite_room (s := s) (w := w.toNat) read hw (succ_mod_lt _) room
    refine ⟨_, exec_rillQueueWrite_queue, regs, ?_, ?_, ?_, ?_⟩
    · rw [after]; rfl
    · rw [after]; rfl
    · exact fill.trans refilled
    · rw [after]; exact get_set_same
  · have empty : (q.before k .flush).fill k = 0 := fill_flush q k
    obtain ⟨regs, fill, after⟩ := queueWrite_room (s := s) (w := w.toNat) (how := .flush) rfl hw hw (by rw [empty]; exact Nat.two_pow_pos k)
    refine ⟨_, exec_rillQueueWrite_queue, regs, ?_, ?_, ?_, ?_⟩
    · rw [after]; rfl
    · rw [fill, empty]
    · rw [after]; rfl
    · rw [after]; exact get_set_same

/-! ### Event stores (R45) -/

section EventStore

variable {m n : Nat} {r : EvRec} {rest : List EvRec}

/-- The EQ of a full store: it keeps its records, and OVERFLOWED is due. -/
def overflowed (q : EqSt) : EqSt := { q with overflow := true, discarded := satInc 32 q.discarded 1 }

/-- A full store keeps its records. -/
theorem eqAt_eqPut_full (h : ¬ (eqAt s n).pend.length < 2048) :
    eqAt (eqPut s n r) m = eqAt (setEq s n (overflowed (eqAt s n))) m := by
  rw [eqPut_full h]
  obtain ⟨_, _, _, eqs, _⟩ := setErr_frame (count1 (setEq s n (overflowed (eqAt s n))) (Reg.HIF_EQ_LOST_COUNT n)) Reg.GLB_ERR_EQ_LOST
  exact eqAt_of_eqs eqs

/-- A record that finds the store full is counted in HIF_EQn_LOST, which saturates, and flagged in GLB_ERR. -/
theorem lost_eqPut_full (h : ¬ (eqAt s n).pend.length < 2048) : flag (eqPut s n r) Reg.GLB_ERR_EQ_LOST = true ∧
    fld (eqPut s n r) (Reg.HIF_EQ_LOST_COUNT n) = min (fld s (Reg.HIF_EQ_LOST_COUNT n) + 1) (2 ^ 32 - 1) := by
  rw [eqPut_full h]
  refine ⟨flag_setErr ⟨by decide, by decide⟩ rfl, ?_⟩
  have apart : (Reg.HIF_EQ_LOST_COUNT n).off ≠ Reg.GLB_ERR_EQ_LOST.off := by
    show 0x1510 + 0x20 * n ≠ 0x8
    omega
  rw [fld, (setErr_frame _ _).1 _ apart]
  exact fld_countBy ⟨Nat.zero_le _, Nat.lt_succ_self 31⟩

/-- A record put into the store of one EQ leaves the others. -/
theorem eqAt_eqPut_ne (h : m ≠ n) : eqAt (eqPut s n r) m = eqAt s m := by
  by_cases room : (eqAt s n).pend.length < 2048
  · rw [eqPut_room room, eqAt_setEq_ne h]
  · rw [eqAt_eqPut_full room, eqAt_setEq_ne h]

/-- The record written is the oldest; the others keep their order, and OVERFLOWED is no longer due. -/
theorem eqAt_putEvent : ∃ co, eqAt (putEvent s n r rest) n = { eqAt s n with pend := rest, overflow := false, coal := co } := by
  refine ⟨(coalStep s (fld s (Reg.HIF_EQ_CFG_COAL_CNT n)) (eqAt s n).coal).1, ?_⟩
  have same (a : Nat) (l : List Byte) (f g : RF) (x y : Nat) : eqAt (setFld (setFld (entryWrite s a l) f x) g y) n = eqAt s n :=
    eqAt_of_eqs (by simp)
  unfold putEvent
  dsimp only
  split
  · rw [eqAt_of_eqs (raiseVec_frame _ _).2.1, eqAt_setEq_same, same]
  · rw [eqAt_setEq_same, same]

theorem mem_putEvent : (putEvent s n r rest).host.mem =
    memPut s.host.mem (eqBase s n + 32 * fld s (Reg.HIF_EQ_WR_INDEX n))
      (eventBytes r (eqAt s n).overflow (fld s (Reg.HIF_EQ_WR_PHASE n))) := by
  unfold putEvent
  dsimp only
  split
  · rw [(raiseVec_frame _ _).2.2]; simp
  · simp

/-- Without a free slot the records wait. -/
theorem writeEvent_waits (h : eqFree s n = false) : writeEvent s n = s := by
  unfold writeEvent
  cases (eqAt s n).pend with
  | nil => rfl
  | cons r rest => exact if_pos (.inr (.inl (by rw [h]; rfl)))

/-- With one, the oldest record that is released is written. -/
theorem writeEvent_writes (hp : (eqAt s n).pend = r :: rest) (hs : hifState s = 1) (hf : eqFree s n = true)
    (hr : released s r = true) (hm : eqFails s n = false) : writeEvent s n = putEvent s n r rest := by
  simp only [writeEvent, hp, hs, hf, hr, hm, ne_eq, not_true, Bool.not_true, Bool.false_eq_true, or_self, if_false]

theorem exec_eventRecordWrite {n : Fin 4} : exec (.eventRecordWrite n) s = .next (writeEvent s n) := rfl

end EventStore

/-- Settles O16: `eqPut` appends while there is room and otherwise only counts; EVENT_RECORD_WRITE takes the front record. -/
theorem eqPendingStore : Obligations.EqPendingStore := by
  unfold Obligations.EqPendingStore
  refine ⟨fun s n r => ?_, fun s n hf => ?_, ?_⟩
  · refine ⟨fun room => ?_, fun full => ?_, fun m hm => eqAt_eqPut_ne (Fin.val_ne_of_ne hm)⟩
    · rw [eqPut_room room]
      exact ⟨eqAt_setEq_same, setEq_regs⟩
    · have full := Nat.not_lt_of_le full
      obtain ⟨flagged, counted⟩ := lost_eqPut_full (r := r) full
      have kept : eqAt (eqPut s n r) n = overflowed (eqAt s n) := by rw [eqAt_eqPut_full full, eqAt_setEq_same]
      exact ⟨by rw [kept]; rfl, by rw [kept]; rfl, flagged, counted⟩
  · rw [exec_eventRecordWrite, writeEvent_waits hf]
  · intro s n r rest hp hs hf hr a hm
    obtain ⟨_, after⟩ := eqAt_putEvent (s := s) (n := n) (r := r) (rest := rest)
    exact ⟨_, by rw [exec_eventRecordWrite, writeEvent_writes hp hs hf hr hm], by rw [after], by rw [after], mem_putEvent⟩

/-! ### BAD_STATE of the admin opcodes (R82) -/

section Admin

variable {sq : Fin 16} {b : Boot} {l m : List Chk} {st : Nat}

/-- Checks that find nothing do not hide what later ones find. -/
theorem worst_append (h : Clean l) : worst (l ++ m) = worst m := by
  induction l with
  | nil => rfl
  | cons k r ih =>
    obtain ⟨hk, hr⟩ := List.forall_mem_cons.1 h
    rw [List.cons_append, worst, ih hr, hk]
    cases worst m <;> rfl

theorem checkOps_append_bad {k : Chk} (h : Clean l) (hk : k.bad = true) :
    checkOps (l ++ [k]) = .error (.ans (ansBadField k.reason k.off)) := by
  simp [checkOps, worst_append h, worst, hk]

theorem clean_append {k : Chk} (h : Clean l) (hk : k.bad = false) : Clean (l ++ [k]) :=
  List.forall_mem_append.2 ⟨h, List.forall_mem_singleton.2 hk⟩

theorem error_bind {α β : Type} (e : Stop) (f : α → Except Stop β) : ((Except.error e : Except Stop α) >>= f) = .error e := rfl

/-- Another fetched command of the named SQ refuses INTENT_FORGET (R82). -/
theorem bodyIntentForget_busy (hc : Clean (opChks c [(16, 1)] [] ++ [rsvChk (decide (15 < c.op 16 1)) 16]))
    (hx : ∃ x ∈ (sqAt s (c.op 16 1 % 16)).fetched, x.seq ≠ c.seq) :
    bodyIntentForget s c = .error (.ans (ansBadState 0x0001)) := by
  have busy : ((sqAt s (c.op 16 1 % 16)).fetched.any fun x => x.seq ≠ c.seq) = true := by simpa using hx
  rw [bodyIntentForget, checkOps_clean hc, ok_bind, stopIf_true busy, error_bind]

/-- A wrong CONFIRM is an operand out of its range. -/
theorem bodyModuleReset_unconfirmed (hc : Clean (opChks c [(16, 4)] [])) (hw : c.op 16 4 ≠ 0xD2640A5E) :
    bodyModuleReset s c = .error (.ans (ansBadField 0x01 16)) := by
  rw [bodyModuleReset, checkOps_append_bad hc (decide_eq_true hw), error_bind]
  rfl

/-- The commit to FRAM refuses MODULE_RESET (R82, R490). -/
theorem bodyModuleReset_committing (hc : Clean (opChks c [(16, 4)] [])) (hw : c.op 16 4 = 0xD2640A5E) (hm : committing s = true) :
    bodyModuleReset s c = .error (.ans (ansBadState 0x0002)) := by
  have clean := clean_append (k := rangeChk (decide (c.op 16 4 ≠ 0xD2640A5E)) 16) hc (decide_eq_false (not_not_intro hw))
  rw [bodyModuleReset, checkOps_clean clean, ok_bind, stopIf_true hm, error_bind]

/-- A MODULE_RESET whose work ends early only completes. -/
theorem execModuleReset_stops (h : Ready s sq 0x0105 c) (hn : s.host.resetFor = none)
    (hb : bodyModuleReset s c = .error (.ans a)) : execModuleReset sq b s = .next (complete s c a) := by
  obtain ⟨hp, hj⟩ := h
  simp only [execModuleReset, hn, hp, hj, hb, runCmd]

theorem exec_intentForget : exec (.intentForget sq) s = .next (runRing s sq 0x0103 bodyIntentForget) := rfl

theorem exec_moduleReset : exec (.moduleReset sq b) s = execModuleReset sq b s := rfl

/-- An opcode's work does not end with final status `st`. -/
def EndsWithout (st : Nat) : Work → Prop
  | .ok (_, some a) | .error (.ans a) | .error (.ansIn _ a) => a.status ≠ st
  | .ok (_, none) | .error (.bufFault _) => True

/-- `EndsWithout` in the terms of the three ways to end with a status. -/
theorem status_ne_of_endsWithout {w : Work} (h : EndsWithout st w) : (∀ a, w = .error (.ans a) → a.status ≠ st) ∧
    (∀ t a, w = .error (.ansIn t a) → a.status ≠ st) ∧ ∀ t a, w = .ok (t, some a) → a.status ≠ st :=
  ⟨fun _ e => by rw [e] at h; exact h, fun _ _ e => by rw [e] at h; exact h, fun _ _ e => by rw [e] at h; exact h⟩

theorem endsWithout_done {r : Nat} (h : st ≠ 0x00) : EndsWithout st (pure (s, some (ansDone r))) := h.symm

/-- The operand checks answer BAD_FIELD alone. -/
theorem endsWithout_checkOps {f : Unit → Work} (h : st ≠ 0x11) (hf : EndsWithout st (f ())) :
    EndsWithout st (checkOps l >>= f) := by
  unfold checkOps
  cases worst l with
  | none => exact hf
  | some k => exact h.symm

/-- A write to a buffer succeeds or raises a ring fault (R533). -/
theorem endsWithout_writeBuf {k : Nat} {bs : List Byte} {f : State → Work} (hf : ∀ t, EndsWithout st (f t)) :
    EndsWithout st (writeBuf s c k bs >>= f) := by
  unfold writeBuf
  dsimp only
  split
  · exact trivial
  · exact hf _

end Admin

/-- Settles O18: the two opcodes stop at their own checks, and the work of the other four holds operand checks and buffer writes only. -/
theorem adminBadStates : Obligations.AdminBadStates := by
  unfold Obligations.AdminBadStates
  refine ⟨fun s sq c hr hc hx => ?_, fun s sq c b hr hn hc => ⟨fun hw => ?_, fun hw hm => ?_⟩, fun s c body hbody => ?_⟩
  · rw [exec_intentForget, runRing_stops hr (bodyIntentForget_busy hc hx)]
  · rw [exec_moduleReset, execModuleReset_stops hr hn (bodyModuleReset_unconfirmed hc hw)]
  · rw [exec_moduleReset, execModuleReset_stops hr hn (bodyModuleReset_committing hc hw hm)]
  · apply status_ne_of_endsWithout
    simp only [List.mem_cons, List.not_mem_nil, or_false] at hbody
    rcases hbody with rfl | rfl | rfl | rfl
    · exact endsWithout_checkOps (by decide) (endsWithout_done (by decide))
    · exact endsWithout_checkOps (by decide) (endsWithout_writeBuf fun _ => endsWithout_done (by decide))
    · exact endsWithout_checkOps (by decide) (endsWithout_done (by decide))
    · exact endsWithout_checkOps (by decide) (endsWithout_writeBuf fun _ => endsWithout_done (by decide))

end Sys2Proof.HostRings
end

section
/-! PROOFS. The radio (chapter 04): detections that find no demodulator in time. -/

namespace Sys2Proof.Radio

open Sys2Proof.Machine Sys2Proof.Laws

variable {s : State}

/-- Setting an error flag leaves the radio's own state. -/
@[simp] theorem setErr_rad {f : RF} : (setErr s f).rad = s.rad := by
  rcases setErr_cases s f with ⟨_, h⟩ | h | ⟨v, h⟩
  · rw [h]
  · rw [h]; rfl
  · rw [h]
    rcases raiseVec_cases (setFld s f 1) v with g | g <;> (rw [g]; rfl)

/-! ### Detections dropped after 1 ms (R124) -/

/-- The detections that have waited 1 ms. -/
def stale (s : State) : List Det := s.rad.waiting.filter fun d => passedMs s d.at' 1

/-- The state in which they wait no longer. -/
def unwaited (s : State) : State := radUpd s fun r => { r with waiting := r.waiting.filter fun d => !passedMs s d.at' 1 }

/-- The state after the drop: DROP has counted them, and OVERLOAD is set. -/
def dropped (s : State) : State := setErr (countBy (unwaited s) (Reg.RAD_CNT_COUNT 4) (stale s).length) Reg.RAD_ERR_OVERLOAD

theorem exec_detectionDrop : exec .detectionDrop s = .next (if (stale s).length = 0 then s else dropped s) := rfl

theorem exec_detectionDrop_fresh (h : stale s = []) : exec .detectionDrop s = .next s := by
  rw [exec_detectionDrop, if_pos (List.length_eq_zero_iff.2 h)]

theorem exec_detectionDrop_stale (h : stale s ≠ []) : exec .detectionDrop s = .next (dropped s) := by
  rw [exec_detectionDrop, if_neg (mt List.length_eq_zero_iff.1 h)]

theorem reg_unwaited {o : Nat} : reg (unwaited s) o = reg s o := reg_of_regs radUpd_regs

theorem fld_unwaited {f : RF} : fld (unwaited s) f = fld s f := fld_of_regs radUpd_regs

theorem rad_dropped : (dropped s).rad = { s.rad with waiting := s.rad.waiting.filter fun d => !passedMs s d.at' 1 } := by
  rw [dropped, setErr_rad, countBy_rad, unwaited, radUpd_rad]

theorem mem_dropped : (dropped s).host.mem = s.host.mem := by
  obtain ⟨_, _, _, _, mem, _⟩ := setErr_frame (countBy (unwaited s) (Reg.RAD_CNT_COUNT 4) (stale s).length) Reg.RAD_ERR_OVERLOAD
  rw [dropped, mem, countBy_host, unwaited, radUpd_host]

theorem overload_dropped : flag (dropped s) Reg.RAD_ERR_OVERLOAD = true := flag_setErr ⟨by decide, by decide⟩ rfl

/-- OVERLOAD stands in another register than DROP, so setting it leaves the count. -/
theorem drop_dropped : fld (dropped s) (Reg.RAD_CNT_COUNT 4) =
    min (fld s (Reg.RAD_CNT_COUNT 4) + (stale s).length) (2 ^ 32 - 1) := by
  have apart : (Reg.RAD_CNT_COUNT 4).off ≠ Reg.RAD_ERR_OVERLOAD.off := by decide
  rw [dropped, fld, (setErr_frame _ _).1 _ apart, ← fld_unwaited]
  exact fld_countBy ⟨by decide, by decide⟩

theorem reg_dropped_ne {o : Nat} (hc : o ≠ (Reg.RAD_CNT_COUNT 4).off) (he : o ≠ Reg.RAD_ERR_OVERLOAD.off) :
    reg (dropped s) o = reg s o := by
  rw [dropped, (setErr_frame _ _).1 _ he, countBy, reg_setFld_ne hc, reg_unwaited]

/-- Settles O24: with a detection that has waited 1 ms the next state is `dropped s`, whose parts the lemmas above give. -/
theorem detectionDropped : Obligations.DetectionDropped := by
  unfold Obligations.DetectionDropped
  exact fun s => ⟨exec_detectionDrop_fresh, fun waited => ⟨dropped s, exec_detectionDrop_stale waited, rad_dropped, drop_dropped,
    overload_dropped, mem_dropped, fun _ => reg_dropped_ne⟩⟩

end Sys2Proof.Radio
end

section
/-! PROOFS. The Cistern (chapter 10): the CRC of a record and its place. -/

namespace Sys2Proof.Cistern

open Sys2Proof.Machine

/-! ### The CRC is the shift register of R289 -/

/-- One shift of R289, in the spec's bit operators. -/
def crcShift (crc : Nat) : Nat :=
  if crc &&& 0x8000 ≠ 0 then ((crc <<< 1) ^^^ 0x1021) &&& 0xFFFF else (crc <<< 1) &&& 0xFFFF

/-- The mask 0x8000 keeps bit 15 alone. -/
theorem and_0x8000_ne_zero_iff {c : Nat} : c &&& 0x8000 ≠ 0 ↔ bit c 15 = true := by
  have bit_eq : bit c 15 = c.testBit 15 := Nat.testBit_eq_decide_div_mod_eq.symm
  have masked (i : Nat) : (c &&& 0x8000).testBit i = (c.testBit i && decide (15 = i)) := by
    rw [Nat.testBit_and, show 0x8000 = 2 ^ 15 from rfl, Nat.testBit_two_pow]
  rw [bit_eq]
  constructor
  · intro nonzero
    obtain ⟨i, set⟩ := Nat.exists_testBit_of_ne_zero nonzero
    rw [masked, Bool.and_eq_true, decide_eq_true_eq] at set
    obtain ⟨set, rfl⟩ := set
    exact set
  · intro set zero
    have clear := masked 15
    rw [zero, Nat.zero_testBit, set] at clear
    exact absurd clear (by decide)

theorem and_0xFFFF (c : Nat) : c &&& 0xFFFF = c % 65536 := Nat.and_two_pow_sub_one_eq_mod c 16

/-- The model doubles and reduces modulo 65,536 where R289 shifts and masks. -/
theorem crcShift_eq (c : Nat) :
    crcShift c = if bit c 15 then Nat.xor (c * 2) 0x1021 % 65536 else c * 2 % 65536 := by
  rw [crcShift, and_0xFFFF, and_0xFFFF, Nat.shiftLeft_eq]
  exact ite_congr (propext and_0x8000_ne_zero_iff) (fun _ => rfl) fun _ => rfl

theorem foldl_range_eq_repeat {α : Type} (f : α → α) (a : α) (n : Nat) :
    (List.range n).foldl (fun x _ => f x) a = Nat.repeat f n a := by
  induction n with
  | zero => rfl
  | succ n ih => rw [List.range_succ, List.foldl_append, ih, List.foldl_cons, List.foldl_nil, Nat.repeat]

/-- The register after one more byte. -/
def crcByte (crc : Nat) (b : Byte) : Nat := Nat.repeat crcShift 8 (crc ^^^ (b.toNat <<< 8))

theorem crc16_eq_foldl (l : List Byte) : crc16 l = l.foldl crcByte 0xFFFF := by
  unfold crc16
  congr 1
  funext crc b
  simp only [← crcShift_eq]
  rw [foldl_range_eq_repeat, crcByte, Nat.shiftLeft_eq]
  rfl

theorem crc16_concat (l : List Byte) (b : Byte) : crc16 (l ++ [b]) = crcByte (crc16 l) b := by
  rw [crc16_eq_foldl, crc16_eq_foldl, List.foldl_append, List.foldl_cons, List.foldl_nil]

/-- The check string of R289. -/
theorem crc16_digits : crc16 [0x31, 0x32, 0x33, 0x34, 0x35, 0x36, 0x37, 0x38, 0x39] = 0x29B1 := by decide +kernel

/-! ### The bytes of a record (R288) -/

@[simp] theorem length_leBytes (n v : Nat) : (leBytes n v).length = n := by
  induction n generalizing v with
  | zero => rfl
  | succ n ih => rw [leBytes, List.length_cons, ih]

theorem length_head (r : CisRec) : r.head.length = r.len - 4 := by
  simp only [CisRec.head, CisRec.len, List.length_append, length_leBytes]
  omega

/-- The CRC is followed by a zero byte and MARK. -/
theorem bytes_eq (r : CisRec) : r.bytes = r.head ++ (leBytes 2 (crc16 r.head) ++ ([0] ++ leBytes 1 r.mark)) := by
  simp only [CisRec.bytes, List.append_assoc]

theorem bytes_take_head (r : CisRec) : r.bytes.take (r.len - 4) = r.head := by
  rw [bytes_eq, List.take_left' (length_head r)]

theorem bytes_crc (r : CisRec) : (r.bytes.drop (r.len - 4)).take 2 = leBytes 2 (crc16 r.head) := by
  rw [bytes_eq, List.drop_left' (length_head r), List.take_left' (length_leBytes 2 _)]

theorem length_bytes (r : CisRec) : r.bytes.length = r.len := by
  have four : 4 ≤ r.len := by rw [CisRec.len]; omega
  simp only [bytes_eq, List.length_append, length_head, length_leBytes, List.length_singleton]
  omega

/-- Settles O19: each byte goes through the register as `crcByte`, and the CRC follows the first LENGTH - 4 bytes of a record. -/
theorem cisternCrc : Obligations.CisternCrc := by
  unfold Obligations.CisternCrc
  exact ⟨rfl, crc16_concat, crc16_digits, fun r => ⟨bytes_take_head r, bytes_crc r, length_bytes r⟩⟩

end Sys2Proof.Cistern
end

section
/-! PROOFS. Updates (chapter 11): UPD_OPEN on a slot that loads the same image, and on any other. -/

namespace Sys2Proof.Updates

open Sys2Proof.Machine Sys2Proof.Laws

variable {s : State} {sq : Fin 16} {c : Cmd} {n m : Nat} {x : UpdSlot}

/-! ### The slots: a read after a write, and what showing them leaves -/

theorem foldl_upd {α : Type} {f : State → α → State} {l : List α} (h : ∀ t i, (f t i).upd = t.upd) :
    (l.foldl f s).upd = s.upd :=
  List.foldlRecOn (motive := fun t : State => t.upd = s.upd) l f rfl fun t same i _ => (h t i).trans same

/-- Showing the slots in the registers leaves the update engine's own state. -/
@[simp] theorem updShow_upd : (updShow s).upd = s.upd := by
  simp only [updShow, setFlag_upd, setFld_upd]
  exact foldl_upd fun t n => by simp only [setFld_upd]

/-- Writing a slot changes nothing of the update engine but the slots. -/
theorem setUSlot_upd : (setUSlot s n x).upd = { s.upd with slots := s.upd.slots.set n x {} } := by
  rw [setUSlot, updShow_upd, updUpd_upd]

@[simp] theorem slotOf_setUSlot_same : slotOf (setUSlot s n x) n = x := by
  rw [slotOf, setUSlot_upd, get_set_same]

theorem slotOf_setUSlot_ne (h : m ≠ n) : slotOf (setUSlot s n x) m = slotOf s m := by
  rw [slotOf, setUSlot_upd, get_set_ne h, slotOf]

/-! ### UPD_OPEN (R317) -/

/-- The slot is LOADING the image that UPD_OPEN names. -/
abbrev SameImage (c : Cmd) (x : UpdSlot) : Prop := x.state = 1 ∧ x.image = c.op 24 4 ∧ x.total = c.op 20 4

/-- A slot that UPD_OPEN has cleared for the image it names. -/
abbrev opened (c : Cmd) : UpdSlot := { state := 1, total := c.op 20 4, image := c.op 24 4 }

/-- The operand checks of UPD_OPEN but for that of SLOT. -/
abbrev openChks (c : Cmd) (n : Nat) : List Chk :=
  opChks c [(16, 1), (20, 8)] [] ++
    [rangeChk (decide (c.op 20 4 ≤ 512 ∨ slotSize n < c.op 20 4)) 20, rangeChk (decide (c.op 24 4 = 0)) 24]

theorem slotChk_bad_of_slotNum (h : slotNum (c.op 16 1) = some n) : (slotChk c).bad = false := by
  rw [slotChk, h]
  rfl

theorem clean_insert {l r : List Chk} {k : Chk} (h : Clean (l ++ r)) (hk : k.bad = false) : Clean (l ++ k :: r) := by
  obtain ⟨hl, hr⟩ := List.forall_mem_append.1 h
  exact List.forall_mem_append.2 ⟨hl, List.forall_mem_cons.2 ⟨hk, hr⟩⟩

theorem exec_updOpen : exec (.updOpen sq) s = .next (runRing s sq 0x0A00 bodyUpdOpen) := rfl

section Open

variable (hn : slotNum (c.op 16 1) = some n) (hc : Clean (openChks c n)) (hh : slotHeld s n = false) (hb : campBusy s n = false)

include hn hc hh hb

/-- With good operands and a free slot, the work of UPD_OPEN is the choice between the two cases of R317. -/
theorem bodyUpdOpen_passes : bodyUpdOpen s c = if SameImage c (slotOf s n) then .ok (s, some (ansDone (slotOf s n).pieces.length))
    else .ok (setUSlot s n (opened c), some ansDone) := by
  simp only [bodyUpdOpen, hn, Option.getD_some]
  rw [checkOps_clean (clean_insert hc (slotChk_bad_of_slotNum hn)), ok_bind, stopIf_false hh, ok_bind, stopIf_false hb, ok_bind]
  rfl

variable (hr : Ready s sq 0x0A00 c)

include hr

theorem exec_updOpen_same (same : SameImage c (slotOf s n)) :
    exec (.updOpen sq) s = .next (complete s c (ansDone (slotOf s n).pieces.length)) := by
  have body := bodyUpdOpen_passes hn hc hh hb
  rw [if_pos same] at body
  rw [exec_updOpen, runRing_done hr body (by decide)]

theorem exec_updOpen_other (other : ¬ SameImage c (slotOf s n)) :
    exec (.updOpen sq) s = .next (complete (setUSlot s n (opened c)) c ansDone) := by
  have body := bodyUpdOpen_passes hn hc hh hb
  rw [if_neg other] at body
  rw [exec_updOpen, runRing_done hr body (by decide)]

end Open

/-- Settles O26: the work keeps the state or writes the one slot, and a slot's write is read back there alone. -/
theorem updOpenKeepsOrClears : Obligations.UpdOpenKeepsOrClears := by
  unfold Obligations.UpdOpenKeepsOrClears
  intro s sq c n hr hn total image hc hh hb x
  refine ⟨exec_updOpen_same hn hc hh hb hr, fun other => ⟨setUSlot s n (opened c), ?_, slotOf_setUSlot_same, ?_, ?_⟩⟩
  · exact exec_updOpen_other hn hc hh hb hr other
  · rw [slotOf_setUSlot_same]
  · exact fun m hm => slotOf_setUSlot_ne hm

end Sys2Proof.Updates
end

section
/-! PROOFS. The machine: what a step takes and keeps, that every run goes on, and the state after reset. -/

namespace Sys2Proof.Stepping

open Sys2Proof.Machine Sys2Proof.Laws

variable {s t : State}

/-! ### One command, one step -/

/-- Every command keeps what `Kept` names: the lemma of its own meaning in Laws/Kept*. -/
theorem kept_exec (i : Instr) (s : State) : OutKept s (exec i s) :=
  match i with
  | .registerWrite .. => kept_execRegisterWrite (.refl s)
  | .readClear .. => kept_execReadClear (.refl s)
  | .lockSet .. => kept_execLockSet (.refl s)
  | .glbFenceRead => kept_execGlbFenceRead (.refl s)
  | .configRequest .. => kept_execConfigRequest (.refl s)
  | .msixConfigWrite .. => kept_execMsixConfigWrite (.refl s)
  | .perstAssert .. => kept_execPerstAssert (.refl s)
  | .hotReset => kept_execHotReset (.refl s)
  | .flr => kept_execFlr (.refl s)
  | .linkDown => kept_execLinkDown (.refl s)
  | .d3hotEntry => kept_execD3hotEntry (.refl s)
  | .d3hotExit => kept_execD3hotExit (.refl s)
  | .aerFatal => kept_execAerFatal (.refl s)
  | .aerCorrectable => kept_execAerCorrectable (.refl s)
  | .recoveryHalted => kept_execRecoveryHalted (.refl s)
  | .hifEnableWrite .. => kept_execHifEnableWrite (.refl s)
  | .resume => kept_execResume (.refl s)
  | .ringEnable .. => kept_execRingEnable (.refl s)
  | .sqTailDoorbell .. => kept_execSqTailDoorbell (.refl s)
  | .cqHeadDoorbell .. => kept_execCqHeadDoorbell (.refl s)
  | .eqHeadDoorbell .. => kept_execEqHeadDoorbell (.refl s)
  | .descriptorFetch => kept_execDescriptorFetch (.refl s)
  | .completionWrite .. => kept_execCompletionWrite (.refl s)
  | .eventRecordWrite .. => kept_execEventRecordWrite (.refl s)
  | .coalesceTimeout .. => kept_execCoalesceTimeout (.refl s)
  | .rillQueueWrite .. => kept_execRillQueueWrite (.refl s)
  | .hostPortDataRead .. => kept_execHostPortDataRead (.refl s)
  | .hostPortFlush .. => kept_execHostPortFlush (.refl s)
  | .nop .. => kept_execNop (.refl s)
  | .identify .. => kept_execIdentify (.refl s)
  | .eventRoute .. => kept_execEventRoute (.refl s)
  | .intentForget .. => kept_execIntentForget (.refl s)
  | .statsRead .. => kept_execStatsRead (.refl s)
  | .moduleReset .. => kept_execModuleReset (.refl s)
  | .timeSet .. => kept_execTimeSet (.refl s)
  | .timeAdjust .. => kept_execTimeAdjust (.refl s)
  | .leapSchedule .. => kept_execLeapSchedule (.refl s)
  | .localRuleSet .. => kept_execLocalRuleSet (.refl s)
  | .timSrcWrite .. => kept_execTimSrcWrite (.refl s)
  | .timSecLoRead => kept_execTimSecLoRead (.refl s)
  | .timCalDateRead => kept_execTimCalDateRead (.refl s)
  | .calendarStageWrite .. => kept_execCalendarStageWrite (.refl s)
  | .timCommitSet => kept_execTimCommitSet (.refl s)
  | .timCommitCalendar => kept_execTimCommitCalendar (.refl s)
  | .timCommitDiscard => kept_execTimCommitDiscard (.refl s)
  | .stepBoundary => kept_execStepBoundary (.refl s)
  | .ptpSync .. => kept_execPtpSync (.refl s)
  | .ppsInEdge .. => kept_execPpsInEdge (.refl s)
  | .ptpSourceLost => kept_execPtpSourceLost (.refl s)
  | .ppsWindowClose => kept_execPpsWindowClose (.refl s)
  | .holdoverExpiry => kept_execHoldoverExpiry (.refl s)
  | .leapSlewStart => kept_execLeapSlewStart (.refl s)
  | .leap => kept_execLeap (.refl s)
  | .ppsOutPulse => kept_execPpsOutPulse (.refl s)
  | .alarmArm .. => kept_execAlarmArm (.refl s)
  | .alarm .. => kept_execAlarm (.refl s)
  | .wakeEnable .. => kept_execWakeEnable (.refl s)
  | .wake .. => kept_execWake (.refl s)
  | .radioProfileLoad .. => kept_execRadioProfileLoad (.refl s)
  | .profileSelect .. => kept_execProfileSelect (.refl s)
  | .txTest .. => kept_execTxTest (.refl s)
  | .txTestDone .. => kept_execTxTestDone (.refl s)
  | .rxSurvey .. => kept_execRxSurvey (.refl s)
  | .surveyDone .. => kept_execSurveyDone (.refl s)
  | .detection .. => kept_execDetection (.refl s)
  | .demodAssign => kept_execDemodAssign (.refl s)
  | .detectionDrop => kept_execDetectionDrop (.refl s)
  | .noSfd .. => kept_execNoSfd (.refl s)
  | .demodRelease .. => kept_execDemodRelease (.refl s)
  | .rf24FrameRx .. => kept_execRf24FrameRx (.refl s)
  | .txStart .. => kept_execTxStart (.refl s)
  | .txEnd .. => kept_execTxEnd (.refl s)
  | .dutyBucketClose => kept_execDutyBucketClose (.refl s)
  | .joinReq => kept_execJoinReq (.refl s)
  | .dataUp => kept_execDataUp (.refl s)
  | .relayUp => kept_execRelayUp (.refl s)
  | .resp => kept_execResp (.refl s)
  | .t1Poll => kept_execT1Poll (.refl s)
  | .dedicatedDownlink => kept_execDedicatedDownlink (.refl s)
  | .joinAccept => kept_execJoinAccept (.refl s)
  | .joinFailed => kept_execJoinFailed (.refl s)
  | .endpointLost => kept_execEndpointLost (.refl s)
  | .rooster => kept_execRooster (.refl s)
  | .ackAgg => kept_execAckAgg (.refl s)
  | .map => kept_execMap (.refl s)
  | .mapActive => kept_execMapActive (.refl s)
  | .mapOldWindowEnd => kept_execMapOldWindowEnd (.refl s)
  | .foldCheckpoint => kept_execFoldCheckpoint (.refl s)
  | .foldAdmit .. => kept_execFoldAdmit (.refl s)
  | .foldRemove .. => kept_execFoldRemove (.refl s)
  | .foldRead .. => kept_execFoldRead (.refl s)
  | .foldFind .. => kept_execFoldFind (.refl s)
  | .connSet .. => kept_execConnSet (.refl s)
  | .mapSet .. => kept_execMapSet (.refl s)
  | .dlSend .. => kept_execDlSend (.refl s)
  | .rekey .. => kept_execRekey (.refl s)
  | .bcastRekey .. => kept_execBcastRekey (.refl s)
  | .tickBoundary => kept_execTickBoundary (.refl s)
  | .levelVector => kept_execLevelVector (.refl s)
  | .stepFired => kept_execStepFired (.refl s)
  | .ambientStepFire => kept_execAmbientStepFire (.refl s)
  | .commit_ => kept_execCommit (.refl s)
  | .commitDue => kept_execCommitDue (.refl s)
  | .commitDone => kept_execCommitDone (.refl s)
  | .commitEntryFree => kept_execCommitEntryFree (.refl s)
  | .memberSet .. => kept_execMemberSet (.refl s)
  | .groupCfg .. => kept_execGroupCfg (.refl s)
  | .scheduleProfileLoad .. => kept_execScheduleProfileLoad (.refl s)
  | .exceptionSet .. => kept_execExceptionSet (.refl s)
  | .sceneStore .. => kept_execSceneStore (.refl s)
  | .sceneRecall .. => kept_execSceneRecall (.refl s)
  | .sceneRelease .. => kept_execSceneRelease (.refl s)
  | .commitLevel .. => kept_execCommitLevel (.refl s)
  | .commitCancel .. => kept_execCommitCancel (.refl s)
  | .commitRead .. => kept_execCommitRead (.refl s)
  | .composeRead .. => kept_execComposeRead (.refl s)
  | .solarRead .. => kept_execSolarRead (.refl s)
  | .casVertexLoad .. => kept_execCasVertexLoad (.refl s)
  | .casEdgeLoad .. => kept_execCasEdgeLoad (.refl s)
  | .casStageSync .. => kept_execCasStageSync (.refl s)
  | .casGraphActivate .. => kept_execCasGraphActivate (.refl s)
  | .casBorderSet .. => kept_execCasBorderSet (.refl s)
  | .casInject .. => kept_execCasInject (.refl s)
  | .casDemandRead .. => kept_execCasDemandRead (.refl s)
  | .casGraphRead .. => kept_execCasGraphRead (.refl s)
  | .casClear .. => kept_execCasClear (.refl s)
  | .borderDemand .. => kept_execBorderDemand (.refl s)
  | .slowSample .. => kept_execSlowSample (.refl s)
  | .fastSample .. => kept_execFastSample (.refl s)
  | .weiLoopLoad .. => kept_execWeiLoopLoad (.refl s)
  | .weiLoopEnable .. => kept_execWeiLoopEnable (.refl s)
  | .weiCoefSet .. => kept_execWeiCoefSet (.refl s)
  | .weiGroupSet .. => kept_execWeiGroupSet (.refl s)
  | .weiInject .. => kept_execWeiInject (.refl s)
  | .weiInjectStop .. => kept_execWeiInjectStop (.refl s)
  | .weiCaptureSet .. => kept_execWeiCaptureSet (.refl s)
  | .weiCaptureRead .. => kept_execWeiCaptureRead (.refl s)
  | .weiLoopRead .. => kept_execWeiLoopRead (.refl s)
  | .weiCaptureStop .. => kept_execWeiCaptureStop (.refl s)
  | .basinSample .. => kept_execBasinSample (.refl s)
  | .cycleEnd => kept_execCycleEnd (.refl s)
  | .windowEnd => kept_execWindowEnd (.refl s)
  | .tempUpdate .. => kept_execTempUpdate (.refl s)
  | .basinCommit => kept_execBasinCommit (.refl s)
  | .channelStuck .. => kept_execChannelStuck (.refl s)
  | .channelRecover .. => kept_execChannelRecover (.refl s)
  | .intervalEnd => kept_execIntervalEnd (.refl s)
  | .intervalLenWrite .. => kept_execIntervalLenWrite (.refl s)
  | .reconciliationStart => kept_execReconciliationStart (.refl s)
  | .reconDone => kept_execReconDone (.refl s)
  | .basTempTableLoad .. => kept_execBasTempTableLoad (.refl s)
  | .basValuesRead .. => kept_execBasValuesRead (.refl s)
  | .basEnergyRead .. => kept_execBasEnergyRead (.refl s)
  | .basLanternSet .. => kept_execBasLanternSet (.refl s)
  | .basAllocRead .. => kept_execBasAllocRead (.refl s)
  | .basReconRead .. => kept_execBasReconRead (.refl s)
  | .powerLossHoldEnd => kept_execPowerLossHoldEnd (.refl s)
  | .foldGraceEnd .. => kept_execFoldGraceEnd (.refl s)
  | .storm => kept_execStorm (.refl s)
  | .liveArchive => kept_execLiveArchive (.refl s)
  | .auditFramWrite => kept_execAuditFramWrite (.refl s)
  | .auditArchive => kept_execAuditArchive (.refl s)
  | .cisLiveFseqRead => kept_execCisLiveFseqRead (.refl s)
  | .cisAudOseqRead => kept_execCisAudOseqRead (.refl s)
  | .cisWinRead .. => kept_execCisWinRead (.refl s)
  | .cisRead .. => kept_execCisRead (.refl s)
  | .cisSnapPin .. => kept_execCisSnapPin (.refl s)
  | .cisSnapRead .. => kept_execCisSnapRead (.refl s)
  | .cisSnapRelease .. => kept_execCisSnapRelease (.refl s)
  | .cisClearChallenge .. => kept_execCisClearChallenge (.refl s)
  | .cisSecClear .. => kept_execCisSecClear (.refl s)
  | .updOpen .. => kept_execUpdOpen (.refl s)
  | .updPiece .. => kept_execUpdPiece (.refl s)
  | .updVerify .. => kept_execUpdVerify (.refl s)
  | .imageVerified => kept_execImageVerified (.refl s)
  | .updActivate .. => kept_execUpdActivate (.refl s)
  | .updCancel .. => kept_execUpdCancel (.refl s)
  | .updConfirm .. => kept_execUpdConfirm (.refl s)
  | .updErase .. => kept_execUpdErase (.refl s)
  | .activationDue .. => kept_execActivationDue (.refl s)
  | .imageConfirmed => kept_execImageConfirmed (.refl s)
  | .healthWindowExpiry .. => kept_execHealthWindowExpiry (.refl s)
  | .updEpOffer .. => kept_execUpdEpOffer (.refl s)
  | .updEpActivate .. => kept_execUpdEpActivate (.refl s)
  | .updEpStop .. => kept_execUpdEpStop (.refl s)
  | .updEpStatus .. => kept_execUpdEpStatus (.refl s)
  | .roundStart => kept_execRoundStart (.refl s)
  | .imageBlock => kept_execImageBlock (.refl s)
  | .epActivationDone => kept_execEpActivationDone (.refl s)
  | .superframe .. => kept_execSuperframe (.refl s)
  | .boostPeriod .. => kept_execBoostPeriod (.refl s)
  | .openString .. => kept_execOpenString (.refl s)
  | .ledShort .. => kept_execLedShort (.refl s)
  | .overtemp .. => kept_execOvertemp (.refl s)
  | .pinTest .. => kept_execPinTest (.refl s)
  | .fixtureTempUpdate => kept_execFixtureTempUpdate (.refl s)
  | .status .. => kept_execStatus (.refl s)
  | .ftnFixtureLoad .. => kept_execFtnFixtureLoad (.refl s)
  | .ftnFixtureSet .. => kept_execFtnFixtureSet (.refl s)
  | .ftnChanSet .. => kept_execFtnChanSet (.refl s)
  | .ftnColorSet .. => kept_execFtnColorSet (.refl s)
  | .ftnJetLoad .. => kept_execFtnJetLoad (.refl s)
  | .ftnJetStart .. => kept_execFtnJetStart (.refl s)
  | .ftnJetStop .. => kept_execFtnJetStop (.refl s)
  | .ftnJetEvent .. => kept_execFtnJetEvent (.refl s)
  | .ftnFaultClear .. => kept_execFtnFaultClear (.refl s)
  | .oxCycle .. => kept_execOxCycle (.refl s)
  | .wdogOverrun .. => kept_execWdogOverrun (.refl s)
  | .answer .. => kept_execAnswer (.refl s)
  | .rioTimeout .. => kept_execRioTimeout (.refl s)
  | .daliReceive .. => kept_execDaliReceive (.refl s)
  | .dinLevelAccept .. => kept_execDinLevelAccept (.refl s)
  | .oxLoad .. => kept_execOxLoad (.refl s)
  | .oxValidate .. => kept_execOxValidate (.refl s)
  | .oxSwitch .. => kept_execOxSwitch (.refl s)
  | .oxStart .. => kept_execOxStart (.refl s)
  | .oxStop .. => kept_execOxStop (.refl s)
  | .oxForceSet .. => kept_execOxForceSet (.refl s)
  | .oxForceClear .. => kept_execOxForceClear (.refl s)
  | .oxRead .. => kept_execOxRead (.refl s)
  | .oxWrite .. => kept_execOxWrite (.refl s)
  | .keyUpdate .. => kept_execKeyUpdate (.refl s)
  | .keyInfo .. => kept_execKeyInfo (.refl s)
  | .keyCipher .. => kept_execKeyCipher (.refl s)
  | .keyMac .. => kept_execKeyMac (.refl s)
  | .keySign .. => kept_execKeySign (.refl s)
  | .keyVerify .. => kept_execKeyVerify (.refl s)
  | .keyDerive .. => kept_execKeyDerive (.refl s)
  | .keyRandom .. => kept_execKeyRandom (.refl s)
  | .keyIdentity .. => kept_execKeyIdentity (.refl s)
  | .keyTkExport .. => kept_execKeyTkExport (.refl s)
  | .keyScrap .. => kept_execKeyScrap (.refl s)
  | .otpRead .. => kept_execOtpRead (.refl s)
  | .pufClear => kept_execPufClear (.refl s)
  | .leaseSend => kept_execLeaseSend (.refl s)
  | .lease .. => kept_execLease (.refl s)
  | .actInEdge => kept_execActInEdge (.refl s)
  | .actInSilent => kept_execActInSilent (.refl s)
  | .actOwnLapse => kept_execActOwnLapse (.refl s)
  | .heartbeatMissing => kept_execHeartbeatMissing (.refl s)
  | .startWait => kept_execStartWait (.refl s)
  | .fenced => kept_execFenced (.refl s)
  | .partnerLostReset .. => kept_execPartnerLostReset (.refl s)
  | .foldStream .. => kept_execFoldStream (.refl s)
  | .oxStream .. => kept_execOxStream (.refl s)
  | .basStream .. => kept_execBasStream (.refl s)
  | .weiSlowStream .. => kept_execWeiSlowStream (.refl s)
  | .weiFastStream .. => kept_execWeiFastStream (.refl s)
  | .cisStream .. => kept_execCisStream (.refl s)
  | .commitStream .. => kept_execCommitStream (.refl s)
  | .cfgStream .. => kept_execCfgStream (.refl s)
  | .syncReq .. => kept_execSyncReq (.refl s)
  | .cfgAck .. => kept_execCfgAck (.refl s)
  | .spanCopy .. => kept_execSpanCopy (.refl s)
  | .cfgAckTimeout => kept_execCfgAckTimeout (.refl s)
  | .syncGapTimeout => kept_execSyncGapTimeout (.refl s)
  | .bulkCopyDone => kept_execBulkCopyDone (.refl s)
  | .parSwitch .. => kept_execParSwitch (.refl s)
  | .parResync .. => kept_execParResync (.refl s)
  | .helloSend => kept_execHelloSend (.refl s)
  | .hello .. => kept_execHello (.refl s)
  | .spanForward .. => kept_execSpanForward (.refl s)
  | .handover .. => kept_execHandover (.refl s)
  | .handoverAck .. => kept_execHandoverAck (.refl s)
  | .handoverTimeout => kept_execHandoverTimeout (.refl s)
  | .handoverSupervisionEnd => kept_execHandoverSupervisionEnd (.refl s)
  | .piecePart .. => kept_execPiecePart (.refl s)
  | .piecePartSend => kept_execPiecePartSend (.refl s)
  | .activate .. => kept_execActivate (.refl s)
  | .feederStateMsg .. => kept_execFeederStateMsg (.refl s)
  | .feederStateSend => kept_execFeederStateSend (.refl s)
  | .feederStateStale => kept_execFeederStateStale (.refl s)
  | .value .. => kept_execValue (.refl s)
  | .valuePublish => kept_execValuePublish (.refl s)
  | .fedRouteSet .. => kept_execFedRouteSet (.refl s)
  | .fedPeerSet .. => kept_execFedPeerSet (.refl s)
  | .fedValuePub .. => kept_execFedValuePub (.refl s)
  | .fedFeederMap .. => kept_execFedFeederMap (.refl s)
  | .fedHandover .. => kept_execFedHandover (.refl s)
  | .fedPieceSend .. => kept_execFedPieceSend (.refl s)
  | .fedActSend .. => kept_execFedActSend (.refl s)
  | .tileFill .. => kept_execTileFill (.refl s)
  | .patrolRead .. => kept_execPatrolRead (.refl s)
  | .sramScrub .. => kept_execSramScrub (.refl s)
  | .nandRefresh .. => kept_execNandRefresh (.refl s)
  | .laneTest .. => kept_execLaneTest (.refl s)
  | .refCheck .. => kept_execRefCheck (.refl s)
  | .bstRun .. => kept_execBstRun (.refl s)
  | .bstRecover .. => kept_execBstRecover (.refl s)
  | .bstTileRead .. => kept_execBstTileRead (.refl s)
  | .testNAssert => kept_execTestNAssert (.refl s)
  | .powerFailWarning .. => kept_execPowerFailWarning (.refl s)
  | .brownOut => kept_execBrownOut (.refl s)
  | .vinDip .. => kept_execVinDip (.refl s)
  | .vinGood .. => kept_execVinGood (.refl s)
  | .rstN .. => kept_execRstN (.refl s)
  | .watchdog .. => kept_execWatchdog (.refl s)
  | .clockFault => kept_execClockFault (.refl s)
  | .clockRecover .. => kept_execClockRecover (.refl s)
  | .vbakLow .. => kept_execVbakLow (.refl s)
  | .thermal .. => kept_execThermal (.refl s)
  | .tamper .. => kept_execTamper (.refl s)
  | .pwrModeSet .. => kept_execPwrModeSet (.refl s)
  | .pwrDomainSet .. => kept_execPwrDomainSet (.refl s)
  | .linkUp .. => kept_execLinkUp (.refl s)
  | .bcastKeyActive => kept_execBcastKeyActive (.refl s)
  | .channelDisabledWhileStuck .. => kept_execChannelDisabledWhileStuck (.refl s)
  | .leaseExpiry => kept_execLeaseExpiry (.refl s)
  | .takeoverGuardEnd => kept_execTakeoverGuardEnd (.refl s)
  | .actInLapse => kept_execActInLapse (.refl s)
  | .holdOutEnd => kept_execHoldOutEnd (.refl s)
  | .mirLink .. => kept_execMirLink (.refl s)
  | .vbakGood .. => kept_execVbakGood (.refl s)
  | .thermalClear .. => kept_execThermalClear (.refl s)
  | .domainStateReached => kept_execDomainStateReached (.refl s)
  | .bstResult .. => kept_execBstResult (.refl s)

/-- Every meaning answers a next state. -/
theorem exec_next (i : Instr) (s : State) : ∃ t, exec i s = .next t := by
  cases i <;> exact ⟨_, rfl⟩

/-- A step with a command waiting runs it on the rest of the queue. -/
theorem step_front {c : Instr} {rest : List Instr} (h : s.pending = c :: rest) : step s = exec c { s with pending := rest } := by
  rw [step, h]

theorem step_idle (h : s.pending = []) : step s = .next (tick s) := by
  rw [step, h]

/-- The next state keeps what `Kept` names of the state without its front command. -/
theorem kept_step (h : step s = .next t) : Kept { s with pending := s.pending.tail } t := by
  cases waiting : s.pending with
  | nil =>
    rw [step_idle waiting] at h
    cases h
    have same : ({ s with pending := [] } : State) = s := by rw [← waiting]
    rw [List.tail_nil, same]
    exact kept_tick (.refl s)
  | cons c rest =>
    rw [step_front waiting] at h
    exact (kept_exec c _).out t h

theorem step_next (s : State) : ∃ t, step s = .next t := by
  cases waiting : s.pending with
  | nil => exact ⟨_, step_idle waiting⟩
  | cons c rest =>
    rw [step_front waiting]
    exact exec_next c _

/-- Settles O1: the two cases of the queue. -/
theorem stepTakesFront : Obligations.StepTakesFront := by
  unfold Obligations.StepTakesFront
  exact ⟨fun _ _ _ => step_front, fun _ => step_idle⟩

/-- Settles O2, by induction on the number of steps. -/
theorem everyRunGoesOn : Obligations.EveryRunGoesOn := by
  unfold Obligations.EveryRunGoesOn
  intro n
  induction n with
  | zero => exact fun _ => trivial
  | succ n ih =>
    intro s
    obtain ⟨t, next⟩ := step_next s
    exact ⟨t, next, ih t⟩

/-! ### What every step keeps -/

/-- Settles O5: the canonical forms and the width of DT are among what a step keeps. -/
theorem stepKeepsInvariant : Obligations.StepKeepsInvariant := by
  unfold Obligations.StepKeepsInvariant
  intro s t inv h
  have kept := kept_step h
  exact ⟨kept.mem inv.mem, kept.regs inv.regs, kept.dt inv.dt⟩

/-- A bit that survives an AND with another word is a bit of that word. -/
theorem getLsbD_of_and_eq {w i : Nat} {x y : BitVec w} (h : x &&& y = x) (hx : x.getLsbD i = true) : y.getLsbD i = true := by
  rw [← h, BitVec.getLsbD_and, Bool.and_eq_true] at hx
  exact hx.2

/-- An OTP byte is what the part was born with and what has been burned since, and no burned bit is lost. -/
theorem getLsbD_otpByte_of_kept {a i : Nat} (kept : Kept s t) (h : (otpByte s a).getLsbD i = true) :
    (otpByte t a).getLsbD i = true := by
  rw [otpByte, BitVec.getLsbD_or, Bool.or_eq_true] at h ⊢
  exact h.imp_right (getLsbD_of_and_eq (kept.burned a))

/-- Settles O6: a step keeps the burned bits. -/
theorem otpBitsOnlyRise : Obligations.OtpBitsOnlyRise := by
  unfold Obligations.OtpBitsOnlyRise
  exact fun _ _ _ _ h bit => getLsbD_otpByte_of_kept (kept_step h) bit

/-- Settles O7: a step keeps the floor or raises it. -/
theorem svnFloorNeverFalls : Obligations.SvnFloorNeverFalls := by
  unfold Obligations.SvnFloorNeverFalls
  exact fun _ _ h => (kept_step h).floor

/-- Settles O8: what follows the front command is kept as it is, and elapsed time does not fall. -/
theorem queueAndElapsedTime : Obligations.QueueAndElapsedTime := by
  unfold Obligations.QueueAndElapsedTime
  exact fun _ _ h => ⟨(kept_step h).pend, (kept_step h).el⟩

/-! ### The state after reset -/

theorem inv_reset : State.reset.Inv := ⟨rfl, rfl, Nat.two_pow_pos 56⟩

/-- Settles O3: nothing is listed in the memories, and HIF_STAT.STATE resets to DISABLED. -/
theorem resetStateInvariant : Obligations.ResetStateInvariant := by
  unfold Obligations.ResetStateInvariant
  exact ⟨inv_reset, rfl, by decide +kernel, by decide +kernel, rfl, by decide +kernel⟩

/-- The fields of GLB_ID beside BAND and TEMP do not depend on the part. -/
theorem fld_reset_glbId {hi lo : Nat} (h : 7 < lo) :
    fld State.reset ⟨0, hi, lo⟩ = bits 0x2640B000 hi lo := by
  rw [fld, reg_reset_glbId, bits_putBits_high (by decide) (show 3 < lo by omega), bits_putBits_high (by decide) h]

/-- Settles O4: the cards' reset values, and for GLB_ID the word that leaves the band open. -/
theorem resetRegisterValues : Obligations.ResetRegisterValues := by
  unfold Obligations.ResetRegisterValues
  refine ⟨by decide +kernel, by decide +kernel, by decide +kernel, by decide +kernel, ?_, ?_, ?_⟩
  · exact (fld_reset_glbId (by decide)).trans (by decide)
  · exact (fld_reset_glbId (by decide)).trans (by decide)
  · exact (fld_reset_glbId (by decide)).trans (by decide)

end Sys2Proof.Stepping
end

section
/-! PROOFS. What the shared operations leave: error flags, event stores, completions, recovery and Cistern records. -/

namespace Sys2Proof.Frames

open Sys2Proof.Machine Sys2Proof.Laws Sys2Proof.HostRings

variable {s t u : State} {c : Cmd} {a : Answer}

/-- What every step of a fold keeps, the fold keeps. -/
theorem foldl_keeps {α β : Type} {p : State → β} {f : State → α → State} (h : ∀ t i, p (f t i) = p t) (l : List α) (s : State) :
    p (l.foldl f s) = p s :=
  List.foldlRecOn (motive := fun t : State => p t = p s) l f rfl fun t same i _ => (h t i).trans same

/-! ### Rings: their queues, statistics and flags -/

/-- `t` with the rings of `s`: their queues, kept entries and vectors, the registers and what was sent. -/
def withRingsOf (s t : State) : State :=
  { t with regs := s.regs, sent := s.sent, host := { t.host with
      sqs := s.host.sqs, cqs := s.host.cqs, eqs := s.host.eqs, kept := s.host.kept, rcvAborted := s.host.rcvAborted,
      msix := s.host.msix } }

/-- `t` differs from `s` in the rings' queues, kept entries and vectors, and in the registers of HIF_STAT, GLB_ERR and the HIF_EQn_LOST
counts. -/
structure RingFrame (s t : State) : Prop where
  rest : withRingsOf s t = s
  regs : ∀ off, off ≠ Reg.HIF_STAT_STATE.off → off ≠ Reg.GLB_ERR_EQ_LOST.off → (∀ n, off ≠ (Reg.HIF_EQ_LOST_COUNT n).off) →
    reg t off = reg s off

theorem RingFrame.refl (s : State) : RingFrame s s := ⟨rfl, fun _ _ _ _ => rfl⟩

theorem RingFrame.trans (h : RingFrame s t) (g : RingFrame t u) : RingFrame s u := by
  refine ⟨?_, fun off hs hg hn => (g.regs off hs hg hn).trans (h.regs off hs hg hn)⟩
  calc withRingsOf s u = withRingsOf s (withRingsOf t u) := rfl
    _ = s := by rw [g.rest, h.rest]

theorem ringFrame_setSq {n : Nat} {q : SqSt} : RingFrame s (setSq s n q) := ⟨rfl, fun _ _ _ _ => rfl⟩
theorem ringFrame_setCq {n : Nat} {q : CqSt} : RingFrame s (setCq s n q) := ⟨rfl, fun _ _ _ _ => rfl⟩
theorem ringFrame_setEq {n : Nat} {q : EqSt} : RingFrame s (setEq s n q) := ⟨rfl, fun _ _ _ _ => rfl⟩

theorem ringFrame_raiseVec {v : Nat} : RingFrame s (raiseVec s v) := by
  rcases raiseVec_cases s v with h | h <;> rw [h] <;> exact ⟨rfl, fun _ _ _ _ => rfl⟩

theorem ringFrame_setFld {f : RF} {v : Nat} (h : f.off = Reg.HIF_STAT_STATE.off ∨ f.off = Reg.GLB_ERR_EQ_LOST.off ∨
    ∃ n, f.off = (Reg.HIF_EQ_LOST_COUNT n).off) : RingFrame s (setFld s f v) := by
  refine ⟨rfl, fun off hs hg hn => reg_setFld_ne ?_⟩
  rcases h with h | h | ⟨n, h⟩ <;> rw [h]
  · exact hs
  · exact hg
  · exact hn n

theorem ringFrame_setErr {f : RF} (h : f.off = Reg.GLB_ERR_EQ_LOST.off) : RingFrame s (setErr s f) := by
  have flagged : RingFrame s (setFld s f 1) := ringFrame_setFld (.inr (.inl h))
  rcases setErr_cases s f with ⟨_, e⟩ | e | ⟨v, e⟩ <;> rw [e]
  · exact .refl s
  · exact flagged
  · exact flagged.trans ringFrame_raiseVec

theorem ringFrame_eqPut {n : Nat} {r : EvRec} : RingFrame s (eqPut s n r) := by
  by_cases room : (eqAt s n).pend.length < 2048
  · rw [eqPut_room room]
    exact ringFrame_setEq
  · rw [eqPut_full room]
    exact (ringFrame_setEq.trans (ringFrame_setFld (.inr (.inr ⟨n, rfl⟩)))).trans (ringFrame_setErr rfl)

theorem ringFrame_drainCheck : RingFrame s (drainCheck s) := by
  rcases drainCheck_cases s with h | h <;> rw [h]
  · exact .refl s
  · exact ringFrame_setFld (.inl rfl)

theorem ringFrame_notifyDone : RingFrame s (notifyDone s c a) := by
  rcases notifyDone_cases s c a with h | ⟨n, r, h⟩ <;> rw [h]
  · exact .refl s
  · exact ringFrame_eqPut

theorem ringFrame_holdEntry : RingFrame s (holdEntry s c a) := by
  rcases holdEntry_cases s c a with ⟨k, n, h⟩ | h | ⟨n, q, h⟩ <;> rw [h]
  · exact ⟨rfl, fun _ _ _ _ => rfl⟩
  · exact .refl s
  · exact ringFrame_setCq

theorem ringFrame_complete : RingFrame s (complete s c a) :=
  ((ringFrame_setSq.trans ringFrame_holdEntry).trans ringFrame_notifyDone).trans ringFrame_drainCheck

/-! The submission queues change when the command leaves its own, and at no later part of a completion. -/

theorem eqPut_sqs {n : Nat} {r : EvRec} : (eqPut s n r).host.sqs = s.host.sqs := by
  by_cases room : (eqAt s n).pend.length < 2048
  · rw [eqPut_room room, setEq_host]
  · rw [eqPut_full room, (setErr_frame _ _).2.1, count1, countBy_host, setEq_host]

theorem drainCheck_sqs : (drainCheck s).host.sqs = s.host.sqs := by
  rcases drainCheck_cases s with h | h <;> rw [h]
  rw [setFld_host]

theorem notifyDone_sqs : (notifyDone s c a).host.sqs = s.host.sqs := by
  rcases notifyDone_cases s c a with h | ⟨n, r, h⟩ <;> rw [h]
  exact eqPut_sqs

theorem holdEntry_sqs : (holdEntry s c a).host.sqs = s.host.sqs := by
  rcases holdEntry_cases s c a with ⟨k, n, h⟩ | h | ⟨n, q, h⟩ <;> rw [h]
  rw [setCq_host]

theorem sqAt_complete (n : Nat) : sqAt (complete s c a) n = sqAt (leaveSq s c a) n := by
  rw [sqAt, complete, drainCheck_sqs, notifyDone_sqs, holdEntry_sqs, ← sqAt]

theorem sqAt_complete_ne {n : Nat} (h : n ≠ c.sq) : sqAt (complete s c a) n = sqAt s n := by
  rw [sqAt_complete]
  exact get_set_ne h

/-- Settles O21: the command leaves its SQ, its entry is held or kept, its record is put, and the rings may drain. -/
theorem completeFrame : Obligations.CompleteFrame := by
  unfold Obligations.CompleteFrame
  intro s c a t
  have frame : RingFrame s t := ringFrame_complete
  have same {α : Type} (p : State → α) : p (withRingsOf s t) = p s := congrArg p frame.rest
  refine ⟨⟨same (·.host.mem), same (·.host.routes), same (·.host.ports), same (·.host.rill)⟩,
    ⟨same (·.dt), same (·.el), same (·.pending), same (·.freeN)⟩,
    ⟨same (·.time), same (·.cis), same (·.rad), same (·.mac), same (·.street), same (·.cas), same (·.bas)⟩,
    ⟨same (·.weir), same (·.ftn), same (·.ox), same (·.pair), same (·.fed), same (·.key), same (·.pin), same (·.upd), same (·.pwr),
      same (·.bst)⟩, fun n hn => sqAt_complete_ne hn, frame.regs⟩

/-! ### Recovery leaves host memory -/

theorem complete_mem : (complete s c a).host.mem = s.host.mem :=
  congrArg (·.host.mem) (ringFrame_complete (s := s) (c := c) (a := a)).rest

theorem setErr_mem {f : RF} : (setErr s f).host.mem = s.host.mem := by
  obtain ⟨_, _, _, _, mem, _⟩ := setErr_frame s f
  exact mem

theorem setErrs_mem {l : List RF} : (setErrs s l).host.mem = s.host.mem :=
  foldl_keeps (p := (·.host.mem)) (fun _ _ => setErr_mem) l s

theorem setFlds_mem {l : List RF} {v : Nat} : (l.foldl (fun s f => setFld s f v) s).host.mem = s.host.mem :=
  foldl_keeps (p := (·.host.mem)) (fun _ _ => by rw [setFld_host]) l s

theorem beginRecovery_mem {causes errs : List RF} : (beginRecovery s causes errs).host.mem = s.host.mem := by
  have completed (l : List Cmd) (t : State) : (completeAll t l { status := 0x30 }).host.mem = t.host.mem :=
    foldl_keeps (p := (·.host.mem)) (fun _ _ => complete_mem) l t
  rw [beginRecovery, completed, setErrs_mem]
  simp only [keepHeld, setFld_host, setFlds_mem, setReg_host]

theorem enterRecovery_mem {causes errs : List RF} : (enterRecovery s causes errs).host.mem = s.host.mem := by
  unfold enterRecovery
  split
  · exact beginRecovery_mem
  · split
    · rw [setErrs_mem, setFlds_mem]
    · rfl

theorem ringFault_mem {kind ring n : Nat} : (ringFault s kind ring n).host.mem = s.host.mem := by
  have counted : ∀ (x : State) (causes errs : List RF), x.host.mem = s.host.mem →
      (if hifState s = 0 then beginRecovery x causes errs else enterRecovery x causes errs).host.mem = s.host.mem := by
    intro x causes errs same
    split
    · rw [beginRecovery_mem, same]
    · rw [enterRecovery_mem, same]
  unfold ringFault
  dsimp only
  split
  · simp only [setFld_host]
    exact counted _ _ _ rfl
  · exact counted _ _ _ rfl

/-! ### Bytes stored in host memory -/

/-- Storing bytes leaves the addresses, modulo 2^64, that are not among theirs. -/
theorem get_memPut_ne {b : Nat} {l : List Byte} {m : SMap Byte} {a : Nat} (h : ∀ k < l.length, b % 2 ^ 64 ≠ (a + k) % 2 ^ 64) :
    (memPut m a l).get (b % 2 ^ 64) 0 = m.get (b % 2 ^ 64) 0 := by
  induction l generalizing m a with
  | nil => rfl
  | cons x r ih =>
    have rest : ∀ k < r.length, b % 2 ^ 64 ≠ (a + 1 + k) % 2 ^ 64 := fun k hk => by
      rw [show a + 1 + k = a + (k + 1) by omega]
      exact h (k + 1) (Nat.succ_lt_succ hk)
    have first : b % 2 ^ 64 ≠ a % 2 ^ 64 := h 0 (Nat.succ_pos _)
    rw [memPut, ih rest, get_set_ne first]

theorem memByte_of_mem {b : Nat} (h : t.host.mem = s.host.mem) : memByte t b = memByte s b := by rw [memByte, memByte, h]

theorem length_entryBytes {h : Held} {phase sqHead : Nat} : (entryBytes h phase sqHead).length = 16 := by
  simp only [entryBytes, List.length_append, Cistern.length_leBytes]

theorem length_padTo {n : Nat} {l : List Byte} : (padTo n l).length = n := by
  simp only [padTo, List.length_take, List.length_append, List.length_replicate]
  omega

theorem length_eventBytes {r : EvRec} {ovf : Bool} {phase : Nat} : (eventBytes r ovf phase).length = 32 := by
  simp only [eventBytes, List.length_append, Cistern.length_leBytes, length_padTo]

theorem drainCheck_mem : (drainCheck s).host.mem = s.host.mem := congrArg (·.host.mem) (ringFrame_drainCheck (s := s)).rest

theorem mem_putCompletion {n : Nat} {h : Held} {r : List Held} : (putCompletion s n h r).host.mem =
    memPut s.host.mem (cqBase s n + 16 * fld s (Reg.HIF_CQ_WR_INDEX n))
      (entryBytes h (fld s (Reg.HIF_CQ_WR_PHASE n)) (fld s (Reg.HIF_SQ_HEAD_HEAD h.cmd.sq))) := by
  unfold putCompletion
  dsimp only
  split
  · rw [(raiseVec_frame _ _).2.2]; simp
  · simp

/-- COMPLETION_WRITE leaves memory, or stores the 16 bytes of the oldest held entry. -/
theorem mem_writeCompletion (n : Nat) : (writeCompletion s n).host.mem = s.host.mem ∨ ∃ h r, (cqAt s n).held = h :: r ∧
    (writeCompletion s n).host.mem = (putCompletion s n h r).host.mem := by
  unfold writeCompletion
  cases (cqAt s n).held with
  | nil => exact .inl rfl
  | cons h r =>
    dsimp only
    split
    · exact .inl rfl
    · split
      · exact .inl ringFault_mem
      · exact .inr ⟨h, r, rfl, drainCheck_mem⟩

/-- EVENT_RECORD_WRITE leaves memory, or stores the 32 bytes of the oldest record. -/
theorem mem_writeEvent (n : Nat) : (writeEvent s n).host.mem = s.host.mem ∨ ∃ r rest, (eqAt s n).pend = r :: rest ∧
    (writeEvent s n).host.mem = (putEvent s n r rest).host.mem := by
  unfold writeEvent
  cases (eqAt s n).pend with
  | nil => exact .inl rfl
  | cons r rest =>
    dsimp only
    split
    · exact .inl rfl
    · split
      · exact .inl ringFault_mem
      · exact .inr ⟨r, rest, rfl, rfl⟩

theorem exec_completionWrite {n : Fin 16} : exec (.completionWrite n) s = .next (writeCompletion s n) := rfl

/-- Settles O22: what is stored is the entry, whose addresses the byte's is not among. -/
theorem entryWriteFrame : Obligations.EntryWriteFrame := by
  unfold Obligations.EntryWriteFrame
  constructor
  · intro s t n b ht hb
    rw [exec_completionWrite] at ht
    cases ht
    rcases mem_writeCompletion (s := s) n with same | ⟨h, r, held, stored⟩
    · exact memByte_of_mem same
    · have apart := hb.resolve_left (by rw [held]; exact List.cons_ne_nil h r)
      rw [memByte, stored, mem_putCompletion, get_memPut_ne (by rwa [length_entryBytes]), ← memByte]
  · intro s t n b ht hb
    rw [exec_eventRecordWrite] at ht
    cases ht
    rcases mem_writeEvent (s := s) n with same | ⟨r, rest, pend, stored⟩
    · exact memByte_of_mem same
    · have apart := hb.resolve_left (by rw [pend]; exact List.cons_ne_nil r rest)
      rw [memByte, stored, mem_putEvent, get_memPut_ne (by rwa [length_eventBytes]), ← memByte]

/-! ### Cistern records (R290-R301) -/

/-- `t` with the Cistern of `s`, its mirror messages and vectors, the registers and what was sent. -/
def withCisternOf (s t : State) : State :=
  { t with regs := s.regs, sent := s.sent, cis := s.cis, host := { t.host with msix := s.host.msix },
           pair := { t.pair with mirSeq := s.pair.mirSeq } }

/-- `t` differs from `s` in the Cistern, its mirror messages and vectors, and in the registers of the Cistern's window (R525). -/
structure CisFrame (s t : State) : Prop where
  rest : withCisternOf s t = s
  regs : ∀ off, off / 4096 ≠ 0xB → reg t off = reg s off

theorem CisFrame.refl (s : State) : CisFrame s s := ⟨rfl, fun _ _ => rfl⟩

theorem CisFrame.trans (h : CisFrame s t) (g : CisFrame t u) : CisFrame s u := by
  refine ⟨?_, fun off ho => (g.regs off ho).trans (h.regs off ho)⟩
  calc withCisternOf s u = withCisternOf s (withCisternOf t u) := rfl
    _ = s := by rw [g.rest, h.rest]

theorem cisFrame_cisUpd {f : CisSt → CisSt} : CisFrame s (cisUpd s f) := ⟨rfl, fun _ _ => rfl⟩

theorem cisFrame_setFld {f : RF} {v : Nat} (h : f.off / 4096 = 0xB) : CisFrame s (setFld s f v) :=
  ⟨rfl, fun off ho => reg_setFld_ne (by rintro rfl; exact ho h)⟩

theorem cisFrame_raiseVec {v : Nat} : CisFrame s (raiseVec s v) := by
  rcases raiseVec_cases s v with h | h <;> rw [h] <;> exact ⟨rfl, fun _ _ => rfl⟩

theorem cisFrame_setErr {f : RF} (h : f.off / 4096 = 0xB) : CisFrame s (setErr s f) := by
  have flagged : CisFrame s (setFld s f 1) := cisFrame_setFld h
  rcases setErr_cases s f with ⟨_, e⟩ | e | ⟨v, e⟩ <;> rw [e]
  · exact .refl s
  · exact flagged
  · exact flagged.trans cisFrame_raiseVec

theorem cisFrame_count1 {f : RF} (h : f.off / 4096 = 0xB) : CisFrame s (count1 s f) := cisFrame_setFld h

theorem cisFrame_mirror {msg : Nat} {body : List Byte} : CisFrame s (mirror s msg body) := by
  unfold mirror
  split
  · exact ⟨rfl, fun _ _ => rfl⟩
  · exact .refl s

theorem cisFrame_dropLive {fuel need : Nat} : CisFrame s (dropLive fuel need s) := by
  induction fuel generalizing s with
  | zero => exact .refl s
  | succ fuel ih =>
    unfold dropLive
    split
    · exact .refl s
    · split
      · exact .refl s
      · refine CisFrame.trans ?_ ih
        split
        · exact cisFrame_cisUpd
        · exact (cisFrame_cisUpd.trans (cisFrame_count1 (by decide))).trans (cisFrame_setErr (by decide))

theorem cisWindow_count (n : Nat) (h : n < 64) : (Reg.CIS_CNT_COUNT n).off / 4096 = 0xB := by
  show (0xB100 + 4 * n) / 4096 = 0xB
  omega

theorem cisFrame_livePut {r : CisRec} : CisFrame s (livePut s r) := by
  unfold livePut
  exact ((cisFrame_dropLive.trans cisFrame_mirror).trans (cisFrame_count1 (cisWindow_count 0 (by decide)))).trans cisFrame_cisUpd

theorem cisFrame_auditPut {r : CisRec} : CisFrame s (auditPut s r) := by
  unfold auditPut
  refine CisFrame.trans (cisFrame_mirror (msg := 0x46) (body := leBytes 8 1 ++ r.bytes)) ?_
  dsimp only
  split
  · exact (cisFrame_count1 (by decide)).trans cisFrame_cisUpd
  · exact ((cisFrame_count1 (by decide)).trans (cisFrame_setErr (by decide))).trans cisFrame_cisUpd

theorem cisFrame_stormTake {cls source : Nat} : CisFrame s (stormTake s cls source).1 := by
  have set {b : Bucket} : CisFrame s (setBucket s source b) := cisFrame_cisUpd
  unfold stormTake
  dsimp only
  split
  · exact set
  · exact (set.trans (cisFrame_count1 (by decide))).trans (cisFrame_setErr (by decide))

theorem cisFrame_recordAt {dt cls kind source : Nat} {pl : List Byte} : CisFrame s (recordAt s dt cls kind source pl).1 := by
  have taken : CisFrame s (if kind = 2 then (s, true) else stormTake s cls source).1 := by
    split
    · exact .refl s
    · exact cisFrame_stormTake
  unfold recordAt
  split
  · generalize (if kind = 2 then (s, true) else stormTake s cls source) = p at taken ⊢
    obtain ⟨x, passes⟩ := p
    cases passes
    · exact taken
    · exact taken.trans cisFrame_livePut
  · exact cisFrame_auditPut

/-! ### Events (R45, R83, R292) -/

section Events

variable {dt code status : Nat} {pl : List Byte} {ref : Option CmdRef} {after : List Nat}

/-- The record of an event (R58). -/
def evRec (s : State) (dt code : Nat) (pl : List Byte) (ref : Option CmdRef) (status : Nat) (after : List Nat) : EvRec :=
  { code := code, epoch := epoch s, sq := (match ref with | some c => c.sq | none => 0xFF),
    tag := (match ref with | some c => c.tag | none => 0), status := status, dt := dt, payload := padTo 16 pl, after := after }

/-- EVENT_ROUTE puts the record of an event of group `g` into an EQ's store, or nowhere (R83). -/
def routed (s : State) (g : Nat) (r : EvRec) : State :=
  if (s.host.routes.get g {}).enable then eqPut s (s.host.routes.get g {}).eq r else s

/-- After its record is routed, an event is at most copied to the Cistern. -/
theorem cisFrame_emitAt : CisFrame (routed s (code / 256) (evRec s dt code pl ref status after))
    (emitAt s dt code pl ref status after) := by
  unfold emitAt
  dsimp only
  split
  · exact cisFrame_recordAt
  · exact .refl _

theorem ringFrame_routed {g : Nat} {r : EvRec} : RingFrame s (routed s g r) := by
  unfold routed
  split
  · exact ringFrame_eqPut
  · exact .refl s

/-- An event of a disabled group reaches no EQ. -/
theorem routed_disabled {g : Nat} {r : EvRec} (h : (s.host.routes.get g {}).enable = false) : routed s g r = s := by
  rw [routed, if_neg (by rw [h]; exact Bool.false_ne_true)]

theorem routed_enabled {g : Nat} {r : EvRec} (h : (s.host.routes.get g {}).enable = true) :
    routed s g r = eqPut s (s.host.routes.get g {}).eq r := by
  rw [routed, if_pos h]

/-- The counts of lost records do not lie in the Cistern's window. -/
theorem lostCount_window (n : Fin 4) : (Reg.HIF_EQ_LOST_COUNT n).off / 4096 ≠ 0xB := by
  revert n
  decide

/-- Settles O17: the record goes where its route says or nowhere, and a Cistern copy touches no EQ. -/
theorem eventsOfDisabledGroups : Obligations.EventsOfDisabledGroups := by
  unfold Obligations.EventsOfDisabledGroups
  refine ⟨?_, fun _ _ _ => rfl⟩
  intro s dt code status pl ref after rt t
  have frame : CisFrame (routed s (code / 256) (evRec s dt code pl ref status after)) t := cisFrame_emitAt
  have eqs : t.host.eqs = (routed s (code / 256) (evRec s dt code pl ref status after)).host.eqs := congrArg (·.host.eqs) frame.rest
  refine ⟨fun off => ?_, fun on room => ?_⟩
  · rw [routed_disabled off] at frame eqs
    exact ⟨eqs, fun n => by rw [fld, frame.regs _ (lostCount_window n), ← fld]⟩
  · refine ⟨evRec s dt code pl ref status after, rfl, rfl, rfl, rfl, ?_⟩
    rw [eqAt_of_eqs eqs, routed_enabled on, eqPut_room room, eqAt_setEq_same]

end Events

/-! ### A lease that expires (R438) -/

theorem setErr_pair {f : RF} : (setErr s f).pair = s.pair := by
  rcases setErr_cases s f with ⟨_, h⟩ | h | ⟨v, h⟩ <;> rw [h]
  · rw [setFld_pair]
  · rcases raiseVec_cases (setFld s f 1) v with g | g <;> rw [g] <;> rfl

/-- A PARTNER event leaves the registers of the pair; no count of lost records has an offset of theirs. -/
theorem reg_partnerEvent {k off : Nat} (h : off / 4096 = 0x12) (hn : off % 32 ≠ 16) : reg (partnerEvent s k) off = reg s off := by
  have count (n : Nat) : off ≠ (Reg.HIF_EQ_LOST_COUNT n).off := by
    show off ≠ 0x1510 + 0x20 * n
    omega
  have stat : off ≠ Reg.HIF_STAT_STATE.off ∧ off ≠ Reg.GLB_ERR_EQ_LOST.off := by
    constructor <;> rintro rfl <;> exact absurd h (by decide)
  rw [partnerEvent, emit, cisFrame_emitAt.regs off (by omega), ringFrame_routed.regs off stat.1 stat.2 count]

theorem actOutAt_partnerEvent {k : Nat} : (partnerEvent s k).pair.actOutAt = s.pair.actOutAt := by
  have copied := congrArg (·.pair.actOutAt) (cisFrame_emitAt (s := s) (dt := s.dt) (code := 0x0E01) (status := 0) (pl := leBytes 1 k)
    (ref := none) (after := [])).rest
  have put := congrArg (·.pair.actOutAt) (ringFrame_routed (s := s) (g := 0x0E01 / 256)
    (r := evRec s s.dt 0x0E01 (leBytes 1 k) none 0 [])).rest
  exact copied.trans put

/-- The state in which the loss of MIR is flagged (R438). -/
def mirDown (s : State) : State := setErr (pairUpd s fun p => { p with mirDownSaid := true }) Reg.PAR_ERR_MIR_DOWN

theorem role_mirDown : role (mirDown s) = role s := by
  have apart : Reg.PAR_STAT_ROLE.off ≠ Reg.PAR_ERR_MIR_DOWN.off := by decide
  rw [role, fld, mirDown, (setErr_frame _ _).1 _ apart, reg_of_regs pairUpd_regs, ← fld, ← role]

/-- The loss is reported when the lease of a STANDBY module ran out 20 ms ago, ACT_IN is asserted and it was not reported yet. -/
theorem exec_leaseExpiry : exec .leaseExpiry s = .next
    (if role s = 3 ∧ since s s.pair.leaseGrant 20000 ∧ flag s Reg.PAR_STAT_ACT_IN ∧ !s.pair.mirDownSaid then
      partnerEvent (mirDown s) 4 else s) := rfl

/-- Settles O25: neither MIR_DOWN nor the PARTNER event touches PAR_STAT. -/
theorem leaseExpiresWithActIn : Obligations.LeaseExpiresWithActIn := by
  unfold Obligations.LeaseExpiresWithActIn
  refine fun s => ⟨fun standby past asserted unsaid => ?_, fun other => ?_⟩
  · have flagged : flag (mirDown s) Reg.PAR_ERR_MIR_DOWN = true := flag_setErr ⟨by decide, by decide⟩ rfl
    refine ⟨mirDown s, ?_, flagged, ?_, ?_, ?_⟩
    · rw [exec_leaseExpiry, if_pos ⟨standby, past, asserted, by rw [unsaid]; rfl⟩]
    · rw [role, fld, reg_partnerEvent (by decide) (by decide), ← fld, ← role, role_mirDown, standby]
    · rw [flag, fld, reg_partnerEvent (by decide) (by decide), ← fld, ← flag, flagged]
    · rw [actOutAt_partnerEvent, mirDown, setErr_pair]
      rfl
  · rw [exec_leaseExpiry, if_neg]
    rintro ⟨standby, past, asserted, unsaid⟩
    rw [Bool.not_eq_true'] at unsaid
    rcases other with no | no | no | said
    · exact no standby
    · exact Bool.false_ne_true (no.symm.trans past)
    · exact Bool.false_ne_true (no.symm.trans asserted)
    · exact Bool.false_ne_true (unsaid.symm.trans said)

end Sys2Proof.Frames
end

section
/-! PROOFS. The host's rings (chapter 02), continued: commands that may not start or are refused, the intent window, and Rill. -/

namespace Sys2Proof.HostRings

open Sys2Proof.Machine Sys2Proof.Laws Sys2Proof.Frames

variable {s t : State} {c : Cmd} {a : Answer}

/-! ### Ring commands (R61, R532) -/

/-- A meaning that does nothing when no command of the opcode may start, and only completes one that its judgement refuses. -/
structure JudgedFirst (s : State) (sq op : Nat) (o : Host.Outcome State Fault Refusal) : Prop where
  none : pick s sq op = none → o = .next s
  refused : ∀ c a, pick s sq op = some c → judge s c = some a → o = .next (completeJudged s c a)

theorem judgedFirst_runRing {sq op : Nat} {body : State → Cmd → Work} : JudgedFirst s sq op (.next (runRing s sq op body)) :=
  ⟨fun hp => by simp only [runRing, hp], fun c a hp hj => by simp only [runRing, runCmd, hp, hj]⟩

theorem judgedFirst_moduleReset {sq : Fin 16} {b : Boot} (hn : s.host.resetFor = none) :
    JudgedFirst s sq 0x0105 (execModuleReset sq b s) :=
  ⟨fun hp => by simp only [execModuleReset, hn, hp], fun c a hp hj => by simp only [execModuleReset, runCmd, hn, hp, hj]⟩

theorem judgedFirst_parSwitch {sq : Fin 16} : JudgedFirst s sq 0x0E00 (execParSwitch sq s) :=
  ⟨fun hp => by simp only [execParSwitch, hp], fun c a hp hj => by simp only [execParSwitch, runCmd, hp, hj]⟩

/-- Every ring opcode runs by `runRing` but MODULE_RESET and PAR_SWITCH, which go on after their completion. -/
theorem judgedFirst_exec {i : Instr} {sq : Fin 16} {op : Nat} (h : ringOf i = some (sq, op))
    (hn : op = 0x0105 → s.host.resetFor = none) : JudgedFirst s sq op (exec i s) := by
  cases i <;> simp only [ringOf, Option.some.injEq, Prod.mk.injEq, reduceCtorEq] at h
  all_goals obtain ⟨rfl, rfl⟩ := h
  case moduleReset => exact judgedFirst_moduleReset (hn rfl)
  case parSwitch => exact judgedFirst_parSwitch
  all_goals exact judgedFirst_runRing

/-- Settles O10: both cases end before the opcode's own work, which they do not ask for. -/
theorem ringCommandOutcome : Obligations.RingCommandOutcome := by
  unfold Obligations.RingCommandOutcome
  intro i s sq op hi hn
  have judged := judgedFirst_exec hi hn
  exact ⟨judged.none, judged.refused⟩

/-! ### The intent window (R65, R66) -/

section Window

variable {d : Cmd}

/-- The statuses that leave no outcome behind: BUSY_RETRY, ABORTED_RECOVERY and ABORTED_SWITCHOVER. -/
abbrev Passing (a : Answer) : Prop := a.status = 0x21 ∨ a.status = 0x30 ∨ a.status = 0x31

theorem sqAt_leaveSq : (sqAt (leaveSq s c a) c.sq).window = windowAdd (sqAt s c.sq).window c a ∧
    (sqAt (leaveSq s c a) c.sq).fetched = ((sqAt s c.sq).fetched.filter fun x => x.seq ≠ c.seq).map (passOn c a) := by
  have own : sqAt (leaveSq s c a) c.sq = _ := get_set_same
  rw [own]
  exact ⟨rfl, rfl⟩

theorem window_complete : (sqAt (complete s c a) c.sq).window = windowAdd (sqAt s c.sq).window c a := by
  rw [sqAt_complete, sqAt_leaveSq.1]

theorem windowAdd_keeps {w : List Intent} (h : c.intent = 0 ∨ Passing a) : windowAdd w c a = w := by
  rw [windowAdd, if_pos (h.imp_right fun passing => passing.imp_right (Or.imp_right .inl))]

/-- A command waits for no other, and its intent is the newest of the window: that entry is its prior outcome. -/
theorem priorOutcome_newest {i : Intent} {w : List Intent} (hd : d.dup = none) (hi : d.intent ≠ 0) (hw : (sqAt s d.sq).window = i :: w)
    (same : i.id = d.intent) : priorOutcome s d = some (i.opcode, i.ans) := by
  simp only [priorOutcome, hd, hi, if_false, hw, List.find?_cons, same, decide_true, Option.map_some]

/-- A prior outcome is replayed to the same opcode alone. -/
theorem judge_prior {op : Nat} (h : priorOutcome s d = some (op, a)) :
    judge s d = some (if d.opcode = op then a else ansBadField 0x06 8) := by
  simp only [judge, h, eq_comm (a := op)]

/-- A duplicate that waited for the command carries its outcome (R66). -/
theorem passOn_dup (hc : c.intent ≠ 0) (ha : Passing a) (hi : d.intent = c.intent) (hs : c.seq < d.seq) (hd : d.started = false) :
    passOn c a d = { d with dup := some (c.opcode, a) } := by
  rw [passOn, if_pos ⟨hc, hi, hs, by rw [hd]; rfl, ha⟩]

/-- Settles O12: the outcome enters the window, or is carried by the duplicates that waited for it. -/
theorem intentWindowEntry : Obligations.IntentWindowEntry := by
  unfold Obligations.IntentWindowEntry
  intro s c a t w
  refine ⟨fun hc h21 h30 h31 new => ?_, fun h => ?_, fun hc ha d hd hq hi hs hn => ?_, fun n hn => ?_⟩
  · have entered : (sqAt t c.sq).window = { id := c.intent, opcode := c.opcode, ans := a } :: w.take 4095 := by
      rw [window_complete, windowAdd_enters]
      simpa [hc, h21, h30, h31] using new
    refine ⟨entered, fun d hq hi hd => judge_prior (priorOutcome_newest hd (hi ▸ hc) (hq ▸ entered) hi.symm)⟩
  · rw [window_complete, windowAdd_keeps h]
  · refine ⟨passOn c a d, ?_, ?_, ?_⟩
    · rw [sqAt_complete, sqAt_leaveSq.2]
      exact List.mem_map_of_mem (List.mem_filter.2 ⟨hd, decide_eq_true (Nat.ne_of_gt hs)⟩)
    · rw [passOn_dup hc ha hi hs hn]
    · rw [passOn_dup hc ha hi hs hn]
      exact judge_prior rfl
  · rw [sqAt_complete_ne hn]

end Window

/-! ### Host ports (R79) -/

section Ports

variable {n : Nat}

theorem flag_setFld_same {f : RF} (h : RF.ok f) (one : f.hi = f.lo) : flag (setFld s f 1) f = true := by
  rw [flag, fld_setFld_same h, one]
  simp

/-- The registers that a read of a host port may write. -/
theorem portHi_ne_portStat (n : Nat) : (Reg.RIL_HP_DATA_HI_VALID n).off ≠ (Reg.RIL_HP_STAT_UNDERRUN n).off := by
  show 0x2214 + 0x20 * n ≠ 0x2208 + 0x20 * n
  omega

/-- The upper word that a read of an entry `w` latches. -/
def latched (w : Nat) (lost : Bool) : Nat := bits w 55 32 + 2 ^ 30 * b2n lost + 2 ^ 31

theorem latched_lt (w : Nat) (lost : Bool) : latched w lost < 2 ^ 32 := by
  have payload : bits w 55 32 < 2 ^ 24 := Nat.mod_lt _ (Nat.two_pow_pos _)
  have mark : b2n lost ≤ 1 := by cases lost <;> decide
  rw [latched]
  omega

/-- The read of a port that holds an entry. -/
theorem portRead_entry {k : Nat} {q : RillSt} (hk : fld s (Reg.RIL_HP_CFG_DEPTH_LOG2 n) = k) (hq : s.host.ports.get n {} = q)
    (h : q.fill k ≠ 0) : portRead s n = hostUpd (setReg s (Reg.RIL_HP_DATA_HI_VALID n).off
        (BitVec.ofNat 32 (latched (q.entries.get (q.rd % 2 ^ k) 0) q.lostmark)))
      fun x => { x with ports := x.ports.set n { q with rd := (q.rd + 1) % (2 * 2 ^ k), lostmark := false } {},
                        readData := q.entries.get (q.rd % 2 ^ k) 0 % 2 ^ 32 } := by
  subst hk hq
  rw [portRead]
  dsimp only
  rw [if_neg h]
  rfl

/-- The read of an empty port. -/
theorem portRead_empty (h : (s.host.ports.get n {}).fill (fld s (Reg.RIL_HP_CFG_DEPTH_LOG2 n)) = 0) :
    portRead s n = hostUpd (setFld (setReg s (Reg.RIL_HP_DATA_HI_VALID n).off 0) (Reg.RIL_HP_STAT_UNDERRUN n) 1)
      fun x => { x with readData := 0 } := by
  rw [portRead]
  dsimp only
  rw [if_pos h]

theorem exec_hostPortDataRead {n : Fin 8} : exec (.hostPortDataRead n) s = .next (portRead s n) := rfl

theorem reg_portRead_entry {k : Nat} {q : RillSt} (hk : fld s (Reg.RIL_HP_CFG_DEPTH_LOG2 n) = k)
    (hq : s.host.ports.get n {} = q) (h : q.fill k ≠ 0) : (reg (portRead s n) (Reg.RIL_HP_DATA_HI_VALID n).off).toNat =
      bits (q.entries.get (q.rd % 2 ^ k) 0) 55 32 + 2 ^ 30 * b2n q.lostmark + 2 ^ 31 := by
  rw [portRead_entry hk hq h, reg_hostUpd, reg_setReg_same, BitVec.toNat_ofNat, Nat.mod_eq_of_lt (latched_lt _ _), latched]

/-- Settles O13: the two reads of a port, field by field. -/
theorem hostPortRead : Obligations.HostPortRead := by
  unfold Obligations.HostPortRead
  intro s n k q hi w
  refine ⟨fun some => ⟨portRead s n, exec_hostPortDataRead, ?_, ?_, reg_portRead_entry rfl rfl some, ?_⟩,
    fun none => ⟨portRead s n, exec_hostPortDataRead, ?_⟩⟩
  · rw [portRead_entry rfl rfl some, hostUpd_host]
  · rw [portRead_entry rfl rfl some, hostUpd_host]
    exact get_set_same
  · rw [portRead_entry rfl rfl some]
    refine ⟨fun m hm => ?_, fun o ho => by rw [reg_hostUpd, reg_setReg_ne ho], by rw [hostUpd_host, setReg_host]⟩
    rw [hostUpd_host, setReg_host]
    exact get_set_ne hm
  · rw [portRead_empty none]
    refine ⟨by rw [hostUpd_host], ?_, ?_, by rw [hostUpd_host, setFld_host, setReg_host], fun o ho hu => ?_,
      by rw [hostUpd_host, setFld_host, setReg_host]⟩
    · rw [reg_hostUpd, reg_setFld_ne (portHi_ne_portStat n), reg_setReg_same]
    · rw [flag_hostUpd, flag_setFld_same ⟨Nat.le_refl 31, Nat.lt_succ_self 31⟩ rfl]
    · rw [reg_hostUpd, reg_setFld_ne hu, reg_setReg_ne ho]

end Ports

/-! ### The fill of a Rill queue (R76, R77) -/

section Fill

variable {q : RillSt} {k w : Nat} {ow : Bool}

/-- The fill is wr_ptr - rd_ptr modulo 2^(k+1), as R76 writes it. -/
theorem fill_eq_emod (hr : q.rd < 2 * 2 ^ k) : (q.fill k : Int) = ((q.wr : Int) - q.rd) % (2 * 2 ^ k) := by
  have shifted : ((q.wr + 2 * 2 ^ k - q.rd : Nat) : Int) = (q.wr : Int) - q.rd + 2 * 2 ^ k := by
    have size : ((2 * 2 ^ k : Nat) : Int) = 2 * 2 ^ k := by rw [Int.natCast_mul, Int.natCast_pow]; rfl
    omega
  rw [RillSt.fill, Int.natCast_emod, shifted, Int.natCast_mul, Int.natCast_pow]
  exact Int.add_emod_right _ _

/-- A full queue with POLICY 0 stalls the producer. -/
theorem push_stalled (h : q.fill k = 2 ^ k) : q.push k false w = (q, false) := by
  rw [RillSt.push, if_pos h]
  rfl

/-- A full queue with POLICY 1 gives up its oldest entry. -/
theorem push_overwrites (h : q.fill k = 2 ^ k) : q.push k true w =
    ({ q with rd := (q.rd + 1) % (2 * 2 ^ k), lostmark := true, entries := q.entries.set (q.wr % 2 ^ k) w 0, wr := (q.wr + 1) % (2 * 2 ^ k) }, true) := by
  rw [RillSt.push, if_pos h]
  rfl

/-- Both pointers of a queue that overwrites go on by one. -/
theorem fill_push_overwrites (hw : q.wr < 2 * 2 ^ k) (hr : q.rd < 2 * 2 ^ k) (h : q.fill k = 2 ^ k) :
    (q.push k true w).1.fill k = 2 ^ k := by
  have wr : (q.push k true w).1.wr = (q.wr + 1) % (2 * 2 ^ k) := by rw [push_overwrites h]
  have rd : (q.push k true w).1.rd = (q.rd + 1) % (2 * 2 ^ k) := by rw [push_overwrites h]
  have nextWr := succ_mod_cases hw
  have nextRd := succ_mod_cases hr
  have old := fill_cases hw hr
  have new := fill_cases (q := (q.push k true w).1) (by rw [wr]; exact succ_mod_lt _) (by rw [rd]; exact succ_mod_lt _)
  omega

/-- Settles O15: a queue with room takes the entry; a full one stalls or overwrites by its POLICY. -/
theorem rillFillBound : Obligations.RillFillBound := by
  unfold Obligations.RillFillBound
  intro q k w ow hw hr hk
  refine ⟨fill_eq_emod hr, ?_⟩
  rcases Nat.lt_or_eq_of_le hk with room | full
  · refine ⟨?_, ?_, ?_, ?_, fun full => absurd full (Nat.ne_of_lt room)⟩
    · rw [push_room room]; exact succ_mod_lt _
    · rw [push_room room]; exact hr
    · rw [fill_push_room hw hr room, Nat.min_eq_left room]
    · rw [push_room room]; simp [Nat.ne_of_lt room]
  · have top : min (q.fill k + 1) (2 ^ k) = 2 ^ k := Nat.min_eq_right (by omega)
    cases ow with
    | false =>
      rw [push_stalled full, top]
      exact ⟨hw, hr, full, by simp, fun _ _ => rfl⟩
    | true =>
      refine ⟨?_, ?_, ?_, ?_, fun _ h => absurd h (by decide)⟩
      · rw [push_overwrites full]; exact succ_mod_lt _
      · rw [push_overwrites full]; exact succ_mod_lt _
      · rw [fill_push_overwrites hw hr full, top]
      · rw [push_overwrites full]; simp [full]

end Fill

end Sys2Proof.HostRings
end

section
/-! PROOFS. Tamin (chapter 05): the hop function. -/

namespace Sys2Proof.Tamin

open Sys2Proof.Machine Sys2Proof.Laws

theorem mem_mapChans {m c : Nat} : c ∈ mapChans m ↔ c < 80 ∧ bit m c = true := by
  rw [mapChans, List.mem_filter, List.mem_range]

/-- The index of the hop function: a 16-bit fraction of the number of channels (R147). -/
theorem scaled_lt {x n : Nat} (hx : x < 65536) (hn : 0 < n) : x * n / 65536 < n := by
  rw [Nat.div_lt_iff_lt_mul (by decide), Nat.mul_comm n]
  exact Nat.mul_lt_mul_of_pos_right hx hn

/-- Settles O20: the last word of the hash has 16 bits, so its fraction indexes the map's channels. -/
theorem hopStaysInMap : Obligations.HopStaysInMap := by
  unfold Obligations.HopStaysInMap
  intro access m n ha _ ⟨c, hc⟩
  have nonempty : 0 < (mapChans m).length := List.length_pos_of_mem (mem_mapChans.2 hc)
  let x0 := (n * 40503 + access % 65536) % 65536
  let x2 := (Nat.xor x0 (access / 65536) * 25173 + 13849) % 65536
  have hx2 : x2 < 65536 := Nat.mod_lt _ (by decide)
  have hx3 : Nat.xor x2 (x2 / 128) < 2 ^ 16 := Nat.xor_lt_two_pow hx2 (Nat.lt_of_le_of_lt (Nat.div_le_self x2 128) hx2)
  have index := scaled_lt hx3 nonempty
  exact ⟨_, List.getElem?_eq_getElem index, mem_mapChans.1 (List.getElem_mem index)⟩

end Sys2Proof.Tamin
end

section
/-! PROOFS. Host register writes (R14, R15): each field by its access code. -/

namespace Sys2Proof.Registers

open Sys2Proof.Machine Sys2Proof.Laws

variable {s : State} {c : Card} {off n v i : Nat}

/-! ### The fields of a card -/

/-- Two fields do not meet. -/
def Apart (f g : CField) : Prop := g.hi < f.lo ∨ f.hi < g.lo

theorem apart_of_ne {l : List CField} (h : l.Pairwise Apart) {f g : CField} (hf : f ∈ l) (hg : g ∈ l) (ne : f ≠ g) : Apart f g := by
  induction h with
  | nil => exact absurd hf List.not_mem_nil
  | cons first _ ih =>
    rcases List.mem_cons.1 hf with rfl | fRest
    · rcases List.mem_cons.1 hg with rfl | gRest
      · exact absurd rfl ne
      · exact first _ gRest
    · rcases List.mem_cons.1 hg with rfl | gRest
      · exact (first _ fRest).symm
      · exact ih fRest gRest

/-- The fields of a card lie in 32 bits and do not meet. -/
def FieldsApart (l : List CField) : Prop :=
  (∀ f ∈ l, f.lo ≤ f.hi ∧ f.hi < 32) ∧ l.Pairwise Apart

theorem cards_fieldsApart : ∀ c ∈ cards, FieldsApart c.fields := by
  unfold FieldsApart Apart
  decide +kernel

theorem fieldsApart_of_cardAt (h : cardAt off = some (c, n)) : FieldsApart c.fields := by
  obtain ⟨d, hd, hi⟩ := List.exists_of_findSome?_eq_some h
  obtain ⟨m, _, e⟩ := Option.map_eq_some_iff.1 hi
  cases e
  exact cards_fieldsApart c hd

/-- The bits of a field. -/
def fieldMask (f : CField) : Word := BitVec.ofNat 32 (2 ^ (f.hi + 1) - 2 ^ f.lo)

theorem getLsbD_fieldMask {f : CField} (h : f.lo ≤ f.hi ∧ f.hi < 32) : (fieldMask f).getLsbD i = decide (f.lo ≤ i ∧ i ≤ f.hi) := by
  have shifted : 2 ^ (f.hi + 1) - 2 ^ f.lo = (2 ^ (f.hi + 1 - f.lo) - 1) <<< f.lo := by
    rw [Nat.shiftLeft_eq, Nat.sub_mul, ← Nat.pow_add, Nat.one_mul, show f.hi + 1 - f.lo + f.lo = f.hi + 1 by omega]
  rw [fieldMask, BitVec.getLsbD_ofNat, shifted, Nat.testBit_shiftLeft, Nat.testBit_two_pow_sub_one, Bool.eq_iff_iff]
  simp only [Bool.and_eq_true, decide_eq_true_eq]
  omega

/-- The bits of the fields of `l` whose access code satisfies `p`. -/
def wordMask (l : List CField) (p : Acc → Bool) : Word :=
  BitVec.ofNat 32 (l.map fun f => if p f.acc then 2 ^ (f.hi + 1) - 2 ^ f.lo else 0).sum

/-- The mask of a field and those of others do not meet, so their sum is their union. -/
theorem wordMask_cons {p : Acc → Bool} {f : CField} {r : List CField}
    (h : ∀ i < 32, (wordMask r p).getLsbD i = true → ¬(f.lo ≤ i ∧ i ≤ f.hi)) (hf : f.lo ≤ f.hi ∧ f.hi < 32) :
    wordMask (f :: r) p = (if p f.acc then fieldMask f else 0) ||| wordMask r p := by
  have sum : wordMask (f :: r) p = (if p f.acc then fieldMask f else 0) + wordMask r p := by
    rw [wordMask, List.map_cons, List.sum_cons, BitVec.ofNat_add, ← wordMask]
    split <;> rfl
  have apart : (if p f.acc then fieldMask f else 0) &&& wordMask r p = 0 := by
    apply BitVec.eq_of_getLsbD_eq
    intro i hi
    have out := h i hi
    split
    · rw [BitVec.getLsbD_and, getLsbD_fieldMask hf]
      cases rest : (wordMask r p).getLsbD i
      · simp
      · simp [out rest]
    · simp
  rw [sum, BitVec.add_eq_or_of_and_eq_zero _ _ apart]

/-- The mask holds the bits of its fields. -/
theorem getLsbD_wordMask (p : Acc → Bool) {l : List CField} (h : FieldsApart l) :
    (wordMask l p).getLsbD i = l.any fun f => p f.acc && decide (f.lo ≤ i ∧ i ≤ f.hi) := by
  induction l generalizing i with
  | nil => simp [wordMask]
  | cons f r ih =>
    obtain ⟨bounds, apart⟩ := h
    obtain ⟨hf, hr⟩ := List.forall_mem_cons.1 bounds
    obtain ⟨first, rest⟩ := List.pairwise_cons.1 apart
    have tail {i : Nat} := ih (i := i) ⟨hr, rest⟩
    have disjoint : ∀ i < 32, (wordMask r p).getLsbD i = true → ¬(f.lo ≤ i ∧ i ≤ f.hi) := by
      intro i _ hi
      simp only [tail, List.any_eq_true, Bool.and_eq_true, decide_eq_true_eq] at hi
      obtain ⟨g, hg, _, lo, hi⟩ := hi
      have : g.hi < f.lo ∨ f.hi < g.lo := first g hg
      omega
    rw [wordMask_cons disjoint hf, BitVec.getLsbD_or, tail, List.any_cons]
    cases p f.acc <;> simp [getLsbD_fieldMask hf]

/-- At a bit of one field the mask depends on that field's access code alone. -/
theorem getLsbD_wordMask_of_mem (p : Acc → Bool) {l : List CField} (h : FieldsApart l) {f : CField} (hf : f ∈ l) (hl : f.lo ≤ i)
    (hh : i ≤ f.hi) : (wordMask l p).getLsbD i = p f.acc := by
  rw [getLsbD_wordMask p h, Bool.eq_iff_iff, List.any_eq_true]
  constructor
  · rintro ⟨g, hg, at_i⟩
    simp only [Bool.and_eq_true, decide_eq_true_eq] at at_i
    obtain ⟨pg, lo, hi⟩ := at_i
    have same : g = f := Classical.byContradiction fun ne => by
      have apart : f.hi < g.lo ∨ g.hi < f.lo := apart_of_ne h.2 hg hf ne
      omega
    exact same ▸ pg
  · exact fun pf => ⟨f, hf, by simp [pf, hl, hh]⟩

/-! ### A write by the access codes -/

theorem ofNat_accMask {p : Acc → Bool} : BitVec.ofNat 32 (accMask c p) = wordMask c.fields p := rfl

/-- The access codes whose fields take the written bits. -/
def takes (lock : Bool) (a : Acc) : Bool := a = .rw || (a = .rwl && !lock)

theorem reg_putWord : reg (putWord s c off v) off =
    (mergeWord (accMask c (takes (locked s off))) (BitVec.ofNat 32 v) (reg s off) &&&
      ~~~(BitVec.ofNat 32 v &&& wordMask c.fields fun a => a = .w1c)) |||
      (BitVec.ofNat 32 v &&& wordMask c.fields fun a => a = .w1s) := by
  rw [putWord, ← ofNat_accMask, ← ofNat_accMask]
  exact reg_setReg_same

theorem getLsbD_mergeWord {m : Nat} {x y : Word} (h : i < 32) :
    (mergeWord m x y).getLsbD i = if (BitVec.ofNat 32 m).getLsbD i then x.getLsbD i else y.getLsbD i := by
  simp only [mergeWord, BitVec.getLsbD_or, BitVec.getLsbD_and, BitVec.getLsbD_not, h, decide_true, Bool.true_and]
  cases (BitVec.ofNat 32 m).getLsbD i <;> simp

/-- What a write of `v` makes of a bit that reads `old`, by the access code of its field (R14, R15). -/
def written (a : Acc) (lock old new : Bool) : Bool :=
  match a with
  | .rw => new
  | .rwl => if lock then old else new
  | .w1c => old && !new
  | .w1s => old || new
  | .ro | .wo | .rc => old

theorem getLsbD_putWord (hc : cardAt off = some (c, n)) {f : CField} (hf : f ∈ c.fields) (hl : f.lo ≤ i) (hh : i ≤ f.hi) :
    (reg (putWord s c off v) off).getLsbD i = written f.acc (locked s off) ((reg s off).getLsbD i) (v.testBit i) := by
  have apart := fieldsApart_of_cardAt hc
  have hi : i < 32 := Nat.lt_of_le_of_lt hh (apart.1 f hf).2
  have bit (p : Acc → Bool) : (wordMask c.fields p).getLsbD i = p f.acc := getLsbD_wordMask_of_mem p apart hf hl hh
  rw [reg_putWord]
  simp only [BitVec.getLsbD_or, BitVec.getLsbD_and, BitVec.getLsbD_not, getLsbD_mergeWord hi, ofNat_accMask, bit, BitVec.getLsbD_ofNat,
    hi, decide_true, Bool.true_and]
  cases f.acc <;> cases locked s off <;> simp [written, takes]

theorem bits_eq_of_testBit {x y hi lo : Nat} (h : ∀ i, lo ≤ i → i ≤ hi → x.testBit i = y.testBit i) : bits x hi lo = bits y hi lo := by
  apply Nat.eq_of_testBit_eq
  intro j
  simp only [bits, Nat.testBit_mod_two_pow, Nat.testBit_div_two_pow]
  by_cases hj : j < hi + 1 - lo
  · rw [h (j + lo) (by omega) (by omega)]
  · simp [hj]

/-- A locked RWL field keeps its value. -/
theorem fld_putWord_locked (hc : cardAt off = some (c, n)) (hk : locked s off = true) {f : CField} (hf : f ∈ c.fields)
    (ha : f.acc = .rwl) : fld (putWord s c off v) ⟨off, f.hi, f.lo⟩ = fld s ⟨off, f.hi, f.lo⟩ := by
  apply bits_eq_of_testBit
  intro i hl hh
  have kept := getLsbD_putWord (s := s) (v := v) hc hf hl hh
  rw [ha, hk] at kept
  exact kept

/-! ### The host's write -/

/-- Registers whose write is more than their card's. -/
abbrev specialBases : List Nat := [0x1000, 0x1008, 0x1108, 0x1308, 0x1508, 0x2200, 0x2204, 0x3000, 0x3028, 0x302C, 0x3038, 0x3108,
  0x3204, 0xA00C, 0xD104, 0xD200, 0x10000]

theorem regWrite_plain (h : specialBases.contains c.base = false) : regWrite s c n off v = plainWrite s c n off v := by
  unfold regWrite
  split
  case h_18 => rfl
  all_goals
    rename_i special
    rw [special] at h
    exact absurd h (by decide)

theorem plainWrite_taken (h : sealed s c off = true ∨ dropWrite s c.base n v = none) :
    plainWrite s c n off v = ckFollow s (afterWrite s (putWord s c off (backWord c.base n v)) c.base n) off := by
  have taken : (if sealed s c off then none else dropWrite s c.base n v) = none := by
    split
    · rfl
    · exact h.resolve_left ‹_›
  simp only [plainWrite, taken]

theorem bar0Write_on (hc : cardAt off = some (c, n)) (hd : domState s (domIndex c.dom) = 2) :
    bar0Write s off v = regWrite s c n off v := by
  simp only [bar0Write, hc, hd, ne_eq, not_true, if_false]

theorem exec_registerWrite_bar0 {x : Word} :
    exec (.registerWrite { bar2 := false, off := off, whole := true } x) s = .next (bar0Write s off x.toNat) := rfl

/-- Settles O23: the written word is built field by field, and a plain register's host write stores it. -/
theorem registerWriteByAccess : Obligations.RegisterWriteByAccess := by
  unfold Obligations.RegisterWriteByAccess
  refine ⟨?_, fun s off n v c hc hk f hf ha => fld_putWord_locked hc hk hf ha, ?_⟩
  · intro s off n v c hc t
    refine ⟨?_, fun o ho => reg_setReg_ne ho, _, rfl⟩
    intro f hf i hl hh old
    rw [getLsbD_putWord hc hf hl hh]
    cases f.acc <;> rfl
  · intro s off n v c hc hd plain taken
    rw [exec_registerWrite_bar0, bar0Write_on hc hd, regWrite_plain plain, plainWrite_taken taken]

end Sys2Proof.Registers
end

section
/-! PROOFS. How a command of the ring completes, by the way its work ends. -/

namespace Sys2Proof.Laws

open Sys2Proof.Machine

variable {s s' : State} {sq : Fin 16} {op : Nat} {c : Cmd} {a : Answer} {body : State → Cmd → Work} {i : Instr}

/-! The premise `hi` names the opcode and its work: it is `rfl` for every ring command that `runRing` runs. -/

/-- The work is done at once. -/
theorem ring_done (hi : exec i s = .next (runRing s sq op body)) (hr : Ready s sq op c) (hb : body s c = .ok (s', some a))
    (hc : configOps.contains op = false) : exec i s = .next (complete s' c a) := by
  rw [hi, runRing_done hr hb hc]

/-- A configuration command is done (R444). -/
theorem ring_config (hi : exec i s = .next (runRing s sq op body)) (hr : Ready s sq op c) (hb : body s c = .ok (s', some a))
    (hc : configOps.contains op = true) : exec i s = .next (completeConfig s' c a) := by
  rw [hi, runRing_config hr hb hc]

/-- The command stays outstanding. -/
theorem ring_waits (hi : exec i s = .next (runRing s sq op body)) (hr : Ready s sq op c) (hb : body s c = .ok (s', none)) :
    exec i s = .next (markStarted s' c) := by
  rw [hi, runRing_waits hr hb]

/-- The work ends early with a status. -/
theorem ring_stops (hi : exec i s = .next (runRing s sq op body)) (hr : Ready s sq op c) (hb : body s c = .error (.ans a)) :
    exec i s = .next (complete s c a) := by
  rw [hi, runRing_stops hr hb]

/-- The work ends early with a status, in a state of its own. -/
theorem ring_stopsIn (hi : exec i s = .next (runRing s sq op body)) (hr : Ready s sq op c) (hb : body s c = .error (.ansIn s' a)) :
    exec i s = .next (complete s' c a) := by
  rw [hi, runRing_stopsIn hr hb]

theorem stopIf_unless {b : Bool} (h : b = true) : stopIf (!b) a = .ok () := by simp [stopIf, h]

theorem stopIf_ne_of_eq {α : Type} {x y : α} [Decidable (x ≠ y)] (h : x = y) : stopIf (decide (x ≠ y)) a = .ok () :=
  stopIf_not (not_not_intro h)

theorem stopIf_lt_of_le {m n : Nat} (h : n ≤ m) : stopIf (decide (m < n)) a = .ok () := stopIf_not (Nat.not_lt.2 h)

theorem stopIf_le_of_lt {m n : Nat} (h : n < m) : stopIf (decide (m ≤ n)) a = .ok () := stopIf_not (Nat.not_le.2 h)

/-- What succeeds is followed by the rest. Where a statement writes a check of the model out again, `exact ok_then (checkOps_clean hc) …`
takes the two for the same, and rewriting with `checkOps_clean hc` need not. -/
theorem ok_then {α β : Type} {m : Except Stop α} {x : α} {f : α → Except Stop β} {r : Except Stop β} (h : m = .ok x) (rest : f x = r) :
    (m >>= f) = r := by
  rw [h, ok_bind, rest]

end Sys2Proof.Laws
end

section
/-! PROOFS. The commands of chapter 02 complete: register accesses, link events, the ring interface and the admin opcodes. -/

namespace Sys2Proof.HostRings

open Sys2Proof.Machine Sys2Proof.Laws Sys2Proof.Frames Sys2Proof.Registers

variable {s t : State} {c : Cmd} {a : Answer}

/-! ### Register accesses and Rill (R38, R47, R76-R80) -/

theorem exec_readClear {b e : Bool} {off : Nat} :
    exec (.readClear { bar2 := b, off := off, whole := e }) s = .next (if b then bar2Read s off else bar0Read s off) := rfl

/-- An enabled port takes the entry (R77, R80). -/
theorem portPush_enabled {n w : Nat} (h : flag s (Reg.RIL_HP_CFG_ENABLE n) = true) :
    let k := fld s (Reg.RIL_HP_CFG_DEPTH_LOG2 n)
    let q0 := s.host.ports.get n {}
    let r := q0.push k true w
    let s1 := hostUpd s fun h => { h with ports := h.ports.set n r.1 {} }
    let s2 := if r.2 then setErr (count1 s1 (Reg.RIL_HP_LOST_COUNT n)) Reg.GLB_ERR_HP_LOST else s1
    portPush s n w = if q0.fill k = 0 then raiseVec s2 (fld s (Reg.RIL_HP_CFG_VEC n)) else s2 := by
  simp only [portPush, h, Bool.not_true, Bool.false_eq_true, if_false]

theorem portPush_disabled {n w : Nat} (h : flag s (Reg.RIL_HP_CFG_ENABLE n) = false) : portPush s n w = s := by
  simp only [portPush, h, Bool.not_false, if_true]

theorem exec_rillQueueWrite_port {n : Fin 8} {x : BitVec 64} {how : RillWith} :
    exec (.rillQueueWrite (.port n) x how) s = .next (portWrite s n x.toNat how) := rfl

theorem exec_lockSet {w : LockSel} (h : domState s (lockDom w) = 2) :
    exec (.lockSet w) s = .next (setFld s (lockFld (lockOff w)) 1) := by
  change execLockSet w s = _
  rw [execLockSet, if_pos h]

/-- Settles O27. -/
theorem hostAccessComplete : Obligations.HostAccessComplete := by
  unfold Obligations.HostAccessComplete
  refine ⟨fun s off v => ⟨fun b => ?_, fun b => rfl⟩, fun s b off e => ?_, fun s w => exec_lockSet, fun s => rfl,
    fun s w how => ⟨fun n => rfl, fun n hn => ?_, fun n hn => ?_, fun n => rfl, fun n => rfl⟩, fun s n => rfl, fun s n => rfl⟩
  · cases b <;> exact ⟨rfl, fun x => rfl⟩
  · cases b <;> exact ⟨rfl, fun x => rfl⟩
  · rw [exec_rillQueueWrite_port, portWrite, portPush_disabled hn]
  · rw [exec_rillQueueWrite_port, portWrite, portPush_enabled hn]

/-! ### The link (R35, R36, R40, R73, R534) -/

theorem exec_configRequest_early {q : CfgReq} (h : cfgReady s = false) :
    exec (.configRequest q) s = .next (hostUpd s fun h => { h with retried := true }) := by
  change execConfigRequest q s = _
  rw [execConfigRequest, if_neg (by rw [h]; exact Bool.false_ne_true)]

theorem exec_configRequest_read {off : Nat} (h : cfgReady s = true) : exec (.configRequest { off := off }) s =
    .next (hostUpd s fun h => { h with retried := false, readData := cfgDword s off }) := by
  change execConfigRequest { off := off } s = _
  rw [execConfigRequest, if_pos h]
  rfl

theorem exec_configRequest_write {off : Nat} {v : Word} (h : cfgReady s = true) : exec (.configRequest { off := off, data := some v }) s =
    .next (cfgWrite (hostUpd s fun h => { h with retried := false }) off v.toNat) := by
  change execConfigRequest { off := off, data := some v } s = _
  rw [execConfigRequest, if_pos h]

theorem exec_msixControl_ready {en fm : Bool} (h : cfgReady s = true) : exec (.msixConfigWrite (.control en fm)) s = .next
    (flushMsix (hostUpd s fun h => { h with retried := false, msix := { h.msix with enable := en, fmask := fm } })) := by
  change Host.Outcome.next (if cfgReady s then _ else _) = _
  rw [if_pos h]

theorem exec_msixControl_early {en fm : Bool} (h : cfgReady s = false) :
    exec (.msixConfigWrite (.control en fm)) s = .next (hostUpd s fun h => { h with retried := true }) := by
  change Host.Outcome.next (if cfgReady s then _ else _) = _
  rw [if_neg (by rw [h]; exact Bool.false_ne_true)]

theorem bit_sev_of_mem {fatal : Bool} {b : Nat} (h : b ∈ aerBits s fatal) : bit s.host.link.aer.sev b = fatal := by
  simpa using (List.mem_filter.1 h).2

/-- The bit of an error, drawn among those that may be: one of them. -/
theorem aerBit_mem {l : List Nat} (h : l ≠ []) : aerBit s l ∈ l := by
  have index : Config.free s.freeN % l.length < l.length := Nat.mod_lt _ (List.length_pos_iff.2 h)
  rw [aerBit, List.getD_eq_getElem?_getD, List.getElem?_eq_getElem index, Option.getD_some]
  exact List.getElem_mem index

theorem getD_range {i n : Nat} (h : i < n) : (List.range n).getD i 0 = i := by
  rw [List.getD_eq_getElem?_getD, List.getElem?_range h, Option.getD_some]

theorem exec_aerFatal (h : aerBits s true ≠ []) : exec .aerFatal s = .next
    (enterRecovery (logUnc s (aerBit s (aerBits s true))) [Reg.HIF_RCV_CAUSE_AER_FATAL] [Reg.GLB_ERR_AER_FATAL]) := by
  change Host.Outcome.next (if (aerBits s true).isEmpty then _ else _) = _
  rw [if_neg (mt List.isEmpty_iff.1 h)]

theorem exec_aerFatal_none (h : aerBits s true = []) : exec .aerFatal s = .next s := by
  change Host.Outcome.next (if (aerBits s true).isEmpty then _ else _) = _
  rw [if_pos (List.isEmpty_iff.2 h)]

/-- The kind of an error that is not fatal is the third of the values drawn (R40). -/
theorem exec_aerCorrectable (h : aerBits s false ≠ []) : exec .aerCorrectable s = .next
    (if Config.free (s.freeN + 2) % 2 = 0 then logCor s (Config.free s.freeN % 32) else logUnc s (aerBit s (aerBits s false))) := by
  have kind : (freeVal (drawFree (drawFree s)) 1 == 0) = decide (Config.free (s.freeN + 2) % 2 = 0) := rfl
  have some : (aerBits s false).isEmpty = false := by simpa using h
  have anyBit : aerBit s (List.range 32) = Config.free s.freeN % 32 := getD_range (Nat.mod_lt _ (by decide))
  change Host.Outcome.next (if (aerBits s false).isEmpty || freeVal (drawFree (drawFree s)) 1 == 0 then _ else _) = _
  simp only [kind, some, Bool.false_or, decide_eq_true_eq, anyBit]

theorem exec_aerCorrectable_none (h : aerBits s false = []) :
    exec .aerCorrectable s = .next (logCor s (Config.free s.freeN % 32)) := by
  have anyBit : aerBit s (List.range 32) = Config.free s.freeN % 32 := getD_range (Nat.mod_lt _ (by decide))
  have none : (aerBits s false).isEmpty = true := List.isEmpty_iff.2 h
  change Host.Outcome.next (if (aerBits s false).isEmpty || _ then _ else _) = _
  rw [if_pos (by rw [none, Bool.true_or]), anyBit]

/-- Settles O28. -/
theorem linkComplete : Obligations.LinkComplete := by
  unfold Obligations.LinkComplete
  refine ⟨fun s off v => ⟨fun h => ?_, fun h q => exec_configRequest_early h⟩, fun s en fm off v => ?_, fun _ _ => rfl, fun _ => rfl,
    fun _ => rfl, fun _ => rfl, fun _ => rfl, fun _ => rfl, fun s => ⟨fun h => ?_, exec_aerFatal_none⟩,
    fun s => ⟨fun h => ?_, exec_aerCorrectable_none⟩, fun _ _ _ => rfl⟩
  · exact ⟨exec_configRequest_read h, exec_configRequest_write h⟩
  · exact ⟨exec_msixControl_ready, exec_msixControl_early, rfl⟩
  · exact ⟨bit_sev_of_mem (aerBit_mem h), exec_aerFatal h⟩
  · exact ⟨bit_sev_of_mem (aerBit_mem h), exec_aerCorrectable h⟩

/-! ### The ring interface (R41-R46, R62, R69-R74) -/

theorem exec_recoveryHalted (hs : hifState s = 2) (he : (allFetched s).isEmpty = true) :
    exec .recoveryHalted s = .next (resumeCheck (setFld s Reg.HIF_STAT_STATE 3)) := by
  change Host.Outcome.next (if hifState s = 2 ∧ _ then _ else _) = _
  rw [if_pos ⟨hs, he⟩]

theorem exec_hifEnable (h : flag s Reg.HIF_STAT_READY = true) :
    let s1 := setFld s Reg.HIF_CTRL_ENABLE 1
    exec (.hifEnableWrite true) s = .next (resumeCheck (if hifState s1 = 0 then setFld s1 Reg.HIF_STAT_STATE 1 else s1)) := by
  change Host.Outcome.next (if flag s Reg.HIF_STAT_READY then _ else _) = _
  rw [if_pos h]

theorem exec_resume (h : hifState s = 2 ∨ hifState s = 3) :
    exec .resume s = .next (resumeCheck (setFld s Reg.HIF_RCV_CTRL_RESUME 1)) := by
  change Host.Outcome.next (if hifState s = 2 ∨ _ then _ else _) = _
  rw [if_pos h]

/-- A tail inside the ring of an enabled SQ is taken (R42). -/
theorem sqDoorbell_valid {n v : Nat} (he : flag s (Reg.HIF_SQ_CFG_ENABLE n) = true) (hs : hifState s < 2) (hv : v < sqSize s n)
    (hw : v < 65536) : sqDoorbell s n v = setSq s n { sqAt s n with tail := v } := by
  have serves : ¬((!flag s (Reg.HIF_SQ_CFG_ENABLE n)) = true ∨ hifState s = 2 ∨ hifState s = 3) := by
    rw [he]
    rintro (h | h | h)
    · exact absurd h (by decide)
    · omega
    · omega
  rw [sqDoorbell, if_neg (Nat.not_le_of_lt hw), if_neg serves, if_neg (Nat.not_le_of_lt hv)]

/-- A descriptor that is read and is no ring fault is appended to its SQ (R51). -/
theorem fetchFrom_taken {n : Nat} (hm : memFails s (sqBase s n + 64 * fld s (Reg.HIF_SQ_HEAD_HEAD n)) 64 = false)
    {b : List Byte} (hb : memRead s (sqBase s n + 64 * fld s (Reg.HIF_SQ_HEAD_HEAD n)) 64 = b)
    (h0 : fieldLE b 0 2 ≠ 0) (hf : fieldLE b 0 2 ≠ 0xFFFF) (h3 : fieldLE b 4 1 % 4 ≠ 3) :
    let s1 := hostUpd s fun h => { h with
      attr := {}
      rrSq := n
      rrUsed := if n = h.rrSq ∧ h.rrUsed < 2 ^ fld s (Reg.HIF_SQ_CFG_WEIGHT n) then h.rrUsed + 1 else 1 }
    fetchFrom s n = hostUpd (setSq (setFld s1 (Reg.HIF_SQ_HEAD_HEAD n) ((fld s (Reg.HIF_SQ_HEAD_HEAD n) + 1) % sqSize s n)) n
      { sqAt s n with fetched := (sqAt s n).fetched ++ [{ seq := s.host.nextSeq, sq := n, bytes := b, epoch := epoch s }] })
      fun h => { h with nextSeq := h.nextSeq + 1 } := by
  subst hb
  simp only [fetchFrom, hm, h0, hf, h3, or_self, Bool.false_eq_true, if_false]

theorem writeCompletion_writes {n : Nat} {h : Held} {r : List Held} (hh : (cqAt s n).held = h :: r) (hs : hifState s = 1)
    (hf : cqFree s n = true) (hm : cqFails s n = false) : writeCompletion s n = drainCheck (putCompletion s n h r) := by
  simp only [writeCompletion, hh, hs, hf, hm, ne_eq, not_true, Bool.not_true, Bool.false_eq_true, or_self, if_false]

theorem exec_coalesceTimeout_cq {n : Fin 16} (h0 : 0 < (cqAt s n).coal.count) (h1 : 0 < fld s (Reg.HIF_CQ_CFG_COAL_CNT n))
    (h2 : passedUs s (cqAt s n).coal.since (8 * fld s (Reg.HIF_CQ_CFG_COAL_TIME n)) = true) : exec (.coalesceTimeout (.cq n)) s =
      .next (raiseVec (setCq s n { cqAt s n with coal := {} }) (fld s (Reg.HIF_CQ_CFG_VEC n))) := by
  change Host.Outcome.next (if 0 < _ ∧ _ then _ else _) = _
  rw [if_pos ⟨h0, h1, h2⟩]

theorem exec_coalesceTimeout_eq {n : Fin 4} (h0 : 0 < (eqAt s n).coal.count) (h1 : 0 < fld s (Reg.HIF_EQ_CFG_COAL_CNT n))
    (h2 : passedUs s (eqAt s n).coal.since (8 * fld s (Reg.HIF_EQ_CFG_COAL_TIME n)) = true) : exec (.coalesceTimeout (.eq n)) s =
      .next (raiseVec (setEq s n { eqAt s n with coal := {} }) (fld s (Reg.HIF_EQ_CFG_VEC n))) := by
  change Host.Outcome.next (if 0 < _ ∧ _ then _ else _) = _
  rw [if_pos ⟨h0, h1, h2⟩]

theorem exec_descriptorFetch {n : Nat} (h : nextSq s = some n) :
    exec .descriptorFetch s = .next (settle (allFetched (fetchFrom s n)).length (fetchFrom s n)) := by
  change execDescriptorFetch s = _
  simp only [execDescriptorFetch, h]

/-- Settles O29. -/
theorem interfaceComplete : Obligations.InterfaceComplete := by
  unfold Obligations.InterfaceComplete
  refine ⟨fun s => exec_recoveryHalted, fun s => ⟨rfl, exec_hifEnable⟩, fun s => exec_resume,
    fun s v => ⟨fun _ => rfl, fun _ => rfl, fun _ => rfl⟩, ?_, fun s n v he hv hh => ?_, fun s n v he hv hh => ?_, ?_, ?_, ?_,
    fun s => ⟨fun n => exec_coalesceTimeout_cq, fun n => exec_coalesceTimeout_eq⟩⟩
  · intro s n v u s1 he hs hv hw
    rw [exec_sqTailDoorbell, sqDoorbell_valid he hs hv hw]
  · rw [exec_cqHeadDoorbell, cqDoorbell_valid he hv hh]
  · rw [exec_eqHeadDoorbell, eqDoorbell_valid he hv hh]
  · intro s n hn head a hm b h0 hf h3 s1 c s2
    rw [exec_descriptorFetch hn, fetchFrom_taken hm rfl h0 hf h3]
  · intro s n h r hh hs hf i ph a hm
    rw [exec_completionWrite, writeCompletion_writes hh hs hf hm]
    rfl
  · intro s n r rest hp hs hf hr i ph a hm
    rw [exec_eventRecordWrite, writeEvent_writes hp hs hf hr hm]
    rfl

/-! ### Admin opcodes (R81-R85) -/

theorem exec_moduleReset_done {sq : Fin 16} {b : Boot} (h : Ready s sq 0x0105 c)
    (hc : Clean (opChks c [(16, 4)] [] ++ [rangeChk (decide (c.op 16 4 ≠ 0xD2640A5E)) 16])) (hn : s.host.resetFor = none)
    (hm : committing s = false) (hq : cqFree s (fld s (Reg.HIF_SQ_CFG_CQ c.sq)) = true ∨ c.noCompletion = true) :
    exec (.moduleReset sq b) s = .next (resetWhenWritten (flushHeld (complete s c ansDone)) c.seq b) := by
  have body : bodyModuleReset s c = .ok (s, some ansDone) := by
    rw [bodyModuleReset, checkOps_clean hc, ok_bind, stopIf_false hm, ok_bind, pure_ok]
  have plain : configOps.contains c.opcode = false := by rw [pick_opcode h.1]; decide
  rw [exec_moduleReset]
  simp only [execModuleReset, runCmd, hn, h.1, h.2, body, plain, Bool.false_eq_true, if_false, hq, if_true]

/-- Settles O30. -/
theorem adminComplete : Obligations.AdminComplete := by
  unfold Obligations.AdminComplete
  dsimp only
  refine ⟨fun s sq c hr hc => ring_done rfl hr ?_ rfl, fun s sq c hr hc hb => ring_done rfl hr ?_ rfl,
    fun s sq c hr hc => ring_done rfl hr ?_ rfl, fun s sq c hr hc hf => ring_done rfl hr ?_ rfl,
    fun s sq c hr hc hb => ring_done rfl hr ?_ rfl, fun s sq c b hr hc hn hm hq => ?_⟩
  · simp only [bodyNop, checkOps_clean hc, ok_bind, pure_ok]
  · simp only [bodyIdentify, checkOps_clean hc, writeBuf_reachable hb, ok_bind, pure_ok]
  · simp only [bodyEventRoute, checkOps_clean hc, ok_bind, pure_ok]
  · simp only [bodyIntentForget, checkOps_clean hc, stopIf_false hf, ok_bind, pure_ok]
  · simp only [bodyStatsRead, checkOps_clean hc, writeBuf_reachable hb, ok_bind, pure_ok]
  · rw [exec_moduleReset_done hr hc hn hm hq]
    refine ⟨fun out done => ?_, fun waits => ?_⟩
    · rw [resetWhenWritten, if_neg (by rw [out, done]; decide)]
    · rw [resetWhenWritten, if_pos (by rwa [Bool.or_eq_true])]

end Sys2Proof.HostRings
end

section
/-! PROOFS. Time (chapter 03): the commands and events of time complete. -/

namespace Sys2Proof.Time

open Sys2Proof.Machine Sys2Proof.Laws

variable {s : State}

/-- No commit is pending: a mode that the register defines is taken (R97). -/
theorem commitWrite_taken {mode : Nat} (h : setBusy s = false) (hm : mode = 1 ∨ mode = 2 ∨ mode = 7) :
    commitWrite s mode = timeUpd (setFld s Reg.TIM_COMMIT_PENDING 1) fun t => { t with commitMode := mode } := by
  rw [commitWrite, if_neg (by rw [h]; exact Bool.false_ne_true), if_pos hm]

/-- A staged calendar is changed in the fields of the register written; without one, the present calendar (R97). -/
theorem stageWrite_taken {time : Bool} {v : Nat} (h : setBusy s = false) :
    stageWrite s time v = timeUpd s fun t => { t with staged := some (
      if time then { s.time.staged.getD (nowCal s) with hour := bits v 20 16, min := bits v 13 8, sec := bits v 5 0 }
      else { s.time.staged.getD (nowCal s) with year := bits v 27 16, month := bits v 11 8, day := bits v 4 0 }) } := by
  rw [stageWrite, if_neg (by rw [h]; exact Bool.false_ne_true)]
  cases s.time.staged <;> rfl

/-- Settles O31: the hypotheses of each clause decide every check of its opcode and every branch of its event. -/
theorem timeCommandComplete : Obligations.TimeCommandComplete := by
  unfold Obligations.TimeCommandComplete
  dsimp only
  refine ⟨?_, ?_, ?_, ?_, ?_, ?_, ?_, ?_, ?_, ?_, ?_, ?_⟩
  · -- TIME_SET
    intro s sq c hr hc hQual
    refine ring_waits rfl hr ?_
    simp only [bodyTimeSet, checkOps_clean hc, stopIf_not hQual, ok_bind, pure_ok]
  · -- TIME_ADJUST
    intro s sq c hr hc hQual
    refine ring_waits rfl hr ?_
    simp only [bodyTimeAdjust, checkOps_clean hc, stopIf_not hQual, ok_bind, pure_ok]
  · -- LEAP_SCHEDULE
    intro s sq c hr hc hLeap hDt
    refine ring_done rfl hr ?_ rfl
    simp only [bodyLeapSchedule, checkOps_clean hc, stopIf_false hLeap, stopIf_not hDt, ok_bind, pure_ok]
  · -- LOCAL_RULE_SET
    intro s sq c hr hc
    refine ring_waits rfl hr ?_
    simp only [bodyLocalRuleSet, checkOps_clean hc, ok_bind, pure_ok]
  · -- TIM_SRC_WRITE
    intro s v
    rfl
  · -- TIM_SEC_LO_READ
    intro s
    rfl
  · -- TIM_CAL_DATE_READ
    intro s
    rfl
  · -- CALENDAR_STAGE_WRITE
    intro s time v hSetBusy
    change Host.Outcome.next (stageWrite s time v.toNat) = _
    rw [stageWrite_taken hSetBusy]
  · -- TIM_COMMIT_SET
    intro s hSetBusy
    exact congrArg _ (commitWrite_taken hSetBusy (.inl rfl))
  · -- TIM_COMMIT_CALENDAR
    intro s hSetBusy
    exact congrArg _ (commitWrite_taken hSetBusy (.inr (.inl rfl)))
  · -- TIM_COMMIT_DISCARD
    intro s hSetBusy
    exact congrArg _ (commitWrite_taken hSetBusy (.inr (.inr rfl)))
  · -- STEP_BOUNDARY
    intro s hRunning hBoundary
    change execStepBoundary _ = _
    simp only [execStepBoundary, hRunning, hBoundary, if_false, or_self, Bool.not_true, Bool.false_eq_true] <;> rfl

/-- Settles O32: the hypotheses of each clause decide every branch of its event. -/
theorem timeEventComplete : Obligations.TimeEventComplete := by
  unfold Obligations.TimeEventComplete
  dsimp only
  refine ⟨?_, ?_, ?_, ?_, ?_, ?_, ?_, ?_, ?_, ?_, ?_, ?_⟩
  · -- PTP_SYNC
    intro s port m leap hSyncTaken
    change execPtpSync _ _ _ _ = _
    rw [execPtpSync, if_pos hSyncTaken]
    rfl
  · -- PPS_IN_EDGE
    intro s ns rising hTimSrc hNs hInEdge
    change execPpsInEdge _ _ = _
    rw [execPpsInEdge, if_pos ⟨hTimSrc, hNs, hInEdge⟩]
    rfl
  · -- PTP_SOURCE_LOST
    intro s hTimSrc hPtpLost hPassedSec
    change execPtpSourceLost _ = _
    simp only [execPtpSourceLost, hTimSrc, hPtpLost, hPassedSec, and_self, if_true, Bool.not_false]
  · -- PPS_WINDOW_CLOSE
    intro s hTimSrc hDt hPpsLastSec
    change execPpsWindowClose _ = _
    simp only [execPpsWindowClose, hTimSrc, hDt, hPpsLastSec, and_self, if_true, Bool.not_eq_true']
  · -- HOLDOVER_EXPIRY
    intro s t hLeftLocked hQual hPassedSec
    change execHoldoverExpiry _ = _
    simp only [execHoldoverExpiry, hLeftLocked, hQual, hPassedSec, and_self, if_true]
  · -- LEAP_SLEW_START
    intro s l hLeapPlan hLeap hLastOfMonth hDt hDt2
    change execLeapSlewStart _ = _
    simp only [execLeapSlewStart, hLeapPlan, hLeap, hLastOfMonth, hDt, hDt2, and_self, if_true]
  · -- LEAP
    intro s l hLeap hDt
    change execLeap _ = _
    simp only [execLeap, hLeap, hDt, if_true]
  · -- PPS_OUT_PULSE
    intro s
    refine ⟨fun hOut hRise => ?_, fun hOut hEn hSecond hAt => ?_⟩
    · change execPpsOutPulse _ = _
      simp only [execPpsOutPulse, hOut, hRise, and_self, if_true]
    · change execPpsOutPulse _ = _
      simp only [execPpsOutPulse, hOut, hEn, hSecond, hAt, ne_eq, not_false_eq_true, Bool.false_eq_true, false_and, and_self, if_true,
        if_false]
  · -- ALARM_ARM
    intro s n
    rfl
  · -- ALARM
    intro s n hAlarmDue
    change execAlarm _ _ = _
    simp only [execAlarm, hAlarmDue, if_true]
  · -- WAKE_ENABLE
    intro s n hCtrlEn
    change Host.Outcome.next (enableWake s n) = _
    rw [enableWake, if_neg (by rw [hCtrlEn]; exact Bool.false_ne_true)]
  · -- WAKE
    intro s n hCtrlEn hEl
    change execWake _ _ = _
    simp only [execWake, hCtrlEn, hEl, and_self, if_true]

end Sys2Proof.Time
end

section
/-! PROOFS. Radio (chapter 04): the commands and events of the radio complete. -/

namespace Sys2Proof.Radio

open Sys2Proof.Machine Sys2Proof.Laws

/-- Settles O33: the work of each opcode, its checks passed, is what its clause writes. -/
theorem radioRingComplete : Obligations.RadioRingComplete := by
  unfold Obligations.RadioRingComplete
  dsimp only
  refine ⟨?_, ?_, ?_, ?_⟩
  · -- RADIO_PROFILE_LOAD
    intro s sq c hr hc hb hc2 hc3 hStatProfile
    refine ring_config rfl hr ?_ rfl
    simp only [bodyRadioProfileLoad, checkOps_clean hc, readBuf_reachable hb, checkOps_clean hc2, stopIf_false hStatProfile, ok_bind,
      pure_ok]
    exact ok_then (checkBuf_clean hc3) rfl
  · -- PROFILE_SELECT
    intro s sq c hr hc hTxaEn hCustomLoaded
    refine ring_config rfl hr ?_ rfl
    simp only [bodyProfileSelect, checkOps_clean hc, stopIf_false hTxaEn, stopIf_false hCustomLoaded, ok_bind, pure_ok]
  · -- TX_TEST
    intro s sq c hr hc hTxaEn hChainAt i x hTxAdmit
    refine ring_done rfl hr ?_ rfl
    simp only [bodyTxTest, checkOps_clean hc, stopIf_false hTxaEn, stopIf_false hChainAt, hTxAdmit, ok_bind, pure_ok]
  · -- RX_SURVEY
    intro s sq c hr hc hRxEn hSurvey
    refine ring_done rfl hr ?_ rfl
    simp only [bodyRxSurvey, checkOps_clean hc, stopIf_unless hRxEn, stopIf_false hSurvey, ok_bind, pure_ok]

/-- Settles O34: the hypotheses of each clause decide every branch of its event. -/
theorem radioEventComplete : Obligations.RadioEventComplete := by
  unfold Obligations.RadioEventComplete
  dsimp only
  refine ⟨?_, ?_, ?_, ?_, ?_, ?_, ?_, ?_, ?_, ?_, ?_⟩
  · -- TX_TEST_DONE
    intro s n r hTest hBusy hPassedUs
    change execTxTestDone _ _ = _
    simp only [execTxTestDone, hTest, hBusy, hPassedUs, and_self, if_true]
  · -- SURVEY_DONE
    intro s v q hSurvey hPassedMs hMemFails
    change execSurveyDone _ _ = _
    simp only [execSurveyDone, hSurvey, hPassedMs, hMemFails, if_true, if_false, Bool.false_eq_true]
  · -- DETECTION
    intro s d a hMinPre hDivAnt
    change execDetection _ _ = _
    simp only [execDetection, hMinPre, hDivAnt, if_true]
  · -- DEMOD_ASSIGN
    intro s d hPoolRuns hStatDemods hTopDet
    change execDemodAssign _ = _
    simp only [execDemodAssign, hPoolRuns, hStatDemods, hTopDet, if_true, decide_true, Bool.and_self]
  · -- DETECTION_DROP
    intro s hK
    change execDetectionDrop _ = _
    simp only [execDetectionDrop, hK, if_false]
  · -- NO_SFD
    intro s c d hFind
    change execNoSfd _ _ = _
    simp only [execNoSfd, hFind]
  · -- DEMOD_RELEASE
    intro s c e d hPoolRuns hFind hE hE2 hE3 hE4 hE5
    change execDemodRelease _ _ _ = _
    simp only [execDemodRelease, hPoolRuns, hFind, hE, hE2, Nat.not_lt.2 hE3, Nat.not_lt.2 hE4, hE5, if_true, if_false, or_self,
      Bool.not_true, Bool.false_eq_true, not_true, ne_eq]
  · -- RF24_FRAME_RX
    intro s e hRf24En
    change execRf24FrameRx _ _ = _
    simp only [execRf24FrameRx, hRf24En, if_true]
  · -- TX_START
    intro s n r hChainAt
    change execTxStart _ _ _ = _
    simp only [execTxStart, hChainAt, if_false, Bool.false_eq_true]
  · -- TX_END
    intro s n hBusy hTest hPassedUs
    change execTxEnd _ _ = _
    simp only [execTxEnd, hBusy, hTest, hPassedUs, and_self, if_true]
  · -- DUTY_BUCKET_CLOSE
    intro s hDomState hPassedSec
    change execDutyBucketClose _ = _
    simp only [execDutyBucketClose, hDomState, hPassedSec, and_self, if_true]

end Sys2Proof.Radio
end

section
/-! PROOFS. Tamin (chapter 05): the frames, broadcasts and ring commands of Tamin complete. -/

namespace Sys2Proof.Tamin

open Sys2Proof.Machine Sys2Proof.Laws

variable {s : State}

/-- A frame of the radio that is heard and whose head is good is worked on, after it has left the queue. -/
theorem withFrame_good {p : RxFrame → Bool} {work : State → RxFrame → UpHead → State} {x : RxFrame} {h : UpHead}
    (found : s.rad.rxq.find? p = some x) (heard : hears (radUpd s fun r => { r with rxq := removeOne x r.rxq }) = true)
    (head : upHead x.bytes = some h) (good : headOk (radUpd s fun r => { r with rxq := removeOne x r.rxq }) h (some x.mode) = true) :
    withFrame s p work = work (radUpd s fun r => { r with rxq := removeOne x r.rxq }) x h := by
  simp only [withFrame, found, heard, head, good, Bool.not_true, Bool.false_eq_true, if_true, if_false]

/-- Settles O35: the hypotheses of each clause decide every branch of its event. -/
theorem taminFrameComplete : Obligations.TaminFrameComplete := by
  unfold Obligations.TaminFrameComplete
  dsimp only
  refine ⟨?_, ?_, ?_, ?_, ?_, ?_, ?_, ?_, ?_⟩
  · -- JOIN_REQ
    intro s x h hFind hHears hUpHead hHeadOk
    exact congrArg _ (withFrame_good hFind hHears hUpHead hHeadOk)
  · -- DATA_UP
    intro s x h hFind hHears hUpHead hHeadOk
    exact congrArg _ (withFrame_good hFind hHears hUpHead hHeadOk)
  · -- RELAY_UP
    intro s x h hFind hHears hUpHead hHeadOk
    exact congrArg _ (withFrame_good hFind hHears hUpHead hHeadOk)
  · -- RESP
    intro s r hFind
    change execResp _ = _
    simp only [execResp, hFind]
  · -- T1_POLL
    intro s n v hRf24On hT1En hPollDue
    change execT1Poll _ = _
    simp only [execT1Poll, hRf24On, hT1En, hPollDue, if_true, Bool.and_self]
  · -- DEDICATED_DOWNLINK
    intro s p hFind hSlotPassed hMayUnicast hOnAir
    change execDedicatedDownlink _ = _
    simp only [execDedicatedDownlink, hFind, hSlotPassed, hMayUnicast, hOnAir, if_false, or_self, Bool.not_true, Bool.false_eq_true]
  · -- JOIN_ACCEPT
    intro s n j hJoinList hSlotPassed hOnAir hCtrLeft hJ
    change execJoinAccept _ = _
    simp only [execJoinAccept, hJoinList, hSlotPassed, hOnAir, hCtrLeft, hJ, if_false, or_self, Bool.not_true, Bool.false_eq_true]
  · -- JOIN_FAILED
    intro s n j hJoinList
    change execJoinFailed _ = _
    simp only [execJoinFailed, hJoinList]
  · -- ENDPOINT_LOST
    intro s hSupSec hOnAir
    change execEndpointLost _ = _
    simp only [execEndpointLost, hSupSec, hOnAir, if_false, Bool.not_true, Bool.false_eq_true]

/-- Settles O36: the hypotheses of each clause decide every branch of its event. -/
theorem taminBroadcastComplete : Obligations.TaminBroadcastComplete := by
  unfold Obligations.TaminBroadcastComplete
  dsimp only
  refine ⟨?_, ?_, ?_, ?_, ?_, ?_, ?_⟩
  · -- ROOSTER
    intro s hBeaconDue hSlotStarts
    change execRooster _ = _
    simp only [execRooster, hBeaconDue, hSlotStarts, if_true, Bool.and_self]
  · -- ACK_AGG
    intro s s1 w hIsEmpty hOnAir hChainLeft hTakeWin
    change execAckAgg _ = _
    simp only [execAckAgg, sendAcks, hIsEmpty, hOnAir, hChainLeft, hTakeWin, Bool.not_true, Bool.or_self, Bool.false_eq_true, if_false]
  · -- MAP
    intro s s1 w p hChainLeft hTakeWin hFind
    change execMap _ = _
    simp only [execMap, hChainLeft, hTakeWin, hFind, if_false, Bool.not_true, Bool.false_eq_true]
  · -- MAP_ACTIVE
    intro s p hFind
    change execMapActive _ = _
    simp only [execMapActive, hFind]
  · -- MAP_OLD_WINDOW_END
    intro s
    rfl
  · -- FOLD_CHECKPOINT
    intro s hDomState hCkptPeriod
    change execFoldCheckpoint _ = _
    simp only [execFoldCheckpoint, hDomState, hCkptPeriod, if_true, if_false, not_true, ne_eq]
  · -- BCAST_KEY_ACTIVE
    intro s b hBcast hDt
    change execBcastKeyActive _ = _
    simp only [execBcastKeyActive, hBcast, hDt, if_true]

/-- Settles O37: the work of each opcode, its checks passed, is what its clause writes. -/
theorem taminRingComplete : Obligations.TaminRingComplete := by
  unfold Obligations.TaminRingComplete
  dsimp only
  refine ⟨?_, ?_, ?_, ?_, ?_, ?_, ?_, ?_, ?_⟩
  · -- FOLD_ADMIT
    intro s sq c hr hc hFindEui n hFreeEph hGen
    refine ring_done rfl hr ?_ rfl
    simp only [bodyFoldAdmit, checkOps_clean hc, stopIf_false hFindEui, hFreeEph, stopIf_false hGen, ok_bind, pure_ok]
  · -- FOLD_REMOVE
    intro s sq c hr hc hEntAt hAny
    refine ring_done rfl hr ?_ rfl
    simp only [bodyFoldRemove, checkOps_clean hc, stopIf_not hEntAt, stopIf_false hAny, ok_bind, pure_ok]
  · -- FOLD_READ
    intro s sq c hr hc hb
    refine ring_done rfl hr ?_ rfl
    simp only [bodyFoldRead, checkOps_clean hc, writeBuf_reachable hb, ok_bind, pure_ok]
  · -- FOLD_FIND
    intro s sq c hr hc
    refine ring_done rfl hr ?_ rfl
    simp only [bodyFoldFind, checkOps_clean hc, ok_bind, pure_ok]
  · -- CONN_SET
    intro s sq c hr hc hState hConn hRef hFits
    have connected : ¬ ((entAt s (c.op 16 3)).state ≠ 3 ∧ 4 ≤ c.op 19 1) := fun ⟨other, more⟩ => hConn.elim other (Nat.not_lt.2 more)
    have free : (decide (4 ≤ c.op 19 1) && (epAt s (c.op 16 3)).conn.any fun p => p.ref.isSome) = false := by
      by_cases more : 4 ≤ c.op 19 1
      · rw [hRef more, Bool.and_false]
      · rw [decide_eq_false more, Bool.false_and]
    have fits : (bit (c.op 19 1) 2 && decide ((entAt s (c.op 16 3)).gen = 1) &&
        !(t1Fits s (c.op 16 3) (c.op 22 2 * 4 / 5) && (connAfter s (c.op 16 3) (c.op 22 2 * 4 / 5)).isSome)) = false := by
      by_cases t1 : bit (c.op 19 1) 2 = true ∧ (entAt s (c.op 16 3)).gen = 1
      · simp [hFits t1.1 t1.2]
      · have none : (bit (c.op 19 1) 2 && decide ((entAt s (c.op 16 3)).gen = 1)) = false := by simpa using t1
        rw [none, Bool.false_and]
    split
    · next few =>
      refine ring_done rfl hr ?_ rfl
      simp only [bodyConnSet, checkOps_clean hc, stopIf_not hState, stopIf_not connected, stopIf_false free, stopIf_false fits, if_pos few,
        ok_bind, pure_ok]
    · next many =>
      refine ring_done rfl hr ?_ rfl
      simp only [bodyConnSet, checkOps_clean hc, stopIf_not hState, stopIf_not connected, stopIf_false free, stopIf_false fits,
        if_neg many, ok_bind, pure_ok]
  · -- MAP_SET
    intro s sq c hr hc hDt hAny
    refine ring_done rfl hr ?_ rfl
    simp only [bodyMapSet, checkOps_clean hc, stopIf_lt_of_le hDt, stopIf_false hAny, ok_bind, pure_ok]
  · -- DL_SEND
    intro s sq c hr hc hb hEntAt hEpAt
    refine ring_done rfl hr ?_ rfl
    simp only [bodyDlSend, checkOps_clean hc, readBuf_reachable hb, stopIf_ne_of_eq hEntAt, stopIf_not hEpAt, ok_bind, pure_ok]
  · -- REKEY
    intro s sq c hr hc hEntAt hEntAt2 hEntAt3
    refine ring_done rfl hr ?_ rfl
    simp only [bodyRekey, checkOps_clean hc, stopIf_ne_of_eq hEntAt, stopIf_false hEntAt2, stopIf_not hEntAt3, ok_bind, pure_ok]
  · -- BCAST_REKEY
    intro s sq c hr hc hBcast
    refine ring_done rfl hr ?_ rfl
    simp only [bodyBcastRekey, checkOps_clean hc, stopIf_false hBcast, ok_bind, pure_ok]

end Sys2Proof.Tamin
end

section
/-! PROOFS. Street control (chapter 06): its events and ring commands complete. -/

namespace Sys2Proof.Street

open Sys2Proof.Machine Sys2Proof.Laws

/-- Settles O38: the hypotheses of each clause decide every branch of its event. -/
theorem streetEventComplete : Obligations.StreetEventComplete := by
  unfold Obligations.StreetEventComplete
  dsimp only
  refine ⟨?_, ?_, ?_, ?_, ?_, ?_, ?_, ?_⟩
  · -- TICK_BOUNDARY
    intro s
    refine ⟨fun due quiet => ?_, fun due quiet => ?_, fun early => ?_⟩
    · change execTickBoundary _ = _
      simp only [execTickBoundary, due, quiet, if_true, if_false, Bool.not_true, Bool.false_eq_true]
    · change execTickBoundary _ = _
      simp only [execTickBoundary, due, quiet, if_false, Bool.not_true, Bool.false_eq_true]
    · change execTickBoundary _ = _
      simp only [execTickBoundary, early, if_true, Bool.not_false]
  · -- LEVEL_VECTOR
    intro s g hLvGroups hOnAir
    have now : lvNow s = some g := hLvGroups
    change execLevelVector _ = _
    simp only [execLevelVector, now, hOnAir, if_false, Bool.not_true, Bool.false_eq_true]
    rfl
  · -- STEP_FIRED
    intro s hOnAir
    change execStepFired _ = _
    simp only [execStepFired, hOnAir, if_true]
  · -- AMBIENT_STEP_FIRE
    intro s hOnAir
    change execAmbientStepFire _ = _
    simp only [execAmbientStepFire, hOnAir, if_true]
  · -- COMMIT
    intro s s1 w c hChainLeft hTakeWin hFind hOnAir hKind
    change execCommit _ = _
    simp only [execCommit, hChainLeft, hTakeWin, hFind, hOnAir, hKind, if_true, if_false, ne_eq]
  · -- COMMIT_DUE
    intro s hOnAir
    change execCommitDue _ = _
    simp only [execCommitDue, hOnAir, if_true]
  · -- COMMIT_DONE
    intro s
    rfl
  · -- COMMIT_ENTRY_FREE
    intro s
    rfl

/-- Settles O39: the work of each opcode, its checks passed, is what its clause writes. -/
theorem streetRingComplete : Obligations.StreetRingComplete := by
  unfold Obligations.StreetRingComplete
  dsimp only
  refine ⟨?_, ?_, ?_, ?_, ?_, ?_, ?_⟩
  · -- MEMBER_SET
    intro s sq c hr hc hb hc2 hEntAt hEpAt hAny
    split
    · next active =>
      refine ring_config rfl hr ?_ rfl
      simp only [bodyMemberSet, checkOps_clean hc, readBuf_reachable hb, checkBuf_clean hc2, stopIf_not hEntAt, stopIf_false hEpAt,
        stopIf_false hAny, if_pos active, ok_bind, pure_ok]
    · next passive =>
      refine ring_config rfl hr ?_ rfl
      simp only [bodyMemberSet, checkOps_clean hc, readBuf_reachable hb, checkBuf_clean hc2, stopIf_not hEntAt, stopIf_false hEpAt,
        stopIf_false hAny, if_neg passive, ok_bind, pure_ok]
  · -- GROUP_CFG
    intro s sq c hr hc hFree
    split
    · next changes =>
      obtain ⟨idle, late, room⟩ := hFree changes
      refine ring_config rfl hr ?_ rfl
      simp only [bodyGroupCfg, checkOps_clean hc, changes, Bool.true_and, stopIf_false idle, stopIf_lt_of_le late, stopIf_unless room,
        if_true, ok_bind, pure_ok]
    · next same =>
      refine ring_config rfl hr ?_ rfl
      simp only [bodyGroupCfg, checkOps_clean hc, eq_false_of_ne_true same, Bool.false_and, stopIf_false rfl, Bool.false_eq_true, if_false,
        ok_bind, pure_ok]
  · -- SCHEDULE_PROFILE_LOAD
    intro s sq c hr hc hb hc2 hc3
    refine ring_config rfl hr ?_ rfl
    simp only [bodyScheduleProfileLoad, checkOps_clean hc, readBuf_reachable hb, checkOps_clean hc2, ok_bind, pure_ok]
    exact ok_then (checkBuf_clean hc3) rfl
  · -- EXCEPTION_SET
    intro s sq c hr hc hAny
    refine ring_config rfl hr ?_ rfl
    simp only [bodyExceptionSet, checkOps_clean hc, stopIf_false hAny, ok_bind, pure_ok]
  · -- SCENE_STORE
    intro s sq c hr hc hb hc2 hc3 hSceneHeld
    refine ring_config rfl hr ?_ rfl
    simp only [bodySceneStore, checkOps_clean hc, readBuf_reachable hb, checkOps_clean hc2, stopIf_false hSceneHeld, ok_bind, pure_ok]
    exact ok_then (checkBuf_clean hc3) rfl
  · -- SCENE_RECALL
    intro s sq c hr hc hEnts hTime
    have inTime : ¬ (c.op 24 8 ≠ 0 ∧ c.op 24 8 < s.dt + 2 * 65536) := fun ⟨dated, soon⟩ =>
      hTime.elim dated fun ⟨late, _⟩ => absurd soon (Nat.not_lt.2 late)
    have room : (decide (c.op 24 8 ≠ 0) && !commitRoom s ((s.street.scenes.get (c.op 16 1) []).filter SceneEnt.fixed).length) = false := by
      rcases hTime with now | ⟨_, room⟩
      · simp only [now, ne_eq, not_true, decide_false, Bool.false_and]
      · simp only [room, Bool.not_true, Bool.and_false]
    refine ring_done rfl hr ?_ rfl
    simp only [bodySceneRecall, checkOps_clean hc, stopIf_false hEnts, stopIf_not inTime, stopIf_false room, ok_bind]
    rcases recallScene s (c.op 16 1) (c.op 17 1) (c.op 24 8) c.ref with ⟨s1, _ | id⟩ <;> rfl
  · -- SCENE_RELEASE
    intro s sq c hr hc hSceneHeld
    refine ring_done rfl hr ?_ rfl
    simp only [bodySceneRelease, checkOps_clean hc, stopIf_unless hSceneHeld, ok_bind, pure_ok]

/-- Settles O40: the work of each opcode, its checks passed, is what its clause writes. -/
theorem streetCommitComplete : Obligations.StreetCommitComplete := by
  unfold Obligations.StreetCommitComplete
  dsimp only
  refine ⟨?_, ?_, ?_, ?_, ?_⟩
  · -- COMMIT_LEVEL
    intro s sq c hr hc hDt hCommitRoom
    refine ring_done rfl hr ?_ rfl
    simp only [bodyCommitLevel, checkOps_clean hc, stopIf_lt_of_le hDt, stopIf_unless hCommitRoom, ok_bind, pure_ok]
  · -- COMMIT_CANCEL
    intro s sq c hr hc k hFind hCommitRoom
    refine ring_done rfl hr ?_ rfl
    simp only [bodyCommitCancel, checkOps_clean hc, hFind, stopIf_unless hCommitRoom, ok_bind, pure_ok]
  · -- COMMIT_READ
    intro s sq c hr hc k hFind hb
    refine ring_done rfl hr ?_ rfl
    simp only [bodyCommitRead, checkOps_clean hc, hFind, writeBuf_reachable hb, ok_bind, pure_ok]
  · -- COMPOSE_READ
    intro s sq c hr hc hb
    refine ring_done rfl hr ?_ rfl
    simp only [bodyComposeRead, checkOps_clean hc, writeBuf_reachable hb, ok_bind, pure_ok]
  · -- SOLAR_READ
    intro s sq c hr hc hb
    refine ring_done rfl hr ?_ rfl
    simp only [bodySolarRead, checkOps_clean hc, writeBuf_reachable hb, ok_bind, pure_ok] <;> rfl

end Sys2Proof.Street
end

section
/-! PROOFS. Cascade (chapter 07): its ring commands and BORDER_DEMAND complete. -/

namespace Sys2Proof.Cascade

open Sys2Proof.Machine Sys2Proof.Laws

/-- Settles O41: the hypotheses of each clause decide every check of its opcode and every branch of its event. -/
theorem cascadeComplete : Obligations.CascadeComplete := by
  unfold Obligations.CascadeComplete
  dsimp only
  refine ⟨?_, ?_, ?_, ?_, ?_, ?_, ?_, ?_, ?_, ?_⟩
  · -- CAS_VERTEX_LOAD
    intro s sq c hr hc hb hc2 hActivate
    refine ring_done rfl hr ?_ rfl
    simp only [bodyCasVertexLoad, checkOps_clean hc, readBuf_reachable hb, checkBuf_clean hc2, stopIf_false hActivate, ok_bind, pure_ok]
  · -- CAS_EDGE_LOAD
    intro s sq c hr hc hb hc2 hActivate
    refine ring_done rfl hr ?_ rfl
    simp only [bodyCasEdgeLoad, checkOps_clean hc, readBuf_reachable hb, checkBuf_clean hc2, stopIf_false hActivate, ok_bind, pure_ok]
  · -- CAS_STAGE_SYNC
    intro s sq c hr hc hActivate
    refine ring_done rfl hr ?_ rfl
    simp only [bodyCasStageSync, checkOps_clean hc, stopIf_false hActivate, ok_bind, pure_ok]
  · -- CAS_GRAPH_ACTIVATE
    intro s sq c hr hc hActivate hStageRefusal
    refine ring_waits rfl hr ?_
    simp only [bodyCasGraphActivate, checkOps_clean hc, stopIf_false hActivate, hStageRefusal, ok_bind, pure_ok]
  · -- CAS_BORDER_SET
    intro s sq c hr hc hO
    refine ring_config rfl hr ?_ rfl
    simp only [bodyCasBorderSet, checkOps_clean hc, stopIf_false hO, ok_bind, pure_ok]
  · -- CAS_INJECT
    intro s sq c hr hc hCtrlEn hLength
    refine ring_done rfl hr ?_ rfl
    simp only [bodyCasInject, checkOps_clean hc, stopIf_unless hCtrlEn, stopIf_not hLength, ok_bind, pure_ok]
  · -- CAS_DEMAND_READ
    intro s sq c hr hc hb
    refine ring_done rfl hr ?_ rfl
    simp only [bodyCasDemandRead, checkOps_clean hc, writeBuf_reachable hb, ok_bind, pure_ok]
  · -- CAS_GRAPH_READ
    intro s sq c hr hc hb
    refine ring_done rfl hr ?_ rfl
    simp only [bodyCasGraphRead, checkOps_clean hc, writeBuf_reachable hb, ok_bind, pure_ok]
  · -- CAS_CLEAR
    intro s sq c hr hc
    refine ring_waits rfl hr ?_
    simp only [bodyCasClear, checkOps_clean hc, ok_bind, pure_ok]
  · -- BORDER_DEMAND
    intro s s1 p l m hSpanKind hSpanRx
    change execBorderDemand _ _ _ = _
    simp only [execBorderDemand, hSpanKind, hSpanRx, if_false, not_true, ne_eq]

end Sys2Proof.Cascade
end

section
/-! PROOFS. Weir (chapter 08): its samples and ring commands complete. -/

namespace Sys2Proof.Weir

open Sys2Proof.Machine Sys2Proof.Laws

/-- Settles O42: the hypotheses of each clause decide every check of its opcode and every branch of its event. -/
theorem weirComplete : Obligations.WeirComplete := by
  unfold Obligations.WeirComplete
  dsimp only
  refine ⟨?_, ?_, ?_, ?_, ?_, ?_, ?_, ?_, ?_, ?_, ?_, ?_⟩
  · -- SLOW_SAMPLE
    intro s conv late hWeirRuns hSlowEn hDue
    change execSlowSample _ _ _ = _
    simp only [execSlowSample, hWeirRuns, hSlowEn, hDue, if_false, Bool.not_true, Bool.false_eq_true, Bool.and_self]
  · -- FAST_SAMPLE
    intro s x late a r hWeirRuns hFastEn hFastNext hEl
    change execFastSample _ _ _ = _
    simp only [execFastSample, hWeirRuns, hFastEn, hFastNext, Nat.not_lt.2 hEl, if_false, Bool.not_true, Bool.false_eq_true, Bool.and_self]
  · -- WEI_LOOP_LOAD
    intro s sq c hr hc hb hc2 hc3 hc4 hLoopAt
    refine ring_config rfl hr ?_ rfl
    simp only [bodyWeiLoopLoad, checkOps_clean hc, readBuf_reachable hb, checkBuf_clean hc2, checkOps_clean hc3,
      stopIf_false hLoopAt, ok_bind, pure_ok]
    exact ok_then (checkBuf_clean hc4) rfl
  · -- WEI_LOOP_ENABLE
    intro s sq c hr hc d hLoopAt hEn
    refine ring_config rfl hr ?_ rfl
    simp only [bodyWeiLoopEnable, checkOps_clean hc, hLoopAt, stopIf_false hEn, ok_bind, pure_ok]
  · -- WEI_COEF_SET
    intro s sq c hr hc hb hL hc2
    refine ring_config rfl hr ?_ rfl
    simp only [bodyWeiCoefSet, readBuf_reachable hb, stopIf_false hL, ok_bind, pure_ok]
    exact ok_then (checkOps_clean hc) (ok_then (checkBuf_clean hc2) rfl)
  · -- WEI_GROUP_SET
    intro s sq c hr hc hMem hMem2
    refine ring_config rfl hr ?_ rfl
    simp only [bodyWeiGroupSet, stopIf_false hMem, ok_bind, pure_ok]
    exact ok_then (checkOps_clean hc) (ok_then (stopIf_false hMem2) rfl)
  · -- WEI_INJECT
    intro s sq c hr hc hb hc2 hc3 hInject hL
    refine ring_done rfl hr ?_ rfl
    simp only [bodyWeiInject, checkOps_clean hc, readBuf_reachable hb, checkOps_clean hc2, checkBuf_clean hc3, stopIf_false hInject,
      stopIf_false hL, ok_bind, pure_ok]
  · -- WEI_INJECT_STOP
    intro s sq c hr hc hInject
    refine ring_done rfl hr ?_ rfl
    simp only [bodyWeiInjectStop, checkOps_clean hc, stopIf_false hInject, ok_bind, pure_ok]
  · -- WEI_CAPTURE_SET
    intro s sq c hr hc hb hc2 hCapOn
    refine ring_done rfl hr ?_ rfl
    simp only [bodyWeiCaptureSet, checkOps_clean hc, readBuf_reachable hb, checkBuf_clean hc2, stopIf_false hCapOn, ok_bind, pure_ok]
  · -- WEI_CAPTURE_READ
    intro s sq c hr hc hD hb
    refine ring_done rfl hr ?_ rfl
    simp only [bodyWeiCaptureRead, checkOps_clean hc, stopIf_not hD, writeBuf_reachable hb, ok_bind, pure_ok]
  · -- WEI_LOOP_READ
    intro s sq c hr hc hb
    refine ring_done rfl hr ?_ rfl
    simp only [bodyWeiLoopRead, checkOps_clean hc, writeBuf_reachable hb, ok_bind, pure_ok]
  · -- WEI_CAPTURE_STOP
    intro s sq c hr hc hCapOn
    refine ring_done rfl hr ?_ rfl
    simp only [bodyWeiCaptureStop, checkOps_clean hc, stopIf_unless hCapOn, ok_bind, pure_ok]

end Sys2Proof.Weir
end

section
/-! PROOFS. Basin (chapter 09): its events and ring commands complete. -/

namespace Sys2Proof.Basin

open Sys2Proof.Machine Sys2Proof.Laws

/-- Settles O43: the hypotheses of each clause decide every branch of its event. -/
theorem basinEventComplete : Obligations.BasinEventComplete := by
  unfold Obligations.BasinEventComplete
  dsimp only
  refine ⟨?_, ?_, ?_, ?_, ?_, ?_, ?_, ?_, ?_, ?_, ?_, ?_⟩
  · -- BASIN_SAMPLE
    intro s chans hSampleIdx hDomState
    change execBasinSample _ _ = _
    simp only [execBasinSample, hSampleIdx, hDomState, if_false, or_self, not_true, ne_eq]
  · -- CYCLE_END
    intro s f x r hDomState hCycDue
    change execCycleEnd _ = _
    simp only [execCycleEnd, hDomState, hCycDue, if_true, ne_eq]
  · -- WINDOW_END
    intro s w r hDomState hWinDue
    change execWindowEnd _ = _
    simp only [execWindowEnd, hDomState, hWinDue, if_true]
  · -- TEMP_UPDATE
    intro s conv hTempSec hDomState
    change execTempUpdate _ _ = _
    simp only [execTempUpdate, hTempSec, hDomState, if_false, or_self, not_true, ne_eq]
    rcases h : basTemp (basUpd (setAin s conv) fun b => { b with tempSec := dtSec s.dt + 1 }) with _ | t
    · rfl
    · rfl
  · -- BASIN_COMMIT
    intro s hCommitSec hDomState
    change execBasinCommit _ = _
    simp only [execBasinCommit, hCommitSec, hDomState, if_false, or_self, not_true, ne_eq]
  · -- CHANNEL_STUCK
    intro s n hChanOn hCfgFault
    change execChannelStuck _ _ = _
    simp only [execChannelStuck, hChanOn, hCfgFault, and_self, if_true, Bool.not_false]
  · -- CHANNEL_RECOVER
    intro s n hChanOn hCfgFault
    change execChannelRecover _ _ = _
    simp only [execChannelRecover, hChanOn, hCfgFault, and_self, if_true]
  · -- CHANNEL_DISABLED_WHILE_STUCK
    intro s n hDomState hChanOn hCfgFault
    change execChannelDisabledWhileStuck _ _ = _
    simp only [execChannelDisabledWhileStuck, hDomState, hChanOn, hCfgFault, and_self, if_true, Bool.not_false]
  · -- INTERVAL_END
    intro s hEndIdx hDomState hRole
    change execIntervalEnd _ = _
    simp only [execIntervalEnd, hEndIdx, hDomState, if_false, or_self, not_true, ne_eq]
  · -- INTERVAL_LEN_WRITE
    intro s v hDomState
    change execIntervalLenWrite _ _ = _
    simp only [execIntervalLenWrite, hDomState, if_true]
  · -- RECONCILIATION_START
    intro s w r hWaits hReconDelay
    change execReconciliationStart _ = _
    simp only [execReconciliationStart, hWaits, hReconDelay, if_true]
  · -- RECON_DONE
    intro s x r hDomState hRunning
    change execReconDone _ = _
    simp only [execReconDone, hDomState, hRunning, if_true]

/-- Settles O44: the work of each opcode, its checks passed, is what its clause writes. -/
theorem basinRingComplete : Obligations.BasinRingComplete := by
  unfold Obligations.BasinRingComplete
  dsimp only
  refine ⟨?_, ?_, ?_, ?_, ?_, ?_⟩
  · -- BAS_TEMP_TABLE_LOAD
    intro s sq c hr hc hb hc2 hc3 hc4 hCtrlLock
    refine ring_config rfl hr ?_ rfl
    simp only [bodyBasTempTableLoad, checkOps_clean hc, readBuf_reachable hb, checkBuf_clean hc2, checkOps_clean hc3, checkBuf_clean hc4,
      stopIf_false hCtrlLock, ok_bind, pure_ok]
  · -- BAS_VALUES_READ
    intro s sq c hr hc hCfgEn hb
    refine ring_done rfl hr ?_ rfl
    simp only [bodyBasValuesRead, checkOps_clean hc, stopIf_unless hCfgEn, writeBuf_reachable hb, ok_bind, pure_ok]
  · -- BAS_ENERGY_READ
    intro s sq c hr hc hb
    refine ring_done rfl hr ?_ rfl
    simp only [bodyBasEnergyRead, checkOps_clean hc, writeBuf_reachable hb, ok_bind, pure_ok]
  · -- BAS_LANTERN_SET
    intro s sq c hr hc hb hc2
    refine ring_config rfl hr ?_ rfl
    simp only [bodyBasLanternSet, checkOps_clean hc, readBuf_reachable hb, ok_bind, pure_ok]
    exact ok_then (checkBuf_clean hc2) rfl
  · -- BAS_ALLOC_READ
    intro s sq c hr hc x hDone hb
    refine ring_done rfl hr ?_ rfl
    simp only [bodyBasAllocRead, checkOps_clean hc, hDone, writeBuf_reachable hb, ok_bind, pure_ok]
  · -- BAS_RECON_READ
    intro s sq c hr hc x hDone hb
    refine ring_done rfl hr ?_ rfl
    simp only [bodyBasReconRead, checkOps_clean hc, hDone, writeBuf_reachable hb, ok_bind, pure_ok]

end Sys2Proof.Basin
end

section
/-! PROOFS. The Cistern (chapter 10): its events, reads and ring commands complete. -/

namespace Sys2Proof.Cistern

open Sys2Proof.Machine Sys2Proof.Laws

/-- The oldest record that waits is stored while there is room (R301). -/
theorem framWrite_fits {s : State} {r : CisRec} {rest : List CisRec} (waiting : s.cis.pend1 = r :: rest)
    (fits : ((s.cis.fram1 ++ [r]).map CisRec.len).sum ≤ 2097152) :
    framWrite s = cisUpd s fun c => { c with
      pend1 := rest, fram1 := c.fram1 ++ [r]
      framOld := dropTo (2097152 - ((s.cis.fram1 ++ [r]).map CisRec.len).sum) c.framOld } := by
  simp only [framWrite, waiting, if_pos fits]

/-- Settles O45: the hypotheses of each clause decide every branch of its event. -/
theorem cisternComplete : Obligations.CisternComplete := by
  unfold Obligations.CisternComplete
  dsimp only
  refine ⟨?_, ?_, ?_, ?_, ?_, ?_, ?_, ?_⟩
  · -- POWER_LOSS_HOLD_END
    intro s h r hHeld hFoldHold
    change execPowerLossHoldEnd _ = _
    simp only [execPowerLossHoldEnd, hHeld, hFoldHold, if_true]
  · -- FOLD_GRACE_END
    intro s f hActive hCauses hFoldGrace
    change execFoldGraceEnd _ _ = _
    simp only [execFoldGraceEnd, hActive, hCauses, hFoldGrace, and_self, if_true]
  · -- STORM
    intro s hStormSec
    change execStorm _ = _
    simp only [execStorm, hStormSec, if_false]
  · -- LIVE_ARCHIVE
    intro s
    rfl
  · -- AUDIT_FRAM_WRITE
    intro s r rest hPend1 hHeld
    exact congrArg _ (framWrite_fits hPend1 hHeld)
  · -- AUDIT_ARCHIVE
    intro s hArch1At
    change execAuditArchive _ = _
    simp only [execAuditArchive, hArch1At, if_true]
  · -- CIS_LIVE_FSEQ_READ
    intro s
    rfl
  · -- CIS_AUD_OSEQ_READ
    intro s
    rfl

/-- Settles O46: the work of each opcode, its checks passed, is what its clause writes. -/
theorem cisternRingComplete : Obligations.CisternRingComplete := by
  unfold Obligations.CisternRingComplete
  dsimp only
  refine ⟨?_, ?_, ?_, ?_, ?_, ?_, ?_⟩
  · -- CIS_WIN_READ
    intro s sq c hr hc hb
    refine ring_done rfl hr ?_ rfl
    simp only [bodyCisWinRead, checkOps_clean hc, writeBuf_reachable hb, ok_bind, pure_ok]
  · -- CIS_READ
    intro s sq c hr hc hb
    refine ring_done rfl hr ?_ rfl
    simp only [bodyCisRead, checkOps_clean hc, ok_bind, pure_ok]
    exact ok_then (writeBuf_reachable hb) rfl
  · -- CIS_SNAP_PIN
    intro s sq c hr hc hSnapPinned hFirst
    refine ring_done rfl hr ?_ rfl
    simp only [bodyCisSnapPin, checkOps_clean hc, stopIf_false hSnapPinned, stopIf_not hFirst, ok_bind, pure_ok]
  · -- CIS_SNAP_READ
    intro s sq c hr hc hSnapPinned hSnapInvalid hb
    refine ring_done rfl hr ?_ rfl
    simp only [bodyCisSnapRead, checkOps_clean hc, stopIf_unless hSnapPinned, stopIf_false hSnapInvalid, ok_bind, pure_ok]
    exact ok_then (writeBuf_reachable hb) rfl
  · -- CIS_SNAP_RELEASE
    intro s sq c hr hc hSnapPinned
    refine ring_done rfl hr ?_ rfl
    simp only [bodyCisSnapRelease, checkOps_clean hc, stopIf_unless hSnapPinned, ok_bind, pure_ok]
  · -- CIS_CLEAR_CHALLENGE
    intro s sq c hr hc
    refine ring_done rfl hr ?_ rfl
    simp only [bodyCisClearChallenge, checkOps_clean hc, ok_bind, pure_ok]
  · -- CIS_SEC_CLEAR
    intro s sq c hr hc hb hNonce hPinned key hKey
    split
    · next bad =>
      refine ring_stops rfl hr ?_
      simp only [bodyCisSecClear, checkOps_clean hc, readBuf_reachable hb, stopIf_unless hNonce, stopIf_false hPinned, hKey, if_pos bad,
        ok_bind]
    · next good =>
      refine ring_done rfl hr ?_ rfl
      simp only [bodyCisSecClear, checkOps_clean hc, readBuf_reachable hb, stopIf_unless hNonce, stopIf_false hPinned, hKey, if_neg good,
        ok_bind, pure_ok]

end Sys2Proof.Cistern
end

section
/-! PROOFS. Updates (chapter 11): their ring commands and events complete. -/

namespace Sys2Proof.Updates

open Sys2Proof.Machine Sys2Proof.Laws

variable {s : State} {n i crc : Nat} {b : List Byte}

/-- A piece with the right CRC that the slot does not hold is stored when its write succeeds (R318). -/
theorem storePiece_new (sum : crc32c b = crc) (new : (slotOf s n).pieces.get i [] = []) :
    storePiece s n i crc b true = (setUSlot (count1 s (Reg.UPD_CNT_COUNT 0)) n { slotOf s n with
      pieces := (slotOf s n).pieces.set i b [] }, ansDone) := by
  simp only [storePiece, sum, new, ne_eq, not_true, if_false, Bool.not_true, Bool.false_eq_true]

/-- A verified slot is armed, at once in the rescue image (R325). -/
theorem armSlot_armed {t : Nat} (verified : (slotOf s n).state = 2) (late : s.upd.rescue = true ∨ s.dt + 60 * 65536 ≤ t)
    (idle : s.upd.act.isSome = false) (settled : inTrial s = false) (new : s.upd.floor ≤ (slotOf s n).svn) :
    armSlot s n t = .ok (updAudit (setUSlot (updUpd s fun u => { u with
      act := some { slot := n, actDt := if s.upd.rescue then s.dt else t, due := s.upd.rescue } }) n
      { slotOf s n with state := 4 }) 1 n []) := by
  have inTime : ¬ ((!s.upd.rescue) = true ∧ t < s.dt + 60 * 65536) := fun ⟨normal, soon⟩ =>
    late.elim (by simpa using normal) (Nat.not_le.2 soon)
  simp only [armSlot, verified, inTime, idle, settled, Nat.not_lt.2 new, ne_eq, not_true, Bool.false_eq_true, or_self, if_false]

/-- Settles O47: the work of each opcode, its checks passed, is what its clause writes. -/
theorem updatesRingComplete : Obligations.UpdatesRingComplete := by
  unfold Obligations.UpdatesRingComplete
  dsimp only
  refine ⟨?_, ?_, ?_, ?_, ?_, ?_, ?_, ?_, ?_, ?_, ?_⟩
  · -- UPD_OPEN
    intro s sq c hr hc hSlotHeld hCampBusy
    split
    · next same =>
      refine ring_done rfl hr ?_ rfl
      simp only [bodyUpdOpen, checkOps_clean hc, stopIf_false hSlotHeld, stopIf_false hCampBusy, if_pos same, ok_bind, pure_ok]
    · next other =>
      refine ring_done rfl hr ?_ rfl
      simp only [bodyUpdOpen, checkOps_clean hc, stopIf_false hSlotHeld, stopIf_false hCampBusy, if_neg other, ok_bind, pure_ok]
  · -- UPD_PIECE
    intro s sq c ok hr hc hb hState hIsVerifying hSum hNew hOk
    subst hOk
    refine ring_done rfl hr ?_ rfl
    simp only [bodyUpdPiece, checkOps_clean hc, readBuf_reachable hb, stopIf_ne_of_eq hState, stopIf_false hIsVerifying,
      storePiece_new hSum hNew, ok_bind, pure_ok]
    rfl
  · -- UPD_VERIFY
    intro s sq c hr hc hSlotOf hIsVerifying
    refine ring_done rfl hr ?_ rfl
    simp only [bodyUpdVerify, checkOps_clean hc, stopIf_false hSlotOf, stopIf_false hIsVerifying, ok_bind, pure_ok]
  · -- UPD_ACTIVATE
    intro s sq c hr hc hState hTime hAct hInTrial hFloor
    refine ring_done rfl hr ?_ rfl
    simp only [bodyUpdActivate, checkOps_clean hc, armSlot_armed hState hTime hAct hInTrial hFloor, ok_bind, pure_ok]
  · -- UPD_CANCEL
    intro s sq c hr hc a hAct hActDue
    refine ring_done rfl hr ?_ rfl
    simp only [bodyUpdCancel, checkOps_clean hc, hAct, stopIf_false hActDue, ok_bind, pure_ok]
  · -- UPD_CONFIRM
    intro s sq c hr hc hInTrial
    refine ring_done rfl hr ?_ rfl
    simp only [bodyUpdConfirm, checkOps_clean hc, stopIf_unless hInTrial, ok_bind, pure_ok]
  · -- UPD_ERASE
    intro s sq c hr hc hSlotHeld hCampBusy
    refine ring_done rfl hr ?_ rfl
    simp only [bodyUpdErase, checkOps_clean hc, stopIf_false hSlotHeld, stopIf_false hCampBusy, ok_bind, pure_ok]
  · -- UPD_EP_OFFER
    intro s sq c hr hc hState hCampBusy hBit hDt hCommitRoom
    refine ring_done rfl hr ?_ rfl
    simp only [bodyUpdEpOffer, checkOps_clean hc, stopIf_ne_of_eq hState, stopIf_false hCampBusy, stopIf_unless hBit, stopIf_lt_of_le hDt,
      stopIf_unless hCommitRoom, ok_bind, pure_ok]
  · -- UPD_EP_ACTIVATE
    intro s sq c hr hc hCamp hDt hCommitRoom
    refine ring_done rfl hr ?_ rfl
    simp only [bodyUpdEpActivate, checkOps_clean hc, stopIf_ne_of_eq hCamp, stopIf_lt_of_le hDt, stopIf_unless hCommitRoom, ok_bind,
      pure_ok]
  · -- UPD_EP_STOP
    intro s sq c hr hc hNone hDone hRoom
    have live : ¬ ((campAt s (c.op 16 1 - 16)).state = 0 ∨ (campAt s (c.op 16 1 - 16)).state = 4) := not_or.2 ⟨hNone, hDone⟩
    split
    · next revert =>
      refine ring_done rfl hr ?_ rfl
      simp only [bodyUpdEpStop, checkOps_clean hc, stopIf_not live, if_pos revert, stopIf_unless (hRoom revert), ok_bind, pure_ok] <;> rfl
    · next only =>
      refine ring_done rfl hr ?_ rfl
      simp only [bodyUpdEpStop, checkOps_clean hc, stopIf_not live, if_neg only, ok_bind, pure_ok]
  · -- UPD_EP_STATUS
    intro s sq c hr hc hb
    refine ring_done rfl hr ?_ rfl
    simp only [bodyUpdEpStatus, checkOps_clean hc, writeBuf_reachable hb, ok_bind, pure_ok]

/-- Settles O48: the hypotheses of each clause decide every branch of its event. -/
theorem updatesEventComplete : Obligations.UpdatesEventComplete := by
  unfold Obligations.UpdatesEventComplete
  dsimp only
  refine ⟨?_, ?_, ?_, ?_, ?_, ?_, ?_⟩
  · -- IMAGE_VERIFIED
    intro s n ref key r hVerifying
    change execImageVerified _ = _
    simp only [execImageVerified, hVerifying]
    rcases checkImage (updUpd s fun u => { u with verifying := r }) n key with ⟨s1, _ | ⟨a, k⟩⟩
    · rfl
    · rfl
  · -- ACTIVATION_DUE
    intro s b a hAct hRunning hDue hStep hPf
    refine ⟨fun hStopped => ?_, fun hOutstanding hWait => ?_⟩
    · change execActivationDue _ _ = _
      simp only [execActivationDue, hAct, hRunning, hDue, hStep, hPf, hStopped, and_self, if_true, Bool.not_false]
      rfl
    · change execActivationDue _ _ = _
      simp only [execActivationDue, hAct, hRunning, hDue, hStep, hPf, hOutstanding, hWait, and_self, if_true, if_false, or_self,
        Bool.not_false, Bool.false_eq_true]
  · -- IMAGE_CONFIRMED
    intro s b hBoot hB hStep hStart hConfirm hWin
    have confirmed : (!flag s Reg.UPD_CTRL_HOST_CONFIRM) = true ∨ s.upd.hostConfirm = true := by simpa using hConfirm
    change execImageConfirmed _ = _
    simp only [execImageConfirmed, hBoot, hB, hStep, hStart, confirmed, hWin, and_self, if_true, Bool.false_eq_true, not_false_eq_true]
  · -- HEALTH_WINDOW_EXPIRY
    intro s b r hBoot hRunning hR hPassedSec
    change execHealthWindowExpiry _ _ = _
    simp only [execHealthWindowExpiry, hBoot, hRunning, hR, hPassedSec, and_self, if_true]
  · -- ROUND_START
    intro s k hList
    change execRoundStart _ = _
    simp only [execRoundStart, hList]
  · -- IMAGE_BLOCK
    intro s k w hChainLeft hBlockDue
    change execImageBlock _ = _
    simp only [execImageBlock, hChainLeft, hBlockDue, if_true]
    rfl
  · -- EP_ACTIVATION_DONE
    intro s k hDt
    change execEpActivationDone _ = _
    simp only [execEpActivationDone, hDt]

end Sys2Proof.Updates
end

section
/-! PROOFS. The Fountain (chapter 12): its events and ring commands complete. -/

namespace Sys2Proof.Fountain

open Sys2Proof.Machine Sys2Proof.Laws

/-- Settles O49: the hypotheses of each clause decide every branch of its event. -/
theorem fountainEventComplete : Obligations.FountainEventComplete := by
  unfold Obligations.FountainEventComplete
  dsimp only
  refine ⟨?_, ?_, ?_, ?_, ?_, ?_, ?_, ?_⟩
  · -- SUPERFRAME
    intro s pins hBoundary hDomState
    change execSuperframe _ _ = _
    simp only [execSuperframe, hBoundary, hDomState, if_false, or_self, not_true, ne_eq]
  · -- BOOST_PERIOD
    intro s vsense csCut vmaxCut hDomState
    change execBoostPeriod _ _ _ _ = _
    simp only [execBoostPeriod, hDomState, if_false, not_true, ne_eq]
  · -- OPEN_STRING
    intro s n hSinkActive hStatOpen
    change execOpenString _ _ = _
    simp only [execOpenString, hSinkActive, hStatOpen, and_self, if_true, Bool.not_false]
  · -- LED_SHORT
    intro s n hSinkActive hStatShort hShortMv
    change execLedShort _ _ = _
    simp only [execLedShort, hSinkActive, hStatShort, hShortMv, and_self, if_true, Bool.not_false]
  · -- OVERTEMP
    intro s g t hDomState
    refine ⟨fun hot => ?_, fun cool => ?_⟩
    · change execOvertemp _ _ _ = _
      simp only [execOvertemp, hDomState, hot, if_true, if_false, not_true, ne_eq]
    · have below : ¬ 125 ≤ t := by omega
      change execOvertemp _ _ _ = _
      simp only [execOvertemp, hDomState, below, cool, if_true, if_false, not_true, ne_eq]
  · -- PIN_TEST
    intro s low k hPeriod hOutputs hDue hPair
    have due : ¬ (15 ≤ s.ftn.pinNext ∧
        (!(decide (15 ≤ s.ftn.pinNext) && passedSec s (s.ftn.pinAt - 1) (fld s Reg.FTN_PINTEST_PERIOD))) = true) := fun ⟨done, waits⟩ =>
      hDue.elim (Nat.not_lt.2 done) fun begins => by rw [begins] at waits; exact absurd waits (by decide)
    change execPinTest _ _ = _
    simp only [execPinTest, hPeriod, hOutputs, due, hPair, if_false, or_self, Bool.not_true, Bool.false_eq_true]
  · -- FIXTURE_TEMP_UPDATE
    intro s hTempSec hDomState
    change execFixtureTempUpdate _ = _
    simp only [execFixtureTempUpdate, hTempSec, hDomState, if_false, or_self, not_true, ne_eq] <;> rfl
  · -- STATUS
    intro s p a l hDomState hAsked hLong hCrc hLength hType hAddr hKind
    rw [hLength] at hCrc
    change execStatus _ _ _ = _
    simp only [execStatus, hDomState, hAsked, hCrc, hLength, hType, hAddr, hKind, (by decide : 2 ≤ 8), and_self, if_true, if_false,
      Bool.not_true, Bool.false_eq_true, decide_true, Bool.and_self]

/-- Settles O50: the work of each opcode, its checks passed, is what its clause writes. -/
theorem fountainRingComplete : Obligations.FountainRingComplete := by
  unfold Obligations.FountainRingComplete
  dsimp only
  refine ⟨?_, ?_, ?_, ?_, ?_, ?_, ?_, ?_, ?_⟩
  · -- FTN_FIXTURE_LOAD
    intro s sq c hr hc hb hc2 hHasRepeat hList
    refine ring_config rfl hr ?_ rfl
    simp only [bodyFtnFixtureLoad, checkOps_clean hc, readBuf_reachable hb, checkBuf_clean hc2, stopIf_false hHasRepeat,
      stopIf_false hList, ok_bind, pure_ok]
  · -- FTN_FIXTURE_SET
    intro s sq c hr hc hJetFix f hFixAt
    refine ring_done rfl hr ?_ rfl
    simp only [bodyFtnFixtureSet, checkOps_clean hc, stopIf_false hJetFix, hFixAt, ok_bind, pure_ok]
  · -- FTN_CHAN_SET
    intro s sq c hr hc hList
    refine ring_done rfl hr ?_ rfl
    simp only [bodyFtnChanSet, checkOps_clean hc, stopIf_false hList, ok_bind, pure_ok]
  · -- FTN_COLOR_SET
    intro s sq c hr hc
    refine ring_config rfl hr ?_ rfl
    simp only [bodyFtnColorSet, checkOps_clean hc, ok_bind, pure_ok]
  · -- FTN_JET_LOAD
    intro s sq c hr hc hb hc2 hc3 hc4 hJetAt
    refine ring_config rfl hr ?_ rfl
    simp only [bodyFtnJetLoad, checkOps_clean hc, readBuf_reachable hb, checkBuf_clean hc2, checkOps_clean hc3, checkBuf_clean hc4,
      stopIf_ne_of_eq hJetAt, ok_bind, pure_ok]
  · -- FTN_JET_START
    intro s sq c hr hc p hJetAt hJetAt2 hTargetTaken
    refine ring_done rfl hr ?_ rfl
    simp only [bodyFtnJetStart, checkOps_clean hc, hJetAt, stopIf_ne_of_eq hJetAt2, stopIf_false hTargetTaken, ok_bind, pure_ok]
  · -- FTN_JET_STOP
    intro s sq c hr hc hJetAt
    refine ring_done rfl hr ?_ rfl
    simp only [bodyFtnJetStop, checkOps_clean hc, stopIf_not hJetAt, ok_bind, pure_ok]
  · -- FTN_JET_EVENT
    intro s sq c hr hc hState
    refine ring_done rfl hr ?_ rfl
    simp only [bodyFtnJetEvent, checkOps_clean hc, stopIf_not hState, ok_bind, pure_ok]
  · -- FTN_FAULT_CLEAR
    intro s sq c hr hc hLatched hFault
    split
    · next sink =>
      refine ring_done rfl hr ?_ rfl
      simp only [bodyFtnFaultClear, checkOps_clean hc, if_pos sink, stopIf_unless (hLatched sink), ok_bind, pure_ok]
    · next station =>
      refine ring_done rfl hr ?_ rfl
      simp only [bodyFtnFaultClear, checkOps_clean hc, if_neg station, stopIf_unless (hFault station), ok_bind, pure_ok]

end Sys2Proof.Fountain
end

section
/-! PROOFS. The Ox scan engine (chapter 13): its events and ring commands complete. -/

namespace Sys2Proof.Ox

open Sys2Proof.Machine Sys2Proof.Laws

/-- Settles O51: the hypotheses of each clause decide every branch of its event. -/
theorem oxEventComplete : Obligations.OxEventComplete := by
  unfold Obligations.OxEventComplete
  dsimp only
  refine ⟨?_, ?_, ?_, ?_, ?_, ?_⟩
  · -- OX_CYCLE
    intro s conv inUs outUs hOxReady hDone
    change execOxCycle _ _ _ _ = _
    simp only [execOxCycle, hOxReady, hDone, if_true, Bool.and_self]
  · -- WDOG_OVERRUN
    intro s conv inUs hOxReady hDone
    change execWdogOverrun _ _ _ = _
    simp only [execWdogOverrun, hOxReady, hDone, if_true, Bool.not_false, Bool.and_self]
  · -- ANSWER
    intro s p b i e w hDomState hAsked hWords
    change execAnswer _ _ _ = _
    simp only [execAnswer, hDomState, hAsked, hWords, if_false, not_true, ne_eq]
  · -- RIO_TIMEOUT
    intro s p i e hDomState hAsked
    change execRioTimeout _ _ = _
    simp only [execRioTimeout, hDomState, hAsked, if_false, not_true, ne_eq]
  · -- DALI_RECEIVE
    intro s p r w hDomState hD
    change execDaliReceive _ _ _ = _
    simp only [execDaliReceive, hDomState, hD, if_false, not_true, ne_eq] <;> rfl
  · -- DIN_LEVEL_ACCEPT
    intro s n x hDomState hDinFilter
    change execDinLevelAccept _ _ _ = _
    simp only [execDinLevelAccept, hDomState, hDinFilter, and_self, if_true]

/-- Settles O52: the work of each opcode, its checks passed, is what its clause writes. -/
theorem oxRingComplete : Obligations.OxRingComplete := by
  unfold Obligations.OxRingComplete
  dsimp only
  refine ⟨?_, ?_, ?_, ?_, ?_, ?_, ?_, ?_, ?_⟩
  · -- OX_LOAD
    intro s sq c hr hc hb hOxSwitchPending
    refine ring_config rfl hr ?_ rfl
    simp only [bodyOxLoad, checkOps_clean hc, readBuf_reachable hb, stopIf_false hOxSwitchPending, ok_bind, pure_ok]
  · -- OX_VALIDATE
    intro s sq c hr hc hPending hLoaded hIntact hSigned hGood
    refine ring_config rfl hr ?_ rfl
    simp only [bodyOxValidate, checkOps_clean hc, stopIf_false hPending, stopIf_not hLoaded, stopIf_unless hIntact, hSigned, hGood,
      Bool.not_true, Bool.false_eq_true, if_false, ok_bind, pure_ok]
  · -- OX_SWITCH
    intro s sq c hr hc hValid hPending hFault
    split
    · next runs =>
      refine ring_waits rfl hr ?_
      simp only [bodyOxSwitch, checkOps_clean hc, stopIf_ne_of_eq hValid, stopIf_false hPending, stopIf_not hFault, if_pos runs, ok_bind,
        pure_ok]
    · next stopped =>
      refine ring_config rfl hr ?_ rfl
      simp only [bodyOxSwitch, checkOps_clean hc, stopIf_ne_of_eq hValid, stopIf_false hPending, stopIf_not hFault, if_neg stopped,
        ok_bind, pure_ok]
  · -- OX_START
    intro s sq c hr hc hOxState hOxState2 hHasProg
    refine ring_done rfl hr ?_ rfl
    simp only [bodyOxStart, checkOps_clean hc, stopIf_not hOxState, stopIf_not hOxState2, stopIf_unless hHasProg, ok_bind, pure_ok]
  · -- OX_STOP
    intro s sq c hr hc hOxState
    refine ring_waits rfl hr ?_
    simp only [bodyOxStop, checkOps_clean hc, stopIf_ne_of_eq hOxState, ok_bind, pure_ok]
  · -- OX_FORCE_SET
    intro s sq c hr hc hImgSyms i hForceSlot
    refine ring_done rfl hr ?_ rfl
    simp only [bodyOxForceSet, checkOps_clean hc, stopIf_unless hImgSyms, hForceSlot, ok_bind, pure_ok]
  · -- OX_FORCE_CLEAR
    intro s sq c hr hc hAll
    refine ring_done rfl hr ?_ rfl
    simp only [bodyOxForceClear, checkOps_clean hc, stopIf_false hAll, ok_bind, pure_ok]
  · -- OX_READ
    intro s sq c hr hc hb
    refine ring_done rfl hr ?_ rfl
    simp only [bodyOxRead, checkOps_clean hc, writeBuf_reachable hb, ok_bind, pure_ok]
  · -- OX_WRITE
    intro s sq c hr hc hb hDrivenWords hOxArea
    refine ring_done rfl hr ?_ rfl
    simp only [bodyOxWrite, checkOps_clean hc, readBuf_reachable hb, stopIf_false hDrivenWords, stopIf_not hOxArea, ok_bind, pure_ok]

end Sys2Proof.Ox
end

section
/-! PROOFS. The Coop (chapter 14): key and OTP commands complete. -/

namespace Sys2Proof.Coop

open Sys2Proof.Machine Sys2Proof.Laws

variable {s : State} {c : Cmd}

/-- A key that the host may use is counted and masked anew. -/
theorem hostUse_granted {usage : Nat} (full : (slotAt s (c.op 16 1)).attr ≠ 0)
    (granted : useRefusal s (slotAt s (c.op 16 1)) usage 12 (secureSq s c.sq) = none) :
    hostUse s c usage = .ok (remask (count1 s (Reg.KEY_CNT_COUNT 3)) (c.op 16 1), (slotAt s (c.op 16 1)).value) := by
  simp only [hostUse, full, granted, if_false]

/-- A buffer that is long enough passes its check. -/
theorem checkOps_long {n m : Nat} (long : m ≤ n) : checkOps [⟨decide (n < m), 40, 0x04⟩] = .ok () :=
  checkOps_clean (by simpa [Clean] using long)

/-- Settles O53: the hypotheses of each clause decide every check of its opcode and every branch of its event. -/
theorem keysComplete : Obligations.KeysComplete := by
  unfold Obligations.KeysComplete
  dsimp only
  refine ⟨?_, ?_, ?_, ?_, ?_, ?_, ?_, ?_, ?_, ?_, ?_, ?_, ?_⟩
  · -- KEY_UPDATE
    intro s sq c burnOk hr hc hb hLong hc2 hBurns
    split
    · next good =>
      refine ring_waits rfl hr ?_
      have burns : (keyMsgBurns s (KeyMsg.ofBytes (memRead s (c.bufAddr 0) (c.bufLen 0))) && !burnOk) = false := by
        simpa using hBurns
      simp only [bodyKeyUpdate, checkOps_clean hc, readBuf_reachable hb, checkOps_long hLong, worst_clean hc2, good, burns,
        Bool.false_eq_true, if_false, ok_bind, pure_ok]
    · next a bad =>
      refine ring_stopsIn rfl hr ?_
      simp only [bodyKeyUpdate, checkOps_clean hc, readBuf_reachable hb, checkOps_long hLong, worst_clean hc2, bad, ok_bind]
  · -- KEY_INFO
    intro s sq c hr hc hb
    refine ring_done rfl hr ?_ rfl
    simp only [bodyKeyInfo, checkOps_clean hc, writeBuf_reachable hb, ok_bind, pure_ok]
  · -- KEY_CIPHER
    intro s sq c hr hc hb hFull hUse hb2
    refine ⟨fun sealing => ?_, fun opening => ?_⟩
    · refine ring_done rfl hr ?_ rfl
      simp only [bodyKeyCipher, checkOps_clean hc, readBuf_reachable hb, hostUse_granted hFull hUse, ok_bind, pure_ok]
      rw [if_neg (by rw [sealing]; exact Bool.false_ne_true)]
      simp only [writeBuf_reachable hb2, ok_bind]
    · split
      · next l good =>
        refine ring_done rfl hr ?_ rfl
        simp only [bodyKeyCipher, checkOps_clean hc, readBuf_reachable hb, hostUse_granted hFull hUse, ok_bind, pure_ok]
        rw [if_pos opening]
        simp only [good, writeBuf_reachable hb2, ok_bind]
      · next bad =>
        refine ring_stopsIn rfl hr ?_
        simp only [bodyKeyCipher, checkOps_clean hc, readBuf_reachable hb, hostUse_granted hFull hUse, ok_bind, pure_ok]
        rw [if_pos opening]
        simp only [bad]
  · -- KEY_MAC
    intro s sq c hr hc hb hFull hUse hb2
    refine ring_done rfl hr ?_ rfl
    simp only [bodyKeyMac, checkOps_clean hc, readBuf_reachable hb, hostUse_granted hFull hUse, writeBuf_reachable hb2, ok_bind, pure_ok]
  · -- KEY_SIGN
    intro s sq c hr hc hb hFull hUse hb2
    refine ring_done rfl hr ?_ rfl
    simp only [bodyKeySign, checkOps_clean hc, readBuf_reachable hb, hostUse_granted hFull hUse, writeBuf_reachable hb2, ok_bind, pure_ok]
  · -- KEY_VERIFY
    intro s sq c hr hc hb hFull hUse
    split
    · next good =>
      refine ring_done rfl hr ?_ rfl
      simp only [bodyKeyVerify, checkOps_clean hc, readBuf_reachable hb, hostUse_granted hFull hUse, if_pos good, ok_bind, pure_ok]
    · next bad =>
      refine ring_stopsIn rfl hr ?_
      simp only [bodyKeyVerify, checkOps_clean hc, readBuf_reachable hb, hostUse_granted hFull hUse, if_neg bad, ok_bind, pure_ok]
  · -- KEY_DERIVE
    intro s sq c hr hc hb hFull hUse hb2
    refine ring_done rfl hr ?_ rfl
    simp only [bodyKeyDerive, checkOps_clean hc, readBuf_reachable hb, hostUse_granted hFull hUse, writeBuf_reachable hb2, ok_bind, pure_ok]
  · -- KEY_RANDOM
    intro s sq c hr hc hb
    refine ring_done rfl hr ?_ rfl
    simp only [bodyKeyRandom, checkOps_clean hc, writeBuf_reachable hb, ok_bind, pure_ok]
  · -- KEY_IDENTITY
    intro s sq c hr hc hb
    refine ring_done rfl hr ?_ rfl
    simp only [bodyKeyIdentity, checkOps_clean hc, writeBuf_reachable hb, ok_bind, pure_ok]
  · -- KEY_TK_EXPORT
    intro s sq c hr hc hExportDis hLifeCycle hb
    refine ring_done rfl hr ?_ rfl
    simp only [bodyKeyTkExport, checkOps_clean hc, stopIf_false hExportDis, stopIf_ne_of_eq hLifeCycle, writeBuf_reachable hb, ok_bind,
      pure_ok]
  · -- KEY_SCRAP
    intro s sq c burnOk hr hc hLifeCycle hMayAdvance hBurnOk
    refine ring_waits rfl hr ?_
    simp only [bodyKeyScrap, checkOps_clean hc, stopIf_not hLifeCycle, stopIf_unless hMayAdvance, if_pos hBurnOk, ok_bind, pure_ok]
    rfl
  · -- OTP_READ
    intro s sq c hr hc hb
    refine ring_done rfl hr ?_ rfl
    simp only [bodyOtpRead, checkOps_clean hc, writeBuf_reachable hb, ok_bind, pure_ok]
  · -- PUF_CLEAR
    intro s hDomState
    change execPufClear _ = _
    simp only [execPufClear, hDomState, if_true]

end Sys2Proof.Coop
end

section
/-! PROOFS. The pair (chapter 15): the events of its roles and the mirror streams complete. -/

namespace Sys2Proof.Pair

open Sys2Proof.Machine Sys2Proof.Laws

section Mirror
variable {s : State} {l : List Byte} {m : SpanMsg} {msg : Nat} (parsed : SpanMsg.parse l = some m) (kind : m.msg = msg)
  (toSelf : m.dst = m.src) (single : m.bcast = false) (hop : m.ttl = 1)
include parsed kind toSelf single hop

/-- A mirror message that is the pair's own passes its checks. -/
theorem mirRx_good (own : msg = 0x40 ∨ m.src = fld s Reg.FED_ID_ID) : mirRx s msg l = (s, some m) := by
  simp only [mirRx, parsed, kind, toSelf, single, hop, own, Bool.not_false, and_self, if_true]

/-- The standby takes a message of a stream that is new; one that is missing before it loses the synchronisation. -/
theorem streamIn_new {apply : State → List Byte → State} (own : m.src = fld s Reg.FED_ID_ID) (runs : running s = true)
    (standby : role s = 3) (new : s.pair.rxSeq.get msg 0 = 0 ∨ s.pair.rxSeq.get msg 0 < m.seq) :
    let last := s.pair.rxSeq.get msg 0
    let s2 := pairUpd s fun p => { p with
      rxSeq := p.rxSeq.set msg m.seq 0
      announced := if (p.announced.get msg (0, 0)).1 ≤ m.seq then p.announced.del msg else p.announced
      fresh := if p.bulk.get msg false then p.fresh ++ (streamKeys msg m.body).map fun x => (msg, x) else p.fresh }
    streamIn s msg l apply = apply (if last ≠ 0 ∧ last + 1 < m.seq then gapFound s2 msg else s2) m.body := by
  have notOld : ¬ (s.pair.rxSeq.get msg 0 ≠ 0 ∧ m.seq ≤ s.pair.rxSeq.get msg 0) := fun ⟨some', old⟩ =>
    new.elim some' (Nat.not_lt.2 old)
  simp only [streamIn, runs, standby, mirRx_good parsed kind toSelf single hop (.inr own), if_neg notOld, Bool.not_true,
    Bool.false_eq_true, ne_eq, not_true, or_self, if_false]

end Mirror

/-- Settles O54: the hypotheses of each clause decide every branch of its event. -/
theorem pairRoleComplete : Obligations.PairRoleComplete := by
  unfold Obligations.PairRoleComplete
  dsimp only
  refine ⟨?_, ?_, ?_, ?_, ?_, ?_, ?_, ?_, ?_, ?_, ?_, ?_, ?_, ?_⟩
  · -- LEASE_SEND
    intro s hRunning
    refine ⟨fun single => ?_, fun paired early => ?_,
      fun paired due => ⟨fun passive => ?_, fun active first => ?_, fun t active last => ?_⟩⟩
    · change execLeaseSend _ = _
      simp only [execLeaseSend, hRunning, single, if_true, if_false, Bool.not_true, Bool.false_eq_true, not_false_eq_true, ne_eq,
        reduceCtorEq] <;> rfl
    · change execLeaseSend _ = _
      rcases last : s.pair.leaseTx with _ | t <;> simp only [last, reduceCtorEq] at early
      simp only [execLeaseSend, hRunning, last, Nat.one_le_iff_ne_zero.1 paired, early, if_true, if_false, Bool.not_true, Bool.not_false,
        Bool.false_eq_true, ne_eq]
    · change execLeaseSend _ = _
      rcases last : s.pair.leaseTx with _ | t <;> simp only [last] at due <;>
        simp only [execLeaseSend, hRunning, last, Nat.one_le_iff_ne_zero.1 paired, due, passive, if_true, if_false, Bool.not_true,
          Bool.false_eq_true, not_false_eq_true, ne_eq]
    · change execLeaseSend _ = _
      simp only [execLeaseSend, hRunning, active, first, if_true, if_false, Bool.not_true, Bool.false_eq_true, not_true, ne_eq,
        reduceCtorEq]
    · rw [last] at due
      change execLeaseSend _ = _
      simp only [execLeaseSend, hRunning, due, active, last, if_false, Bool.not_true, Bool.false_eq_true, not_true, ne_eq, reduceCtorEq]
  · -- LEASE
    intro s l m hRunning hPaired hParse hMsg hDst hBcast hTtl hLength
    change execLease _ _ = _
    simp only [execLease, hRunning, hPaired, mirRx_good hParse hMsg hDst hBcast hTtl (.inl rfl), hLength, if_true, if_false, or_self,
      Bool.not_true, Bool.false_eq_true]
  · -- ACT_IN_EDGE
    intro s hRunning
    change execActInEdge _ = _
    simp only [execActInEdge, hRunning, if_false, Bool.not_true, Bool.false_eq_true]
  · -- ACT_IN_SILENT
    intro s hRole hActInAt hStatHold
    change execActInSilent _ = _
    simp only [execActInSilent, hRole, hActInAt, hStatHold, and_self, if_true, Bool.not_false]
  · -- ACT_OWN_LAPSE
    intro s hActOwn hSince
    change execActOwnLapse _ = _
    simp only [execActOwnLapse, hActOwn, hSince, and_self, if_true]
  · -- HEARTBEAT_MISSING
    intro s hPaired hStatPartner hSince
    change execHeartbeatMissing _ = _
    simp only [execHeartbeatMissing, hPaired, hStatPartner, hSince, and_self, if_true]
  · -- START_WAIT
    intro s hRole hStatUnit hActIn hMismatch
    change execStartWait _ = _
    simp only [execStartWait, hRole, hStatUnit, hActIn, hMismatch, and_self, if_true, Bool.not_false]
  · -- FENCED
    intro s hRole hActIn hSince
    change execFenced _ = _
    simp only [execFenced, hRole, hActIn, hSince, and_self, if_true]
  · -- PARTNER_LOST_RESET
    intro s b hRole hStatSynced hSince
    change execPartnerLostReset _ _ = _
    simp only [execPartnerLostReset, hRole, hStatSynced, hSince, and_self, if_true, Bool.not_false]
  · -- LEASE_EXPIRY
    intro s hRole hSince hActIn hMirDownSaid
    change execLeaseExpiry _ = _
    simp only [execLeaseExpiry, hRole, hSince, hActIn, hMirDownSaid, and_self, if_true, Bool.not_false]
  · -- TAKEOVER_GUARD_END
    intro s hSince
    change execTakeoverGuardEnd _ = _
    simp only [execTakeoverGuardEnd, hSince, if_true]
  · -- ACT_IN_LAPSE
    intro s hActIn hSince
    change execActInLapse _ = _
    simp only [execActInLapse, hActIn, hSince, and_self, if_true]
  · -- HOLD_OUT_END
    intro s hRole hStatHold hSince
    change execHoldOutEnd _ = _
    simp only [execHoldOutEnd, hRole, hStatHold, hSince, and_self, if_true]
  · -- MIR_LINK
    intro s up hRunning
    change execMirLink _ _ = _
    simp only [execMirLink, hRunning, Bool.not_eq_true', if_false, Bool.not_true, Bool.false_eq_true]

/-- Settles O55: the hypotheses of each clause decide every branch of its event. -/
theorem pairStreamComplete : Obligations.PairStreamComplete := by
  unfold Obligations.PairStreamComplete
  dsimp only
  refine ⟨?_, ?_, ?_, ?_, ?_, ?_, ?_, ?_, ?_, ?_, ?_, ?_, ?_, ?_⟩
  · -- FOLD_STREAM
    intro s l m hRunning hRole hParse hMsg hDst hBcast hTtl hSrc hNew
    change Host.Outcome.next (streamIn s 0x41 l applyFold) = _
    rw [streamIn_new hParse hMsg hDst hBcast hTtl hSrc hRunning hRole hNew]
  · -- OX_STREAM
    intro s l m hRunning hRole hParse hMsg hDst hBcast hTtl hSrc hNew
    change Host.Outcome.next (streamIn s 0x42 l applyOx) = _
    rw [streamIn_new hParse hMsg hDst hBcast hTtl hSrc hRunning hRole hNew]
  · -- BAS_STREAM
    intro s l m hRunning hRole hParse hMsg hDst hBcast hTtl hSrc hNew
    change Host.Outcome.next (streamIn s 0x43 l applyBas) = _
    rw [streamIn_new hParse hMsg hDst hBcast hTtl hSrc hRunning hRole hNew]
  · -- WEI_SLOW_STREAM
    intro s l m hRunning hRole hParse hMsg hDst hBcast hTtl hSrc hNew
    change Host.Outcome.next (streamIn s 0x44 l applySlow) = _
    rw [streamIn_new hParse hMsg hDst hBcast hTtl hSrc hRunning hRole hNew]
  · -- WEI_FAST_STREAM
    intro s l m hRunning hRole hParse hMsg hDst hBcast hTtl hSrc hNew
    change Host.Outcome.next (streamIn s 0x45 l applyFast) = _
    rw [streamIn_new hParse hMsg hDst hBcast hTtl hSrc hRunning hRole hNew]
  · -- CIS_STREAM
    intro s l m hRunning hRole hParse hMsg hDst hBcast hTtl hSrc hNew
    change Host.Outcome.next (streamIn s 0x46 l applyCis) = _
    rw [streamIn_new hParse hMsg hDst hBcast hTtl hSrc hRunning hRole hNew]
  · -- COMMIT_STREAM
    intro s l m hRunning hRole hParse hMsg hDst hBcast hTtl hSrc hNew
    change Host.Outcome.next (streamIn s 0x47 l applyCommit) = _
    rw [streamIn_new hParse hMsg hDst hBcast hTtl hSrc hRunning hRole hNew]
  · -- CFG_STREAM
    intro s l m hRunning hRole hParse hMsg hDst hBcast hTtl hSrc hNew
    change Host.Outcome.next (streamIn s 0x48 l _) = _
    rw [streamIn_new hParse hMsg hDst hBcast hTtl hSrc hRunning hRole hNew]
  · -- SYNC_REQ
    intro s l m hRunning hRole hParse hMsg hDst hBcast hTtl hSrc
    change execSyncReq _ _ = _
    simp only [execSyncReq, hRunning, hRole, mirRx_good hParse hMsg hDst hBcast hTtl (.inr hSrc), if_false, or_self, Bool.not_true,
      Bool.false_eq_true, not_true, ne_eq]
  · -- CFG_ACK
    intro s l m hRunning hParse hMsg hDst hBcast hTtl hSrc
    change execCfgAck _ _ = _
    simp only [execCfgAck, hRunning, mirRx_good hParse hMsg hDst hBcast hTtl (.inr hSrc), if_false, Bool.not_true, Bool.false_eq_true]
  · -- SPAN_COPY
    intro s l ok c m hRunning hRole hFed hParse hMsg hDst hBcast hTtl hSrc hBody
    change execSpanCopy _ _ _ = _
    simp only [execSpanCopy, hRunning, hRole, hFed, mirRx_good hParse hMsg hDst hBcast hTtl (.inr hSrc), hBody, Bool.not_eq_true',
      if_false, or_self, Bool.not_true, Bool.false_eq_true]
  · -- CFG_ACK_TIMEOUT
    intro s
    rfl
  · -- SYNC_GAP_TIMEOUT
    intro s hRole
    change execSyncGapTimeout _ = _
    simp only [execSyncGapTimeout, hRole, if_false, not_true, ne_eq]
  · -- BULK_COPY_DONE
    intro s hRole hBulk hAnnounced hAny
    change execBulkCopyDone _ = _
    simp only [execBulkCopyDone, hRole, hBulk, hAnnounced, hAny, if_false, or_self, Bool.false_eq_true, not_true, ne_eq]

end Sys2Proof.Pair
end

section
/-! PROOFS. Span (chapter 15): the messages between modules complete. -/

namespace Sys2Proof.Span

open Sys2Proof.Machine Sys2Proof.Laws

/-- A message of its kind that Span hands over is acted on. -/
theorem spanIn_taken {s s1 : State} {k p : Nat} {l : List Byte} {m : SpanMsg} {ok : Bool} (kind : spanKind l = k)
    (taken : spanRx s p l = (s1, some m)) : spanIn k p l ok s = spanAct s1 m ok := by
  simp only [spanIn, kind, taken, ne_eq, not_true, if_false]

/-- Settles O56: the hypotheses of each clause decide every branch of its event. -/
theorem spanComplete : Obligations.SpanComplete := by
  unfold Obligations.SpanComplete
  dsimp only
  refine ⟨?_, ?_, ?_, ?_, ?_, ?_, ?_, ?_, ?_, ?_, ?_, ?_, ?_, ?_, ?_⟩
  · -- HELLO_SEND
    intro s hRunning hMine hDue
    change execHelloSend _ = _
    rcases last : s.fed.helloAt with _ | t
    · simp only [execHelloSend, hRunning, hMine, last, if_false, or_self, Bool.not_true, Bool.false_eq_true]
    · simp only [last] at hDue
      simp only [execHelloSend, hRunning, hMine, last, hDue, if_false, or_self, Bool.not_true, Bool.false_eq_true]
  · -- HELLO
    intro s s1 p l m hKind hTaken
    change execHello _ _ _ = _
    simp only [execHello, hKind, hTaken, if_false, not_true, ne_eq]
  · -- SPAN_FORWARD
    intro s p l m hParse hSingle hElse hKind
    have elsewhere : (m.bcast || (decide (m.dst = fld s Reg.FED_ID_ID) && flag s Reg.FED_ID_VALID)) = false := by
      rcases hElse with other | unset
      · rw [hSingle, decide_eq_false other, Bool.false_and, Bool.or_false]
      · rw [hSingle, unset, Bool.and_false, Bool.or_false]
    change execSpanForward _ _ _ = _
    simp only [execSpanForward, hParse, elsewhere, false_and, if_false, Bool.false_eq_true]
  · -- HANDOVER
    intro s s1 p l m hKind hTaken
    exact congrArg _ (spanIn_taken hKind hTaken)
  · -- HANDOVER_ACK
    intro s s1 p l m hKind hTaken
    exact congrArg _ (spanIn_taken hKind hTaken)
  · -- HANDOVER_TIMEOUT
    intro s
    rfl
  · -- HANDOVER_SUPERVISION_END
    intro s
    rfl
  · -- PIECE_PART
    intro s s1 p l ok m hKind hTaken
    exact congrArg _ (spanIn_taken hKind hTaken)
  · -- PIECE_PART_SEND
    intro s j r hJobs
    refine ⟨fun sent => ?_, fun left free => ?_⟩
    · change execPiecePartSend _ = _
      simp only [execPiecePartSend, hJobs, sent, if_true]
    · change execPiecePartSend _ = _
      simp only [execPiecePartSend, hJobs, left, Nat.not_le.2 free, if_false]
  · -- ACTIVATE
    intro s s1 p l m hKind hTaken
    exact congrArg _ (spanIn_taken hKind hTaken)
  · -- FEEDER_STATE_MSG
    intro s s1 p l m hKind hTaken
    exact congrArg _ (spanIn_taken hKind hTaken)
  · -- FEEDER_STATE_SEND
    intro s hRunning hMine hFirst
    change execFeederStateSend _ = _
    simp only [execFeederStateSend, hRunning, hMine, hFirst, if_false, or_self, Bool.not_true, Bool.false_eq_true]
  · -- FEEDER_STATE_STALE
    intro s hStale
    change execFeederStateStale _ = _
    obtain ⟨n, l, stale⟩ := List.exists_cons_of_ne_nil hStale
    simp only [execFeederStateStale, stale]
  · -- VALUE
    intro s s1 p l m hKind hTaken
    exact congrArg _ (spanIn_taken hKind hTaken)
  · -- VALUE_PUBLISH
    intro s hRunning hSpanMine hPubSec
    change execValuePublish _ = _
    simp only [execValuePublish, hRunning, hSpanMine, hPubSec, if_false, or_self, Bool.not_true, Bool.false_eq_true] <;> rfl

end Sys2Proof.Span
end

section
/-! PROOFS. The pair and the federation (chapter 15): their ring commands complete. -/

namespace Sys2Proof.Pair

open Sys2Proof.Machine Sys2Proof.Laws

/-- Settles O57: the work of each opcode, its checks passed, is what its clause writes. -/
theorem pairFedRingComplete : Obligations.PairFedRingComplete := by
  unfold Obligations.PairFedRingComplete
  dsimp only
  refine ⟨?_, ?_, ?_, ?_, ?_, ?_, ?_, ?_, ?_⟩
  · -- PAR_SWITCH
    intro s sq c hr hc hPaired hSynced hPartner
    have work : bodyParSwitch s c = .ok (s, some ansDone) := by
      have both : (!flag s Reg.PAR_STAT_SYNCED || !flag s Reg.PAR_STAT_PARTNER) = false := by rw [hSynced, hPartner]; rfl
      simp only [bodyParSwitch, checkOps_clean hc, stopIf_lt_of_le hPaired, stopIf_false both, ok_bind, pure_ok]
    obtain ⟨picked, good⟩ := hr
    have run : runCmd s c bodyParSwitch = complete s c ansDone := by
      have done : configOps.contains 0x0E00 = false := rfl
      simp only [runCmd, good, work, pick_opcode picked, done, Bool.false_eq_true, if_false]
    change execParSwitch _ _ = _
    simp only [execParSwitch, picked, good, work, run]
  · -- PAR_RESYNC
    intro s sq c hr hc hStatPartner
    refine ring_done rfl hr ?_ rfl
    simp only [bodyParResync, checkOps_clean hc, stopIf_unless hStatPartner, ok_bind, pure_ok]
  · -- FED_ROUTE_SET
    intro s sq c hr hc hb hc2
    refine ring_config rfl hr ?_ rfl
    simp only [bodyFedRouteSet, checkOps_clean hc, readBuf_reachable hb, checkBuf_clean hc2, ok_bind, pure_ok]
  · -- FED_PEER_SET
    intro s sq c hr hc
    refine ring_config rfl hr ?_ rfl
    simp only [bodyFedPeerSet, checkOps_clean hc, ok_bind, pure_ok]
  · -- FED_VALUE_PUB
    intro s sq c hr hc
    refine ring_config rfl hr ?_ rfl
    simp only [bodyFedValuePub, checkOps_clean hc, ok_bind, pure_ok]
  · -- FED_FEEDER_MAP
    intro s sq c hr hc hCfgEn
    refine ring_config rfl hr ?_ rfl
    simp only [bodyFedFeederMap, checkOps_clean hc, stopIf_false hCfgEn, ok_bind, pure_ok]
  · -- FED_HANDOVER
    intro s sq c hr hc hEntAt hAny hFedReady
    refine ring_done rfl hr ?_ rfl
    simp only [bodyFedHandover, checkOps_clean hc, stopIf_ne_of_eq hEntAt, stopIf_false hAny, stopIf_unless hFedReady, ok_bind, pure_ok]
  · -- FED_PIECE_SEND
    intro s sq c hr hc hReady hHeld
    refine ring_done rfl hr ?_ rfl
    simp only [bodyFedPieceSend, checkOps_clean hc, stopIf_unless hReady, stopIf_ne_of_eq hHeld, ok_bind, pure_ok]
  · -- FED_ACT_SEND
    intro s sq c hr hc hFedReady
    refine ring_done rfl hr ?_ rfl
    simp only [bodyFedActSend, checkOps_clean hc, stopIf_unless hFedReady, ok_bind, pure_ok]

end Sys2Proof.Pair
end

section
/-! PROOFS. Self test (chapter 16): its commands and events complete. -/

namespace Sys2Proof.SelfTest

open Sys2Proof.Machine Sys2Proof.Laws

/-- Settles O58: the hypotheses of each clause decide every check of its opcode and every branch of its event. -/
theorem selfTestComplete : Obligations.SelfTestComplete := by
  unfold Obligations.SelfTestComplete
  dsimp only
  refine ⟨?_, ?_, ?_, ?_, ?_, ?_, ?_, ?_, ?_, ?_, ?_⟩
  · -- TILE_FILL
    intro s t r need b hRunning hT
    change execTileFill _ _ _ _ _ = _
    simp only [execTileFill, hRunning, hT, and_self, if_true]
  · -- PATROL_READ
    intro s r b hRunning hPatrol hDue
    have due : (decide (s.bst.patrol = 0 ∧ s.bst.patrolAt ≠ 0) &&
        !passedSec s (s.bst.patrolAt - 1) (3600 * fld s Reg.BST_CFG_PATROL_H)) = false := by
      rcases hDue with going | first | passed
      · simp [going]
      · simp [first]
      · rw [passed, Bool.not_true, Bool.and_false]
    change execPatrolRead _ _ _ = _
    simp only [execPatrolRead, hRunning, hPatrol, due, if_false, or_self, Bool.not_true, Bool.false_eq_true]
  · -- SRAM_SCRUB
    intro s ce ue b hRunning hDue
    have due : ¬ (s.bst.scrubAt ≠ 0 ∧ ¬ passedSec s (s.bst.scrubAt - 1) 600 = true) := fun ⟨again, early⟩ => hDue.elim again early
    change execSramScrub _ _ _ _ = _
    simp only [execSramScrub, hRunning, due, if_false, or_self, Bool.not_true, Bool.false_eq_true]
  · -- NAND_REFRESH
    intro s hRunning
    refine ⟨fun n many => ?_, ?_, ?_, ?_, fun sq => ?_⟩
    · change execNandRefresh (.corrected n) s = _
      simp only [execNandRefresh, hRunning, many, if_true, if_false, Bool.not_true, Bool.false_eq_true]
    · change execNandRefresh (.other .fold) s = _
      simp only [execNandRefresh, hRunning, if_false, Bool.not_true, Bool.false_eq_true]
    · change execNandRefresh (.other .config) s = _
      simp only [execNandRefresh, hRunning, if_false, Bool.not_true, Bool.false_eq_true]
    · change execNandRefresh (.other .image) s = _
      simp only [execNandRefresh, hRunning, if_false, Bool.not_true, Bool.false_eq_true]
    · change execNandRefresh (.lost sq) s = _
      simp only [execNandRefresh, hRunning, if_false, Bool.not_true, Bool.false_eq_true]
  · -- LANE_TEST
    intro s t r hList hLaneBusy hRunFits
    change execLaneTest _ _ _ = _
    simp only [execLaneTest, hList, hLaneBusy, hRunFits, and_self, if_true, Bool.not_false]
  · -- REF_CHECK
    intro s t r hRefDue hRunFits
    change execRefCheck _ _ _ = _
    simp only [execRefCheck, hRefDue, hRunFits, and_self, if_true]
  · -- BST_RUN
    intro s sq c hr hc hLanes hSpare hDomain hTesting
    refine ring_done rfl hr ?_ rfl
    simp only [bodyBstTest, checkOps_clean hc, stopIf_false hLanes, stopIf_false hSpare, stopIf_not hDomain, stopIf_false hTesting,
      ok_bind, pure_ok]
  · -- BST_RECOVER
    intro s sq c hr hc hLanes hSpare hDomain hTesting
    refine ring_done rfl hr ?_ rfl
    simp only [bodyBstTest, checkOps_clean hc, stopIf_false hLanes, stopIf_false hSpare, stopIf_not hDomain, stopIf_false hTesting,
      ok_bind, pure_ok]
  · -- BST_TILE_READ
    intro s sq c hr hc hb
    refine ring_done rfl hr ?_ rfl
    simp only [bodyBstTileRead, checkOps_clean hc, writeBuf_reachable hb, ok_bind, pure_ok]
  · -- BST_RESULT
    intro s r x rest hTests hRunFits hLaneBusy
    change execBstResult _ _ = _
    simp only [execBstResult, hTests, hRunFits, hLaneBusy, if_false, Bool.not_true, Bool.false_eq_true, Bool.or_self] <;> rfl
  · -- TEST_N_ASSERT
    intro s hRunning
    change execTestNAssert _ = _
    simp only [execTestNAssert, hRunning, if_false, Bool.not_true, Bool.false_eq_true]

end Sys2Proof.SelfTest
end

section
/-! PROOFS. Power, clocks, heat and tampering (chapters 17 and 18): their events and ring commands complete. -/

namespace Sys2Proof.Power

open Sys2Proof.Machine Sys2Proof.Laws

theorem phase_on {s : State} (h : running s = true) : s.pwr.phase = .on := of_decide_eq_true h

/-- Settles O59: the hypotheses of each clause decide every branch of its event. -/
theorem powerComplete : Obligations.PowerComplete := by
  unfold Obligations.PowerComplete
  dsimp only
  refine ⟨?_, ?_, ?_, ?_, ?_, ?_, ?_, ?_, ?_, ?_, ?_, ?_, ?_⟩
  · -- POWER_FAIL_WARNING
    intro s w hRunning hPf hLow
    have low : (if w.pin then !flag s Reg.PWR_CTRL_PFW_PIN_EN else decide (8500 ≤ w.vin)) = false := by
      split at hLow
      · next pin => rw [if_pos pin, hLow]; rfl
      · next noPin => rw [if_neg noPin, decide_eq_false (Nat.not_le.2 hLow)]
    change execPowerFailWarning _ _ = _
    simp only [execPowerFailWarning, phase_on hRunning, hRunning, hPf, low, readVin, latchPf, if_false, or_self, Bool.not_true,
      Bool.false_eq_true, reduceCtorEq]
  · -- BROWN_OUT
    intro s hPhase
    rcases hPhase with on | held | scan
    · change execBrownOut _ = _
      simp only [execBrownOut, on, not_false_eq_true, ne_eq, reduceCtorEq, decide_true, Bool.true_and]
    · change execBrownOut _ = _
      simp only [execBrownOut, held, not_true, ne_eq, decide_false, Bool.false_and, Bool.or_false]
    · change execBrownOut _ = _
      simp only [execBrownOut, scan, not_false_eq_true, ne_eq, reduceCtorEq, decide_true, Bool.true_and]
  · -- VIN_DIP
    intro s b hRunning hPfAt hPassedUs
    change execVinDip _ _ = _
    rcases rec : s.pwr.pfRec with _ | r
    · simp only [rec] at hPassedUs
      simp only [execVinDip, hRunning, hPfAt, rec, hPassedUs, and_self, if_true, not_false_eq_true, ne_eq]
    · simp only [rec] at hPassedUs
      simp only [execVinDip, hRunning, hPfAt, rec, hPassedUs, and_self, if_true, not_false_eq_true, ne_eq]
  · -- VIN_GOOD
    intro s b
    refine ⟨fun por => ?_, fun holdover => ?_⟩
    · change execVinGood _ _ = _
      simp only [execVinGood, por]
    · change execVinGood _ _ = _
      simp only [execVinGood, holdover]
  · -- RST_N
    intro s b hRunning
    change execRstN _ _ = _
    simp only [execRstN, hRunning, if_true]
  · -- WATCHDOG
    intro s b hRunning
    change execWatchdog _ _ = _
    simp only [execWatchdog, hRunning, if_true]
  · -- CLOCK_FAULT
    intro s hPhase
    rcases hPhase with on | scan
    · change execClockFault _ = _
      simp only [execClockFault, on]
    · change execClockFault _ = _
      simp only [execClockFault, scan]
  · -- CLOCK_RECOVER
    intro s b hPhase
    change execClockRecover _ _ = _
    simp only [execClockRecover, hPhase, if_true]
  · -- VBAK_LOW
    intro s mv
    refine ⟨fun off => ?_, fun powered good low => ?_⟩
    · rcases off with holdover | held
      · change execVbakLow _ _ = _
        simp only [execVbakLow, holdover]
      · change execVbakLow _ _ = _
        simp only [execVbakLow, held]
    · rcases powered with on | scan
      · change execVbakLow _ _ = _
        simp only [execVbakLow, on, good, low, and_self, if_true]
      · change execVbakLow _ _ = _
        simp only [execVbakLow, scan, good, low, and_self, if_true]
  · -- VBAK_GOOD
    intro s mv
    refine ⟨fun held => ?_, fun powered bad high => ?_⟩
    · change execVbakGood _ _ = _
      simp only [execVbakGood, held]
    · rcases powered with on | scan
      · change execVbakGood _ _ = _
        simp only [execVbakGood, on, bad, high, and_self, if_true, Bool.not_false]
      · change execVbakGood _ _ = _
        simp only [execVbakGood, scan, bad, high, and_self, if_true, Bool.not_false]
  · -- THERMAL
    intro s t hRunning
    change execThermal _ _ = _
    simp only [execThermal, hRunning, Bool.not_eq_true', if_false, Bool.not_true, Bool.false_eq_true]
  · -- THERMAL_CLEAR
    intro s t hRunning
    change execThermalClear _ _ = _
    simp only [execThermalClear, hRunning, if_false, Bool.not_true, Bool.false_eq_true]
  · -- TAMPER
    intro s0 x hAlive
    refine ⟨fun high => ?_, fun low enabled fresh => ?_⟩
    · change execTamper _ _ = _
      simp only [execTamper, hAlive, high, if_true, if_false, true_or, Bool.not_false, Bool.false_eq_true]
    · simp only [low, Bool.not_true] at enabled fresh
      change execTamper _ _ = _
      simp only [execTamper, hAlive, low, enabled, fresh, if_false, or_self, Bool.not_true, Bool.false_eq_true]

/-- Settles O60: the hypotheses of each clause decide every check of its opcode and every branch of its event. -/
theorem powerRingComplete : Obligations.PowerRingComplete := by
  unfold Obligations.PowerRingComplete
  dsimp only
  refine ⟨?_, ?_, ?_⟩
  · -- PWR_MODE_SET
    intro s sq c hr hc hStatPf
    refine ring_config rfl hr ?_ rfl
    simp only [bodyPwrModeSet, checkOps_clean hc, stopIf_false hStatPf, ok_bind, pure_ok]
  · -- PWR_DOMAIN_SET
    intro s sq c hr hc hStatPf hInUse
    refine ring_waits rfl hr ?_
    simp only [bodyPwrDomainSet, checkOps_clean hc, stopIf_false hStatPf, stopIf_false hInUse, ok_bind, pure_ok]
  · -- DOMAIN_STATE_REACHED
    intro s x r hChanges
    refine ⟨fun failing => ?_, fun good => ?_⟩
    · change execDomainStateReached _ = _
      simp only [execDomainStateReached, hChanges, failing, if_true, ne_eq]
    · change execDomainStateReached _ = _
      simp only [execDomainStateReached, hChanges, good, if_false, Bool.false_eq_true, ne_eq]
      by_cases follows : x.dom = 11 ∧ domState s x.dom = 1 ∧ x.goal = 2
      · simp only [if_pos follows]
      · simp only [if_neg follows, id_eq]

end Sys2Proof.Power
end
